-- ==== Sys2Proof/Word.lean ====
section
/-! DEFINITION. The word types of the module and the sparse map that every array of registers uses. -/

namespace Sys2Proof

abbrev Byte := BitVec 8
abbrev Half := BitVec 16
abbrev Word := BitVec 32
abbrev Dword := BitVec 64

/-- Sparse array: strictly rising keys; a key with no entry reads as a default that each reader names. The
operations over it stand in `Machine/Ops.lean`. -/
abbrev SMap (α : Type) := List (Nat × α)

/-- A device address of 00_scope R7. -/
abbrev DevAddr := BitVec 48

/-- A fabric node id of 00_scope R6. -/
abbrev NodeId := BitVec 12

end Sys2Proof
end

