-- ==== Sys2Proof/Syntax.lean ====
section
/-! DEFINITION. The commands of the block: one constructor of `Instr` for each row of the table of
operations and events, with the operands the chapters give it. -/

namespace Sys2Proof

/-- Where a slot instruction issues (05 R112, R113): its island; whether it is a further slot of the
bundle issued last; and, when it opens a bundle, how many all-no-operation bundles issued before it. -/
structure Site where
  island : BitVec 8
  cont   : Bool
  nops   : Nat
deriving DecidableEq, Repr

/-- FUNCT of `ALU` (05 R114). -/
inductive AluOp where
  | add | sub | and | or | xor | sll | srl | sra | mul | min | max | slt
deriving DecidableEq, Repr

/-- COND of `BCC` (05 Table 5.5). -/
inductive Cond where
  | eq | ne | lt | ge | ltu | geu
deriving DecidableEq, Repr

/-- Payload of `ANCH` (05 Table 5.6). -/
inductive AnchSrc where
  | hwm (hw ha : BitVec 4) (adj : BitVec 4)
  | imm (a : BitVec 10)
deriving DecidableEq, Repr

/-- FN of `VOPF` (06 Table 6.2). -/
inductive VopfFn where
  | add | sub | mul | fma | min | max | abs | neg | cmplt | cmpeq | sel | scale
deriving DecidableEq, Repr

/-- FN of `VOPI` (06 Table 6.2). -/
inductive VopiFn where
  | add | sub | mul | and | or | xor | sll | srl | sra | min | max | cmplt | cmpltu | cmpeq | sel
deriving DecidableEq, Repr

/-- FN of `VCVT` (06 R147). -/
inductive VcvtFn where
  | bf16Rne | bf16Stoch | bf16Rtz | fp16Rne | toInt | fromInt
deriving DecidableEq, Repr

/-- FN of `VRED` (06 R137). -/
inductive VredFn where
  | ksum | fmax | fmin | isum
deriving DecidableEq, Repr

/-- FN of `VSF` (06 R139). -/
inductive VsfFn where
  | exp | log | rsqrt | recip | tanh | gelu
deriving DecidableEq, Repr

/-- A fabric packet (11 Table 11.1), with its payload and its 8-byte check as received. -/
structure Pkt where
  type      : BitVec 4
  epoch     : BitVec 1
  circuit   : Bool
  phase     : BitVec 1
  hops      : BitVec 4
  dstAtt    : BitVec 3
  dst       : NodeId
  srcAtt    : BitVec 3
  src       : NodeId
  try_      : BitVec 4
  mid       : NodeId
  session   : Half
  seq       : Word
  srcIsland : Byte
  ctrl      : Bool
  entry     : BitVec 7
  addr      : DevAddr
  partition : BitVec 6
  rsem      : BitVec 5
  length    : BitVec 13
  aux       : Half
  arg       : Word
  payload   : List Byte
  crc       : Dword
deriving DecidableEq, Repr

/-- Which tracker entry: an island's (09 R203), the control pool's (R204) or a multicast entry (11 R257). -/
inductive EntryId where
  | island (i : BitVec 8) (e : BitVec 7)
  | control (n : BitVec 10)
  | mcast (n : BitVec 8)
deriving DecidableEq, Repr

/-- A command packet as the interpreter fetched it (14 R306): the ring it came from, whether a slot read
returned poison (13 R298), the header of Table 14.1 and the bytes from 16 on. -/
structure Packet where
  ring      : BitVec 4
  poison    : Bool
  version   : Byte
  flags     : Byte
  tag       : Word
  partWord  : Half
  length    : Half
  timeout   : Word
  body      : List Byte
deriving DecidableEq, Repr

/-- What resets the host interface (13 R286). -/
inductive HostReset where
  | perst | hotReset | cxlReset | linkLoss
deriving DecidableEq, Repr

/-- Where a register write goes: an offset of BAR0 (13 R288) or a device address (00 Table 0.6). -/
inductive RegAddr where
  | bar (off : BitVec 18)
  | dev (addr : DevAddr)
deriving DecidableEq, Repr

/-- Firmware components (15 Table 15.1). -/
inductive Component where
  | supervisor | interpreter | power | fabric | snapshot | management | security
deriving DecidableEq, Repr

/-- Why a component restarts (15 R341). -/
inductive CompFault where
  | protection | illegalInstruction | memory | request
deriving DecidableEq, Repr

/-- An unlisted management message (18 R397). -/
inductive MgmtOther where
  | mctp (type : Byte)
  | pldm (type cmd : Byte)
  | spdm (endpoint code : Byte)
deriving DecidableEq, Repr

/-- What a requester offers in NEGOTIATE_ALGORITHMS (18 Table 18.3). -/
structure SpdmOffer where
  measSpec   : Byte
  baseHash   : Word
  extAsym    : List (Byte × Half)
deriving DecidableEq, Repr

/-- What a finished training step of a port brings (10 Table 10.3): lanes that passed and the link
delay measured in ns (11 R252). -/
structure TrainInfo where
  lanes : BitVec 4
  delay : Word
deriving DecidableEq, Repr

/-- Blocks `first` to `first + count − 1` of a packet that a circuit carries (11 R252). -/
structure CircPart where
  pkt   : Pkt
  first : Nat
  count : Nat
deriving DecidableEq, Repr

/-- A circuit position on a link (11 R252): the slot tag and the parts of packets it carries, in order. -/
structure CircuitData where
  pos   : Byte
  epoch : BitVec 1
  parts : List CircPart
deriving DecidableEq, Repr

/-- Width and rate of the host link (13 R283). -/
inductive LinkWidth where
  | x8 | x4 | x2
deriving DecidableEq, Repr

inductive LinkRate where
  | gt64 | gt32 | gt16
deriving DecidableEq, Repr

/-- A link as it has trained: width and rate (13 Table 13.1), and whether the path to the host carries back-invalidation
(13 R284). -/
structure Link where
  width  : LinkWidth
  rate   : LinkRate
  biPath : Bool
deriving DecidableEq, Repr

/-- How a component's hand-off ended (15 R348). -/
inductive HandOff where
  | accepted | refused | exporterLost
deriving DecidableEq, Repr

/-- What the sources of a restore gave (16 R371): release and step of the generation taken, the bytes restored by
device address (a capture set at its island's staging area), the loss ring by slot, and what was not restored
(16 R372): how many entries, and which node failed. -/
structure Restored where
  release : Word
  step    : Word
  data    : List (DevAddr × List Byte)
  ring    : List (Nat × List Byte)
  missing : Nat
  failed  : NodeId
deriving DecidableEq, Repr

/-- A host index line as read by the interpreter (13 R297): command ring PI or completion ring CI. -/
structure IndexRead where
  completion : Bool
  ring       : BitVec 4
  value      : Word
deriving DecidableEq, Repr

/-- The commands of the block, in the table's order. -/
inductive Instr where
  -- island slot instructions (chapters 3 to 6 and 9)
  | alu (w : Site) (f : AluOp) (xd xa xb : BitVec 5)
  | addi (w : Site) (xd xa : BitVec 5) (imm : Half)
  | lih (w : Site) (xd : BitVec 5) (h : BitVec 2) (imm : Half)
  | ld (w : Site) (xd xa : BitVec 5) (imm : Half)
  | st (w : Site) (xs xa : BitVec 5) (imm : Half)
  | hmax (w : Site) (hd : BitVec 4) (xa xb : BitVec 5) (acc : Bool)
  | hset (w : Site) (hd : BitVec 4) (rec : Half)
  | stepOp (w : Site) (op : Bool) (xa : BitVec 5) (imm : Half)
  | loop (w : Site) (src : Bool) (count : BitVec 12) (xa : BitVec 5) (last : BitVec 13)
  | jmp (w : Site) (target : BitVec 13)
  | bcc (w : Site) (c : Cond) (xa xb : BitVec 5) (target : BitVec 13)
  | wait (w : Site) (sem : BitVec 5) (count : Half)
  | waitSatisfied (i : BitVec 8)
  | waitTimeout (i : BitVec 8)
  | barrive (w : Site) (group : Byte) (sem : BitVec 5)
  | barriveArrival (i : BitVec 8)
  | delay (w : Site) (n : Half)
  | endRun (w : Site)
  | pass (w : Site) (slotB : Bool) (arrays : Byte) (pd : BitVec 4) (xk : BitVec 5) (s sw : Bool)
      (slotAdd : BitVec 7)
  | seed (w : Site) (slotB : Bool) (array : BitVec 3) (slotBase rowsM1 : BitVec 7) (start : Bool)
      (xa : BitVec 5)
  | anch (w : Site) (slotB : Bool) (arrays : Byte) (src : AnchSrc) (xs : BitVec 5)
  | loadw (w : Site) (arrays : Byte) (fd xa : BitVec 5)
  | drain (w : Site) (arrays : Byte) (dd : BitVec 4) (slotAdd : BitVec 7) (xd : BitVec 5)
  | dstart (w : Site) (ch : BitVec 2) (xa sem : BitVec 5)
  | dpause (w : Site) (ch : BitVec 2)
  | dresume (w : Site) (ch : BitVec 2)
  | vld (w : Site) (type : BitVec 3) (port : BitVec 2) (vd xa : BitVec 5) (imm : BitVec 11)
  | vst (w : Site) (type : BitVec 3) (port : BitVec 2) (vs xa : BitVec 5) (imm : BitVec 11)
  | vopf (w : Site) (fn : VopfFn) (b : Bool) (vd va vb vc : BitVec 5)
  | vopi (w : Site) (fn : VopiFn) (vd va vb vc : BitVec 5)
  | vcvt (w : Site) (fn : VcvtFn) (vd va vb : BitVec 5)
  | vbcast (w : Site) (vd xa : BitVec 5)
  | vkadd (w : Site) (vd va : BitVec 5)
  | vred (w : Site) (fn : VredFn) (vd va : BitVec 5)
  | vsf (w : Site) (fn : VsfFn) (vd va : BitVec 5)
  | vrand (w : Site) (q : BitVec 2) (uniform : Bool) (vd xk xs xe : BitVec 5)
  -- gating, banks, straits, DMA, HBM
  | groupPowerGatingEntry (g : BitVec 4)
  | groupWakeComplete (g : BitVec 4)
  | bankOpenCycleAccess (i : BitVec 8) (bank : BitVec 4)
  | straitBeatDepart (i : BitVec 8) (port : BitVec 2) (cycle : Nat)
  | straitBeatArrive (i : BitVec 8) (port : BitVec 2)
  | dmaDescriptorTakeUp (i : BitVec 8) (ch : BitVec 2)
  | memoryPortAccept (i : BitVec 8)
  | hbmIslandAccessComplete (i : BitVec 8)
  | hbmSharedAccess (g : Byte)
  | dmaCompletion (i : BitVec 8) (ch : BitVec 2)
  -- tracker and packets
  | trackerResendTimeout (e : EntryId)
  | packetForward (port : BitVec 5) (discard : Bool) (p : Pkt)
  | packetQueueExpiry (port : BitVec 5) (vc : BitVec 3)
  | packetAtQueueHead (port : BitVec 5) (vc : BitVec 3)
  | reorderHoldExpiry (port : BitVec 5) (vc : BitVec 3)
  | writeReceived (p : Pkt)
  | readReqReceived (p : Pkt)
  | notifyReceived (p : Pkt)
  | mcastWriteReceived (port : BitVec 5) (p : Pkt)
  | ackReceived (p : Pkt)
  | nackReceived (p : Pkt)
  | readRespReceived (p : Pkt)
  | detourReceived (p : Pkt)
  | circuitLostReceived (p : Pkt)
  | circuitPositionReceive (port : BitVec 5) (d : CircuitData)
  | timeReceived (port : BitVec 5) (p : Pkt)
  | arriveReceived (p : Pkt)
  | releaseReceived (p : Pkt)
  | paceReceived (p : Pkt)
  | releaseEdge (group : Byte)
  | islandRelease (group : Byte) (i : BitVec 8)
  | epochFlip
  | epochRetire
  -- links and ports
  | flitReceive (port : BitVec 5) (coded : List Byte)
  | laneLossOfLock (port : BitVec 5) (lane : BitVec 2)
  | laneErrorWindow (port : BitVec 5)
  | narrowingHandshakeEnd (port : BitVec 5) (lanes : BitVec 4)
  | trainingStepDone (port : BitVec 5) (info : TrainInfo)
  | trainingStepTimeout (port : BitVec 5)
  | trainingRetry (port : BitVec 5)
  | peerExchange (port : BitVec 5) (node : NodeId) (peerPort : BitVec 5) (attached doubled : Bool)
  | miswiredRetry (port : BitVec 5)
  | fiSchedulerFire
  -- fabric time
  | syncPulse (widthNs : Nat) (arrival : Dword)
  | timeMessageSend
  | syncHoldover
  | syncTriggerPulse
  -- scrub, refresh, logs
  | patrolScrub (g : Byte)
  | scrubRewrite (g : Byte)
  | refreshSlot (g : Byte)
  | exceptionLogCopy (i : BitVec 8) (ci : Word)
  | faultLogArchive
  -- host interface
  | indexLineInvalidation (r : IndexRead)
  | indexPoll (rs : List IndexRead)
  | completionCoalesceTimeout (ring : BitVec 4)
  | perstAssert (cause : HostReset)
  | refclkLoss
  | perstHeldLog
  | wakeReleaseTimeout
  | smbusClockLowTimeout
  | cxlMemRead (hpa : Dword) (cacheable : Bool)
  | cxlMemWrite (hpa : Dword) (bytes : List Byte) (poison : Bool)
  | commandRingEnable (ring : BitVec 4) (v : Dword)
  | commandRingDisable (ring : BitVec 4) (v : Dword)
  | completionRingEnable (ring : BitVec 4) (v : Dword)
  | completionRingDisable (ring : BitVec 4) (v : Dword)
  | stCtrlWrite (v : Dword)
  | registerWrite (a : RegAddr) (v : Dword)
  -- host commands and their completions (chapter 14)
  | undefinedOpcode (opcode : Half) (c : Packet)
  | commandTimeout (ring : BitVec 4) (tag : Word)
  | identify (c : Packet)
  | setNode (c : Packet)
  | deviceStatus (c : Packet)
  | setDefault (c : Packet)
  | memoryMode (c : Packet)
  | memoryClear (c : Packet)
  | memoryClearComplete
  | reset (c : Packet)
  | partCreate (c : Packet)
  | partDestroy (c : Packet)
  | windowSet (c : Packet)
  | windowClear (c : Packet)
  | partStatus (c : Packet)
  | load (c : Packet)
  | loadComplete (p : BitVec 6)
  | unload (c : Packet)
  | bind (c : Packet)
  | bindComplete (p : BitVec 6)
  | start (c : Packet)
  | pause (c : Packet)
  | resume (c : Packet)
  | pipelineDrain (c : Packet)
  | pipelineDrainComplete (p : BitVec 6)
  | status (c : Packet)
  | excQueue (c : Packet)
  | tableWrite (c : Packet)
  | tableCommit (c : Packet)
  | tableCommitComplete (ver : BitVec 1)
  | flipArm (c : Packet)
  | fence (c : Packet)
  | fabricStatus (c : Packet)
  | portSet (c : Packet)
  | portRetest (c : Packet)
  | auxMode (c : Packet)
  | resend (c : Packet)
  | timeCfg (c : Packet)
  | barrierCfg (c : Packet)
  | barrierFree (c : Packet)
  | snapEnable (c : Packet)
  | snapDisable (c : Packet)
  | snapPolicy (c : Packet)
  | snapPartners (c : Packet) (tags : List (NodeId × Option Half))
  | snapCut (c : Packet)
  | snapCopyComplete
  | restore (c : Packet)
  | restoreComplete (p : BitVec 6) (got : Option Restored)
  | verify (c : Packet)
  | snapStatus (c : Packet)
  | powerStatus (c : Packet)
  | hostCap (c : Packet)
  | levelLimit (c : Packet)
  | deepIdleEnter (c : Packet)
  | deepIdleExit (c : Packet)
  | deepIdleExitComplete
  | energy (c : Packet)
  | energyMode (c : Packet)
  | estimator (c : Packet)
  | fwStage (c : Packet)
  | fwStageComplete
  | fwActivate (c : Packet)
  | fwRollback (c : Packet)
  | activationContinue
  | activationHoldExpiry
  | trialWindowClose
  | fwStatus (c : Packet)
  | diagModeEnter (c : Packet)
  | diagModeLeave (c : Packet)
  | fiSet (c : Packet)
  | fiKey (c : Packet)
  | errClear (c : Packet)
  | logRead (c : Packet)
  | claimQuery (c : Packet)
  | claimTable (c : Packet)
  -- power, temperature, starts
  | powerEstimateWindow (cores : Nat)
  | levelChoice
  | capGraceExpiry
  | vcoreRampReached
  | inputPowerSample (mA10 mV10 : Half)
  | gainUpdate
  | sensorSample (readings : List Half)
  | pwrbrkAssert
  | pwrbrkDeassert
  | pwrbrkHeldLog
  | thermalTrip (sensor : Byte)
  | inputVoltageSample (mV10 : Half)
  | inputFaultClear
  | lighthousePowerUp
  | watchdogExpiry (pc : Word)
  | componentHeartbeatMiss (c : Component)
  | componentFault (c : Component) (f : CompFault)
  -- reads that clear (00 R10)
  | logLostRead (i : BitVec 8)
  | straitDropRead (i : BitVec 8)
  | bskewWaitMaxRead (g : Byte)
  | bskewLateRead (g : Byte)
  | trkResendsRead
  | trkDupsRead
  | trkLateRead
  | trkUnreachRead
  | trkFencedRead
  | portCorrRead (port : BitVec 5)
  | portDropRead (port : BitVec 5)
  | portVoidRead (port : BitVec 5)
  | portEventsRead (port : BitVec 5)
  | laneErrRead (port : BitVec 5) (lane : BitVec 2)
  | fiCountRead (port : BitVec 5) (vc : BitVec 3)
  | fabDetoursRead
  | fabStaleRead
  | fabExpiredRead
  | fabCrcbadRead
  | fabFencedropRead
  | fabCircdropRead
  | fabBadhdrRead
  | barCountRead (g : Byte)
  | stWakesRead
  | stBarDiscardRead
  | stHostRefusedRead
  | stBiRead
  | snapTouchRead
  | snapHeldRead
  | snapSkippedRead
  | snapFailsRead
  | pwrEmergRead
  | pwrLevelsRead
  | pinFilteredRead
  -- management port (chapter 18)
  | i3cBroadcastCcc
  | dynamicAddressAssign (addr : BitVec 7)
  | setEndpointId (eid : Byte)
  | getEndpointId
  | getMctpVersionSupport (type : Byte)
  | getMessageTypeSupport
  | unsupportedManagementMessage (m : MgmtOther)
  | getTid
  | getPldmVersion (type : Byte)
  | getPldmTypes
  | getPldmCommands (type : Byte)
  | getPdr (handle : Word)
  | getNumericSensorReading (id : Half)
  | getStateSensorReadings (id : Half)
  | setManagementCap (v : Half)
  | setFeedTag (v : Half)
  | getNumericEffecterValue (id : Half)
  | warmStartMemoryKept
  | warmStartMemoryFilled
  | restartAfterTrip
  | pollForPlatformEventMessage
  | getFaultLog (first : Word) (count : Byte)
  | getEnergy (sel : Byte)
  | requestUpdate
  | firmwareDataReceived (off : Word) (bytes : List Byte)
  | fdT1Timeout
  | activateFirmware (selfContained : Bool)
  | getStatus
  | getVersion (ep : Byte)
  | getCapabilities (ep : Byte)
  | negotiateAlgorithms (ep : Byte) (offer : SpdmOffer)
  | getDigests (ep : Byte)
  | getCertificate (ep slot : Byte) (off len : Half)
  | challenge (ep slot : Byte) (nonce : BitVec 256)
  | getMeasurements (ep index : Byte) (sign : Bool) (nonce : BitVec 256)
  | chunkSend (ep : Byte) (last : Bool) (seq : Half) (bytes : List Byte)
  | chunkGet (ep : Byte) (seq : Half)
  -- further events
  | powerGatingEntryDone (g : BitVec 4)
  | circuitPositionSend (port : BitVec 5) (pos : Byte)
  | lighthousePowerLoss
  | stackSupplyFault (stack : BitVec 3)
  | selfRefreshExitUncommanded (stack : BitVec 3)
  | cxlLinkUp (l : Link)
  | startStepDone (ok : Bool)
  | activationLoadDone
  | handOffDone (r : HandOff)
  | replicaHashCompareDone (p : BitVec 6) (other : List (BitVec 512))
  | updateVerifyComplete
  | cancelUpdate
deriving DecidableEq, Repr

end Sys2Proof
end

