-- ==== Sys2Proof/Decode.lean ====
section
/-! DEFINITION. The decoder of the block: the table of operations and events gives its rows no bits, so
no word spells a command. -/

namespace Sys2Proof

/-- The command a word of the table spells: no row has bits. -/
def decodeTableWord (_nbits _w : Nat) : Option Instr := none

end Sys2Proof
end

