-- ==== Sys2Proof/Machine/Num.lean ====
section
/-! DEFINITION. Exact dyadic numbers and the FP32 arithmetic built on them (02 R33, R38, R39, 03 R67,
06 R131): every operation is computed exactly and rounded once. -/

namespace Sys2Proof.Machine

/-- The number m × 2^e. -/
structure Dyad where
  m : Int
  e : Int
deriving DecidableEq, Repr

/-- m × 2^k for a non-negative k, and the exact integer part below it otherwise. -/
def intShift (m k : Int) : Int := if 0 ≤ k then m * (2 ^ k.toNat : Nat) else m / (2 ^ (-k).toNat : Nat)

/-- The integer nearest m / 2^k, ties to even (02 R39). -/
def rneDiv (m : Int) (k : Nat) : Int :=
  let d : Int := (2 ^ k : Nat)
  let q := m / d
  let r := m % d
  if d < 2 * r ∨ (2 * r = d ∧ q % 2 = 1) then q + 1 else q

def Dyad.ofInt (n : Int) : Dyad := ⟨n, 0⟩
def Dyad.neg (x : Dyad) : Dyad := ⟨-x.m, x.e⟩
def Dyad.abs (x : Dyad) : Dyad := ⟨x.m.natAbs, x.e⟩
def Dyad.mul (x y : Dyad) : Dyad := ⟨x.m * y.m, x.e + y.e⟩
def Dyad.scale (x : Dyad) (k : Int) : Dyad := ⟨x.m, x.e + k⟩

/-- The numerator of x over 2^g, for a g not above the exponent of x. -/
def Dyad.over (x : Dyad) (g : Int) : Int := intShift x.m (x.e - g)

def Dyad.add (x y : Dyad) : Dyad :=
  let g := min x.e y.e
  ⟨x.over g + y.over g, g⟩
def Dyad.sub (x y : Dyad) : Dyad := x.add y.neg
def Dyad.lt (x y : Dyad) : Bool :=
  let g := min x.e y.e
  x.over g < y.over g

/-- floor(log2 |x|) of a nonzero x. -/
def Dyad.floorLog (x : Dyad) : Int := (Nat.log2 x.m.natAbs : Int) + x.e

/-- The element exponent e(x) of a finite nonzero value (02 R38). -/
def Dyad.expo (x : Dyad) : Int :=
  let n := x.m.natAbs
  let l := Nat.log2 n
  if x.m < 0 ∧ n = 2 ^ l then (l : Int) - 1 + x.e else l + x.e

/-- The integer nearest x / 2^g, ties to even. -/
def Dyad.rneAt (x : Dyad) (g : Int) : Int :=
  if g ≤ x.e then x.over g else rneDiv x.m (g - x.e).toNat

/-- floor(x / 2^g). -/
def Dyad.floorAt (x : Dyad) (g : Int) : Int := x.over g

/-! ### Binary formats -/

/-- A binary floating layout: bits of the exponent and of the mantissa and the bias (02 Table 2.1). -/
structure Lay where
  eb   : Nat
  mb   : Nat
  bias : Int
deriving DecidableEq, Repr

def Lay.width (l : Lay) : Nat := 1 + l.eb + l.mb
/-- Smallest normal exponent. -/
def Lay.emin (l : Lay) : Int := 1 - l.bias

/-- The exact value of a code whose exponent field is not special (02 R33). -/
def Lay.value (l : Lay) (code : Nat) : Dyad :=
  let m := code % 2 ^ l.mb
  let e := code / 2 ^ l.mb % 2 ^ l.eb
  let v : Dyad := if e = 0 then ⟨m, l.emin - l.mb⟩ else ⟨m + 2 ^ l.mb, e - l.bias - l.mb⟩
  if code / 2 ^ (l.eb + l.mb) % 2 = 1 then v.neg else v

/-- The code of a value that the layout holds exactly; `neg` gives the sign of a zero. -/
def Lay.code (l : Lay) (neg : Bool) (x : Dyad) : Nat :=
  let s := if neg then 2 ^ (l.eb + l.mb) else 0
  if x.m = 0 then s
  else
    let e := x.floorLog
    if e < l.emin then s + (x.abs.over (l.emin - l.mb)).toNat
    else s + ((e + l.bias).toNat * 2 ^ l.mb + ((x.abs.over (e - l.mb)).toNat - 2 ^ l.mb))

def lay32 : Lay := ⟨8, 23, 127⟩
def layBf : Lay := ⟨8, 7, 127⟩
def lay16 : Lay := ⟨5, 10, 15⟩
def layE4 : Lay := ⟨4, 3, 7⟩
def layE5 : Lay := ⟨5, 2, 15⟩

/-! ### FP32 (06 R131) -/

/-- What an FP32 lane holds. -/
inductive F32 where
  | nan
  | inf (neg : Bool)
  | fin (neg : Bool) (x : Dyad)
deriving DecidableEq, Repr

def F32.ofBits (w : Word) : F32 :=
  let n := w.toNat
  let neg := w.msb
  if n / 2 ^ 23 % 256 = 255 then (if n % 2 ^ 23 = 0 then .inf neg else .nan)
  else .fin neg (lay32.value n)

def F32.toBits : F32 → Word
  | .nan => 0x7FC00000
  | .inf neg => if neg then 0xFF800000 else 0x7F800000
  | .fin neg x => BitVec.ofNat 32 (lay32.code neg x)

def F32.isNan (x : F32) : Bool := x = .nan

def F32.isNeg : F32 → Bool
  | .nan => false
  | .inf n => n
  | .fin n _ => n

def F32.isZero : F32 → Bool
  | .fin _ x => x.m = 0
  | _ => false

/-- An exact value rounded to nearest even onto a layout with p = mb + 1 bits and an infinity; `neg`
gives the sign of a zero result. -/
def roundTo (l : Lay) (neg : Bool) (x : Dyad) : F32 :=
  if x.m = 0 then .fin neg ⟨0, 0⟩
  else
    let ulp := max x.floorLog l.emin - l.mb
    let z : Dyad := ⟨x.rneAt ulp, ulp⟩
    if z.m ≠ 0 ∧ l.bias < z.floorLog then .inf (x.m < 0)
    else .fin (x.m < 0) z

/-- rn of 03 R67 and 06 R131. -/
def rn (neg : Bool) (x : Dyad) : F32 := roundTo lay32 neg x

def F32.neg : F32 → F32
  | .nan => .nan
  | .inf n => .inf (!n)
  | .fin n x => .fin (!n) x.neg

def F32.abs : F32 → F32
  | .nan => .nan
  | .inf _ => .inf false
  | .fin _ x => .fin false x.abs

/-- Sign of an exact sum that is zero: the common sign, else plus under round to nearest. -/
def F32.add : F32 → F32 → F32
  | .nan, _ => .nan
  | _, .nan => .nan
  | .inf a, .inf b => if a = b then .inf a else .nan
  | .inf a, .fin _ _ => .inf a
  | .fin _ _, .inf b => .inf b
  | .fin a x, .fin b y => rn (a && b) (x.add y)

def F32.sub (x y : F32) : F32 := x.add y.neg

def F32.mul : F32 → F32 → F32
  | .nan, _ => .nan
  | _, .nan => .nan
  | .inf a, .inf b => .inf (a ^^ b)
  | .inf a, .fin b y => if y.m = 0 then .nan else .inf (a ^^ b)
  | .fin a x, .inf b => if x.m = 0 then .nan else .inf (a ^^ b)
  | .fin a x, .fin b y =>
    let r := rn (a ^^ b) (x.mul y)
    match r with
    | .fin _ z => .fin (a ^^ b) z
    | r => r

/-- a × b + c with one rounding. -/
def F32.fma (a b c : F32) : F32 :=
  match a, b, c with
  | .nan, _, _ => .nan
  | _, .nan, _ => .nan
  | _, _, .nan => .nan
  | .fin sa x, .fin sb y, .fin sc z =>
    rn ((sa ^^ sb) && sc) ((x.mul y).add z)
  | .fin _ _, .fin _ _, .inf s => .inf s
  | a, b, c => (a.mul b).add c

/-- Total order key of `MIN` and `MAX`: −0 below +0. -/
def F32.ltTot (x y : F32) : Bool :=
  match x, y with
  | .inf a, .inf b => a && !b
  | .inf a, _ => a
  | _, .inf b => !b
  | .fin a x, .fin b y => x.lt y || (x.m = 0 && y.m = 0 && a && !b)
  | _, _ => false

def F32.min (x y : F32) : F32 :=
  if x.isNan || y.isNan then .nan else if y.ltTot x then y else x
def F32.max (x y : F32) : F32 :=
  if x.isNan || y.isNan then .nan else if x.ltTot y then y else x

/-- IEEE comparison: false with a NaN, zeros equal. -/
def F32.lt : F32 → F32 → Bool
  | .inf a, .inf b => a && !b
  | .inf a, .fin _ _ => a
  | .fin _ _, .inf b => !b
  | .fin _ x, .fin _ y => x.lt y
  | _, _ => false
def F32.eq : F32 → F32 → Bool
  | .inf a, .inf b => a = b
  | .fin _ x, .fin _ y => !x.lt y && !y.lt x
  | _, _ => false

/-- x × 2^n with one rounding (`SCALE`, 06 Table 6.2). -/
def F32.scale (x : F32) (n : Int) : F32 :=
  match x with
  | .fin s v =>
    match rn s (v.scale n) with
    | .fin _ z => .fin s z
    | r => r
  | x => x

/-- The second rounding of the `B` bit: to nearest even onto BF16 precision (06 R131). -/
def F32.toBf (x : F32) : F32 :=
  match x with
  | .fin s v =>
    match roundTo layBf s v with
    | .fin _ z => .fin s z
    | r => r
  | x => x

def w32 (f : F32 → F32 → F32) (a b : Word) : Word := (f (.ofBits a) (.ofBits b)).toBits

/-- The two-sum error of 03 R67 and 06 R136: exactly s + a − s2 for finite operands. -/
def twoSumErr (s a s2 : F32) : F32 :=
  let z := s2.sub s
  (s.sub (s2.sub z)).add (a.sub z)

end Sys2Proof.Machine
end

