-- ==== Sys2Proof/Config.lean ====
section
/-! DEFINITION. What the spec leaves to the part or to an outside standard: constants with no body,
so that nothing can be proved about their values (assumption log 10, 11, 12). -/

namespace Sys2Proof

/-- A fresh unconstrained byte, applied to the counter that `State.free` holds. -/
opaque Config.freeByte : Nat → Byte

/-- SHA3-512 of FIPS 202, which 15_firmware R335 cites and does not give (log 11). -/
opaque Config.sha3 : List Byte → BitVec 512

/-- ML-DSA-87 verification of FIPS 204 (key, message, signature), cited by 15_firmware R335 (log 11). -/
opaque Config.mldsaVerify : List Byte → List Byte → List Byte → Bool

/-- The ML-DSA-87 signature that the signing block of the security agent makes over a message
(18_management R404); the counter makes each signature its own (log 11). -/
opaque Config.mldsaSign : Nat → List Byte → List Byte

/-- The low byte of a fault-log CODE, of which 18_management Table 18.5 gives the high byte only;
applied to the kind's number (log 12). -/
opaque Config.logCodeLow : Nat → Byte

/-- Bytes 20 to 31 of a fault-log record, "per code" in Table 18.5 (log 12). -/
opaque Config.logData : Nat → BitVec 96

/-- Offset in BAR0 of the base register of the HDM decoder, among the CXL component registers that 13_host_interface
R288 and R301 leave to CXL 3.1 (log 49). -/
opaque Config.hdmBaseOffset : Nat

/-- The other CXL component registers at an offset in BAR0: what they hold at reset, their writable bits, and where the RAS
header log begins, all of them left to CXL 3.1 (13 R288, log 49). -/
opaque Config.compReset : Nat → BitVec 64
opaque Config.compMask : Nat → BitVec 64
opaque Config.rasHeaderOffset : Nat

/-- What the part's image slots (`true`: slot B) hold from manufacture (log 8). -/
opaque Config.factoryImage : Bool → List (Nat × Byte)

/-- The four key digests fused into the part (15_firmware R336, log 8). -/
opaque Config.keyDigest : Nat → BitVec 512

/-- The certificate chain of slot 0 in the flash identity area (18_management R404, log 8). -/
opaque Config.certChain : List Byte

/-- The digest of the boot ROM (18_management Table 18.4, log 8). -/
opaque Config.romDigest : BitVec 512

/-- The digest of the retained settings after n changes (18_management Table 18.4; their layout is not given, log 8). -/
opaque Config.settingsDigest : Nat → BitVec 512

end Sys2Proof
end

