-- ==== Sys2Proof/Machine/State.lean ====
section
/-! DEFINITION. The state of the block: plain data, every register, buffer, queue, counter, mode and
pin the chapters give it, and the queue of waiting commands. The docstrings cite the rule that names
each piece; INVENTORY.md lists them with their reset values. -/

namespace Sys2Proof.Machine

/-- Memory: canonical list of (address, byte); an unlisted address reads 0 (08 R186, R187). -/
abbrev Memory := List Host.Cell

/-! ### Islands (chapters 3 to 7, 9) -/

/-- Element classes of 02 Table 2.2. -/
inductive Cls where
  | fin | zero | inf | nan
deriving DecidableEq, Repr

/-- One weight element in a cell: 12 plane bits, class and sign (03 Table 3.1). -/
structure Cell where
  planes : BitVec 12
  cls    : Cls
  sgn    : Bool
deriving DecidableEq, Repr

/-- One weight buffer of an array with the records its load leaves (03 R54, R425, 05 R106, 08 R181):
`rows` by cell row (128 cells each), `ge` by segment (128 columns each), the plane count, the plane bytes, the
common exponent of the load if any, the BIN1 record, and the rows whose parity fails. -/
structure Tile where
  rows      : SMap (List Cell)
  ge        : SMap (List Byte)
  p         : Nat
  sched     : List Byte
  ecw       : Option Int
  bin1      : Bool
  loaded    : Bool
  parityBad : List Nat
deriving DecidableEq, Repr

/-- An activation element as a cell's activation register holds it (03 Table 3.1). -/
structure ActEl where
  q   : Int
  cls : Cls
  sgn : Bool
deriving DecidableEq, Repr

/-- An activation row that crosses an array (03 R54, R58): the cycle in which its plane 0 enters cell row 0, its
plane count, the buffer its beats read, its mode and cell rows, and its elements. What the activation and
partial-sum registers of every cell hold follows from it (`Array.activationReg`, `Array.partialSum`). -/
structure Flight where
  inj   : Nat
  p     : Nat
  buf   : Bool
  mode  : Nat
  kRows : Nat
  els   : List ActEl
deriving DecidableEq, Repr

/-- Slot-anchor table entry (04 Table 4.2). -/
structure SlotAnchor where
  tag         : BitVec 4
  nextClamped : Bool
  clamped     : Bool
  termLost    : Bool
  parity      : Bool
  next        : BitVec 10
  anchor      : BitVec 10
deriving DecidableEq, Repr

/-- Class states of an entry (03 Table 3.7). -/
inductive ClassSt where
  | fin | pinf | ninf | invalid | nan
deriving DecidableEq, Repr

/-- A candidate of a selecting mode (03 R73). -/
structure Cand where
  st    : ClassSt
  value : Int
  index : Word
deriving DecidableEq, Repr

/-- What one activation row brings to one column: the eight group terms (D_g, GE_w + GE_a) and the
joined class; an increment and a class; or the best candidate, if any row takes part. -/
inductive Contrib where
  | terms (gs : List (Int × Int)) (st : ClassSt)
  | add (n : Int) (st : ClassSt)
  | cand (c : Option Cand)
deriving DecidableEq, Repr

/-- Error state stored in a protected word or line, or stuck there (08 R179, R180, R185): one correctable symbol or
bit, uncorrectable, or the poison pattern of an HBM line. -/
inductive LineErr where
  | symbol (s : BitVec 7) | uncorrectable | poison
deriving DecidableEq, Repr

/-- One matrix array: buffers, the select that the last swap issued leaves and the injections of the swaps whose
wavefront may still move, the records of a load under way, the rows that cross the cells, accumulator memory (128
entries for each slot) with its stored errors and hard faults, slot-anchor table, and the schedule records the checks of
05 R124 and 04 R80, R94, R96 compare against (cycles; the tags with the operation that left them). -/
structure Array where
  buf0      : Tile
  buf1      : Tile
  active    : Bool
  swaps     : List Nat
  loadRec   : Option (Bool × Tile)
  flow      : List Flight
  acc       : SMap (List (BitVec 96))
  accErr    : SMap (Option LineErr)
  accHard   : SMap (Option LineErr)
  slots     : SMap SlotAnchor
  issuedTag : SMap (BitVec 4 × BitVec 10 × Nat)
  footDue   : Nat
  loadEnd   : Nat
  passInj   : Option Nat
  passRows  : Nat
  swapInj   : Option Nat
  footEnd   : Nat
  footOf    : SMap Nat
  readOf    : SMap Nat
  seedEnd   : Nat
  drainEnd  : Nat
deriving DecidableEq, Repr

/-- A pass in progress: its parameters (03 Table 3.2), the tile each array uses, the registers it read
in its issue cycle, and the anchors read at injection (04 R79). -/
structure PassOp where
  cycle    : Nat
  arrays   : List Nat
  mode     : Nat
  slot     : Nat
  rows     : Nat
  p        : Nat
  kOffset  : Nat
  kRows    : Nat
  start    : Bool
  ec       : Int
  fd       : BitVec 128
  fmt      : BitVec 256
  base     : Nat
  scale    : Nat
  useBuf   : SMap Bool
  anchors  : SMap SlotAnchor
  bundle   : BitVec 13
  slotIdx  : BitVec 3
deriving DecidableEq, Repr

/-- A seed in progress (04 R96). -/
structure SeedOp where
  cycle   : Nat
  array   : Nat
  slot    : Nat
  rows    : Nat
  start   : Bool
  src     : Nat
  bundle  : BitVec 13
  slotIdx : BitVec 3
deriving DecidableEq, Repr

/-- A weight load in progress (05 R106): its arrays with the buffer each loads into, and the descriptors, the codebook
table and the bases it read in its issue cycle. -/
structure LoadOp where
  cycle   : Nat
  arrays  : List (Nat × Bool)
  fd      : BitVec 128
  fmt     : BitVec 256
  table   : List Int
  base    : Nat
  scale   : Nat
  bundle  : BitVec 13
  slotIdx : BitVec 3
deriving DecidableEq, Repr

/-- A drain in progress (04 R85, R93): its descriptor and what it read in its issue cycle, and the
running tile status, first special and high-water marks. -/
structure DrainOp where
  cycle   : Nat
  arrays  : List Nat
  dd      : BitVec 512
  slot    : Nat
  rows    : Nat
  off     : Nat
  key     : BitVec 128
  stepReg : Word
  seq     : Half
  kinds   : Byte
  first   : Option (Nat × Nat × Nat × Nat)
  tileHwm : Option Int
  rowHwm  : SMap (Option Int)
  bundle  : BitVec 13
  slotIdx : BitVec 3
deriving DecidableEq, Repr

/-- An operation already issued whose events are still to come. -/
inductive IslOp where
  | pass (o : PassOp)
  | seed (o : SeedOp)
  | drain (o : DrainOp)
  | load (o : LoadOp)
  | other (bundle : BitVec 13) (slotIdx : BitVec 3)
deriving DecidableEq, Repr

/-- What happens at a scheduled cycle (05 Table 5.8, 06 Table 6.4). -/
inductive Act where
  | setX (r : BitVec 5) (v : Dword)
  | setXPart (r : BitVec 5) (h : BitVec 2) (v : Half)
  | setH (r : BitVec 4) (v : Half)
  | setStep (v : Word)
  | setV (r : BitVec 5) (v : List Word)
  | setVQuarter (r : BitVec 5) (q : BitVec 2) (v : List Word)
  | setNext (arrays : Byte) (first count : Nat) (a : BitVec 10) (clamped : Bool)
  | ldRead (r : BitVec 5) (off : Nat)
  | stWrite (off : Nat) (bytes : List Byte)
  | hmaxRead (r : BitVec 4) (off n : Nat) (best : Half)
  | vldRead (type : BitVec 3) (r : BitVec 5) (off : Nat)
  | vldBeat (port : BitVec 2) (r : BitVec 5) (left : Nat) (got : List Byte)
  | vstBeat (port : BitVec 2) (beat : List Byte)
  | inject
  | row (m : Nat)
  | enter (m : Nat) (els : List (List ActEl × List Int))
  | footIn (m : Nat) (array : Nat) (cols : List Contrib) (parity : Bool)
  | foot (m : Nat) (array : Nat) (cols : List Contrib) (parity : Bool)
  | footBad (array : Nat) (first : Nat) (m : Nat) (cols : List Contrib) (parity : Bool)
  | loadBlock (b : Nat) (scales : List (List Byte))
  | loadPlane (b j : Nat) (cells : List (List (List Cell) × List Byte))
  | seedRead (m : Nat)
  | seedRow (m : Nat) (bytes : List Byte) (bad : Bool)
  | drainRow (m : Nat)
  | drainWrite (writes : List (Nat × List Byte)) (beats : List (BitVec 2 × List Byte))
  | drainEnd
  | semInc (sem : BitVec 5)
  | dmaPause (ch : BitVec 2) (on : Bool)
  | dmaRefuse (ch : BitVec 2) (sem : BitVec 5) (desc : BitVec 22)
deriving DecidableEq, Repr

/-- A scheduled event: due cycle, priority within the cycle (register landings, then reads, then
writes, 05 R104), the operation it belongs to. -/
structure Ev where
  due  : Nat
  prio : Nat
  op   : Nat
  act  : Act
deriving DecidableEq, Repr

/-- A wait in progress (05 R120, R122): semaphore, count, the tick it began, the barrier group of a
`BARRIVE`, whether its arrival has been signalled, and whether a pause holds it. -/
structure Waiting where
  sem     : BitVec 5
  count   : Half
  since   : Nat
  cycle   : Nat
  group   : Option Byte
  arrived : Bool
deriving DecidableEq, Repr

/-- One level of the loop stack (05 Table 5.13). -/
structure LoopLevel where
  start : BitVec 13
  last  : BitVec 13
  left  : Dword
deriving DecidableEq, Repr

/-- Exception-log record (05 Table 5.16). -/
structure ExcRec where
  word     : Dword
  time     : Dword
  kind     : Byte
  pipeline : Word
  bundle   : BitVec 13
  slot     : BitVec 3
  cycle    : Word
deriving DecidableEq, Repr

/-- Where one side of a DMA piece lies (09 Table 9.1). -/
inductive Side where
  | own (off : Nat)
  | hbm (addr : Nat)
  | island (i : Nat) (off : Nat)
  | remote (node : NodeId) (addr : DevAddr)
deriving DecidableEq, Repr

/-- Progress of a piece: its read waits or is under way, its data waits to be written, its write is
under way. -/
inductive PieceStage where
  | reading | ready | writing | failed
deriving DecidableEq, Repr

/-- A contiguous run of bytes of one element, inside one 64-byte line on both sides (log 20). -/
structure Piece where
  id    : Nat
  elem  : Nat
  lastOf : Bool
  src   : Side
  dst   : Side
  len   : Nat
  stage : PieceStage
  data  : List Byte
deriving DecidableEq, Repr

/-- A `DSTART` that found its start queue full, with the frame cycle from which its record may be written (09 R188). -/
structure Refused where
  sem   : BitVec 5
  desc  : BitVec 22
  since : Nat
deriving DecidableEq, Repr

/-- A completion record on its way to a ring in HBM (09 R200 step 3): its address, its bytes, the header it belongs to and
the `PI` to write there, its semaphore, whether a refused start owes it, whether the port has taken it, and whether its
write is complete. -/
structure RecWrite where
  addr    : Nat
  bytes   : List Byte
  cqOff   : Nat
  pi      : Word
  sem     : BitVec 5
  refused : Bool
  taken   : Bool
  landed  : Bool
deriving DecidableEq, Repr

/-- One DMA channel (09 Table 9.9) and the progress of its transfer: `queue` by position, `since` the frame cycle from
which the channel's next step may happen, `recOut` its record on the way to HBM. -/
structure Chan where
  st       : BitVec 3
  paused   : Bool
  desc     : BitVec 22
  pos      : BitVec 60
  sem      : BitVec 5
  err      : Word
  bytes    : Dword
  dcopy    : BitVec 512
  queue    : List (Option (BitVec 5 × BitVec 22))
  refused  : List Refused
  pieces   : List Piece
  nextId   : Nat
  sub      : Nat
  runOff   : Option Int
  allRead  : Bool
  notified : Bool
  pauseByIsland : Bool
  tracked  : Nat
  inFlight : Nat
  since    : Nat
  recOut   : Option RecWrite
deriving DecidableEq, Repr

/-- An asynchronous bank request (05 R103): from which island's channel, for which pieces; a read of one
extent, or the covered bytes of one granule (09 R196); it may be served from frame cycle `at_` on. -/
structure BankReq where
  island : BitVec 8
  ch     : BitVec 2
  pieces : List Nat
  off    : Nat
  len    : Nat
  writes : List (Nat × List Byte)
  at_    : Nat
deriving DecidableEq, Repr

/-- An HBM line request of a DMA channel (08 R172 to R174): what it moves, the slot that serves it and the time of its
completion, in 1/16,800 of a tick (none of both in the shared class), whether its slot has served it, whether the line
read uncorrectable, and whether it is a completion record. -/
structure HbmReq where
  island : BitVec 8
  ch     : BitVec 2
  piece  : Nat
  read   : Bool
  addr   : Nat
  len    : Nat
  data   : List Byte
  slot   : Nat
  due    : Nat
  served : Bool
  bad    : Bool
  record : Bool
deriving DecidableEq, Repr

/-- One island. `midBundle` says that the rest of the bundle at `curPc` issues when its wait ends, `faultAt` is the
cycle of the fault that `fault` holds; `origin` is the frame cycle of its cycle 0, and `starting` says that a start release
has passed but its own cycle of the ramp has not (07 R165); `barSem` is the semaphore that its last arrival at a group named.
Beats in `rxq` and `txq` carry the frame cycle of their arrival and offer, `lastDep` a port's last departure (07 R161). `bankAt`, `cqAt` and `portAt` are the frame cycles from which a bank, a
completion queue (by the offset of its header) and the memory port take their next access (05 R103, 08 R172, 09 R200);
`portHist` holds the acceptances of the last 3,200 ns. Errors are held per 8-byte word of the scratchpad and the instruction memory. -/
structure Island where
  st        : BitVec 4
  pipeline  : Word
  partition : BitVec 6
  lastServed : Option (BitVec 6)
  imem      : SMap (BitVec 256)
  imemErr   : SMap (Option LineErr)
  imemHard  : SMap (Option LineErr)
  sp        : Memory
  spErr     : SMap (Option LineErr)
  spHard    : SMap (Option LineErr)
  seqPc     : BitVec 13
  seqCycle  : Nat
  fault     : Dword
  waitLimit : Word
  stepReg   : Word
  drainKey  : BitVec 128
  logHead   : BitVec 7
  logTail   : BitVec 7
  logLost   : Word
  straitDrop : Half
  x         : SMap Dword
  h         : SMap Half
  sem       : SMap Half
  loops     : List LoopLevel
  loopsWas  : List LoopLevel
  pd        : SMap Dword
  fd        : SMap (BitVec 128)
  dd        : SMap (BitVec 512)
  excLog    : SMap ExcRec
  cntBeats  : Dword
  cntWait   : Dword
  drainSeq  : Half
  waiting   : Option Waiting
  nextIssue : Nat
  curCycle  : Nat
  curPc     : BitVec 13
  midBundle : Bool
  stopped   : Bool
  faultAt   : Nat
  ended     : Bool
  sched     : List Ev
  ops       : SMap (Option IslOp)
  nextOp    : Nat
  banks     : List (Nat × Nat)
  v         : SMap (List Word)
  arr       : SMap Array
  bankQ     : SMap (List BankReq)
  rxq       : SMap (List (Nat × List Byte))
  txq       : SMap (List (Nat × List Byte))
  lastDep   : SMap Nat
  origin    : Nat
  starting  : Bool
  barSem    : SMap (BitVec 5)
  chan      : SMap Chan
  bankAt    : SMap Nat
  cqAt      : SMap Nat
  portAt    : Nat
  portHist  : List (Nat × Nat)
  inFlight  : List HbmReq
  acts      : SMap Nat
deriving DecidableEq, Repr

/-- Phase of a gating group (01 R22 to R25): clocked or clock-gated, entering power gating since a
tick, power-gated, waking since a tick. -/
inductive Gate where
  | clocked | entering (v : Nat) | off | waking (w : Nat)
deriving DecidableEq, Repr

/-- A gating group: phase, tick of the last unbind, whether a wake request waits (01 R25). -/
structure Group where
  gate    : Gate
  unbound : Nat
  wakeReq : Bool
deriving DecidableEq, Repr

/-- A programmed strait circuit (07 Table 7.5) and the partition whose map it belongs to. -/
structure Circuit where
  src       : Byte
  dst       : Byte
  slots     : Byte
  route     : List (BitVec 2)
  partition : BitVec 6
deriving DecidableEq, Repr

/-- A beat between its departure and its arrival (07 R161). -/
structure BeatFlight where
  island  : BitVec 8
  port    : BitVec 2
  arrives : Nat
  beat    : List Byte
deriving DecidableEq, Repr

/-! ### HBM (chapter 8) -/

/-- Worst-location entry (08 Table 8.6). -/
structure WlogEntry where
  line   : DevAddr
  symbol : Byte
  ue     : Bool
  count  : Word
  first  : Dword
  last   : Dword
deriving DecidableEq, Repr

/-- HBM, the errors stored in its lines and the hard faults of its cells (08 R180, R185), its memory error block (08 Table 8.5) the per-channel queues and scrub walk, the slots from which the shared class and the scrub of a channel go on, and the
tick from which the frame runs again after DEEP_IDLE (08 R177). -/
structure Mem where
  hbm      : Memory
  lineErr  : SMap (Option LineErr)
  hard     : SMap (Option LineErr)
  mode     : Bool
  staged   : Bool
  valid    : Bool
  filling  : Bool
  scrubs   : Word
  scrubbed : SMap Nat
  wlog     : List WlogEntry
  chCorr   : SMap Word
  chUe     : SMap Half
  chLast   : SMap Dword
  spCorr   : SMap Word
  accCorr  : SMap Word
  imCorr   : SMap Half
  parity   : SMap Half
  islUe    : SMap Half
  sharedQ  : SMap (List HbmReq)
  walk     : SMap Nat
  rewrite  : SMap (Option Nat)
  sharedAt : SMap Nat
  scrubAt  : SMap Nat
  frameFrom : Nat
deriving DecidableEq, Repr

/-! ### Tracker (09 R203 to R210, 11 R241 to R257) -/

/-- Who sent a tracked packet of the control pool. -/
inductive CtrlOwner where
  | barrier (group : Byte) | snapshot | fabricManager | loss
deriving DecidableEq, Repr

/-- One held tracker entry: the packet as last built, its source (island channel and pieces, or the
control owner with its item), series and try, the tick its timer expires, and the status and detail of a negative
acknowledgement of the tick at hand (09 R208). -/
structure TrkEntry where
  pkt    : Pkt
  ch     : Option (BitVec 2)
  pieces : List Nat
  owner  : Option CtrlOwner
  series : Nat
  tries  : Nat
  expiry : Nat
  notify : Bool
  nack   : Option (Half × Half)
deriving DecidableEq, Repr

/-- What a destination keeps for a source (09 R206): session, H and the accepted numbers near it. -/
structure SeqState where
  session  : Half
  high     : Word
  accepted : List Word
deriving DecidableEq, Repr

/-- Outcome of a member of a multicast entry (11 R257). -/
inductive Member where
  | delivered | fenced | unreachable
deriving DecidableEq, Repr

/-- One multicast tracker entry: per member its mark, series, try and intermediate (11 R257). -/
structure McastEntry where
  pkt     : Pkt
  members : List NodeId
  marks   : SMap (Option Member)
  series  : SMap Nat
  tries   : SMap Nat
  mids    : SMap Nat
  expiry  : Nat
deriving DecidableEq, Repr

/-- What the root of a resolved multicast reports (11 R257): its entry, the result and, unless every
member was delivered, the 512-byte bitmap of the members that were not. -/
structure McastOut where
  entry  : Nat
  status : Half
  bitmap : List Byte
deriving DecidableEq, Repr

structure Tracker where
  entries  : SMap (Option TrkEntry)
  control  : SMap (Option TrkEntry)
  mcast    : SMap (Option McastEntry)
  nextSeq  : SMap Word
  groupSeq : SMap Word
  sources  : SMap (Option SeqState)
  groups   : SMap (Option SeqState)
  resendT  : Half
  session  : Half
  resends  : Word
  dups     : Word
  late     : Word
  unreach  : Word
  fenced   : Word
  told     : List NodeId
  results  : List McastOut
  waitQ    : List (Pkt × CtrlOwner)
  mcastQ   : List (Pkt × List NodeId)
deriving DecidableEq, Repr

/-! ### Ports and fabric (chapters 10, 11) -/

/-- A packet waiting in a port's transmit queue, with the tick it entered (11 R239) and whether it is
to leave with DISCARD set (10 R217); whether it has been judged by its injection set, and what the set laid on it: a
pattern over coded bytes, or the packet's bytes altered (10 R231). -/
structure Queued where
  pkt     : Pkt
  since   : Nat
  discard : Bool
  seen    : Bool
  hit     : Option (Nat × Dword)
  bytes   : Option (List Byte)
deriving DecidableEq, Repr

/-- A packet held for reorder: since when, and how many packets have been sent past it (10 R231). -/
structure HeldPkt where
  q      : Queued
  passed : Nat
  since  : Nat
deriving DecidableEq, Repr

/-- One injection set (10 Table 10.6): registers, packet count, the packets held for reorder, and the ticks of a timed
set's pending events. -/
structure FiSet where
  ctrl    : Dword
  param   : Dword
  pattern : Dword
  count   : Word
  n       : Word
  held    : List HeldPkt
  startAt : Option Nat
  stopAt  : Option Nat
deriving DecidableEq, Repr

/-- A 16-byte block on its way out (10 R215): its bytes, whether a packet begins with it, whether its packet is void, and a
pattern laid over the coded bytes that carry it (10 R231). -/
structure OutBlk where
  bytes : List Byte
  first : Bool
  void  : Bool
  hit   : Option (Nat × Dword)
deriving DecidableEq, Repr

/-- What one circuit position carries onward (11 R252): its version, its packet parts, and the tick it came. -/
structure CircPay where
  epoch : BitVec 1
  parts : List CircPart
  since : Nat
deriving DecidableEq, Repr

/-- Port states (10 Table 10.4). -/
inductive PortSt where
  | disabled | down | training | held | miswired | up | narrowing
deriving DecidableEq, Repr

/-- A port (10 Tables 10.4, 10.5). `outBlks` are the blocks that wait for flits, `fseqOut` the number of the next flit,
`sinceIdle` the flits since the last idle one, `txNs` and `circNs` the time of the tick at hand not yet used by flits and
that used by circuit positions, `winAt` the tick in which the lane error window ends, `circAt` the period in which a
position was last sent, `circIn` the packets of circuits that have come in part, `cutting` that the rest of a packet whose
flit was dropped may still come (10 R217). -/
structure Port where
  st        : PortSt
  width     : Nat
  active    : BitVec 4
  failed    : BitVec 4
  peerNode  : NodeId
  peerPort  : BitVec 5
  attached  : Bool
  enabled   : Bool
  allow1    : Bool
  thr       : Word
  flitsTx   : Word
  flitsRx   : Word
  corrFlits : Word
  corrSyms  : Word
  dropUnc   : Word
  dropGap   : Word
  voidOut   : Word
  voidIn    : Word
  narrowings : Half
  trainings : Half
  miswires  : Half
  laneErr   : SMap Word
  laneLock  : SMap Half
  laneWin   : SMap Word
  pktTx     : SMap Word
  pktRx     : SMap Word
  fi        : SMap FiSet
  trainStep : Nat
  trained   : Bool
  cold      : Bool
  delay     : Word
  target    : BitVec 4
  retest    : Bool
  since     : Nat
  fseqIn    : BitVec 12
  partial_  : Option (List Byte)
  doubled   : Bool
  credits   : SMap (BitVec 10)
  sentBlk   : SMap (BitVec 10)
  freedBlk  : SMap (BitVec 10)
  txq       : SMap (List Queued)
  circOut   : SMap (List CircPay)
  circAt    : SMap Nat
  circIn    : List CircPart
  cutting   : Bool
  outBlks   : List OutBlk
  fseqOut   : BitVec 12
  sinceIdle : Nat
  txNs      : Nat
  circNs    : Nat
  winAt     : Nat
deriving DecidableEq, Repr

/-- States of a table version (11 Table 11.7). -/
inductive VerSt where
  | writable | ready | active | retiring
deriving DecidableEq, Repr

/-- One table version (11 Table 11.3), each part as sparse bytes. -/
structure Table where
  present : Memory
  fence   : Memory
  dead    : Memory
  mcast   : Memory
  members : Memory
  cin     : Memory
  csrc    : Memory
deriving DecidableEq, Repr

/-- States of fabric time (11 R259). -/
inductive TimeSt where
  | unset | locked | holdover | free
deriving DecidableEq, Repr

/-- The fabric unit (11 Table 11.9) and fabric time: `circQ` and `circPart` are the packets that wait for each circuit of
this module and the blocks of the first already sent, `timeSent` the tick of the last TIME message (11 R258), `pulseSeen`
whether a pulse has been accepted (11 R259). -/
structure Fabric where
  node      : NodeId
  nodeSet   : Bool
  epoch     : Bool
  ver0      : VerSt
  ver1      : VerSt
  armed     : Option (Byte × Word)
  flipAt    : Option Dword
  flips     : Word
  retire    : Dword
  time      : Dword
  tst       : TimeSt
  lastErr   : Half
  pulsesBad : Word
  timeMsg   : Option Dword
  timeSeen  : Bool
  lastPulse : Dword
  detours   : Word
  stale     : Word
  expired   : Word
  crcBad    : Word
  fenceDrop : Word
  circDrop  : Word
  badHdr    : Word
  avoid     : List (NodeId × BitVec 5)
  tab0      : Table
  tab1      : Table
  fallback  : List Nat
  lostSent  : List Nat
  master    : NodeId
  freeMode  : Bool
  fiKey     : BitVec 128
  rate      : Int
  circQ     : SMap (List Queued)
  circPart  : SMap Nat
  timeSent  : Option Nat
  pulseSeen : Bool
deriving DecidableEq, Repr

/-! ### Barriers (chapter 12, 07 R168) -/

/-- An applied arrival (12 R272, R273). -/
structure Arrival where
  node     : NodeId
  level    : BitVec 3
  degraded : Bool
  time     : Dword
deriving DecidableEq, Repr

/-- A fixed release on its way: T as the coordinator fixed it, the time at which this module releases,
the last arrival and the level to apply (12 R273, R274), the frame cycle of E once it has passed with the level set there, the
islands that still await theirs, and whether it starts, pauses or cuts. -/
structure Pending where
  number  : Word
  t       : Dword
  local_  : Dword
  last    : Arrival
  apply   : Bool
  level   : BitVec 3
  late    : Bool
  edge    : Option Nat
  ramp    : BitVec 3
  waiting : List Nat
  start   : Bool
  pause   : Bool
  cut     : Bool
deriving DecidableEq, Repr

structure Barrier where
  valid    : Bool
  pace     : Bool
  owner    : BitVec 6
  coord    : NodeId
  lead     : BitVec 15
  members  : List NodeId
  next     : Word
  fixed    : Bool
  arrivals : List Arrival
  early    : List Arrival
  t        : Dword
  late     : Half
  ignored  : Half
  paces    : Half
  ownTime  : Option Dword
  ownNode  : Option Arrival
  arrived  : List Nat
  lastIsl  : Byte
  pending  : Option Pending
  skewLast : Dword
  skewWaitMax : Word
  releases : Dword
  skewLate : Word
deriving DecidableEq, Repr

/-! ### Host interface (chapter 13) -/

inductive RingSt where
  | disabled | enabled | broken | stopping
deriving DecidableEq, Repr

/-- One command ring (13 Table 13.5), with the last PI read and the commands fetched since CI was
last written. -/
structure CmdRing where
  base    : Dword
  piAddr  : Dword
  ciAddr  : Dword
  ctrl    : Dword
  st      : RingSt
  reason  : Byte
  ci      : Word
  piRead  : Word
  fetched : Nat
deriving DecidableEq, Repr

inductive CqSt where
  | disabled | enabled | busy
deriving DecidableEq, Repr

/-- A record of 14 Table 14.2. -/
structure Record where
  tag     : Word
  opcode  : Half
  status  : Half
  detail  : Half
  kind    : BitVec 2
  ring    : BitVec 4
  time    : Dword
  result0 : Word
  result1 : Word
  result2 : Word
deriving DecidableEq, Repr

/-- One completion ring (13 Table 13.6), with the CI read, the records held while it is full, the
records posted since the last interrupt and the tick of the first of them. -/
structure CompRing where
  base     : Dword
  piAddr   : Dword
  ciAddr   : Dword
  ctrl     : Dword
  st       : CqSt
  reason   : Byte
  pi       : Word
  ciRead   : Word
  held     : List Record
  unsig    : Nat
  since    : Nat
deriving DecidableEq, Repr

/-- What the device writes towards host memory, in order (13 R299). -/
inductive HostOut where
  | data (addr : Dword) (bytes : List Byte)
  | record (ring : BitVec 4) (slot : Nat) (addr : Dword) (r : Record)
  | index (addr : Dword) (v : Word)
  | msix (vector : Nat)
  | invalidate (line : Nat)
  | readData (bytes : List Byte) (poison : Bool)
  | regRead (v : Dword)
  | cacheRead (addr : Dword) (shared : Bool)
  | regError (a : RegAddr)
deriving DecidableEq, Repr

/-- The host interface (chapter 13): `link` is the width and rate of the trained link, `cached` the index lines held Shared
(13 R297), `polled` the tick of the last poll, `comps` what has been written to component registers (13 R288). -/
structure HostIf where
  dev        : BitVec 4
  stCtrl     : BitVec 4
  wakesInv   : Word
  wakesPoll  : Word
  barDiscard : Word
  refused    : Word
  poisoned   : Word
  biCount    : Word
  directory  : List Nat
  cmd        : SMap CmdRing
  comp       : SMap CompRing
  msix       : SMap (BitVec 128)
  pba        : Half
  hdmBase    : Dword
  memActive  : Bool
  linkUp     : Bool
  biPath     : Bool
  linkL1     : Bool
  lastServed : BitVec 4
  link       : Option (LinkWidth × LinkRate)
  cached     : List (Bool × BitVec 4)
  polled     : Nat
  comps      : SMap Dword
  log        : List HostOut
deriving DecidableEq, Repr

/-- How an accepted or deferred command stands (14 R312 to R314). -/
inductive LongSt where
  | accepted | deferred
deriving DecidableEq, Repr

/-- A long command not yet completed; `cq` is the completion ring that its command ring named when it was taken up. -/
structure LongCmd where
  pkt      : Packet
  opcode   : Half
  part     : BitVec 6
  st       : LongSt
  deadline : Nat
  fetched  : Nat
  cq       : Nat
deriving DecidableEq, Repr

/-- A command that waits under `FENCE_BEFORE` (14 R315): its ring fetches nothing further. -/
structure Fenced where
  pkt     : Packet
  opcode  : Half
  fetched : Nat
deriving DecidableEq, Repr

structure Cmds where
  long     : List LongCmd
  fenced   : List Fenced
  defaults : List (Half × Nat × Dword)
  diag     : Bool
deriving DecidableEq, Repr

/-! ### Partitions (14 R320, 18 R407, chapters 7, 16) -/

/-- A memory window (18 Table 18.6). -/
structure Window where
  valid : Bool
  cache : Bool
  host  : BitVec 2
  base  : DevAddr
  size  : DevAddr
deriving DecidableEq, Repr

/-- Pipeline states (14 R318). -/
inductive PipeSt where
  | none | loaded | bound | running | pauseArmed | paused | faulted | draining
deriving DecidableEq, Repr

/-- What the load or bind keeps of a stage (07 Table 7.2, R27): island, entry, whether it uses
channel 3 and the staging range. -/
structure Stage where
  island : BitVec 8
  entry  : BitVec 13
  ch3    : Bool
  staging : Bool
deriving DecidableEq, Repr

/-- A partition's exception queue (14 Table 14.6). -/
structure ExcQueue where
  log2    : Nat
  base    : Dword
  piAddr  : Dword
  ciAddr  : Dword
  pi      : Word
  ci      : Word
  dropped : Word
deriving DecidableEq, Repr

/-- A policy entry and the header of a policy table (16 Tables 16.1, 16.2). -/
structure PolicyEntry where
  addr   : Nat
  addr1  : Nat
  pages  : Nat
  dbuf   : Bool
  partner : Bool
  stripe : Bool
deriving DecidableEq, Repr

structure Policy where
  cutEvery  : Word
  partnerArea : DevAddr
  parityArea : DevAddr
  preArea   : DevAddr
  prePages  : Nat
  parityPages : Nat
  lossAddr  : DevAddr
  replica   : Option NodeId
  entries   : List PolicyEntry
deriving DecidableEq, Repr

/-- A partition. `binding` holds, while a bind waits for its gating groups, the image bytes it has checked and the groups
(07 R155). -/
structure Part where
  exists_   : Bool
  windows   : SMap Window
  pipe      : PipeSt
  image     : DevAddr
  pipeId    : Word
  stages    : List Stage
  binding   : Option (List Byte × List Nat)
  groups    : List Nat
  stepGroup : Byte
  releases  : Word
  startGrp  : Option Byte
  pauseAt   : Option Word
  starting  : Bool
  startT    : Option Dword
  exc       : Option ExcQueue
  energy    : Nat
  energyAt  : Nat
  energyHeld : Option Nat
  policy    : Option Policy
  partner   : Option NodeId
  stripe    : List NodeId
  tags      : List (NodeId × Half)
  restores  : Nat
  restored  : Option Word
  captures  : SMap (List Byte)
  lossSaved : SMap (List Byte)
  verifyArmed : Bool
deriving DecidableEq, Repr

/-! ### Snapshots (chapter 16) -/

/-- A cut in progress (16 R357): its partition and release, whether SNAP_CUT asked for it, whether E has
passed, the tensors and capture sets whose copy failed, the inexact captures, the step, and the holds of
16 R367. -/
structure Cut where
  part     : BitVec 6
  release  : Word
  byCmd    : Bool
  edge     : Bool
  failed   : List Nat
  inexact  : Nat
  stepNo   : Word
  touchMax : Nat
  arrHold  : Nat
  full     : Bool
deriving DecidableEq, Repr

/-- Bytes on their way to the partner (16 R357, R360): the island that copies, the item they belong to
(a policy entry, or 2^20 + an island for its capture set), the HBM address they are read from unless
they are already at hand, and where they go; `bad` says that their read failed (08 R184). -/
structure SnapCopy where
  island : BitVec 8
  item   : Nat
  src    : Nat
  data   : Option (List Byte)
  dst    : DevAddr
  dbuf   : Bool
  bad    : Bool
deriving DecidableEq, Repr

/-- A pre-image (16 R364): the page as it stood at a cut. -/
structure PreImage where
  cut  : Nat
  page : Nat
  data : List Byte
deriving DecidableEq, Repr

/-- A stripe contribution sent to a row's holder (16 R363 to R365). -/
structure Delta where
  holder : NodeId
  row    : Nat
  gen    : Nat
  full   : Bool
  data   : List Byte
deriving DecidableEq, Repr

structure Snap where
  enabled  : Bool
  feed     : Half
  last     : Word
  older    : Word
  lastStep : Word
  rel      : SMap Word
  steps    : SMap Word
  gen      : BitVec 2
  genNo    : Nat
  noStripe : Bool
  sharedTag : Bool
  touchN   : Word
  touchT   : Word
  heldN    : Word
  heldT    : Word
  skipped  : Word
  cost     : Word
  fails    : Word
  cut      : Option Cut
  armed    : Option (BitVec 6 × Word × Bool)
  restoring : Option (BitVec 6)
  touched  : List Nat
  dirty    : List Nat
  guarded  : List Nat
  preimage : List PreImage
  queue    : List SnapCopy
  deltas   : List Delta
  fullDue  : BitVec 2
  holdSince : Option Nat
deriving DecidableEq, Repr

/-! ### Power (chapter 17) -/

structure Power where
  level    : BitVec 3
  decided  : BitVec 3
  decision : Bool
  causes   : BitVec 3
  capUnmet : Bool
  est      : Nat
  window   : List Nat
  fixedPj  : Nat
  measured : Half
  volt     : Half
  mgmtCap  : Half
  hostCap  : Half
  limit    : BitVec 3
  testCap  : Half
  grace    : Option Nat
  gain     : Half
  calibrated : Bool
  perPart  : Bool
  emergN   : Half
  emergMs  : Word
  emergAt  : Nat
  emergFirst : BitVec 2
  levelN   : Half
  deferN   : Half
  energy   : Nat
  estJ     : Nat
  measJ    : Nat
  temp     : SMap Half
  floorOn  : Bool
  coolFor  : Nat
  tripLog  : Dword
  tripped  : Bool
  tripCool : Nat
  overCap  : Nat
  acts     : SMap Nat
  partActs : SMap Nat
  rail     : Nat
  railGoal : Nat
  railSince : Nat
  deepIdle : Bool
  leaving  : Option Nat
  recovered : Bool
deriving DecidableEq, Repr

/-! ### Firmware (chapter 15) -/

/-- A hand-off record version triple of a component image (15 Table 15.6). -/
structure CompVer where
  id        : Byte
  exportVer : Half
  importMin : Half
  importMax : Half
  digest    : BitVec 512
deriving DecidableEq, Repr

inductive StartKind where
  | cold | warm
deriving DecidableEq, Repr

/-- A start in progress (15 Table 15.9): kind, whether the memory is kept, the step under way, the slot
to boot, whether the other has been tried, whether the image is in its first start, and whether the ROM stops
after step 3 (15 R344). -/
structure Starting where
  kind  : StartKind
  keep  : Bool
  step  : Nat
  slot  : Bool
  tried : Bool
  first : Bool
  halt  : Bool
deriving DecidableEq, Repr

/-- Where an activation stands (15 R347): held, waiting for quiescence, loading, at a hand-off, or at
the power manager's wait. -/
inductive ActPhase where
  | hold | quiesce | load | hand (n : Nat) | calm
deriving DecidableEq, Repr

/-- An activation: whether FW_ACTIVATE or FW_ROLLBACK began it (or PLDM), since when, from which tick no emergency has
been active, and whether it has been held. -/
structure Activation where
  phase  : ActPhase
  byCmd  : Bool
  since  : Nat
  calmAt : Option Nat
  held   : Bool
deriving DecidableEq, Repr

/-- The firmware in flash and what runs of it. `ownA` and `ownB` say that a slot holds what the part was made with
(log 8). -/
structure Firmware where
  slotA    : Memory
  slotB    : Memory
  ownA     : Bool
  ownB     : Bool
  active   : Bool
  staged   : Bool
  trial    : Bool
  atStart  : Bool
  trialAt  : Nat
  wdStarts : List Nat
  floor    : Nat
  revoked  : BitVec 4
  running  : List CompVer
  version  : Word
  svn      : Byte
  raise    : Bool
  sides    : SMap Bool
  restarts : SMap (List Nat)
  starting : Option Starting
  recovery : Bool
  act      : Option Activation
  settingsCount : Dword
deriving DecidableEq, Repr

/-- Retained settings of 15 Table 15.3 that no other field holds as they stand. -/
structure Retained where
  auxMode  : Bool
  syncMode : BitVec 2
  syncOff  : Half
deriving DecidableEq, Repr

/-! ### Management port (chapter 18) -/

inductive SpdmStage where
  | version | capabilities | negotiated
deriving DecidableEq, Repr

structure SpdmConn where
  ep     : Byte
  stage  : SpdmStage
  inbox  : List Byte
  inSeq  : Half
  outbox : List Byte
  outSeq : Half
deriving DecidableEq, Repr

/-- States of the PLDM firmware device (18 R401): no update, accepted, receiving, verified, activating, and
an activation or verification that failed. -/
inductive UpdSt where
  | idle | learn | download | apply | activate | failed
deriving DecidableEq, Repr

/-- Answers of the management port by name: the standards that R397 cites give their codes and layouts (log 60). -/
inductive MgmtCode where
  | ok | invalidData | notReady | unsupportedCmd | retryRequest | wrongState
  | spdmBusy | spdmUnsupported | spdmUnexpected | spdmLarge | spdmInvalid
deriving DecidableEq, Repr

/-- What the management port sends: an answer with the values it carries, the state of the update, or the result
of VerifyComplete. -/
inductive MgmtOut where
  | answer (c : MgmtCode) (data : List Byte)
  | update (u : UpdSt)
  | verified (result : Byte)
deriving DecidableEq, Repr

structure Mgmt where
  i3c      : Bool
  dynAddr  : Option (BitVec 7)
  eid      : Byte
  events   : List Record
  conns    : List SpdmConn
  upd      : UpdSt
  updBytes : Nat
  updIdle  : Nat
  log      : List MgmtOut
deriving DecidableEq, Repr

/-! ### Pins, claims, fault log, identity -/

structure Pins where
  perst    : Bool
  perstAt  : Nat
  perstLogged : Bool
  pwrbrk   : Bool
  pwrbrkAt : Nat
  refclk   : Bool
  wake     : Bool
  wakeAt   : Nat
  thermtrip : Bool
  alert    : Bool
  syncOut  : Bool
  pulses   : Nat
  inState  : BitVec 2
  inputV   : Half
  inputA   : Half
  lowFor   : Nat
  highFor  : Nat
  marginFor : Nat
  goodFor  : Nat
  latched  : Bool
  latchedEver : Bool
  faults   : Half
  faultAt  : Dword
  filtPerst : Half
  filtPwrbrk : Half
  filtSync : Half
  filtSmbus : Half
  xfer     : Bool
deriving DecidableEq, Repr

/-- A claim (19 R418): holder id and time. -/
structure Claim where
  holder : Half
  time   : Word
deriving DecidableEq, Repr

/-- What a fault-log record reports; its class is the high byte of CODE (18 Table 18.5). -/
inductive LogKind where
  | overrun | registerDiscard | dmaNoRecord | excDropped | completionLost | windowRefused | memUncorrectable | unreachable
  | islandFault | pipelineFault | barrierLost | portWidth | levelChange | trip | tripRefused | inputMargin | inputFault | perstHeld
  | pwrbrkHeld | wakeReleased | componentRestart | watchdog | fallBack | activationHeld | eventLost | emergency
deriving DecidableEq, Repr

/-- A fault-log record (18 Table 18.5). -/
structure LogRec where
  seq      : Word
  source   : Byte
  severity : Byte
  kind     : LogKind
  time     : Dword
  detail   : Word
deriving DecidableEq, Repr

structure FaultLog where
  ring     : List LogRec
  seq      : Word
  sinceStart : Word
  archived : Word
  archive  : List LogRec
  lost     : Word
deriving DecidableEq, Repr

/-- What is fixed for a part (00 R1, R3, 13 Table 13.3, 17 R377). -/
structure Ident where
  gradeH  : Bool
  absent  : List Nat
  serial  : Dword
  weights : SMap Word
  statics : SMap Word
deriving DecidableEq, Repr

/-- The lighthouse counter and the frame count with its fraction of a cycle in 1/3,360 (00 R12, 07 R160). `split` stands
in a tick in which the level changes: the cycles before the change, and those a whole tick had at that level (07 R166). -/
structure Clock where
  now   : Nat
  frame : Nat
  frac  : Nat
  split : Option (Nat × Nat)
  lit   : Bool
deriving DecidableEq, Repr

/-- What leaves a switch: a packet whose blocks go into the next flits of a port, a flit of 256 coded bytes, a circuit
position on a port's lanes, a packet for this module itself, a packet put together from received flits, or what a port
tells its peer in training step 5 (10 R223): its node, its number, and whether it doubles dimension 0. -/
inductive Sent where
  | packet (port : BitVec 5) (vc : BitVec 3) (p : Pkt) (discard : Bool)
  | circuit (port : BitVec 5) (d : CircuitData)
  | local_ (p : Pkt)
  | assembled (port : BitVec 5) (p : Pkt) (discard : Bool)
  | flit (port : BitVec 5) (coded : List Byte)
  | exchange (port : BitVec 5) (node : NodeId) (doubled : Bool)
deriving DecidableEq, Repr

/-- The whole module. `bundle` holds each island as it stood when its last bundle opened, so that a
precise fault of a later slot withdraws the whole bundle (05 R126). -/
structure State where
  pending : List Instr
  clk     : Clock
  id      : Ident
  isl     : SMap Island
  bundle  : SMap Island
  grp     : SMap Group
  circ    : List Circuit
  beats   : List BeatFlight
  mem     : Mem
  trk     : Tracker
  port    : SMap Port
  fab     : Fabric
  bar     : SMap Barrier
  host    : HostIf
  cmds    : Cmds
  part    : SMap Part
  snap    : Snap
  pwr     : Power
  fw      : Firmware
  ret     : Retained
  mgmt    : Mgmt
  pins    : Pins
  claims  : SMap Claim
  flog    : FaultLog
  sent    : List Sent
  free    : Nat
deriving DecidableEq, Repr

/-! ### Reset values -/

def Cell.reset : Cell := ⟨0, .zero, false⟩
/-- A buffer no load has written (03 R425): zero elements of class ZERO; its plane count is the
model's, DESIGN CHOICE (log 13). -/
def Tile.reset : Tile := ⟨[], [], 1, [], none, false, false, []⟩
def SlotAnchor.reset : SlotAnchor := ⟨0xF, false, false, false, false, 0, 0⟩
/-- An array that nothing has loaded; its active buffer is buffer 0, DESIGN CHOICE (log 13). -/
def Array.reset : Array :=
  ⟨.reset, .reset, false, [], none, [], [], [], [], [], [], 0, 0, none, 0, none, 0, [], [], 0, 0⟩
def Chan.reset : Chan :=
  { st := 0, paused := false, desc := 0, pos := 0, sem := 0, err := 0, bytes := 0, dcopy := 0, queue := [],
    refused := [], pieces := [], nextId := 0, sub := 0, runOff := none, allRead := false,
    notified := false, pauseByIsland := false, tracked := 0, inFlight := 0, since := 0, recOut := none }
def ExcRec.reset : ExcRec := ⟨0, 0, 0, 0, 0, 0, 0⟩
def Island.reset : Island :=
  { st := 1, pipeline := 0, partition := 0, lastServed := none, imem := [], imemErr := [], imemHard := [], sp := [],
    spErr := [], spHard := [], seqPc := 0, seqCycle := 0, fault := 0, waitLimit := 0,
    stepReg := 0, drainKey := 0, logHead := 0, logTail := 0, logLost := 0, straitDrop := 0, x := [], h := [],
    sem := [], loops := [], loopsWas := [], pd := [], fd := [], dd := [], excLog := [], cntBeats := 0,
    cntWait := 0, drainSeq := 0, waiting := none, nextIssue := 0, curCycle := 0, curPc := 0, midBundle := false, stopped := false,
    faultAt := 0, ended := false, sched := [], ops := [], nextOp := 0, banks := [], v := [], arr := [], bankQ := [],
    rxq := [], txq := [], lastDep := [], origin := 0, starting := false, barSem := [], chan := [], bankAt := [], cqAt := [], portAt := 0, portHist := [], inFlight := [], acts := [] }
def Group.reset : Group := ⟨.off, 0, false⟩
def Mem.reset : Mem :=
  { hbm := [], lineErr := [], hard := [], mode := false, staged := false, valid := false, filling := false, scrubs := 0,
    scrubbed := [], wlog := [], chCorr := [], chUe := [], chLast := [], spCorr := [], accCorr := [],
    imCorr := [], parity := [], islUe := [], sharedQ := [], walk := [], rewrite := [], sharedAt := [], scrubAt := [],
    frameFrom := 0 }
def Tracker.reset : Tracker :=
  { entries := [], control := [], mcast := [], nextSeq := [], groupSeq := [], sources := [], groups := [],
    resendT := 500, session := 0, resends := 0, dups := 0, late := 0, unreach := 0, fenced := 0, told := [], results := [], waitQ := [],
    mcastQ := [] }
def FiSet.reset : FiSet := ⟨0, 0, 0, 0, 0, [], none, none⟩
def Port.reset : Port :=
  { st := .down, width := 0, active := 0, failed := 0, peerNode := 0, peerPort := 0, attached := false,
    enabled := true, allow1 := true, thr := 4096, flitsTx := 0, flitsRx := 0, corrFlits := 0, corrSyms := 0,
    dropUnc := 0, dropGap := 0, voidOut := 0, voidIn := 0, narrowings := 0, trainings := 0, miswires := 0,
    laneErr := [], laneLock := [], laneWin := [], pktTx := [], pktRx := [], fi := [], trainStep := 1,
    trained := false, cold := true, delay := 0, target := 0, retest := false, since := 0, fseqIn := 0,
    partial_ := none, doubled := false, credits := [], sentBlk := [], freedBlk := [], txq := [], circOut := [], circAt := [], circIn := [], cutting := false,
    outBlks := [], fseqOut := 0, sinceIdle := 0, txNs := 0, circNs := 0, winAt := 0 }
def Table.reset : Table := ⟨[], [], [], [], [], [], []⟩
def Fabric.reset : Fabric :=
  { node := 0, nodeSet := false, epoch := false, ver0 := .writable, ver1 := .writable, armed := none,
    flipAt := none, flips := 0, retire := 0, time := 0, tst := .unset, lastErr := 0, pulsesBad := 0,
    timeMsg := none, timeSeen := false, lastPulse := 0, detours := 0, stale := 0, expired := 0,
    crcBad := 0, fenceDrop := 0, circDrop := 0, badHdr := 0, avoid := [], tab0 := .reset, tab1 := .reset,
    fallback := [], lostSent := [], master := 0, freeMode := false, fiKey := 0, rate := 0,
    circQ := [], circPart := [], timeSent := none, pulseSeen := false }
def Barrier.reset : Barrier :=
  { valid := false, pace := false, owner := 0, coord := 0, lead := 250, members := [], next := 0,
    fixed := false, arrivals := [], early := [], t := 0, late := 0, ignored := 0, paces := 0, ownTime := none,
    ownNode := none, arrived := [], lastIsl := 0, pending := none, skewLast := 0, skewWaitMax := 0,
    releases := 0, skewLate := 0 }
def CmdRing.reset : CmdRing := ⟨0, 0, 0, 0, .disabled, 0, 0, 0, 0⟩
def CompRing.reset : CompRing := ⟨0, 0, 0, 0, .disabled, 0, 0, 0, [], 0, 0⟩
/-- Every MSI-X vector masked (DESIGN CHOICE, log 7). -/
def msixReset : BitVec 128 := 0x1 <<< 96
def HostIf.reset : HostIf :=
  { dev := 0, stCtrl := 0, wakesInv := 0, wakesPoll := 0, barDiscard := 0, refused := 0, poisoned := 0,
    biCount := 0, directory := [], cmd := [], comp := [], msix := [], pba := 0, hdmBase := 0,
    memActive := false, linkUp := false, biPath := false, linkL1 := false, lastServed := 0, link := none,
    cached := [], polled := 0, comps := [], log := [] }
def Window.reset : Window := ⟨false, false, 0, 0, 0⟩
def Part.reset : Part :=
  { exists_ := false, windows := [], pipe := .none, image := 0, pipeId := 0, stages := [], binding := none, groups := [],
    stepGroup := 0, releases := 0, startGrp := none, pauseAt := none, starting := false, startT := none,
    exc := none, energy := 0, energyAt := 0, energyHeld := none, policy := none, partner := none, stripe := [],
    restores := 0, restored := none, captures := [], lossSaved := [], tags := [], verifyArmed := false }
def Snap.reset : Snap :=
  { enabled := false, feed := 0, last := 0, older := 0, lastStep := 0, rel := [], steps := [], gen := 0, genNo := 0, noStripe := false,
    sharedTag := false, touchN := 0, touchT := 0, heldN := 0, heldT := 0, skipped := 0, cost := 0, fails := 0,
    cut := none, armed := none, restoring := none, touched := [], dirty := [], guarded := [],
    preimage := [], queue := [], deltas := [], fullDue := 3, holdSince := none }
def Power.reset : Power :=
  { level := 0, decided := 0, decision := false, causes := 0, capUnmet := false, est := 0, window := [], fixedPj := 0,
    measured := 0, volt := 0, mgmtCap := 0, hostCap := 0, limit := 0, testCap := 2200, grace := none,
    gain := 0x4000, calibrated := false, perPart := true, emergN := 0, emergMs := 0, emergAt := 0,
    emergFirst := 0, levelN := 0, deferN := 0, energy := 0, estJ := 0, measJ := 0, temp := [],
    floorOn := false, coolFor := 0, tripLog := 0, tripped := false, tripCool := 0, overCap := 0, acts := [],
    partActs := [], rail := 810, railGoal := 810, railSince := 0, deepIdle := false, leaving := none,
    recovered := false }
def Firmware.reset : Firmware :=
  { slotA := [], slotB := [], ownA := true, ownB := true, active := false, staged := false, trial := false,
    atStart := false, trialAt := 0, wdStarts := [], floor := 0, revoked := 0, running := [],
    version := 0, svn := 0, raise := false, sides := [], restarts := [],
    starting := some ⟨.cold, false, 1, false, false, false, false⟩, recovery := false, act := none,
    settingsCount := 0 }
def Mgmt.reset : Mgmt := ⟨false, none, 0, [], [], .idle, 0, 0, []⟩
def Pins.reset : Pins :=
  { perst := false, perstAt := 0, perstLogged := false, pwrbrk := false, pwrbrkAt := 0, refclk := false, wake := false, wakeAt := 0,
    thermtrip := false, alert := false, syncOut := false, pulses := 0, inState := 0, inputV := 0, inputA := 0,
    lowFor := 0, highFor := 0, marginFor := 0, goodFor := 0, latched := false, latchedEver := false,
    faults := 0, faultAt := 0, filtPerst := 0, filtPwrbrk := 0, filtSync := 0, filtSmbus := 0, xfer := false }

/-- The module at lighthouse power-up: every register at its reset value, the cold start of 15 R338
under way at step 1, nothing waiting. -/
def State.reset : State :=
  { pending := [], clk := ⟨0, 0, 0, none, true⟩, id := ⟨false, [], 0, [], []⟩, isl := [], bundle := [], grp := [], circ := [],
    beats := [], mem := .reset, trk := .reset, port := [], fab := .reset, bar := [], host := .reset,
    cmds := ⟨[], [], [], false⟩, part := [(0, { Part.reset with exists_ := true })], snap := .reset,
    pwr := .reset, fw := .reset, ret := ⟨false, 0, 0⟩, mgmt := .reset, pins := .reset, claims := [],
    flog := ⟨[], 0, 0, 0, [], 0⟩, sent := [], free := 0 }

/-! ### Outcomes -/

/-- The block has no fault: an island fault, a trip or an error reply is a next state (log 1). -/
inductive Fault where
deriving DecidableEq, Repr

/-- Why a command has no meaning. -/
inductive Refusal where
  /-- Raised by `exec` alone for a row whose meaning is not written; safe. -/
  | notModelled (mnemonic : String)
  /-- Raised by a slot instruction whose operands the image load refuses (05 R112, 03 R71, 06 R132),
  so that no bundle can hold it; safe. -/
  | illFormed (mnemonic : String)
deriving DecidableEq, Repr

end Sys2Proof.Machine
end

