-- ==== Sys2Proof/Machine/Ops.lean ====
section
/-! DEFINITION. The shared operations over the state: sparse maps, memories, the HBM with its error
counters, partition windows, the fault log, records and events. -/

namespace Sys2Proof.Machine

/-- What a command answers. -/
abbrev Out := Host.Outcome State Fault Refusal

/-! ### Sparse maps -/

/-- The value at key k, `d` where the map has none. -/
def smGet (d : α) : SMap α → Nat → α
  | [], _ => d
  | (j, v) :: t, k => if j = k then v else smGet d t k

/-- The map with v at key k; rising keys stay rising. -/
def smSet : SMap α → Nat → α → SMap α
  | [], k, v => [(k, v)]
  | (j, w) :: t, k, v =>
    if j = k then (k, v) :: t
    else if k < j then (k, v) :: (j, w) :: t
    else (j, w) :: smSet t k v

def smMod (d : α) (m : SMap α) (k : Nat) (f : α → α) : SMap α := smSet m k (f (smGet d m k))

/-! ### Byte memories -/

/-- One byte; an unlisted address reads 0 (08 R186). -/
def memByte (m : Memory) (a : Nat) : Byte := smGet 0 m a

def memRead (m : Memory) (a n : Nat) : List Byte := (List.range n).map fun i => memByte m (a + i)

/-- The cells that bytes written from address a on leave: none for a byte that reads 0 anyway. -/
def cellsOf (a : Nat) : List Byte → List Host.Cell
  | [] => []
  | b :: t => if b = 0 then cellsOf (a + 1) t else (a, b) :: cellsOf (a + 1) t

/-- Replace the cells of addresses a to a + n − 1 by `cs`. -/
def memSplice (m : Memory) (a n : Nat) (cs : List Host.Cell) : Memory :=
  m.filter (fun c => c.1 < a) ++ (cs ++ m.filter (fun c => a + n ≤ c.1))

def memWrite (m : Memory) (a : Nat) (bs : List Byte) : Memory := memSplice m a bs.length (cellsOf a bs)

/-- Zero the n bytes from a on. -/
def memZero (m : Memory) (a n : Nat) : Memory := memSplice m a n []

/-- The canonical form: addresses strictly rising, no byte 0. -/
def Memory.wf : Memory → Bool
  | [] => true
  | [c] => c.2 != 0
  | c :: d :: t => c.2 != 0 && decide (c.1 < d.1) && Memory.wf (d :: t)

/-- Bytes as a little-endian number (00 R9). -/
def leNat : List Byte → Nat
  | [] => 0
  | b :: t => b.toNat + 256 * leNat t

/-- The n little-endian bytes of a number. -/
def leBytes : Nat → Nat → List Byte
  | 0, _ => []
  | n + 1, v => BitVec.ofNat 8 v :: leBytes n (v / 256)

def takePad (n : Nat) (bs : List Byte) : List Byte := (bs ++ List.replicate n 0).take n

def satAdd (w : Nat) (x : BitVec w) (n : Nat) : BitVec w := BitVec.ofNat w (min (2 ^ w - 1) (x.toNat + n))

/-! ### Parts of the state -/

def State.now (s : State) : Dword := BitVec.ofNat 64 s.clk.now

def State.getIsl (s : State) (i : Nat) : Island := smGet .reset s.isl i
def State.setIsl (s : State) (i : Nat) (v : Island) : State := { s with isl := smSet s.isl i v }
def State.modIsl (s : State) (i : Nat) (f : Island → Island) : State := s.setIsl i (f (s.getIsl i))
def State.getPart (s : State) (p : Nat) : Part := smGet .reset s.part p
def State.setPart (s : State) (p : Nat) (v : Part) : State := { s with part := smSet s.part p v }
def State.modPart (s : State) (p : Nat) (f : Part → Part) : State := s.setPart p (f (s.getPart p))
def State.getPort (s : State) (p : Nat) : Port := smGet .reset s.port p
def State.setPort (s : State) (p : Nat) (v : Port) : State := { s with port := smSet s.port p v }
def State.modPort (s : State) (p : Nat) (f : Port → Port) : State := s.setPort p (f (s.getPort p))
def State.getBar (s : State) (g : Nat) : Barrier := smGet .reset s.bar g
def State.setBar (s : State) (g : Nat) (v : Barrier) : State := { s with bar := smSet s.bar g v }
def State.modBar (s : State) (g : Nat) (f : Barrier → Barrier) : State := s.setBar g (f (s.getBar g))
def State.getGrp (s : State) (g : Nat) : Group := smGet .reset s.grp g
def State.setGrp (s : State) (g : Nat) (v : Group) : State := { s with grp := smSet s.grp g v }
def State.modMem (s : State) (f : Mem → Mem) : State := { s with mem := f s.mem }
def State.modHost (s : State) (f : HostIf → HostIf) : State := { s with host := f s.host }
def State.modTrk (s : State) (f : Tracker → Tracker) : State := { s with trk := f s.trk }
def State.modFab (s : State) (f : Fabric → Fabric) : State := { s with fab := f s.fab }
def State.modSnap (s : State) (f : Snap → Snap) : State := { s with snap := f s.snap }
def State.modPwr (s : State) (f : Power → Power) : State := { s with pwr := f s.pwr }
def State.modFw (s : State) (f : Firmware → Firmware) : State := { s with fw := f s.fw }
def State.modMgmt (s : State) (f : Mgmt → Mgmt) : State := { s with mgmt := f s.mgmt }
def State.modPins (s : State) (f : Pins → Pins) : State := { s with pins := f s.pins }
def State.getCr (s : State) (r : Nat) : CmdRing := smGet .reset s.host.cmd r
def State.setCr (s : State) (r : Nat) (v : CmdRing) : State := s.modHost fun h => { h with cmd := smSet h.cmd r v }
def State.getQr (s : State) (r : Nat) : CompRing := smGet .reset s.host.comp r
def State.setQr (s : State) (r : Nat) (v : CompRing) : State :=
  s.modHost fun h => { h with comp := smSet h.comp r v }

/-- Grade H lacks the islands its harvest map clears (00 R3). -/
def State.present (s : State) (i : Nat) : Bool := i < 256 && !s.id.absent.contains i

/-- What the device puts on its links to the fabric. -/
def State.emit (s : State) (x : Sent) : State := { s with sent := s.sent ++ [x] }

/-- What the device writes towards the host (13 R299). -/
def State.out (s : State) (x : HostOut) : State := s.modHost fun h => { h with log := h.log ++ [x] }

/-- A fresh free byte (log 2, 10). -/
def State.drawBytes (s : State) (n : Nat) : List Byte × State :=
  ((List.range n).map fun k => Config.freeByte (s.free + k), { s with free := s.free + n })

/-- MHz of a clock level (00 Table 0.5). -/
def levelMHz (l : Nat) : Nat :=
  match l with
  | 0 => 800
  | 1 => 700
  | 2 => 600
  | 3 => 500
  | 4 => 400
  | _ => 200

/-- Island cycles of one lighthouse tick: whole at every level (08 Table 8.2). -/
def cyclesPerTick (l : Nat) : Nat := levelMHz l / 25

/-- Cycles of the lighthouse tick at hand, in 1/3,360: a level that changes within it divides it (07 R160, R166). -/
def State.tickFrac (s : State) : Nat :=
  let n := cyclesPerTick s.pwr.level.toNat
  match s.clk.split with
  | some (k, old) => 3360 * k + 3360 / old * n * (old - k)
  | none => 3360 * n

/-- Island clock edges of the tick at hand. -/
def State.tickCycles (s : State) : Nat := (s.clk.frac + s.tickFrac) / 3360

/-! ### Fault log (18 R406) -/

/-- High byte of CODE (18 Table 18.5). -/
def LogKind.class (k : LogKind) : Nat :=
  match k with
  | .overrun => 0x00
  | .registerDiscard | .dmaNoRecord | .excDropped | .completionLost | .perstHeld | .wakeReleased => 0x01
  | .memUncorrectable => 0x02
  | .islandFault | .pipelineFault => 0x01
  | .unreachable | .barrierLost | .portWidth => 0x03
  | .levelChange | .trip | .tripRefused | .inputMargin | .inputFault | .pwrbrkHeld | .emergency => 0x04
  | .componentRestart | .watchdog | .fallBack | .activationHeld | .eventLost => 0x05
  | .windowRefused => 0x07

def LogKind.number (k : LogKind) : Nat :=
  match k with
  | .overrun => 0 | .registerDiscard => 1 | .dmaNoRecord => 2 | .excDropped => 3 | .completionLost => 4 | .windowRefused => 5
  | .memUncorrectable => 6 | .unreachable => 7 | .barrierLost => 8 | .portWidth => 9 | .levelChange => 10 | .trip => 11
  | .tripRefused => 12 | .inputMargin => 13 | .inputFault => 14 | .perstHeld => 15 | .pwrbrkHeld => 16 | .wakeReleased => 17
  | .componentRestart => 18 | .watchdog => 19 | .fallBack => 20 | .activationHeld => 21 | .eventLost => 22 | .emergency => 23
  | .islandFault => 24 | .pipelineFault => 25

/-- CODE: the class of Table 18.5 over a low byte that the spec does not give, but for the overrun
record, whose code is 0x0001 (log 12). -/
def LogKind.code (k : LogKind) : Half :=
  match k with
  | .overrun => 0x0001
  | k => BitVec.ofNat 8 k.class ++ Config.logCodeLow k.number

/-- The 32 bytes of a record (18 Table 18.5). -/
def LogRec.bytes (r : LogRec) : List Byte :=
  leBytes 4 r.seq.toNat ++ [r.source, r.severity] ++ leBytes 2 r.kind.code.toNat ++ leBytes 8 r.time.toNat ++
    leBytes 4 r.detail.toNat ++ leBytes 12 (Config.logData r.kind.number).toNat

/-- Put one record into the ring of 4,096; a displaced record not yet archived counts as lost. -/
def FaultLog.push (l : FaultLog) (source severity : Byte) (k : LogKind) (time : Dword) (detail : Word) : FaultLog :=
  let r : LogRec := ⟨l.seq, source, severity, k, time, detail⟩
  let ring := l.ring ++ [r]
  let l := { l with seq := l.seq + 1, sinceStart := l.sinceStart + 1 }
  if ring.length ≤ 4096 then { l with ring := ring }
  else
    match ring with
    | old :: t => { l with ring := t, lost := if l.archived ≤ old.seq then l.lost + 1 else l.lost }
    | [] => l

/-- Write a fault-log record, after the overrun record where one is due. -/
def State.logFault (s : State) (k : LogKind) (source severity : Byte) (detail : Word) : State :=
  let l := s.flog
  let l := if l.lost = 0 then l else ({ l with lost := 0 } : FaultLog).push source 0 .overrun s.now l.lost
  { s with flog := l.push source severity k s.now detail }

/-- SOURCE of lighthouse hardware, of the boot ROM and of the components of 15 Table 15.1. -/
def srcLighthouse : Byte := 0x10
def srcSupervisor : Byte := 0
def srcInterp : Byte := 1
def srcPower : Byte := 2
def srcFabric : Byte := 3
def srcSnap : Byte := 4
def srcMgmt : Byte := 5

/-! ### Records, completion rings and events (13 R299, R300, 14 R309, R310, R328) -/

def CompRing.slots (q : CompRing) : Nat := 2 ^ (q.ctrl.extractLsb' 8 5).toNat
def CompRing.full (q : CompRing) : Bool := q.slots ≤ (q.pi - q.ciRead).toNat
def CompRing.live (q : CompRing) : Bool := q.st = .enabled || q.st = .busy

/-- Raise MSI-X vector r, or leave it pending while its entry is masked (13 R288). -/
def State.raiseMsix (s : State) (r : Nat) : State :=
  if (smGet msixReset s.host.msix r).getLsbD 96 then
    s.modHost fun h => { h with pba := h.pba ||| (1 <<< r) }
  else s.out (.msix r)

/-- `WAKE_N` is asserted while a record waits and the link is in L1 (19 Table 19.4). -/
def State.wakeHost (s : State) : State :=
  if s.host.linkL1 && !s.pins.wake then s.modPins fun p => { p with wake := true, wakeAt := s.clk.now } else s

/-- Write one record to its slot, then PI, then the interrupt that falls due (13 R299). -/
def State.putRecord (s : State) (ring : Nat) (rec : Record) : State :=
  let s := s.wakeHost
  let q := s.getQr ring
  let slot := q.pi.toNat % q.slots
  let s := s.out (.record (BitVec.ofNat 4 ring) slot (q.base + BitVec.ofNat 64 (32 * slot)) rec)
  let q := { q with pi := q.pi + 1, unsig := q.unsig + 1, since := if q.unsig = 0 then s.clk.now else q.since }
  let s := s.out (.index q.piAddr q.pi)
  let coal := (q.ctrl.extractLsb' 16 16).toNat
  if q.ctrl.getLsbD 1 && (coal = 0 || coal ≤ q.unsig) then
    (s.setQr ring { q with unsig := 0 }).raiseMsix ring
  else s.setQr ring q

/-- Post a record: written, held in order while the ring is full, or logged and discarded while the
ring is disabled (13 R286, R299). -/
def State.post (s : State) (ring : Nat) (rec : Record) : State :=
  let q := s.getQr ring
  if !q.live then s.logFault .completionLost srcInterp 0 rec.tag
  else if q.full || !q.held.isEmpty then s.setQr ring { q with held := q.held ++ [rec] }
  else s.putRecord ring rec

/-- Records held for a full ring are posted in order as room appears; `fuel` bounds them. -/
def State.postHeld (s : State) (ring fuel : Nat) : State :=
  match fuel with
  | 0 => s
  | fuel + 1 =>
    let q := s.getQr ring
    match q.held with
    | [] => s
    | r :: t =>
      if q.full then s else ((s.setQr ring { q with held := t }).putRecord ring r).postHeld ring fuel

/-- The completion ring a command ring names (13 Table 13.5). -/
def CmdRing.cq (c : CmdRing) : Nat := (c.ctrl.extractLsb' 24 4).toNat
def CmdRing.partition (c : CmdRing) : Nat := (c.ctrl.extractLsb' 16 6).toNat
def CmdRing.slots (c : CmdRing) : Nat := 2 ^ (c.ctrl.extractLsb' 8 5).toNat
def CmdRing.active (c : CmdRing) : Bool := c.st = .enabled || c.st = .stopping

/-- The event ring: the one `ST_CTRL` names unless a tenant's command ring feeds it (13 R300). -/
def State.eventRing (s : State) : Nat :=
  let r := s.host.stCtrl.toNat
  if (List.range 16).any fun k => (s.getCr k).active && (s.getCr k).cq = r && (s.getCr k).partition ≠ 0
  then 0 else r

/-- Events 0x0004 to 0x0008 also enter the platform event queue of 32 (18 R399). -/
def State.platformEvent (s : State) (r : Record) : State :=
  if r.opcode.toNat < 4 ∨ 8 < r.opcode.toNat then s
  else
    let q := s.mgmt.events ++ [r]
    let s := if 32 < q.length then s.logFault .eventLost srcMgmt 0 1 else s
    let s := s.modMgmt fun m => { m with events := if 32 < q.length then q.drop 1 else q }
    if s.mgmt.i3c then s else s.modPins fun p => { p with alert := true }

/-- Write an event record (14 R328, Table 14.13). -/
def State.event (s : State) (code status detail : Half) (r0 r1 r2 : Word) : State :=
  let r : Record := ⟨0, code, status, detail, 2, 0, s.now, r0, r1, r2⟩
  (s.post s.eventRing r).platformEvent r

/-! ### HBM: lines, errors, counters (08 R169 to R185) -/

/-- HBM holds 640 GiB (00 Table 0.6). -/
def hbmSize : Nat := 0xA000000000
def channelSize : Nat := 0xA0000000

/-- Channel and offset of an address (08 R170). -/
def hbmMap (spread : Bool) (a : Nat) : Nat × Nat :=
  if spread then
    let gr := a / 4096
    (gr % 256, gr / 256 * 4096 + a % 4096)
  else (a / channelSize, a % channelSize)

/-- The address of a channel offset. -/
def hbmUnmap (spread : Bool) (g o : Nat) : Nat :=
  if spread then (o / 4096 * 256 + g) * 4096 + o % 4096 else g * channelSize + o

def lineOf (a : Nat) : Nat := a / 64 * 64

/-- The lines that n bytes from a on touch. -/
def linesOf (a n : Nat) : List Nat :=
  if n = 0 then [] else (List.range ((lineOf (a + n - 1) - lineOf a) / 64 + 1)).map fun k => lineOf a + 64 * k

/-- How a word or line with a stored error and a hard fault reads: a code corrects one symbol (08 R179, R180). -/
def joinErr (stored hard : Option LineErr) : Option LineErr :=
  match stored, hard with
  | none, h => h
  | some (.symbol a), some (.symbol b) => if a = b then some (.symbol a) else some .uncorrectable
  | some (.symbol _), some h => some h
  | some e, _ => some e

/-- The read fails. -/
def isUe (e : Option LineErr) : Bool :=
  match e with
  | some .uncorrectable | some .poison => true
  | _ => false

/-- The read is corrected. -/
def isCorr (e : Option LineErr) : Bool :=
  match e with
  | some (.symbol _) => true
  | _ => false

/-- How a line reads: what is stored joined with a hard fault (08 R179, R180, R185). -/
def Mem.errOf (m : Mem) (line : Nat) : Option LineErr := joinErr (smGet none m.lineErr line) (smGet none m.hard line)

def Mem.uncorrectable (m : Mem) (line : Nat) : Bool := isUe (m.errOf line)

/-- First entry of a list that satisfies p, by index. -/
def findIx (p : α → Bool) : List α → Option Nat
  | [] => none
  | a :: t => if p a then some 0 else (findIx p t).map (· + 1)

/-- Index of the entry with the lowest count among those that satisfy p, lowest j on ties. -/
def lowestIx (p : WlogEntry → Bool) (l : List WlogEntry) : Option Nat :=
  let best := (l.filter p).foldl (fun (b : Option Nat) e =>
    match b with
    | none => some e.count.toNat
    | some c => some (min c e.count.toNat)) none
  match best with
  | none => none
  | some c => findIx (fun e => p e && e.count.toNat = c) l

/-- The worst-location log after a correction or an uncorrectable read of a line (08 R183). -/
def wlogNote (l : List WlogEntry) (line : Nat) (sym : Option (BitVec 7)) (now : Dword) : List WlogEntry :=
  let addr : DevAddr := BitVec.ofNat 48 line
  match findIx (fun e => e.line = addr) l, sym with
  | some j, some y => l.modify j fun e => { e with count := satAdd 32 e.count 1, symbol := y.zeroExtend 8, last := now }
  | some j, none => l.modify j fun e => { e with ue := true, symbol := 0xFF, last := now }
  | none, some y =>
    let e : WlogEntry := ⟨addr, y.zeroExtend 8, false, 1, now, now⟩
    if l.length < 64 then l ++ [e]
    else match lowestIx (fun e => !e.ue) l with
      | some j => l.set j e
      | none => l
  | none, none =>
    let e : WlogEntry := ⟨addr, 0xFF, true, 0, now, now⟩
    if l.length < 64 then l ++ [e]
    else match (lowestIx (fun e => !e.ue) l).orElse (fun _ => lowestIx (fun _ => true) l) with
      | some j => l.set j e
      | none => l

/-- Count a read of a line under 08 R182, R183; an uncorrectable one is logged too (R184). -/
def State.noteLine (s : State) (line : Nat) : State :=
  let g := (hbmMap s.mem.mode line).1
  match s.mem.errOf line with
  | none => s
  | some (.symbol y) =>
    s.modMem fun m => { m with chCorr := smSet m.chCorr g (satAdd 32 (smGet 0 m.chCorr g) 1),
                               chLast := smSet m.chLast g s.now,
                               wlog := wlogNote m.wlog line (some y) s.now }
  | some _ =>
    (s.modMem fun m => { m with chUe := smSet m.chUe g (satAdd 16 (smGet 0 m.chUe g) 1),
                                wlog := wlogNote m.wlog line none s.now }).logFault
      .memUncorrectable srcLighthouse 2 (BitVec.ofNat 32 line)

/-- Read n bytes of HBM: the bytes, whether any line of them is uncorrectable, the counted state. -/
def State.hbmRead (s : State) (a n : Nat) : List Byte × Bool × State :=
  let ls := linesOf a n
  (memRead s.mem.hbm a n, ls.any s.mem.uncorrectable, ls.foldl State.noteLine s)

/-- Write bytes of one line: a whole line gets valid check symbols, a part of an uncorrectable line
leaves it poisoned (08 R185). The flag says that the merge met an uncorrectable line. -/
def State.hbmWriteLine (s : State) (a : Nat) (bs : List Byte) : State × Bool :=
  let line := lineOf a
  let whole := bs.length = 64
  let bad := !whole && s.mem.uncorrectable line
  let s := if whole then s else s.noteLine line
  (s.modMem fun m => { m with hbm := memWrite m.hbm a bs,
                              lineErr := smSet m.lineErr line (if bad then some .poison else none),
                              rewrite := smSet m.rewrite (hbmMap m.mode line).1
                                (if smGet none m.rewrite (hbmMap m.mode line).1 = some line then none
                                 else smGet none m.rewrite (hbmMap m.mode line).1) }, bad)

/-- Write any run of HBM bytes line by line; `fuel` bounds the lines. -/
def State.hbmWriteFrom (s : State) (fuel a : Nat) (bs : List Byte) (bad : Bool) : State × Bool :=
  match fuel, bs with
  | 0, _ => (s, bad)
  | _, [] => (s, bad)
  | fuel + 1, bs =>
    let n := 64 - a % 64
    let (s, b) := s.hbmWriteLine a (bs.take n)
    s.hbmWriteFrom fuel (a + n) (bs.drop n) (bad || b)

def State.hbmWrite (s : State) (a : Nat) (bs : List Byte) : State × Bool :=
  s.hbmWriteFrom (bs.length / 64 + 2) a bs false

/-- Zeros and valid check symbols over all of HBM (08 R186). -/
def Mem.fill (m : Mem) : Mem := { m with hbm := [], lineErr := [], rewrite := [], valid := true, filling := false }

/-! ### Windows and the host directory (18 R407 to R409, 13 R302, R303) -/

/-- The end of a valid window of p that holds byte a. -/
def Part.windowEnd (p : Part) (a : Nat) : Option Nat :=
  (p.windows.find? fun w => w.2.valid && w.2.base.toNat ≤ a && a < w.2.base.toNat + w.2.size.toNat).map
    fun w => w.2.base.toNat + w.2.size.toNat

/-- Every line of the n bytes from a on lies in a window of p; `fuel` bounds the windows crossed. -/
def Part.admitsFrom (p : Part) (fuel a e : Nat) : Bool :=
  match fuel with
  | 0 => false
  | fuel + 1 =>
    match p.windowEnd a with
    | none => false
    | some w => if e ≤ w then true else p.admitsFrom fuel w e

/-- An access of partition p to n bytes of HBM is admitted (18 R408). -/
def State.admits (s : State) (p a n : Nat) : Bool :=
  let e := lineOf (a + n - 1) + 64
  n ≠ 0 && decide (e ≤ hbmSize) && (s.getPart p).admitsFrom 17 (lineOf a) e

/-- Partitions and windows whose HOST attribute admits the direction and that hold the line. -/
def State.hostWindows (s : State) (write : Bool) (line : Nat) : List (Nat × Window) :=
  s.part.flatMap fun p => p.2.windows.filterMap fun w =>
    if w.2.valid && w.2.base.toNat ≤ line && line < w.2.base.toNat + w.2.size.toNat &&
      (w.2.host = 2 || (!write && w.2.host = 1)) then some (p.1, w.2) else none

/-- A pipeline state in which host lines may be cacheable: LOADED or absent (13 R303). -/
def PipeSt.quiet (p : PipeSt) : Bool := p = .none || p = .loaded

/-- A host line is granted cacheable (18 R409). -/
def State.cacheable (s : State) (line : Nat) : Bool :=
  let ws := s.hostWindows false line
  !ws.isEmpty && ws.all fun w => w.2.cache && (s.getPart w.1).pipe.quiet

/-- Back-invalidate one directory line (13 R303). -/
def State.backInv (s : State) (line : Nat) : State :=
  if s.host.directory.contains line then
    (s.modHost fun h => { h with directory := h.directory.filter (· ≠ line), biCount := satAdd 32 h.biCount 1 }).out
      (.invalidate line)
  else s

def State.backInvAll (s : State) (ls : List Nat) : State := ls.foldl State.backInv s

/-- A shared-class write: a host copy is invalidated first (13 R303). -/
def State.sharedWrite (s : State) (a : Nat) (bs : List Byte) : State × Bool :=
  (s.backInvAll (linesOf a bs.length)).hbmWrite a bs

/-- Directory lines inside a range. -/
def State.directoryIn (s : State) (a n : Nat) : List Nat :=
  s.host.directory.filter fun l => a ≤ l && l < a + n

/-! ### Data written to a buffer in host memory (14 R318) -/

/-- Bytes written with CXL.io before the record; address 0 means no buffer. -/
def State.toHost (s : State) (a : Dword) (bs : List Byte) : State := if a = 0 then s else s.out (.data a bs)

/-! ### Module power and time -/

def Word.lo (x : Dword) : Word := x.extractLsb' 0 32
def Word.hi (x : Dword) : Word := x.extractLsb' 32 32

/-- A pipeline state that makes the module ACTIVE (01 Table 1.6). -/
def PipeSt.active (p : PipeSt) : Bool := p = .running || p = .pauseArmed || p = .faulted || p = .draining

/-- Module power state of 01 R28: 0 ACTIVE, 1 IDLE, 2 DEEP_IDLE. -/
def State.powerState (s : State) : Nat :=
  if s.pwr.deepIdle then 2 else if s.part.any fun p => p.2.pipe.active then 0 else 1

/-- An emergency is active: some cause stands (17 R389). -/
def State.emergency (s : State) : Bool := s.pwr.causes ≠ 0

end Sys2Proof.Machine
end

