-- ==== Sys2Proof/Machine/Formats.lean ====
section
/-! DEFINITION. Storage formats, format descriptors, plane schedules and alignment (chapter 2). -/

namespace Sys2Proof.Machine

/-! ### Storage formats (02 Table 2.1) -/

def fmtBits (f : Nat) : Nat :=
  match f with
  | 0x00 => 32 | 0x01 => 16 | 0x02 => 16 | 0x03 => 8 | 0x04 => 8 | 0x05 => 6 | 0x06 => 6 | 0x07 => 4
  | 0x08 => 8 | 0x09 => 4 | 0x0A => 2 | 0x0B => 1 | 0x0C => 2 | _ => 4

def fmtIsMx (f : Nat) : Bool := f = 5 || f = 6 || f = 7
def fmtIsRounding (f : Nat) : Bool := f ≤ 0x0A
def fmtIsCodebook (f : Nat) : Bool := f = 0x0C || f = 0x0D

/-- One decoded element: class, sign and value before or after scaling (02 R33 to R36). -/
structure Elem where
  cls : Cls
  sgn : Bool
  x   : Dyad
deriving DecidableEq, Repr

def Elem.pad : Elem := ⟨.zero, false, ⟨0, 0⟩⟩

/-- A floating code; `top` says whether the all-ones exponent holds Inf and NaN, `allOnes` whether the
all-ones code alone is NaN (02 Table 2.1). -/
def decodeFloat (l : Lay) (top allOnes : Bool) (raw : Nat) : Elem :=
  let neg := raw / 2 ^ (l.eb + l.mb) % 2 = 1
  let m := raw % 2 ^ l.mb
  let e := raw / 2 ^ l.mb % 2 ^ l.eb
  if top && e = 2 ^ l.eb - 1 then ⟨if m = 0 then .inf else .nan, neg, ⟨0, 0⟩⟩
  else if allOnes && e = 2 ^ l.eb - 1 && m = 2 ^ l.mb - 1 then ⟨.nan, neg, ⟨0, 0⟩⟩
  else
    let v := l.value raw
    ⟨if v.m = 0 then .zero else .fin, neg, v⟩

def decodeInt (w raw : Nat) : Elem :=
  let v : Int := if raw % 2 ^ w < 2 ^ (w - 1) then raw % 2 ^ w else (raw % 2 ^ w : Nat) - (2 ^ w : Nat)
  ⟨if v = 0 then .zero else .fin, v < 0, ⟨v, 0⟩⟩

/-- A table value relative to 1,024 (02 R34, R41). -/
def decodeTable (v : Int) : Elem := ⟨if v = 0 then .zero else .fin, v < 0, ⟨v, -10⟩⟩

/-- The stored value of a raw code; `table` holds the codebook entries. -/
def decodeElem (f : Nat) (table : List Int) (raw : Nat) : Elem :=
  match f with
  | 0x00 => decodeFloat lay32 true false raw
  | 0x01 => decodeFloat layBf true false raw
  | 0x02 => decodeFloat lay16 true false raw
  | 0x03 => decodeFloat layE4 false true raw
  | 0x04 => decodeFloat layE5 true false raw
  | 0x05 => decodeFloat ⟨3, 2, 3⟩ false false raw
  | 0x06 => decodeFloat ⟨2, 3, 1⟩ false false raw
  | 0x07 => decodeFloat ⟨2, 1, 1⟩ false false raw
  | 0x08 => decodeInt 8 raw
  | 0x09 => decodeInt 4 raw
  | 0x0A => decodeInt 2 raw
  | 0x0B => decodeTable (if raw % 2 = 1 then 1024 else -1024)
  | _ => decodeTable (table.getD raw 0)

/-- Element n of a packed run of w-bit elements (02 R32). -/
def packedElem (w : Nat) (run : Nat) (n : Nat) : Nat := run / 2 ^ (w * n) % 2 ^ w

/-- The element with its scale byte applied; a block scale byte of 0xFF makes it NaN (02 R34). -/
def Elem.scaled (e : Elem) (block : Bool) (x : Nat) : Elem :=
  if block && x = 255 then { e with cls := .nan } else { e with x := e.x.scale ((x : Int) - 127) }

/-! ### Alignment (02 R39 to R41, R48, 03 R72) -/

/-- An aligned group of up to 16 elements. -/
structure AGroup where
  ge  : Nat
  q   : List Int
  cls : List Cls
  sgn : List Bool
deriving DecidableEq, Repr

/-- q of every element at group exponent eg and P planes. -/
def alignAt (els : List Elem) (p : Nat) (eg : Int) : List Int :=
  els.map fun e => if e.cls = .fin then (2 ^ (12 - p) : Nat) * e.x.rneAt (eg + 2 - p) else 0

/-- The largest e(x) of a group; −126 where every FIN element is 0, for which R38 gives no e (DESIGN CHOICE, log 97). -/
def maxExpo (els : List Elem) : Int :=
  els.foldl (fun m e => if e.cls = .fin ∧ e.x.m ≠ 0 then max m e.x.expo else m) (-126)

/-- Rounding alignment (02 R39, R40). -/
def alignRound (els : List Elem) (p : Nat) : AGroup :=
  let cls := els.map (·.cls)
  let sgn := els.map (·.sgn)
  if els.all fun e => e.cls ≠ .fin then ⟨0, els.map fun _ => 0, cls, sgn⟩
  else
    let eg := maxExpo els
    let q := alignAt els p eg
    let (eg, q) := if q.all (· ≤ 2047) then (eg, q) else (eg + 1, alignAt els p (eg + 1))
    if 128 < eg then
      ⟨255, els.map fun _ => 0, cls.map fun c => if c = .fin then .inf else c, sgn⟩
    else ⟨(eg + 127).toNat, q, cls, sgn⟩

/-- Fixed alignment: GE is the scale byte, q the table value (02 R41). -/
def alignFixed (els : List Elem) (vals : List Int) (x : Nat) : AGroup :=
  ⟨if els.all fun e => e.cls ≠ .fin then 0 else x,
    (els.zip vals).map (fun ev => if ev.1.cls = .fin then ev.2 else 0), els.map (·.cls), els.map (·.sgn)⟩

/-- Alignment on a common exponent (03 R72). -/
def alignCommon (els : List Elem) (p : Nat) (ec : Int) : AGroup :=
  let step : Int := (2 ^ (12 - p) : Nat)
  ⟨0, els.map fun e => if e.cls = .fin then max (-2048) (min (2048 - step) (step * e.x.rneAt (ec + 2 - p))) else 0,
    els.map (·.cls), els.map (·.sgn)⟩

/-- The lo part: the residuals of the hi part aligned anew (02 R48). -/
def alignLo (els : List Elem) : AGroup :=
  let hi := alignRound els 12
  let res := (els.zip (hi.q.zip hi.cls)).map fun t =>
    { t.1 with cls := t.2.2, x := t.1.x.sub ⟨t.2.1, (hi.ge : Int) - 137⟩ }
  alignRound res 12

/-! ### Format descriptors (02 R43 to R46) -/

structure FmtDesc where
  format    : Nat
  part      : Nat
  sched     : Bool
  scaleSrc  : Bool
  role      : Bool
  planes    : Nat
  tge       : Nat
  bytes     : List Byte
  scaleAddr : Nat
  tableAddr : Nat
deriving DecidableEq, Repr

def byteAt (bs : List Byte) (i : Nat) : Nat := (bs.getD i 0).toNat
def bitAt (n i : Nat) : Bool := n / 2 ^ i % 2 = 1
def field (n lo w : Nat) : Nat := n / 2 ^ lo % 2 ^ w
def leAt (bs : List Byte) (i n : Nat) : Nat := leNat ((bs.drop i).take n)

def FmtDesc.parse (bs : List Byte) : FmtDesc :=
  let b1 := byteAt bs 1
  { format := byteAt bs 0, part := field b1 3 2, sched := bitAt b1 2, scaleSrc := bitAt b1 1,
    role := bitAt b1 0, planes := byteAt bs 2, tge := byteAt bs 3, bytes := (bs.drop 4).take 12,
    scaleAddr := leAt bs 16 6, tableAddr := leAt bs 24 6 }

/-- Coefficient of a plane byte (02 R44). -/
def planeCoef (b : Byte) : Int :=
  let c : Int := (2 ^ (b.extractLsb' 0 4).toNat : Nat)
  if b.msb then -c else c

def planeSigned (b : Byte) : Bool := b.getLsbD 6

/-- What plane bit `v` stands for on a plane. -/
def planeTerm (b : Byte) (v : Bool) : Int :=
  if planeSigned b then (if v then planeCoef b else -planeCoef b) else (if v then planeCoef b else 0)

/-- Two's complement over the top P bits (02 R45). -/
def twosSched (p : Nat) : List Byte :=
  (List.range p).map fun j => if j = 0 then 0x8B else BitVec.ofNat 8 (11 - j)

def FmtDesc.schedule (d : FmtDesc) : List Byte := if d.sched then d.bytes.take d.planes else twosSched d.planes

/-- Lowest and highest value a schedule represents (02 R46). -/
def schedLow (s : List Byte) : Int := s.foldl (fun a b => a + min (planeTerm b false) (planeTerm b true)) 0
def schedHigh (s : List Byte) : Int := s.foldl (fun a b => a + max (planeTerm b false) (planeTerm b true)) 0

/-- First index below n at which p holds. -/
def firstBelow (n : Nat) (p : Nat → Bool) : Option Nat := (List.range n).find? p

/-- Device address of a byte of a scratchpad (00 Table 0.6). -/
def spBase (i : Nat) : Nat := 0x100000000000 + i * 0x400000
def inOwnSp (i a n : Nat) : Bool := decide (spBase i ≤ a) && decide (a + n ≤ spBase i + 0x400000)

/-- The byte offset of the first field at fault of a format descriptor used by island i (02 R43, R44,
R46), fields taken in ascending byte order; of two fields that a rule ties together, the one named is log 44's. -/
def fmtCheck (i : Nat) (bs : List Byte) : Option Nat :=
  let d := FmtDesc.parse bs
  let b1 := byteAt bs 1
  let plane (j : Nat) : Byte := bs.getD (4 + j) 0
  if 0x0E ≤ d.format then some 0
  else if b1 / 32 ≠ 0 ∨ d.part = 3 ∨ (d.part ≠ 0 ∧ (!fmtIsRounding d.format || d.planes ≠ 12)) ∨
      (fmtIsMx d.format ∧ !d.scaleSrc) ∨ (!fmtIsRounding d.format ∧ !d.role ∧ !d.sched) ∨ (d.role ∧ d.sched)
    then some 1
  else if d.planes = 0 ∨ 12 < d.planes ∨ (d.role ∧ d.planes ≠ 12) then some 2
  else if d.tge = 255 then some 3
  else
    let badPlane (j : Nat) : Bool :=
      if d.sched && j < d.planes then (plane j).toNat / 16 % 4 ≠ 0 || 11 < (plane j).toNat % 16
      else plane j ≠ 0
    match firstBelow 12 badPlane with
    | some j => some (4 + j)
    | none =>
      if d.sched ∧ (schedLow d.schedule < -2048 ∨ 2047 < schedHigh d.schedule) then some 4
      else if (if d.scaleSrc then !inOwnSp i d.scaleAddr 1 else d.scaleAddr ≠ 0) then some 16
      else if leAt bs 22 2 ≠ 0 then some 22
      else if (if fmtIsCodebook d.format then !inOwnSp i d.tableAddr 32 || d.tableAddr % 32 ≠ 0
               else d.tableAddr ≠ 0) then some 24
      else if leAt bs 30 2 ≠ 0 then some 30
      else none

/-! ### Plane bits (02 R45, R47) -/

/-- The value of a plane-bit pattern; bit j of `b` is plane j. -/
def planeValue (s : List Byte) (b : BitVec 12) : Int :=
  ((List.range s.length).zip s).foldl (fun a jb => a + planeTerm jb.2 (b.getLsbD jb.1)) 0

/-- The pattern number b_0 b_1 … b_(P−1), plane 0 most significant, as plane bits. -/
def patternBits (p n : Nat) : BitVec 12 :=
  BitVec.ofNat 12 (((List.range p).filter fun j => bitAt n (p - 1 - j)).foldl (fun a j => a + 2 ^ j) 0)

/-- The lowest pattern that gives value v (02 R47). -/
def planePattern (s : List Byte) (v : Int) : Option (BitVec 12) :=
  (firstBelow (2 ^ s.length) fun n => planeValue s (patternBits s.length n) = v).map (patternBits s.length)

/-- Plane bits of q under two's complement: plane j holds bit 11 − j (02 R45). -/
def twosBits (p : Nat) (q : Int) : BitVec 12 :=
  let n := (q % 4096).toNat
  BitVec.ofNat 12 (((List.range p).filter fun j => bitAt n (11 - j)).foldl (fun a j => a + 2 ^ j) 0)

/-! ### High-water marks (02 R50, R51) -/

/-- The record of a high-water mark. -/
def hwmRecord (h : Option Int) : Half :=
  match h with
  | none => 0x8000
  | some e => BitVec.ofInt 10 e |>.zeroExtend 16

def hwmOf (r : Half) : Option Int := if r.msb then none else some (r.extractLsb' 0 10).toInt

def hwmMax (a b : Option Int) : Option Int :=
  match a, b with
  | none, b => b
  | a, none => a
  | some x, some y => some (max x y)

end Sys2Proof.Machine
end

