-- ==== Sys2Proof/Machine/Flags.lean ====
section
/-! DEFINITION. Class states of accumulator entries, the entry layouts, and the tile status word
(03 R64, R65, 04 R77, R99, R100). -/

namespace Sys2Proof.Machine

/-- The class of one product (03 Table 3.6); `s` is S_w ⊕ S_a. -/
def productClass (w a : Cls) (s : Bool) : ClassSt :=
  match w, a with
  | .nan, _ => .nan
  | _, .nan => .nan
  | .zero, .inf => .invalid
  | .inf, .zero => .invalid
  | .inf, _ => if s then .ninf else .pinf
  | _, .inf => if s then .ninf else .pinf
  | _, _ => .fin

/-- The join of 03 R65. -/
def ClassSt.join (a b : ClassSt) : ClassSt :=
  match a, b with
  | .nan, _ => .nan
  | _, .nan => .nan
  | .invalid, _ => .invalid
  | _, .invalid => .invalid
  | .pinf, .ninf => .invalid
  | .ninf, .pinf => .invalid
  | .pinf, _ => .pinf
  | _, .pinf => .pinf
  | .ninf, _ => .ninf
  | _, .ninf => .ninf
  | .fin, .fin => .fin

/-- Bit [91] and bits [89:88] of an entry (03 Table 3.7). -/
def ClassSt.bits (s : ClassSt) : Bool × BitVec 2 :=
  match s with
  | .fin => (false, 0)
  | .pinf => (false, 1)
  | .ninf => (false, 2)
  | .invalid => (true, 3)
  | .nan => (false, 3)

/-- An entry taken apart: class state, bit [90], and bits [87:0]. -/
structure Entry where
  st  : ClassSt
  ovf : Bool
  low : BitVec 88
deriving DecidableEq, Repr

def Entry.ofBits (e : BitVec 96) : Entry :=
  let c := e.extractLsb' 88 2
  ⟨if c = 0 then .fin else if c = 1 then .pinf else if c = 2 then .ninf
    else if e.getLsbD 91 then .invalid else .nan, e.getLsbD 90, e.extractLsb' 0 88⟩

def Entry.toBits (e : Entry) : BitVec 96 :=
  let (i, c) := e.st.bits
  BitVec.ofNat 96 (e.low.toNat + c.toNat * 2 ^ 88 + (if e.ovf then 2 ^ 90 else 0) + (if i then 2 ^ 91 else 0))

/-- V of the accumulating modes. -/
def Entry.v (e : Entry) : Int := e.low.toInt
/-- Running sum and error term of COMPENSATED (04 R77). -/
def Entry.s (e : Entry) : Word := e.low.extractLsb' 0 32
def Entry.err (e : Entry) : Word := e.low.extractLsb' 32 32
def Entry.ofComp (st : ClassSt) (ovf : Bool) (s e : Word) : Entry := ⟨st, ovf, (e ++ s).zeroExtend 88⟩
/-- Value and index of the selecting modes. -/
def Entry.cand (e : Entry) : Cand := ⟨e.st, (e.low.extractLsb' 0 56).toInt, e.low.extractLsb' 56 32⟩
def Entry.ofCand (c : Cand) : Entry := ⟨c.st, false, c.index ++ BitVec.ofInt 56 c.value⟩

/-! ### Modes (03 Table 3.9) -/

def modeAnchored : Nat := 0
def modeComp : Nat := 1
def modeSelecting (m : Nat) : Bool := 5 ≤ m && m ≤ 8
/-- MAX-type selecting modes. -/
def modeMax (m : Nat) : Bool := m = 5 || m = 7
/-- Modes that align both operands on a common exponent (03 R72). -/
def modeCommon (m : Nat) : Bool := m = 2 || (4 ≤ m && m ≤ 8)
/-- Modes that take two beats an element (03 R75). -/
def modeTwoBeat (m : Nat) : Bool := 2 ≤ m && m ≤ 8
/-- Distance and comparison modes whose slot anchor follows EC (03 R72, 04 R80). -/
def modeEcAnchor (m : Nat) : Bool := m = 2 || modeSelecting m

/-- The identity of a selecting mode (03 R73). -/
def candIdentity (m : Nat) : Cand := ⟨if modeMax m then .ninf else .pinf, 0, 0xFFFFFFFF⟩

/-- What an empty slot holds in a mode (03 R60, R73). -/
def emptyEntry (m : Nat) : Entry := if modeSelecting m then .ofCand (candIdentity m) else ⟨.fin, false, 0⟩

/-- Rank of a candidate (03 R73). -/
def candRank (m : Nat) (s : ClassSt) : Nat :=
  match s with
  | .nan | .invalid => 3
  | .pinf => if modeMax m then 2 else 0
  | .ninf => if modeMax m then 0 else 2
  | .fin => 1

/-- The better of two candidates: larger rank, then value in the mode's sense, then lower index. -/
def candBest (m : Nat) (a b : Cand) : Cand :=
  let ra := candRank m a.st
  let rb := candRank m b.st
  if ra ≠ rb then (if rb < ra then a else b)
  else
    let va := if ra = 1 then (if modeMax m then a.value else -a.value) else 0
    let vb := if ra = 1 then (if modeMax m then b.value else -b.value) else 0
    if va ≠ vb then (if vb < va then a else b)
    else if b.index.toNat < a.index.toNat then b else a

/-- `add_term` of 03 R61. -/
def addTerm (e : Entry) (t : Int) : Entry :=
  let u := e.v + t
  { e with low := BitVec.ofInt 88 u, ovf := e.ovf || u < -(2 ^ 87 : Nat) || ((2 ^ 87 : Nat) - 1 : Int) < u }

/-- `group_term` of 03 R61. -/
def groupTerm (dg ge a : Int) : Int :=
  let sh := ge - a - 218
  if 0 ≤ sh then dg * (2 ^ sh.toNat : Nat) else rneDiv dg (-sh).toNat

/-- One addition of FP32 term `tf` into s and e (03 R67); an overflow takes the class state of an
infinity of that sign and sets bit [90], after which s and e stay. -/
def addComp (e : Entry) (tf : F32) : Entry :=
  if e.ovf then e
  else
    let s := F32.ofBits e.s
    let s2 := s.add tf
    match s2 with
    | .inf n => { e with ovf := true, st := e.st.join (if n then .ninf else .pinf) }
    | _ =>
      let err := twoSumErr s tf s2
      .ofComp e.st false s2.toBits ((F32.ofBits e.err).add err).toBits

/-! ### Tile status (04 Tables 4.8, 4.9) -/

/-- Kind bits of the status word. -/
def kNan : Byte := 0x01
def kInvalid : Byte := 0x02
def kInf : Byte := 0x04
def kDrainOvf : Byte := 0x08
def kWindowOvf : Byte := 0x10
def kParity : Byte := 0x20
def kClamped : Byte := 0x40
def kAnchorHigh : Byte := 0x80

/-- The most urgent positioned kind of an entry's kind bits (04 Table 4.9). -/
def firstKind (k : Byte) : Option Nat :=
  if k &&& kNan ≠ 0 then some 1
  else if k &&& kInvalid ≠ 0 then some 2
  else if k &&& kWindowOvf ≠ 0 then some 3
  else if k &&& kInf ≠ 0 then some 4
  else if k &&& kDrainOvf ≠ 0 then some 5
  else none

/-- The tile status word. -/
def statusWord (seq : Half) (first : Option (Nat × Nat × Nat × Nat)) (kinds : Byte) : Dword :=
  let f := match first with
    | none => 0
    | some (k, a, s, c) => 2 ^ 31 + k * 2 ^ 27 + a * 2 ^ 24 + s * 2 ^ 17 + c * 2 ^ 10
  BitVec.ofNat 64 (seq.toNat * 2 ^ 32 + f + kinds.toNat)

end Sys2Proof.Machine
end

