-- ==== Sys2Proof/Machine/Operands.lean ====
section
/-! DEFINITION. Operand forms of the islands: pass, feed and drain descriptors, address words, and
offsets into the own scratchpad with their range rule (05 R102, R105, R108, R116 to R119). -/

namespace Sys2Proof.Machine

/-! ### Pass descriptors (05 Table 5.8a) -/

structure PassDesc where
  mode    : Nat
  slot    : Nat
  rows    : Nat
  kRows   : Nat
  start   : Bool
  swap    : Bool
  ec      : Int
  afd     : Nat
deriving DecidableEq, Repr

def PassDesc.parse (d : Dword) : PassDesc :=
  { mode := (d.extractLsb' 40 4).toNat, slot := (d.extractLsb' 33 7).toNat,
    rows := (d.extractLsb' 26 7).toNat + 1, kRows := (d.extractLsb' 19 7).toNat + 1,
    start := d.getLsbD 18, swap := d.getLsbD 17, ec := (d.extractLsb' 7 10).toInt,
    afd := (d.extractLsb' 2 5).toNat }

/-- Bytes of a register value, low byte first. -/
def bvBytes (n : Nat) (v : BitVec w) : List Byte := leBytes n v.toNat

/-! ### Feed descriptors (05 Table 5.2) -/

structure FeedDesc where
  fmtOff   : Nat
  bcast    : Bool
  source   : Nat
  port     : Nat
  row      : Nat
  array    : Nat
  scale    : Nat
  baseX    : Nat
  scaleX   : Nat
  ecw      : Bool
  ec       : Int
deriving DecidableEq, Repr

def FeedDesc.parse (d : BitVec 128) : FeedDesc :=
  { fmtOff := (d.extractLsb' 0 22).toNat, bcast := d.getLsbD 31, source := (d.extractLsb' 29 2).toNat,
    port := (d.extractLsb' 27 2).toNat, row := (d.extractLsb' 32 16).toNat,
    array := (d.extractLsb' 48 22).toNat, scale := (d.extractLsb' 72 22).toNat,
    baseX := (d.extractLsb' 96 5).toNat, scaleX := (d.extractLsb' 104 5).toNat,
    ecw := d.getLsbD 127, ec := (d.extractLsb' 112 10).toInt }

/-! ### Drain descriptors (05 Table 5.9, R119) -/

structure AddrWord where
  strait : Bool
  none_  : Bool
  port   : Nat
  off    : Nat
deriving DecidableEq, Repr

def AddrWord.parse (w : Word) : AddrWord :=
  ⟨w.getLsbD 31, w.getLsbD 30, (w.extractLsb' 22 2).toNat, (w.extractLsb' 0 22).toNat⟩

structure DrainDesc where
  slot    : Nat
  rows    : Nat
  pair    : Bool
  round   : Nat
  fmt     : Nat
  oscale  : Int
  dst     : AddrWord
  stride  : Nat
  lo      : AddrWord
  idx     : AddrWord
  hwm     : AddrWord
  status  : AddrWord
  stream  : Word
  idxBase : Dword
  idxRow  : Word
deriving DecidableEq, Repr

def DrainDesc.parse (d : BitVec 512) : DrainDesc :=
  { slot := (d.extractLsb' 0 7).toNat, rows := (d.extractLsb' 8 7).toNat + 1, pair := d.getLsbD 23,
    round := (d.extractLsb' 21 2).toNat, fmt := (d.extractLsb' 16 5).toNat,
    oscale := (d.extractLsb' 24 8).toInt, dst := .parse (d.extractLsb' 32 32),
    stride := (d.extractLsb' 64 16).toNat, lo := .parse (d.extractLsb' 96 32),
    idx := .parse (d.extractLsb' 128 32), hwm := .parse (d.extractLsb' 160 32),
    status := .parse (d.extractLsb' 192 32), stream := d.extractLsb' 224 32,
    idxBase := d.extractLsb' 256 64, idxRow := d.extractLsb' 320 32 }

/-! ### Masks and ranks -/

/-- The arrays a mask names, ascending; the rank of an array is its place in this list. -/
def maskArrays (m : Byte) : List Nat := (List.range 8).filter fun a => m.getLsbD a

def rankOf (l : List Nat) (a : Nat) : Nat := (l.takeWhile (· ≠ a)).length

/-! ### The own scratchpad -/

def spSize : Nat := 0x400000
def stagingOff : Nat := 0x3F0000

/-- The snapshot engine holds island i's staging claim (05 R105, 19 Table 19.8). -/
def State.stagingHeld (s : State) (i : Nat) : Bool :=
  (smGet ⟨0, 0⟩ s.claims (262 + i)).holder.extractLsb' 8 8 = 0x08

/-- The first offset of an extent that lies outside what the pass program may use (05 R113, R105). -/
def State.spOutside (s : State) (i off n : Nat) : Option Nat :=
  let lim := if s.stagingHeld i then stagingOff else spSize
  if n = 0 then none
  else if lim < off + n then some (max off lim) else none

/-- 8-byte words of a scratchpad that an extent touches. -/
def spWords (off n : Nat) : List Nat := if n = 0 then [] else (List.range ((off + n - 1) / 8 - off / 8 + 1)).map (off / 8 + ·)

/-- How an 8-byte word of the scratchpad reads (08 R179, R180). -/
def Island.spErrOf (v : Island) (w : Nat) : Option LineErr := joinErr (smGet none v.spErr w) (smGet none v.spHard w)

/-- An uncorrectable word lies in the extent (08 R179). -/
def Island.spUe (v : Island) (off n : Nat) : Bool := (spWords off n).any fun w => isUe (v.spErrOf w)

/-- Bytes stored in the scratchpad; fully written words get valid check bits, and a corrected word is
written back; a hard fault stays (08 R179, R180). -/
def Island.spWrite (v : Island) (off : Nat) (bs : List Byte) : Island :=
  let ws := spWords off bs.length
  let whole (w : Nat) : Bool := decide (off ≤ 8 * w) && decide (8 * w + 8 ≤ off + bs.length)
  { v with sp := memWrite v.sp off bs,
           spErr := v.spErr.filter fun e => !(ws.contains e.1 && (whole e.1 || !isUe (v.spErrOf e.1))) }

def Island.spRead (v : Island) (off n : Nat) : List Byte := memRead v.sp off n

/-- Count the corrections and uncorrectable words of a scratchpad read (08 R182, R184). -/
def State.noteSp (s : State) (i off n : Nat) : State :=
  let v := s.getIsl i
  let ws := spWords off n
  let c := (ws.filter fun w => isCorr (v.spErrOf w)).length
  let u := (ws.filter fun w => isUe (v.spErrOf w)).length
  if c = 0 ∧ u = 0 then s
  else
    let s := s.modMem fun m => { m with spCorr := smSet m.spCorr i (satAdd 32 (smGet 0 m.spCorr i) c),
                                        islUe := smSet m.islUe i (satAdd 16 (smGet 0 m.islUe i) u) }
    if u = 0 then s else s.logFault .memUncorrectable srcLighthouse 2 (BitVec.ofNat 32 i)

/-- An uncorrectable read of island i outside its scratchpad, counted and logged (08 R182, R184). -/
def State.noteUe (s : State) (i : Nat) : State :=
  (s.modMem fun m => { m with islUe := smSet m.islUe i (satAdd 16 (smGet 0 m.islUe i) 1) }).logFault
    .memUncorrectable srcLighthouse 2 (BitVec.ofNat 32 i)

/-! ### Scalar registers -/

/-- X0 reads 0 (05 R111). -/
def Island.getX (v : Island) (r : BitVec 5) : Dword := if r = 0 then 0 else smGet 0 v.x r.toNat
/-- X0 ignores writes. -/
def Island.setX (v : Island) (r : BitVec 5) (d : Dword) : Island :=
  if r = 0 then v else { v with x := smSet v.x r.toNat d }
def Island.getH (v : Island) (r : BitVec 4) : Half := smGet 0x8000 v.h r.toNat
def Island.getSem (v : Island) (r : BitVec 5) : Half := smGet 0 v.sem r.toNat
def Island.setSem (v : Island) (r : BitVec 5) (n : Half) : Island := { v with sem := smSet v.sem r.toNat n }
def Island.getV (v : Island) (r : BitVec 5) : List Word := takeLanes (smGet [] v.v r.toNat)
where
  /-- Exactly 256 lanes, 0 where none is stored. -/
  takeLanes (l : List Word) : List Word := (l ++ List.replicate 256 0).take 256
def Island.getArr (v : Island) (a : Nat) : Array := smGet .reset v.arr a
def Island.setArr (v : Island) (a : Nat) (x : Array) : Island := { v with arr := smSet v.arr a x }
def Island.modArr (v : Island) (a : Nat) (f : Array → Array) : Island := v.setArr a (f (v.getArr a))

/-- Island states (05 Table 5.12). -/
def stAbsent : BitVec 4 := 0
def stOff : BitVec 4 := 1
def stGated : BitVec 4 := 2
def stBound : BitVec 4 := 3
def stRunning : BitVec 4 := 4
def stPaused : BitVec 4 := 5
def stFaulted : BitVec 4 := 6

/-- `ISL_STATE.STATE` as read: ABSENT on a fused-off island (00 R3). -/
def State.islSt (s : State) (i : Nat) : BitVec 4 := if s.present i then (s.getIsl i).st else stAbsent

end Sys2Proof.Machine
end

