-- ==== Sys2Proof/Machine/Array.lean ====
section
/-! DEFINITION. The matrix arrays: weight loads, activation rows, what a row brings to a column, and the
column feet (chapters 3 and 4, 05 R106 to R108, R426). -/

namespace Sys2Proof.Machine

/-! ### Feeds -/

/-- Offset of a device address in scratchpad i; an address below the scratchpad maps past every
offset, so that the range rule refuses it. -/
def offsetIn (i a : Nat) : Nat := if spBase i ≤ a then a - spBase i else 2 ^ 64

/-- `SCALE_ADDR` + X[`SCALE_X`] as an offset of the own scratchpad (05 R108). -/
def scaleBase (i : Nat) (d : FmtDesc) (scaleX : Dword) : Nat := offsetIn i ((d.scaleAddr + scaleX.toNat) % 2 ^ 64)

/-- Codebook entries c = 0 … (02 R41). -/
def tableOf (v : Island) (i : Nat) (d : FmtDesc) : List Int :=
  if fmtIsCodebook d.format then
    (List.range (if d.format = 0x0C then 4 else 16)).map fun c =>
      (BitVec.ofNat 16 (leNat (v.spRead (offsetIn i d.tableAddr + 2 * c) 2))).toInt
  else if d.format = 0x0B then [-1024, 1024]
  else []

def tableBytes (d : FmtDesc) : Nat := if d.format = 0x0C then 8 else if d.format = 0x0D then 32 else 0

/-- The integers of fixed alignment for raw codes. -/
def fixedVals (table : List Int) (raws : List Nat) : List Int := raws.map fun r => table.getD r 0

/-- Align one group of raw codes with their scale bytes under a descriptor (02 R39 to R48, 03 R72). An entry of an
activation codebook is q whatever its size, where 02 R47 bounds weights only, and `PART` has no meaning on a common exponent
(DESIGN CHOICE, log 95). -/
def alignGroup (d : FmtDesc) (table : List Int) (p : Nat) (ec : Option Int) (raws : List (Option (Nat × Nat))) : AGroup :=
  let els := raws.map fun r =>
    match r with
    | none => Elem.pad
    | some (raw, x) => (decodeElem d.format table raw).scaled d.scaleSrc x
  if !fmtIsRounding d.format then
    alignFixed els (raws.map fun r => match r with | none => 0 | some (raw, _) => table.getD raw 0)
      (match raws.filterMap id with | [] => 0 | (_, x) :: _ => x)
  else
    match ec with
    | some e => alignCommon els p e
    | none => if d.part = 2 then alignLo els else alignRound els p

/-! ### Weight loads (05 R106) -/

/-- What a load of one array reads, as extents of the own scratchpad. -/
def loadExtents (i : Nat) (f : FeedDesc) (d : FmtDesc) (base sBase rank : Nat) : List (Nat × Nat) :=
  [(f.fmtOff, 32)] ++ (List.range 128).map (fun r => (base + r * f.row, 16 * fmtBits d.format)) ++
    (if d.scaleSrc then (List.range 4).map fun b => (sBase + (4 * rank + b) * f.scale, 128) else []) ++
    (if tableBytes d = 0 then [] else [(offsetIn i d.tableAddr, tableBytes d)])

/-- What a load reads for cell rows 16b to 16b + 15: their rows, and every second time a block scale row. -/
def blockExtents (f : FeedDesc) (d : FmtDesc) (base sBase rank b : Nat) : List (Nat × Nat) :=
  (List.range 16).map (fun k => (base + (16 * b + k) * f.row, 16 * fmtBits d.format)) ++
    (if d.scaleSrc && b % 2 = 0 then [(sBase + (4 * rank + b / 2) * f.scale, 128)] else [])

/-- The lowest code whose entry is out of range or not representable (02 R47). -/
def codebookFault (d : FmtDesc) (table : List Int) : Option Nat :=
  firstBelow table.length fun c =>
    let v := table.getD c 0
    decide (v < -2048) || decide (2047 < v) || (planePattern d.schedule v).isNone

/-- Plane bits of an aligned element; `none` where a rounded integer has no pattern in its explicit
schedule, a case on which 02 R47 states nothing (log 16). -/
def elemPlanes (d : FmtDesc) (c : Cls) (q : Int) : Option (BitVec 12) :=
  if c ≠ .fin then some 0
  else if d.sched then planePattern d.schedule q
  else some (twosBits d.planes q)

/-- Segment g of a tile: its 16 cell rows and the 128 group exponents, from its scale bytes. -/
def loadSegment (v : Island) (f : FeedDesc) (d : FmtDesc) (table : List Int) (base g : Nat) (scales : List Byte)
    (free : Nat → Byte) : List (List Cell) × List Byte :=
  let w := fmtBits d.format
  let runs := (List.range 16).map fun k => leNat (v.spRead (base + (16 * g + k) * f.row) (16 * w))
  let cols := (List.range 128).map fun c =>
    alignGroup d table d.planes (if f.ecw then some f.ec else none)
      (runs.map fun run => some (packedElem w run c, (scales.getD c 0).toNat))
  let rows := (List.range 16).map fun k =>
    ((List.range 128).zip cols).map fun cg =>
      let cls := cg.2.cls.getD k .zero
      let bits := match elemPlanes d cls (cg.2.q.getD k 0) with
        | some b => b
        | none => (free (2 * (128 * k + cg.1)) ++ free (2 * (128 * k + cg.1) + 1)).setWidth 12
      (⟨bits, cls, cg.2.sgn.getD k false⟩ : Cell)
  (rows, cols.map fun a => BitVec.ofNat 8 a.ge)

/-- The records a load leaves with its tile (05 R106, 03 R425). -/
def loadRecords (f : FeedDesc) (d : FmtDesc) : Tile :=
  { rows := [], ge := [], p := d.planes, sched := d.schedule, ecw := if f.ecw then some f.ec else none,
    bin1 := d.format = 0x0B && d.planes = 1 && d.schedule.all planeSigned, loaded := true, parityBad := [] }

/-! ### Tiles -/

def Array.buf (a : Array) (k : Bool) : Tile := if k then a.buf1 else a.buf0
def Array.setBuf (a : Array) (k : Bool) (t : Tile) : Array := if k then { a with buf1 := t } else { a with buf0 := t }

/-- The records of the tile in buffer k, or those that the load under way into it leaves (05 R106). -/
def Array.tileRec (a : Array) (k : Bool) : Tile :=
  match a.loadRec with
  | some (b, t) => if b = k then t else a.buf k
  | none => a.buf k

def padCells (l : List Cell) : List Cell := (l ++ List.replicate 128 Cell.reset).take 128

/-- Plane j of cells, a plane at and above P loaded as 0 (03 R54); class and sign travel beside plane 0. -/
def Cell.setPlane (j p : Nat) (old new : Cell) : Cell :=
  let bit : BitVec 12 := 1 <<< j
  if j = 0 then ⟨(old.planes &&& BitVec.ofNat 12 (2 ^ p - 1) &&& ~~~bit) ||| (new.planes &&& bit), new.cls, new.sgn⟩
  else { old with planes := (old.planes &&& ~~~bit) ||| (new.planes &&& bit) }

/-- A load writes plane j of cell rows 16b to 16b + 15, their parity with them; the group exponents go beside plane 0
(05 R106, 08 R181). -/
def Tile.writePlane (t : Tile) (b j p : Nat) (cells : List (List Cell)) (ge : List Byte) : Tile :=
  { t with
    rows := ((List.range 16).zip cells).foldl (fun m kc => smSet m (16 * b + kc.1)
      (((padCells (smGet [] m (16 * b + kc.1))).zip kc.2).map fun on => Cell.setPlane j p on.1 on.2)) t.rows,
    ge := if j = 0 then smSet t.ge b ge else t.ge,
    parityBad := t.parityBad.filter fun r => r / 16 ≠ b }

/-- The load has finished: the buffer carries its records. -/
def Tile.finish (t rec : Tile) : Tile := { rec with rows := t.rows, ge := t.ge, parityBad := t.parityBad }

/-- Cell (r, c). -/
def Tile.cell (t : Tile) (r c : Nat) : Cell := (padCells (smGet [] t.rows r)).getD c .reset

/-- The weight integer of a cell (02 R45, R47); special and zero elements stand for 0 (02 R36). -/
def Tile.qw (t : Tile) (c : Cell) : Int := if c.cls = .fin then planeValue t.sched c.planes else 0

def Tile.geOf (t : Tile) (g c : Nat) : Int := ((smGet [] t.ge g).getD c 0).toNat

/-- Column c of a tile. -/
def Tile.column (t : Tile) (c : Nat) : List Cell := (List.range 128).map fun r => t.cell r c

/-! ### Activation rows (05 R107) -/

/-- An aligned activation row: 128 elements and eight group exponents. -/
structure ActRow where
  els : List ActEl
  ges : List Int
deriving DecidableEq, Repr

/-- Align a row from its stored bytes and its scale bytes; elements at and above `kRows` are padding. -/
def alignRow (d : FmtDesc) (table : List Int) (kRows : Nat) (ec : Option Int) (bytes scales : List Byte) : ActRow :=
  let run := leNat bytes
  let groups := (List.range 8).map fun g =>
    alignGroup d table 12 ec ((List.range 16).map fun k =>
      let n := 16 * g + k
      if n < kRows then
        some (packedElem (fmtBits d.format) run n, if d.scaleSrc then (scales.getD (n / 32) 0).toNat else d.tge)
      else none)
  { els := groups.flatMap fun a => (a.q.zip (a.cls.zip a.sgn)).map fun t => ⟨t.1, t.2.1, t.2.2⟩,
    ges := groups.map fun a => (a.ge : Int) }

/-! ### What a row brings to a column (03 R56, R64, R71 to R74) -/

def isSpecial (c : Cls) : Bool := c = .inf || c = .nan

/-- What a cell adds in one beat: its plane bit times the activation (03 R55). A weight of class ZERO stands for 0
(R64), and special products add nothing (R64). -/
def cellTerm (signed : Bool) (j : Nat) (w : Cell) (a : ActEl) : Int :=
  if w.cls ≠ .fin || isSpecial a.cls then 0
  else if w.planes.getLsbD j then a.q
  else if signed then -a.q
  else 0

/-- The partial sum of plane j after rows of a segment (03 R55, R56). -/
def planeSum (signed : Bool) (j : Nat) (ws : List Cell) (as : List ActEl) : Int :=
  (ws.zip as).foldl (fun n wa => n + cellTerm signed j wa.1 wa.2) 0

/-- D_g: the plane sums of a segment under the coefficients of the schedule (03 R56). -/
def dotSegment (t : Tile) (ws : List Cell) (as : List ActEl) : Int :=
  ((List.range t.sched.length).zip t.sched).foldl (fun n jb =>
    n + (if jb.2.msb then -1 else 1) * (2 ^ (jb.2.extractLsb' 0 4).toNat : Nat) * planeSum (planeSigned jb.2) jb.1 ws as) 0

def joinAll (l : List ClassSt) : ClassSt := l.foldl ClassSt.join .fin

/-- Sign-ordered value of an operand of `COMPARE-COUNT`: −Inf below every finite below +Inf. -/
def cmpKey (cls : Cls) (sgn : Bool) (q : Int) : Int :=
  if cls = .inf then (if sgn then -10000 else 10000) else q

/-- Candidate of one element in a selecting mode (03 R71, R74); `none` where the row is no candidate. In MAX and MIN a
NaN weight makes the candidate NaN, as R74 has it of either operand; any other weight that is not FIN takes its row out
(Table 3.9). -/
def candOf (mode : Nat) (t : Tile) (w : Cell) (a : ActEl) (index : Word) : Option Cand :=
  let infSt (neg : Bool) : ClassSt := if neg then .ninf else .pinf
  if mode = 7 ∨ mode = 8 then
    if w.cls = .nan then some ⟨.nan, 0, index⟩
    else if w.cls ≠ .fin then none
    else match a.cls with
      | .nan => some ⟨.nan, 0, index⟩
      | .inf => some ⟨infSt a.sgn, 0, index⟩
      | _ => some ⟨.fin, a.q, index⟩
  else if w.cls = .nan ∨ a.cls = .nan then some ⟨.nan, 0, index⟩
  else if w.cls = .inf ∧ a.cls = .inf then some ⟨if w.sgn = a.sgn then infSt w.sgn else .invalid, 0, index⟩
  else if w.cls = .inf then some ⟨infSt w.sgn, 0, index⟩
  else if a.cls = .inf then some ⟨infSt a.sgn, 0, index⟩
  else some ⟨.fin, t.qw w + a.q, index⟩

/-- Increment and class of one element in an accumulating distance mode (03 R71, R74). A reserved mode, which only a
register write can bring, runs as the last one (DESIGN CHOICE, log 81). -/
def distOf (mode : Nat) (t : Tile) (w : Cell) (a : ActEl) : Int × ClassSt :=
  if w.cls = .nan ∨ a.cls = .nan then (0, .nan)
  else if mode = 2 then
    if w.cls = .inf ∧ a.cls = .inf ∧ w.sgn = a.sgn then (0, .invalid)
    else if w.cls = .inf ∨ a.cls = .inf then (0, .pinf)
    else ((t.qw w - a.q).natAbs, .fin)
  else if mode = 3 then (if w.sgn ^^ a.sgn then 1 else 0, .fin)
  else (if cmpKey w.cls w.sgn (t.qw w) < cmpKey a.cls a.sgn a.q then 1 else 0, .fin)

/-- The contribution of an activation row to column c. -/
def colContrib (mode kRows kOffset : Nat) (t : Tile) (row : ActRow) (c : Nat) : Contrib :=
  let ws := (t.column c).take kRows
  let as := row.els.take kRows
  if mode ≤ 1 then
    .terms ((List.range 8).map fun g =>
        (dotSegment t ((ws.drop (16 * g)).take 16) ((as.drop (16 * g)).take 16), t.geOf g c + row.ges.getD g 0))
      (joinAll ((ws.zip as).map fun wa => productClass wa.1.cls wa.2.cls (wa.1.sgn ^^ wa.2.sgn)))
  else if modeSelecting mode then
    let cs := ((List.range kRows).zip (ws.zip as)).filterMap fun k =>
      candOf mode t k.2.1 k.2.2 (BitVec.ofNat 32 (16 * kOffset + k.1))
    .cand (match cs with
      | [] => none
      | x :: xs => some (xs.foldl (candBest mode) x))
  else
    let ds := (ws.zip as).map fun wa => distOf mode t wa.1 wa.2
    .add (ds.foldl (fun n d => n + d.1) 0) (joinAll (ds.map (·.2)))

/-! ### What the registers of a cell hold (03 Table 3.1, Table 3.3) -/

/-- The buffer that cell (r, c) reads in cycle t: a swap reaches it r + c cycles after its injection. -/
def Array.cellActive (a : Array) (t r c : Nat) : Bool :=
  a.active ^^ decide ((a.swaps.filter fun j => t < j + r + c).length % 2 = 1)

/-- The row whose plane j cell (r, c) applies in cycle t, with j. -/
def Array.flightAt (a : Array) (t r c : Nat) : Option (Flight × Nat) :=
  (a.flow.find? fun f => f.inj + r + c ≤ t && t < f.inj + r + c + f.p).map fun f => (f, t - (f.inj + r + c))

/-- The activation register of cell (r, c) in cycle t. -/
def Array.activationReg (a : Array) (t r c : Nat) : Option ActEl :=
  (a.flightAt t r c).bind fun f => f.1.els[r]?

/-- The rows of a segment from its first down to row r, below the rows that take part. -/
def segmentTo (r kRows : Nat) (l : List α) : List α := (l.take (min (r + 1) kRows)).drop (16 * (r / 16))

/-- The partial-sum register of cell (r, c) in cycle t: the sum and the class state of its segment down to row r. -/
def Array.partialSum (a : Array) (t r c : Nat) : Option (Int × ClassSt) :=
  (a.flightAt t r c).map fun f =>
    let tile := a.buf f.1.buf
    let ws := segmentTo r f.1.kRows (tile.column c)
    let as := segmentTo r f.1.kRows f.1.els
    (planeSum (planeSigned (tile.sched.getD f.2 0)) f.2 ws as,
     joinAll ((ws.zip as).map fun wa => productClass wa.1.cls wa.2.cls (wa.1.sgn ^^ wa.2.sgn)))

/-- The whole row: the contributions of the 128 columns. -/
def rowContribs (mode kRows kOffset : Nat) (t : Tile) (row : ActRow) : List Contrib :=
  (List.range 128).map (colContrib mode kRows kOffset t row)

/-! ### The foot (03 R60 to R67) -/

/-- One entry after one contribution, and whether a group term was lost (04 R83). ANCHORED adds the terms in ascending g,
as R67 has it for COMPENSATED (DESIGN CHOICE, log 96). -/
def footEntry (mode : Nat) (anchor : Int) (e : Entry) (c : Contrib) : Entry × Bool :=
  match c with
  | .cand none => (e, false)
  | .cand (some x) => (.ofCand (candBest mode e.cand x), false)
  | .add n st => (addTerm { e with st := e.st.join st } n, false)
  | .terms gs st =>
    let e := { e with st := e.st.join st }
    if mode = modeComp then
      (gs.foldl (fun e g => addComp e (rn false ⟨g.1, g.2 - 274⟩)) e, false)
    else
      gs.foldl (fun el g =>
        let t := groupTerm g.1 g.2 anchor
        (addTerm el.1 t, el.2 || (g.1 ≠ 0 && t = 0))) (e, false)

/-- The 128 entries of a slot. -/
def Array.slotEntries (a : Array) (s : Nat) : List (BitVec 96) := (smGet [] a.acc s ++ List.replicate 128 0).take 128

def slotCols (s : Nat) : List Nat := (List.range 128).map (128 * s + ·)

/-- How entry k = 128 × slot + column of the accumulator memory reads (08 R179, R180). -/
def Array.accErrOf (a : Array) (k : Nat) : Option LineErr := joinErr (smGet none a.accErr k) (smGet none a.accHard k)

/-- The first column of slot s that reads uncorrectable. -/
def Array.accUe (a : Array) (s : Nat) : Option Nat := firstBelow 128 fun c => isUe (a.accErrOf (128 * s + c))

/-- Entries of slot s that a read corrects. -/
def Array.accCorr (a : Array) (s : Nat) : Nat := ((slotCols s).filter fun k => isCorr (a.accErrOf k)).length

/-- The foot writes the first n columns of a row: entries, the flags of the slot, and the check bits it restores. -/
def Array.footWrite (a : Array) (mode : Nat) (anchor : Int) (start : Bool) (s n : Nat) (cols : List Contrib)
    (parity : Bool) : Array :=
  let r := (((a.slotEntries s).zip cols).take n).map fun ec =>
    footEntry mode anchor (if start then emptyEntry mode else .ofBits ec.1) ec.2
  { a with acc := smSet a.acc s (r.map (fun e => e.1.toBits) ++ (a.slotEntries s).drop n),
           slots := smMod .reset a.slots s fun t =>
             { t with termLost := t.termLost || r.any (·.2), parity := t.parity || (parity && n ≠ 0) },
           accErr := a.accErr.filter fun e => !((slotCols s).take n).contains e.1 }

/-- What a `START` pass does to a slot-anchor entry at injection (04 R79, 03 R72). -/
def startSlot (mode : Nat) (ec : Int) (t : SlotAnchor) : SlotAnchor :=
  let t := { t with tag := BitVec.ofNat 4 mode }
  if mode = modeAnchored then
    { t with anchor := t.next, clamped := t.nextClamped, termLost := false, parity := false }
  else if mode = modeComp then
    { t with nextClamped := false, clamped := false, termLost := false, parity := false }
  else
    { t with anchor := if modeEcAnchor mode then BitVec.ofInt 10 (ec + 46) else 56,
             nextClamped := false, clamped := false, termLost := false, parity := false }

/-! ### Seeds (04 R95 to R97) -/

/-- A seed row judged: all elements carry the same bytes 12 to 15, with reserved bits 0 and a mode of
Table 3.9. Its flags word, or none. -/
def seedFlags (bytes : List Byte) : Option Nat :=
  let w := leAt bytes 12 4
  if (List.range 128).all (fun c => leAt bytes (16 * c + 12) 4 = w) && w / 2 ^ 17 = 0 && field w 10 4 ≤ 8
  then some w else none

def seedMode (w : Nat) : Nat := field w 10 4
def seedAnchor (w : Nat) : BitVec 10 := BitVec.ofNat 10 w
def seedEntry (bytes : List Byte) (c : Nat) : BitVec 96 := BitVec.ofNat 96 (leAt bytes (16 * c) 12)

/-- The combination of 04 R97. -/
def seedCombine (mode : Nat) (e p : Entry) : Entry :=
  if modeSelecting mode then .ofCand (candBest mode e.cand p.cand)
  else if mode = modeComp then
    let e : Entry := { e with st := e.st.join p.st, ovf := e.ovf || p.ovf }
    addComp (addComp e (.ofBits p.s)) (.ofBits p.err)
  else
    let e : Entry := { e with st := e.st.join p.st, ovf := e.ovf || p.ovf }
    addTerm e p.v

/-- Whether a starting condition of 04 R80 refuses a slot entry for a mode and anchor. -/
def slotModeBad (tag : BitVec 4) (anchor : BitVec 10) (mode : Nat) (want : Option (BitVec 10)) : Bool :=
  tag = 0xF || tag.toNat ≠ mode ||
    (match want with
     | some w => anchor ≠ w
     | none => false)

/-- Write a seed row into slot s (04 R97). -/
def Array.seedWrite (a : Array) (start : Bool) (s w : Nat) (bytes : List Byte) : Array :=
  let mode := seedMode w
  let clean (e : BitVec 96) : BitVec 96 :=
    if mode = modeComp then
      let x := Entry.ofBits e
      (Entry.ofComp x.st x.ovf x.s x.err).toBits
    else e &&& ((1 <<< 92) - 1)
  let new := (List.range 128).map fun c => clean (seedEntry bytes c)
  let r := if start then new
    else ((a.slotEntries s).zip new).map fun en => (seedCombine mode (.ofBits en.1) (.ofBits en.2)).toBits
  let clamped := bitAt w 15
  let lost := bitAt w 14
  let par := bitAt w 16
  { a with acc := smSet a.acc s r,
           slots := smMod .reset a.slots s fun t =>
             if start then { t with tag := BitVec.ofNat 4 mode, anchor := seedAnchor w, clamped := clamped,
                                    termLost := lost, parity := par }
             else { t with clamped := t.clamped || clamped, termLost := t.termLost || lost,
                           parity := t.parity || par },
           accErr := a.accErr.filter fun e => !(slotCols s).contains e.1 }

end Sys2Proof.Machine
end

