-- ==== Sys2Proof/Machine/Cbg.lean ====
section
/-! DEFINITION. The counter-based generator under level CG1 (06 R142 to R145). -/

namespace Sys2Proof.Machine

/-- Four 32-bit words, word 0 first. -/
structure Quad where
  w0 : Word
  w1 : Word
  w2 : Word
  w3 : Word
deriving DecidableEq, Repr

def Quad.get (q : Quad) (i : Nat) : Word :=
  match i % 4 with
  | 0 => q.w0
  | 1 => q.w1
  | 2 => q.w2
  | _ => q.w3

def Quad.ofKey (k : BitVec 128) : Quad :=
  ⟨k.extractLsb' 0 32, k.extractLsb' 32 32, k.extractLsb' 64 32, k.extractLsb' 96 32⟩

/-- Lines 1 to 4 of a round of 06 R142. -/
def cbgMix (x : Quad) : Quad :=
  let x0 := x.w0 + x.w1
  let x3 := (x.w3 ^^^ x0).rotateLeft 16
  let x2 := x.w2 + x3
  let x1 := (x.w1 ^^^ x2).rotateLeft 12
  let x0 := x0 + x1
  let x3 := (x3 ^^^ x0).rotateLeft 8
  let x2 := x2 + x3
  let x1 := (x1 ^^^ x2).rotateLeft 7
  ⟨x0, x1, x2, x3⟩

/-- Round r of 06 R142 with its key injection. -/
def cbgRound (k : Quad) (r : Nat) (x : Quad) : Quad :=
  let y := cbgMix x
  { y with w0 := y.w0 + k.get (r + 1) + BitVec.ofNat 32 (r + 1) * 0x9E3779B9,
           w2 := y.w2 ^^^ k.get (r + 2) }

/-- CBG(k, c): the four draws (06 R142). -/
def cbg (k c : Quad) : Quad :=
  let x : Quad := ⟨c.w0 ^^^ k.w0, c.w1 ^^^ k.w1, c.w2 ^^^ k.w2, c.w3 ^^^ k.w3⟩
  let y := (List.range 10).foldl (fun x r => cbgRound k r x) x
  ⟨y.w0 + k.w0, y.w1 + k.w1, y.w2 + k.w2, y.w3 + k.w3⟩

/-- The counter of an island's call (06 R143). -/
def islandCounter (stream step : Word) (element : Dword) : Quad :=
  ⟨element.extractLsb' 0 32, element.extractLsb' 32 32, step, stream⟩

/-- The draw of `VRAND` for element index e (06 R144). -/
def elementDraw (key : Quad) (stream step : Word) (e : Dword) : Word :=
  (cbg key (islandCounter stream step (e >>> 2))).get (e.toNat % 4)

/-- The draw of a stochastic drain (06 R145). -/
def drainDraw (key : Quad) (stream step : Word) (e : Dword) : Word :=
  (cbg key (islandCounter stream step e)).w0

end Sys2Proof.Machine
end

