-- ==== Sys2Proof/Machine/Drain.lean ====
section
/-! DEFINITION. The drain: output formats, conversion of entries, the streams of a row and the tile
status it gathers (04 R84 to R100). -/

namespace Sys2Proof.Machine

/-- A drain output format (04 Table 4.4). -/
structure OutFmt where
  isInt  : Bool
  bytes  : Nat
  lay    : Lay
  emin   : Int
  p      : Nat
  max    : Dyad
  hasInf : Bool
  nan    : Nat
deriving DecidableEq, Repr

def outFmt (code : Nat) : OutFmt :=
  match code with
  | 0x00 => ⟨false, 4, lay32, -126, 24, ⟨2 ^ 24 - 1, 104⟩, true, 0x7FC00000⟩
  | 0x01 => ⟨false, 2, layBf, -126, 8, ⟨255, 120⟩, true, 0x7FC0⟩
  | 0x02 => ⟨false, 2, lay16, -14, 11, ⟨65504, 0⟩, true, 0x7E00⟩
  | 0x03 => ⟨false, 1, layE4, -6, 4, ⟨448, 0⟩, false, 0x7F⟩
  | 0x04 => ⟨false, 1, layE5, -14, 3, ⟨57344, 0⟩, true, 0x7E⟩
  | 0x08 => ⟨true, 1, lay32, 0, 1, ⟨127, 0⟩, false, 0⟩
  | 0x10 => ⟨true, 2, lay32, 0, 1, ⟨32767, 0⟩, false, 0⟩
  | 0x11 => ⟨true, 4, lay32, 0, 1, ⟨2 ^ 31 - 1, 0⟩, false, 0⟩
  | _ => ⟨true, 16, lay32, 0, 1, ⟨0, 0⟩, false, 0⟩

def outRaw : Nat := 0x1F
def outFmtKnown (code : Nat) : Bool := code ≤ 4 || code = 8 || code = 0x10 || code = 0x11 || code = outRaw

/-- A converted output. -/
inductive OutVal where
  | fin (x : Dyad)
  | inf (neg : Bool)
  | nan
deriving DecidableEq, Repr

/-- RNE, RTZ, STOCH, SAT of 04 Table 4.3. -/
def rndRne : Nat := 0
def rndRtz : Nat := 1
def rndStoch : Nat := 2
def rndSat : Nat := 3

/-- The branch of `drain_value` for a magnitude beyond the largest (04 R87). -/
def overMax (f : OutFmt) (rnd : Nat) (sgn : Bool) : OutVal :=
  if f.isInt || rnd = rndRtz || rnd = rndSat then
    .fin (if sgn then (if f.isInt then ⟨-(f.max.m + 1), 0⟩ else f.max.neg) else f.max)
  else if f.hasInf then .inf sgn
  else .nan

/-- `drain_value` of 04 R87: the output and the drain-overflow flag. -/
def drainValue (x : Dyad) (f : OutFmt) (rnd : Nat) (r : Word) : OutVal × Bool :=
  if x.m = 0 then (.fin ⟨0, 0⟩, false)
  else
    let sgn := decide (x.m < 0)
    let m := x.abs
    let ulp := if f.isInt then 0 else max m.floorLog f.emin - f.p + 1
    let fl := m.floorAt ulp
    let n := if rnd = rndRne ∨ rnd = rndSat then m.rneAt ulp
      else if rnd = rndStoch then
        (if (r.toNat : Int) < m.floorAt (ulp - 32) - fl * (2 ^ 32 : Nat) then fl + 1 else fl)
      else fl
    let z : Dyad := ⟨n, ulp⟩
    if n = 0 then (.fin ⟨0, 0⟩, false)
    else
      let lim : Dyad := if f.isInt && sgn then ⟨f.max.m + 1, 0⟩ else f.max
      if lim.lt z then (overMax f rnd sgn, true)
      else (.fin (if sgn then z.neg else z), false)

/-- The stored code of an output. -/
def OutVal.code (f : OutFmt) (v : OutVal) : Nat :=
  match v with
  | .fin x =>
    if f.isInt then (x.over 0 % (2 ^ (8 * f.bytes) : Nat)).toNat
    else f.lay.code (x.m < 0) x
  | .inf neg => (if neg then 2 ^ (f.lay.eb + f.lay.mb) else 0) + (2 ^ f.lay.eb - 1) * 2 ^ f.lay.mb
  | .nan => f.nan

/-- The element exponent an output contributes to a high-water mark (04 R92). -/
def OutVal.hwm (v : OutVal) : Option Int :=
  match v with
  | .fin x => if x.m = 0 then none else some x.expo
  | _ => none

/-- Output of a special entry (04 Table 4.5). -/
def specialOut (f : OutFmt) (rnd : Nat) (st : ClassSt) : OutVal :=
  let inf (neg : Bool) : OutVal :=
    if f.isInt then overMax f rnd neg
    else if f.hasInf then .inf neg
    else if rnd = rndRtz ∨ rnd = rndSat then overMax f rnd neg
    else .nan
  match st with
  | .pinf => inf false
  | .ninf => inf true
  | _ => if f.isInt then .fin ⟨0, 0⟩ else .nan

/-- What an entry drains as: the hi output, the lo output and the kind bits (04 R87 to R90, R99). -/
structure Drained where
  hi    : OutVal
  lo    : OutVal
  kinds : Byte
deriving DecidableEq, Repr

def zeroOut : OutVal := .fin ⟨0, 0⟩

/-- Kind bits that an entry's state raises, the identity of a selecting mode raising none (04 R100). -/
def stateKinds (mode : Nat) (e : Entry) : Byte :=
  if modeSelecting mode && decide (e.cand.index = 0xFFFFFFFF) && decide (e.st = (candIdentity mode).st) then 0
  else
    (match e.st with
     | .nan => kNan
     | .invalid => kInvalid
     | .pinf | .ninf => kInf
     | .fin => 0) ||| (if e.ovf then kWindowOvf else 0)

/-- Convert an entry of a slot of `mode` with anchor A. -/
def drainEntry (d : DrainDesc) (mode : Nat) (slot : SlotAnchor) (e : Entry) (r : Word) : Drained :=
  let f := outFmt d.fmt
  let sk := stateKinds mode e ||| (if slot.clamped then kClamped else 0) ||| (if slot.parity then kParity else 0)
  let a : Int := slot.anchor.toInt
  let high := decide (mode ≠ modeComp) && !modeSelecting mode && decide (e.st = .fin) && decide (e.v = 0) &&
    slot.termLost
  let sk := if high then sk ||| kAnchorHigh else sk
  if d.fmt = outRaw then ⟨zeroOut, zeroOut, sk⟩
  else if e.st ≠ .fin then ⟨specialOut f d.round e.st, zeroOut, sk⟩
  else if e.ovf ∧ mode ≠ modeComp ∧ !modeSelecting mode then ⟨specialOut f d.round .nan, zeroOut, sk⟩
  else
    let conv (x : Dyad) : Drained :=
      let (v, ovf) := drainValue x f d.round r
      let lo := match v with
        | .fin y => if d.pair then (drainValue (x.sub y) f rndRne 0).1 else zeroOut
        | _ => zeroOut
      ⟨v, lo, if ovf then sk ||| kDrainOvf else sk⟩
    if mode = modeComp then
      match (F32.ofBits e.s).add (.ofBits e.err) with
      | .fin _ x => conv (x.scale d.oscale)
      | .inf neg => ⟨overMax f d.round neg, zeroOut, sk ||| kDrainOvf⟩
      | .nan => ⟨specialOut f d.round .nan, zeroOut, sk⟩
    else
      let v := if modeSelecting mode then e.cand.value else e.v
      conv ⟨v, a - 56 + d.oscale⟩

/-- The 16 bytes of an anchored partial element (04 Table 4.7). -/
def rawElement (slot : SlotAnchor) (e : BitVec 96) : List Byte :=
  leBytes 12 (e.toNat % 2 ^ 92) ++
    leBytes 4 (slot.anchor.toNat + slot.tag.toNat * 2 ^ 10 + (if slot.termLost then 2 ^ 14 else 0) +
      (if slot.clamped then 2 ^ 15 else 0) + (if slot.parity then 2 ^ 16 else 0))

/-- Bytes a row of one array sends on each data stream (04 R93). -/
def DrainDesc.rowBytes (d : DrainDesc) : Nat := 128 * (outFmt d.fmt).bytes

/-- The streams of one row: address word and bytes a row. -/
def DrainDesc.streams (d : DrainDesc) : List (AddrWord × Nat) :=
  [(d.dst, d.rowBytes), (if d.pair then d.lo else { d.lo with none_ := true }, d.rowBytes), (d.idx, 512)].filter
    fun s => !s.1.none_

def ceilDiv (a b : Nat) : Nat := (a + b - 1) / b

/-- Cycles per row w (04 R93). -/
def DrainDesc.w (d : DrainDesc) : Nat :=
  let sp := ((d.streams.filter fun s => !s.1.strait).map (·.2)).sum
  let port (p : Nat) : Nat := ((d.streams.filter fun s => s.1.strait && s.1.port = p).map (·.2)).sum
  max 1 (max (ceilDiv sp 512) ((List.range 4).foldl (fun m p => max m (ceilDiv (port p) 128)) 0))

/-- One drained row of one array: converted entries in column order. -/
structure DrainedRow where
  hi    : List Byte
  lo    : List Byte
  idx   : List Byte
  hwm   : Option Int
  kinds : List Byte
deriving DecidableEq, Repr

/-- Drain row m of array a into its streams (04 R88, R91, R92). -/
def drainRowOf (d : DrainDesc) (x : Array) (slot s0 : Nat) (key : Quad) (step : Word) : DrainedRow :=
  let t := smGet .reset x.slots slot
  let mode := if t.tag = 0xF then 0 else t.tag.toNat
  let f := outFmt d.fmt
  let es := x.slotEntries slot
  let ds := ((List.range 128).zip es).map fun ce =>
    let el : Dword := d.idxBase + BitVec.ofNat 64 ((slot - s0) * d.idxRow.toNat + ce.1)
    drainEntry d mode t (.ofBits ce.2) (if d.round = rndStoch then drainDraw key d.stream step el else 0)
  { hi := if d.fmt = outRaw then es.flatMap (rawElement t)
      else ds.flatMap fun o => leBytes f.bytes (o.hi.code f),
    lo := ds.flatMap fun o => leBytes f.bytes (o.lo.code f),
    idx := es.flatMap fun e =>
      leBytes 4 (if modeSelecting t.tag.toNat then (Entry.ofBits e).cand.index.toNat else 0xFFFFFFFF),
    hwm := if d.fmt = outRaw then none else ds.foldl (fun h o => hwmMax h o.hi.hwm) none,
    kinds := ds.map (·.kinds) }

/-- The lower of two positions in drain order: array, then slot, then column (04 R100). -/
def firstOf (a b : Option (Nat × Nat × Nat × Nat)) : Option (Nat × Nat × Nat × Nat) :=
  match a, b with
  | none, b => b
  | a, none => a
  | some x, some y =>
    let key (z : Nat × Nat × Nat × Nat) := (z.2.1 * 128 + z.2.2.1) * 128 + z.2.2.2
    if key y < key x then some y else some x

/-- First positioned entry of a row: kind, array, slot, column. -/
def firstInRow (a slot : Nat) (kinds : List Byte) : Option (Nat × Nat × Nat × Nat) :=
  (((List.range 128).zip kinds).findSome? fun ck => (firstKind ck.2).map fun k => (k, a, slot, ck.1))

/-- 128-byte beats of a row (05 R107, R109). -/
def beatsOf (fuel : Nat) (bs : List Byte) : List (List Byte) :=
  match fuel, bs with
  | 0, _ => []
  | _, [] => []
  | fuel + 1, bs => takePad 128 (bs.take 128) :: beatsOf fuel (bs.drop 128)

end Sys2Proof.Machine
end

