-- ==== Sys2Proof/Machine/Island.lean ====
section
/-! DEFINITION. The island: completions that a fault forces, island faults, the exception log, the
schedule of issued operations and its engine (05 R103, R104, R123 to R129). -/

namespace Sys2Proof.Machine

/-! ### Long commands (14 R310, R313, R316) -/

def LongCmd.ring (c : LongCmd) : Nat := c.pkt.ring.toNat

/-- Status codes (00 Table 0.8). -/
def sOk : Half := 0x0000
def sAccepted : Half := 0x0001
def sPartial : Half := 0x0002
def sDeferred : Half := 0x0003
def sBadOpcode : Half := 0x0100
def sBadLength : Half := 0x0101
def sBadParam : Half := 0x0102
def sBadPartition : Half := 0x0103
def sNotPermitted : Half := 0x0104
def sWrongState : Half := 0x0105
def sResourceHeld : Half := 0x0200
def sNoResource : Half := 0x0201
def sTimeout : Half := 0x0300
def sMemoryError : Half := 0x0301
def sFenced : Half := 0x0302
def sFeedShared : Half := 0x0303
def sVerifyFailed : Half := 0x0304
def sEmergency : Half := 0x0305
def sInternal : Half := 0x0400

/-- `QUIET_SUCCESS` suppresses OK, ACCEPTED and DEFERRED (14 R310). -/
def pktQuiet (p : Packet) (status : Half) : Bool :=
  p.flags.getLsbD 2 && (status = sOk || status = sAccepted || status = sDeferred)

/-- Write a record of a command to the completion ring of its command ring. -/
def State.recordOn (s : State) (cq : Nat) (p : Packet) (opcode : Half) (kind : BitVec 2) (status detail : Half) (r0 r1 r2 : Word) : State :=
  if pktQuiet p status then s else s.post cq ⟨p.tag, opcode, status, detail, kind, p.ring, s.now, r0, r1, r2⟩

/-- The record goes to the completion ring that the command ring names. -/
def State.record (s : State) (p : Packet) (opcode : Half) (kind : BitVec 2) (status detail : Half) (r0 r1 r2 : Word) : State :=
  s.recordOn (s.getCr p.ring.toNat).cq p opcode kind status detail r0 r1 r2

/-- A long command ends with its completion (14 R310), on the completion ring that its ring named when it was taken up
(13 R295). -/
def State.complete (s : State) (c : LongCmd) (status detail : Half) (r0 r1 r2 : Word) : State :=
  ({ s with cmds := { s.cmds with long := s.cmds.long.erase c } }).recordOn c.cq c.pkt c.opcode 1 status detail r0 r1 r2

/-- Complete every long command that satisfies p. -/
def State.completeAll (s : State) (p : LongCmd → Bool) (status detail : Half) : State :=
  (s.cmds.long.filter p).foldl (fun s c => s.complete c status detail 0 0 0) s

def opLoad : Half := 0x0301
def opBind : Half := 0x0303
def opStart : Half := 0x0304
def opPause : Half := 0x0305
def opResume : Half := 0x0306
def opDrain : Half := 0x0307

/-- Pipeline state codes (14 R318). -/
def PipeSt.code (p : PipeSt) : Nat :=
  match p with
  | .none => 0 | .loaded => 1 | .bound => 2 | .running => 3 | .pauseArmed => 4 | .paused => 5
  | .faulted => 6 | .draining => 7

/-! ### Exception log (05 R129) -/

/-- Append a record; a full ring drops it and counts. -/
def Island.logExc (v : Island) (r : ExcRec) : Island :=
  if v.logHead + 1 = v.logTail then { v with logLost := satAdd 32 v.logLost 1 }
  else { v with excLog := smSet v.excLog v.logHead.toNat r, logHead := v.logHead + 1 }

/-! ### Island faults (05 R125, R126) -/

/-- What a fault reports (05 Tables 5.11, 5.15). -/
structure FaultInfo where
  code    : Nat
  precise : Bool
  bundle  : BitVec 13
  slot    : BitVec 3
  array   : Nat
  detail  : Nat
  cycle   : Nat
deriving DecidableEq, Repr

def FaultInfo.word (f : FaultInfo) : Dword :=
  BitVec.ofNat 64 (2 ^ 63 + (if f.precise then 2 ^ 62 else 0) + f.code * 2 ^ 48 + f.bundle.toNat * 2 ^ 35 +
    f.slot.toNat * 2 ^ 32 + f.array * 2 ^ 29 + min f.detail (2 ^ 29 - 1))

/-- A pipeline becomes FAULTED: event 0x0003 and a fault-log record (01 R19), the armed pause dropped, pending PAUSE, START and RESUME
superseded (05 R126, 07 R156, 14 R316, R328). -/
def State.pipeFault (s : State) (p : Nat) : State :=
  let t := s.getPart p
  if t.pipe = .running ∨ t.pipe = .pauseArmed ∨ t.pipe = .paused ∨ t.pipe = .bound then
    let s := s.setPart p { t with pipe := .faulted, pauseAt := none, startGrp := none, starting := false }
    let s := (s.event 0x0003 sOk (BitVec.ofNat 16 p) t.pipeId 0 0).logFault .pipelineFault srcInterp 2 (BitVec.ofNat 32 p)
    s.completeAll (fun c => c.part.toNat = p && (c.opcode = opPause || c.opcode = opStart || c.opcode = opResume))
      sWrongState 6
  else s

/-- Pause every DMA channel with its pause bit; a pause of the island's own taking is marked. -/
def Island.pauseChans (v : Island) : Island :=
  { v with chan := (List.range 4).foldl (fun m c => smMod .reset m c fun x => { x with paused := true }) v.chan }

/-- An island fault: steps 2 to 5 of 05 R126 but for the cancelled writes. A later fault only appends
its record. -/
def State.islandFault (s : State) (i : Nat) (f : FaultInfo) : State :=
  let v := s.getIsl i
  let r : ExcRec := ⟨f.word, s.now, 1, v.pipeline, f.bundle, f.slot, BitVec.ofNat 32 f.cycle⟩
  if v.fault.msb then s.setIsl i (v.logExc r)
  else
    let v := { v.pauseChans.logExc r with stopped := true, st := stFaulted, fault := f.word, faultAt := f.cycle,
                                          waiting := none }
    let s := s.setIsl i v
    let s := (s.event 0x0002 sOk (BitVec.ofNat 16 i) (Word.lo f.word) (Word.hi f.word) v.pipeline).logFault
      .islandFault srcInterp 2 (BitVec.ofNat 32 i)
    s.pipeFault v.partition.toNat

/-- Bundle and slot of a fault that no instruction raised: not stated, hence free (log 25). -/
def State.freePlace (s : State) : (BitVec 13 × BitVec 3) × State :=
  let (bs, s) := s.drawBytes 2
  let v : Half := BitVec.ofNat 16 (leNat bs)
  ((v.extractLsb' 0 13, v.extractLsb' 13 3), s)

/-- A fault of an arrival or increment in an island cycle. -/
def State.looseFaultAt (s : State) (i code detail cycle : Nat) : State :=
  let (w, s) := s.freePlace
  s.islandFault i ⟨code, false, w.1, w.2, 0, detail, cycle⟩

def State.looseFault (s : State) (i code detail : Nat) : State := s.looseFaultAt i code detail (s.getIsl i).seqCycle

/-- An increment that no wait precedes in its cycle (05 R120): past 65,535 it raises SEM_OVERFLOW. -/
def State.semIncAt (s : State) (i : Nat) (sem : BitVec 5) (cycle : Nat) : State :=
  let v := s.getIsl i
  if v.getSem sem = 0xFFFF then s.looseFaultAt i 0x12 sem.toNat cycle else s.setIsl i (v.setSem sem (v.getSem sem + 1))

def State.semInc (s : State) (i : Nat) (sem : BitVec 5) : State := s.semIncAt i sem (s.getIsl i).seqCycle

/-! ### The schedule -/

/-- Order of events: due cycle, then landings before reads before writes, then issue order. -/
def Ev.before (a b : Ev) : Bool :=
  if a.due ≠ b.due then decide (a.due < b.due)
  else if a.prio ≠ b.prio then decide (a.prio < b.prio)
  else decide (a.op ≤ b.op)

def insertEv (e : Ev) : List Ev → List Ev
  | [] => [e]
  | x :: t => if x.before e then x :: insertEv e t else e :: x :: t

def Island.push (v : Island) (due prio op : Nat) (a : Act) : Island :=
  { v with sched := insertEv ⟨due, prio, op, a⟩ v.sched }

/-- Withdraw what an operation still has to do (05 R126). -/
def Island.cancel (v : Island) (op : Nat) : Island := { v with sched := v.sched.filter (·.op ≠ op) }

/-- A foot write takes anchors as its pass read them at injection (04 R79); n columns of row m are written. -/
def Island.footCols (v : Island) (o : PassOp) (m a n : Nat) (cols : List Contrib) (parity : Bool) : Island :=
  let slot := o.slot + m
  let anchor := (smGet SlotAnchor.reset o.anchors (128 * a + slot)).anchor.toInt
  v.setArr a ((v.getArr a).footWrite o.mode anchor o.start slot n cols parity)

/-- The foot writes of an operation that fell due before cycle t in a row it has begun: column c of a row whose last
column is due in cycle d is due in d − 127 + c (03 Table 3.3). -/
def Island.flushFeet (v : Island) (op t : Nat) : Island :=
  match smGet none v.ops op with
  | some (.pass o) =>
    (v.sched.filter (·.op = op)).foldl (fun v e =>
      match e.act with
      | .foot m a cols par => v.footCols o m a (t + 127 - e.due) cols par
      | _ => v) v
  | _ => v

def Island.count (v : Island) (k n : Nat) : Island := { v with acts := smSet v.acts k (smGet 0 v.acts k + n) }

/-- Bundle and slot of an operation. -/
def Island.opAt (v : Island) (op : Nat) : BitVec 13 × BitVec 3 :=
  match smGet none v.ops op with
  | some (.pass o) => (o.bundle, o.slotIdx)
  | some (.seed o) => (o.bundle, o.slotIdx)
  | some (.drain o) => (o.bundle, o.slotIdx)
  | some (.load o) => (o.bundle, o.slotIdx)
  | some (.other b x) => (b, x)
  | none => (0, 0)

/-- A fault that an operation's data shows: its remaining writes are suppressed (05 R126 step 2). -/
def State.opFault (s : State) (i op code array detail cycle : Nat) : State :=
  let v := s.getIsl i
  let (b, x) := v.opAt op
  (s.setIsl i ((v.flushFeet op cycle).cancel op)).islandFault i ⟨code, false, b, x, array, detail, cycle⟩

/-- MEM_UE source codes (05 Table 5.11). -/
def ueScratchpad : Nat := 0
def ueImem : Nat := 1
def ueAcc : Nat := 2

/-! ### Straits at the island (05 R109, 07 R161) -/

def Island.rx (v : Island) (p : Nat) : List (Nat × List Byte) := smGet [] v.rxq p
def Island.tx (v : Island) (p : Nat) : List (Nat × List Byte) := smGet [] v.txq p

/-- The beats at an inbound port that have arrived by the island's cycle t. -/
def Island.arrived (v : Island) (p t : Nat) : List (Nat × List Byte) := (v.rx p).takeWhile fun b => b.1 ≤ v.origin + t

/-- Offer a beat in cycle t to a send queue of 64; `none` where it finds the queue full. -/
def Island.offer (v : Island) (p t : Nat) (beat : List Byte) : Option Island :=
  if 64 ≤ (v.tx p).length then none else some { v with txq := smSet v.txq p (v.tx p ++ [(v.origin + t, beat)]) }

/-! ### Vector registers -/

def setQuarter (old : List Word) (q : Nat) (new : List Word) : List Word :=
  old.take (64 * q) ++ (new ++ old.drop (64 * q + 64))

def splitWords (fuel : Nat) (bs : List Byte) : List Word :=
  match fuel with
  | 0 => []
  | n + 1 => BitVec.ofNat 32 (leNat (bs.take 4)) :: splitWords n (bs.drop 4)

/-- Bytes of a vector access (06 Table 6.3). -/
def vecBytes (type : Nat) : Nat := if type = 1 ∨ type = 2 then 512 else if type = 3 then 256 else 1024

/-- Lanes of a `VLD` from its bytes (06 Table 6.3). -/
def vldLanes (type : Nat) (bs : List Byte) : List Word :=
  match type with
  | 1 => (List.range 256).map fun l => BitVec.ofNat 32 (leAt bs (2 * l) 2 * 65536)
  | 2 => (List.range 256).map fun l =>
      let n := leAt bs (2 * l) 2
      let e := decodeFloat lay16 true false n
      match e.cls with
      | .nan => F32.toBits .nan
      | .inf => F32.toBits (.inf e.sgn)
      | _ => F32.toBits (.fin e.sgn e.x)
  | 3 => (List.range 256).map fun l => (bs.getD l 0).signExtend 32
  | _ => splitWords 256 bs

/-- Bytes a `VST` writes (06 Table 6.3). -/
def vstBytes (type : Nat) (lanes : List Word) : List Byte :=
  match type with
  | 1 => lanes.flatMap fun w => leBytes 2 (w.toNat / 65536)
  | 2 => lanes.flatMap fun w => leBytes 2 w.toNat
  | 3 => lanes.map fun w => w.setWidth 8
  | _ => lanes.flatMap fun w => leBytes 4 w.toNat

/-! ### Events -/

/-- Scratchpad extents that a pass reads for row m of its arrays: data and scale rows (05 R107, R108). -/
def passExtents (o : PassOp) (m : Nat) : List (Nat × Nat) :=
  let f := FeedDesc.parse o.fd
  let d := FmtDesc.parse (bvBytes 32 o.fmt)
  let w := 16 * fmtBits d.format
  let ranks := if f.bcast then [0] else List.range o.arrays.length
  (if f.source = 1 then [] else ranks.map fun a => (o.base + a * f.array + m * f.row, w)) ++
    (if d.scaleSrc then ranks.map fun a => (o.scale + (a * o.rows + m) * f.scale, 4) else [])

/-- The bytes of row m for each rank (one for a broadcast), and the island after taking them; `none`
where the strait queue holds too few beats. -/
def passRowBytes (v : Island) (o : PassOp) (m cycle : Nat) : Option (List (List Byte) × Island) :=
  let f := FeedDesc.parse o.fd
  let d := FmtDesc.parse (bvBytes 32 o.fmt)
  let w := 16 * fmtBits d.format
  let ranks := if f.bcast then [0] else List.range o.arrays.length
  if f.source = 1 then
    let n := ceilDiv w 128
    let q := (v.arrived f.port cycle).map (·.2)
    if q.length < n * ranks.length then none
    else some (ranks.map (fun a => (((q.drop (a * n)).take n).flatten).take w),
               { v with rxq := smSet v.rxq f.port ((v.rx f.port).drop (n * ranks.length)) })
  else some (ranks.map fun a => v.spRead (o.base + a * f.array + m * f.row) w, v)

def passScaleBytes (v : Island) (o : PassOp) (m rank : Nat) : List Byte :=
  let f := FeedDesc.parse o.fd
  v.spRead (o.scale + ((if f.bcast then 0 else rank) * o.rows + m) * f.scale) 4

/-- Row m of a pass is read and aligned, four cycles before its first beat (05 R107, 03 R58). -/
def State.evRow (s : State) (i op cycle : Nat) (o : PassOp) (m : Nat) : State :=
  let v := s.getIsl i
  let f := FeedDesc.parse o.fd
  let d := FmtDesc.parse (bvBytes 32 o.fmt)
  let ext := passExtents o m
  let s := ext.foldl (fun s e => s.noteSp i e.1 e.2) s
  if ext.any fun e => v.spUe e.1 e.2 then s.opFault i op 0x0F 0 ueScratchpad cycle
  else
    match passRowBytes v o m cycle with
    | none => s.opFault i op 0x10 0 f.port cycle
    | some (rows, v) =>
      let table := tableOf v i d
      let aligned := ((List.range rows.length).zip rows).map fun rb =>
        let r := alignRow d table o.kRows (if modeCommon o.mode then some o.ec else none) rb.2 (passScaleBytes v o m rb.1)
        (r.els, r.ges)
      let v := v.push (cycle + 4) 1 op (.enter m aligned)
      let v := v.count 1 (ext.length * ceilDiv (16 * fmtBits d.format) 128)
      s.setIsl i (v.count 2 (8 * rows.length))

/-- Row m of a pass enters cell row 0: from then on it crosses the array, and the foot of column 0 writes it 2P + 128
cycles later, after the rows injected before it (03 R58, R60, log 84). -/
def State.evEnter (s : State) (i op cycle : Nat) (o : PassOp) (m : Nat) (rows : List (List ActEl × List Int)) : State :=
  let bcast := (FeedDesc.parse o.fd).bcast
  let v := s.getIsl i
  let tileOf (a : Nat) : Tile := (v.getArr a).buf (smGet false o.useBuf a)
  let parity (a : Nat) : Bool := (tileOf a).parityBad.any (· < o.kRows)
  let v := ((List.range o.arrays.length).zip o.arrays).foldl (fun v ra =>
    let r := rows.getD (if bcast then 0 else ra.1) ([], [])
    let x := v.getArr ra.2
    let due := max (cycle + 2 * o.p + 128) x.footDue
    let fl : Flight := ⟨cycle, o.p, smGet false o.useBuf ra.2, o.mode, o.kRows, r.1⟩
    let v := v.setArr ra.2 { x with footDue := due, flow := x.flow.filter (fun f => cycle < f.inj + f.p + 256) ++ [fl] }
    v.push due 2 op (.footIn m ra.2 (rowContribs o.mode o.kRows o.kOffset (tileOf ra.2) ⟨r.1, r.2⟩) (parity ra.2))) v
  let s := s.setIsl i v
  if m = 0 && o.arrays.any parity then
    s.modMem fun x => { x with parity := smSet x.parity i (satAdd 16 (smGet 0 x.parity i) 1) }
  else s

/-- The tag and anchor that the last pass or seed issued to a slot leaves (04 R80). -/
def Array.issued (x : Array) (slot : Nat) : BitVec 4 × BitVec 10 :=
  let t := smGet SlotAnchor.reset x.slots slot
  let r := smGet (t.tag, t.anchor, 0) x.issuedTag slot
  (r.1, r.2.1)

/-- An operation that has set a slot's tag and anchor in the table records them, unless a later one was issued. -/
def Array.retag (x : Array) (m : SMap (BitVec 4 × BitVec 10 × Nat)) (op slot : Nat) : SMap (BitVec 4 × BitVec 10 × Nat) :=
  let t := smGet SlotAnchor.reset x.slots slot
  match m.find? (·.1 = slot) with
  | some r => if r.2.2.2 = op then smSet m slot (t.tag, t.anchor, op) else m
  | none => m

/-- Row 0 of a pass is injected: tags and anchors are set by a `START` and read for the whole pass (04 R79). That they are
set in this cycle, with foot writes of the slot's earlier pass still to come, is a DESIGN CHOICE (log 94). -/
def State.evInject (s : State) (i op : Nat) (o : PassOp) : State :=
  let v := s.getIsl i
  let slots := (List.range o.rows).map (o.slot + ·)
  let v := if o.start then
      o.arrays.foldl (fun v a => v.modArr a fun x =>
        { x with slots := slots.foldl (fun m k => smMod .reset m k (startSlot o.mode o.ec)) x.slots }) v
    else v
  let v := if o.start then
      o.arrays.foldl (fun v a => v.modArr a fun x =>
        { x with issuedTag := slots.foldl (fun m k => x.retag m op k) x.issuedTag }) v
    else v
  let anchors : SMap SlotAnchor := o.arrays.flatMap fun a =>
    slots.map fun k => (128 * a + k, smGet SlotAnchor.reset (v.getArr a).slots k)
  s.setIsl i { v with ops := smSet v.ops op (some (.pass { o with anchors := anchors })) }

/-- The foot of column 0 writes row m, and the others follow column by column; a pass that adds reads the entries first,
and an uncorrectable one stops it at its column (03 Table 3.3, 08 R184). -/
def State.evFootIn (s : State) (i op cycle : Nat) (o : PassOp) (m a : Nat) (cols : List Contrib) (parity : Bool) : State :=
  let v := s.getIsl i
  match (if o.start then none else (v.getArr a).accUe (o.slot + m)) with
  | some c => s.setIsl i (v.push (cycle + c) 2 op (.footBad a c m cols parity))
  | none => s.setIsl i (v.push (cycle + 127) 2 op (.foot m a cols parity))

/-- The last column of a row is written (03 Table 3.3). -/
def State.evFoot (s : State) (i : Nat) (o : PassOp) (m a : Nat) (cols : List Contrib) (parity : Bool) : State :=
  let v := s.getIsl i
  let corr := if o.start then 0 else (v.getArr a).accCorr (o.slot + m)
  let s := if corr = 0 then s else
    s.modMem fun t => { t with accCorr := smSet t.accCorr i (satAdd 32 (smGet 0 t.accCorr i) corr) }
  s.setIsl i (v.footCols o m a 128 cols parity)

/-- Column c of a row cannot be read: the columns before it are written, and the pass stops. -/
def State.evFootBad (s : State) (i op cycle : Nat) (o : PassOp) (a c m : Nat) (cols : List Contrib) (parity : Bool) : State :=
  ((s.modIsl i fun v => v.footCols o m a c cols parity).noteUe i).opFault i op 0x0F a ueAcc cycle

/-- The slots of a starting seed are judged by the flags words of its rows as they stand in its issue cycle, and from
the read of a row on by the word read (04 R80, R97, log 15). -/
def Array.seedTag (x : Array) (op slot : Nat) (bytes : List Byte) : Array :=
  let t := match seedFlags bytes with
    | some w => (BitVec.ofNat 4 (seedMode w), seedAnchor w)
    | none => x.issued slot
  { x with issuedTag := smSet x.issuedTag slot (t.1, t.2, op) }

/-- Row m of a seed is read. -/
def State.evSeedRead (s : State) (i op cycle : Nat) (o : SeedOp) (m : Nat) : State :=
  let off := o.src + 2048 * m
  let s := s.noteSp i off 2048
  let v := s.getIsl i
  let bytes := v.spRead off 2048
  let v := v.push (cycle + 15) 2 op (.seedRow m bytes (v.spUe off 2048))
  let v := if o.start then v.modArr o.array fun x =>
      if (x.issuedTag.find? (·.1 = o.slot + m)).any (·.2.2.2 = op) then x.seedTag op (o.slot + m) bytes else x
    else v
  s.setIsl i (v.count 1 16)

/-- Row m of a seed is written, or its fault stops the seed (04 R96, R97). -/
def State.evSeedRow (s : State) (i op cycle : Nat) (o : SeedOp) (m : Nat) (bytes : List Byte) (bad : Bool) : State :=
  let v := s.getIsl i
  let x := v.getArr o.array
  let slot := o.slot + m
  if bad then s.opFault i op 0x0F o.array ueScratchpad cycle
  else
    match seedFlags bytes with
    | none => s.opFault i op 0x0E o.array m cycle
    | some w =>
      if !o.start && (x.accUe slot).isSome then (s.noteUe i).opFault i op 0x0F o.array ueAcc cycle
      else
        let corr := if o.start then 0 else x.accCorr slot
        let s := if corr = 0 then s else
          s.modMem fun t => { t with accCorr := smSet t.accCorr i (satAdd 32 (smGet 0 t.accCorr i) corr) }
        s.setIsl i (v.setArr o.array (x.seedWrite o.start slot w bytes))

/-! ### Weight loads (05 R106) -/

/-- Block b of a weight load is read and aligned: its rows go into the shadow buffers plane by plane from four cycles
on, and the next block follows P cycles later (log 21). -/
def State.evLoadBlock (s : State) (i op cycle : Nat) (o : LoadOp) (b : Nat) (scales : List (List Byte)) : State :=
  let v := s.getIsl i
  let f := FeedDesc.parse o.fd
  let d := FmtDesc.parse (bvBytes 32 o.fmt)
  let ranks := List.range o.arrays.length
  let ext := ranks.flatMap fun a => blockExtents f d (o.base + a * f.array) o.scale a b
  let s := ext.foldl (fun s e => s.noteSp i e.1 e.2) s
  if ext.any fun e => v.spUe e.1 e.2 then s.opFault i op 0x0F 0 ueScratchpad cycle
  else
    let scales := if !d.scaleSrc then ranks.map fun _ => List.replicate 128 (BitVec.ofNat 8 d.tge)
      else if b % 2 = 0 then ranks.map fun a => v.spRead (o.scale + (4 * a + b / 2) * f.scale) 128
      else scales
    let cells := ranks.map fun a => loadSegment v f d o.table (o.base + a * f.array) b (scales.getD a [])
      fun k => Config.freeByte (s.free + 4096 * a + k)
    let v := v.push (cycle + 4) 2 op (.loadPlane b 0 cells)
    let v := if b < 7 then v.push (cycle + d.planes) 1 op (.loadBlock (b + 1) scales) else v
    let v := (v.count 1 (ext.length * ceilDiv (16 * fmtBits d.format) 128)).count 2 (128 * o.arrays.length)
    { s.setIsl i v with free := s.free + 4096 * o.arrays.length }

/-- Plane j of block b goes into the shadow buffers; the last one completes the load. -/
def State.evLoadPlane (s : State) (i op cycle : Nat) (o : LoadOp) (b j : Nat)
    (cells : List (List (List Cell) × List Byte)) : State :=
  let d := FmtDesc.parse (bvBytes 32 o.fmt)
  let last := decide (d.planes ≤ j + 1)
  s.modIsl i fun v =>
    let v := (o.arrays.zip cells).foldl (fun v ac => v.modArr ac.1.1 fun a =>
      let t := (a.buf ac.1.2).writePlane b j d.planes ac.2.1 ac.2.2
      if last && b = 7 then { a.setBuf ac.1.2 (t.finish (loadRecords (FeedDesc.parse o.fd) d)) with loadRec := none }
      else a.setBuf ac.1.2 t) v
    if last then v else v.push (cycle + 1) 2 op (.loadPlane b (j + 1) cells)

/-- Scratchpad offset of an address word of a drain: XD is added, modulo 2^64 (05 R117). -/
def DrainOp.at_ (o : DrainOp) (w : AddrWord) : Nat := (w.off + o.off) % 2 ^ 64

/-- Where the streams of a drained row go: scratchpad writes and strait beats (04 R85, R92). -/
def drainOutputs (o : DrainOp) (d : DrainDesc) (rank m : Nat) (r : DrainedRow) :
    List (Nat × List Byte) × List (BitVec 2 × List Byte) :=
  let row := rank * o.rows + m
  let one (w : AddrWord) (on : Bool) (off : Nat) (bs : List Byte) : List (Nat × List Byte) × List (BitVec 2 × List Byte) :=
    if w.none_ || !on then ([], [])
    else if w.strait then ([], (beatsOf 32 bs).map fun b => (BitVec.ofNat 2 w.port, b))
    else ([(o.at_ w + off, bs)], [])
  let a := one d.dst true (row * d.stride) r.hi
  let b := one d.lo d.pair (row * d.stride) r.lo
  let c := one d.idx true (row * 512) r.idx
  (a.1 ++ (b.1 ++ c.1), a.2 ++ (b.2 ++ c.2))

/-- The drain reads row m of each of its arrays (04 R93). -/
def State.evDrainRow (s : State) (i op cycle : Nat) (o : DrainOp) (m : Nat) : State :=
  let v := s.getIsl i
  let d := DrainDesc.parse o.dd
  let slot := o.slot + m
  match o.arrays.find? fun a => ((v.getArr a).accUe slot).isSome with
  | some a => (s.noteUe i).opFault i op 0x0F a ueAcc cycle
  | none =>
    let corr := (o.arrays.map fun a => (v.getArr a).accCorr slot).sum
    let s := if corr = 0 then s else
      s.modMem fun t => { t with accCorr := smSet t.accCorr i (satAdd 32 (smGet 0 t.accCorr i) corr) }
    let rows := ((List.range o.arrays.length).zip o.arrays).map fun ra =>
      (ra.1, ra.2, drainRowOf d (v.getArr ra.2) slot o.slot (Quad.ofKey o.key) o.stepReg)
    let outs := rows.map fun r => drainOutputs o d r.1 m r.2.2
    let o' := { o with
      kinds := rows.foldl (fun k r => r.2.2.kinds.foldl (· ||| ·) k) o.kinds,
      first := rows.foldl (fun f r => firstOf f (firstInRow r.2.1 slot r.2.2.kinds)) o.first,
      tileHwm := rows.foldl (fun h r => hwmMax h r.2.2.hwm) o.tileHwm,
      rowHwm := rows.foldl (fun h r => smSet h (r.1 * o.rows + m) r.2.2.hwm) o.rowHwm }
    let v := { v with ops := smSet v.ops op (some (.drain o')) }
    let v := v.count 2 rows.length
    s.setIsl i (v.push (cycle + 12) 2 op (.drainWrite (outs.flatMap (·.1)) (outs.flatMap (·.2))))

def Island.writeAll (v : Island) (ws : List (Nat × List Byte)) : Island :=
  ws.foldl (fun v w => (v.spWrite w.1 w.2).count 1 (ceilDiv w.2.length 128)) v

/-- A row's streams are written; a full send queue stops the drain (05 R126, 07 R161). -/
def State.evDrainWrite (s : State) (i op cycle : Nat) (ws : List (Nat × List Byte)) (beats : List (BitVec 2 × List Byte)) : State :=
  let v := (s.getIsl i).writeAll ws
  let r := beats.foldl (fun (r : Island × Option Nat) b =>
    match r.2 with
    | some _ => r
    | none =>
      match r.1.offer b.1.toNat cycle b.2 with
      | some v => (v, none)
      | none => (r.1, some b.1.toNat)) (v, none)
  let s := s.setIsl i r.1
  match r.2 with
  | none => s
  | some p => s.opFault i op 0x11 0 p cycle

/-- The drain ends: HWM records, tile status word and its log record (04 R92, R93, R99). -/
def State.evDrainEnd (s : State) (i cycle : Nat) (o : DrainOp) : State :=
  let v := s.getIsl i
  let d := DrainDesc.parse o.dd
  let word := statusWord o.seq o.first o.kinds
  let hw := if d.hwm.none_ || d.fmt = outRaw then []
    else [(o.at_ d.hwm, leBytes 2 (hwmRecord o.tileHwm).toNat ++
      (List.range (o.arrays.length * o.rows)).flatMap fun k => leBytes 2 (hwmRecord (smGet none o.rowHwm k)).toNat)]
  let v := v.writeAll (hw ++ [(o.at_ d.status, leBytes 8 word.toNat)])
  s.setIsl i (v.logExc ⟨word, s.now, 0, v.pipeline, o.bundle, o.slotIdx, BitVec.ofNat 32 cycle⟩)

/-- Maximum of up to 64 HWM records (05 R114). -/
def hmaxOver (best : Half) (bs : List Byte) (n : Nat) : Half :=
  (List.range n).foldl (fun b k => hwmRecord (hwmMax (hwmOf b) (hwmOf (BitVec.ofNat 16 (leAt bs (2 * k) 2))))) best

/-- The host-memory or scratchpad write of a `DSTART` that finds its start queue full is the DMA
family's; its record waits in the channel until the channel writes it (09 R188). -/
def Island.refuseStart (v : Island) (ch : BitVec 2) (sem : BitVec 5) (desc : BitVec 22) (cycle : Nat) : Island :=
  { v with chan := smMod .reset v.chan ch.toNat fun c => { c with refused := c.refused ++ [⟨sem, desc, v.origin + cycle⟩] } }

/-- A pause bit set or cleared by the pass program takes effect in the cycle after (09 R201). -/
def Island.setPause (v : Island) (ch : BitVec 2) (on : Bool) : Island :=
  { v with chan := smMod .reset v.chan ch.toNat fun c => { c with paused := on } }

/-- The event of a pass, a seed or a drain; none where the operation is gone. -/
def State.ofPass (s : State) (op : Option IslOp) (f : PassOp → State) : State :=
  match op with
  | some (.pass o) => f o
  | _ => s
def State.ofSeed (s : State) (op : Option IslOp) (f : SeedOp → State) : State :=
  match op with
  | some (.seed o) => f o
  | _ => s
def State.ofLoad (s : State) (op : Option IslOp) (f : LoadOp → State) : State :=
  match op with
  | some (.load o) => f o
  | _ => s
def State.ofDrain (s : State) (op : Option IslOp) (f : DrainOp → State) : State :=
  match op with
  | some (.drain o) => f o
  | _ => s

/-- Carry out one event. -/
def State.applyEv (s : State) (i : Nat) (e : Ev) : State :=
  let v := s.getIsl i
  let op := smGet none v.ops e.op
  match e.act with
  | .setX r d => s.setIsl i (v.setX r d)
  | .setXPart r h d =>
    let old := v.getX r
    let sh := 16 * h.toNat
    s.setIsl i (v.setX r ((old &&& ~~~((0xFFFF : Dword) <<< sh)) ||| (d.setWidth 64 <<< sh)))
  | .setH r d => s.setIsl i { v with h := smSet v.h r.toNat d }
  | .setStep d => s.setIsl i { v with stepReg := d }
  | .setV r l => s.setIsl i { v with v := smSet v.v r.toNat l }
  | .setVQuarter r q l => s.setIsl i { v with v := smSet v.v r.toNat (setQuarter (v.getV r) q.toNat l) }
  | .setNext arrays first count a clamped =>
    s.setIsl i ((maskArrays arrays).foldl (fun v k => v.modArr k fun x =>
      { x with slots := (List.range count).foldl (fun m n => smMod .reset m (first + n) fun t =>
          { t with next := a, nextClamped := clamped }) x.slots }) v)
  | .ldRead r off =>
    let s := s.noteSp i off 8
    if v.spUe off 8 then s.opFault i e.op 0x0F 0 ueScratchpad e.due
    else s.setIsl i (v.push (e.due + 3) 0 e.op (.setX r (BitVec.ofNat 64 (leNat (v.spRead off 8)))))
  | .stWrite off bs => s.setIsl i (v.spWrite off bs)
  | .hmaxRead r off n best =>
    let k := min n 64
    let s := s.noteSp i off (2 * k)
    if v.spUe off (2 * k) then s.opFault i e.op 0x0F 0 ueScratchpad e.due
    else
      let b := hmaxOver best (v.spRead off (2 * k)) k
      if n ≤ 64 then s.setIsl i (v.push (e.due + 2) 0 e.op (.setH r b))
      else s.setIsl i (v.push (e.due + 1) 1 e.op (.hmaxRead r (off + 128) (n - 64) b))
  | .vldRead type r off =>
    let n := vecBytes type.toNat
    let s := s.noteSp i off n
    if v.spUe off n then s.opFault i e.op 0x0F 0 ueScratchpad e.due
    else s.setIsl i (v.push (e.due + 3) 0 e.op (.setV r (vldLanes type.toNat (v.spRead off n))))
  | .vldBeat p r left got =>
    match v.arrived p.toNat e.due with
    | [] => s.opFault i e.op 0x10 0 p.toNat e.due
    | b :: _ =>
      let v := { v with rxq := smSet v.rxq p.toNat ((v.rx p.toNat).drop 1) }
      let got := got ++ b.2
      if left ≤ 1 then s.setIsl i (v.push (e.due + 2) 0 e.op (.setV r (vldLanes 4 got)))
      else s.setIsl i (v.push (e.due + 1) 1 e.op (.vldBeat p r (left - 1) got))
  | .vstBeat p b =>
    match v.offer p.toNat e.due b with
    | some v => s.setIsl i v
    | none => s.opFault i e.op 0x11 0 p.toNat e.due
  | .inject => s.ofPass op fun o => s.evInject i e.op o
  | .row m => s.ofPass op fun o => s.evRow i e.op e.due o m
  | .enter m rows => s.ofPass op fun o => s.evEnter i e.op e.due o m rows
  | .footIn m a cols par => s.ofPass op fun o => s.evFootIn i e.op e.due o m a cols par
  | .foot m a cols par => s.ofPass op fun o => s.evFoot i o m a cols par
  | .footBad a c m cols par => s.ofPass op fun o => s.evFootBad i e.op e.due o a c m cols par
  | .loadBlock b scales => s.ofLoad op fun o => s.evLoadBlock i e.op e.due o b scales
  | .loadPlane b j cells => s.ofLoad op fun o => s.evLoadPlane i e.op e.due o b j cells
  | .seedRead m => s.ofSeed op fun o => s.evSeedRead i e.op e.due o m
  | .seedRow m bs bad => s.ofSeed op fun o => s.evSeedRow i e.op e.due o m bs bad
  | .drainRow m => s.ofDrain op fun o => s.evDrainRow i e.op e.due o m
  | .drainWrite ws beats => s.evDrainWrite i e.op e.due ws beats
  | .drainEnd => s.ofDrain op fun o => s.evDrainEnd i e.due o
  | .dmaPause ch on => s.setIsl i (v.setPause ch on)
  | .semInc sem => s.semIncAt i sem e.due
  | .dmaRefuse ch sem desc => s.setIsl i (v.refuseStart ch sem desc e.due)

/-- Steps an event still gives rise to, itself included. -/
def Act.weight (a : Act) : Nat :=
  match a with
  | .row _ => 18
  | .enter _ _ => 17
  | .footIn _ _ _ _ => 2
  | .loadBlock b _ => 14 * (8 - b)
  | .loadPlane _ j _ => 13 - j
  | .seedRead _ | .drainRow _ => 2
  | .ldRead _ _ | .vldRead _ _ _ => 2
  | .hmaxRead _ _ n _ => n + 2
  | .vldBeat _ _ left _ => left + 2
  | _ => 1

def Island.fuel (v : Island) : Nat := (v.sched.map fun e => e.act.weight).sum

/-- Run the events due before cycle t, and those of t whose priority is at most p. -/
def State.runIsl (s : State) (i t p : Nat) : Nat → State
  | 0 => s
  | fuel + 1 =>
    let v := s.getIsl i
    match v.sched with
    | [] => s
    | e :: rest =>
      if decide (e.due < t) || (decide (e.due = t) && decide (e.prio ≤ p)) then
        ((s.setIsl i { v with sched := rest }).applyEv i e).runIsl i t p fuel
      else s

/-- Forget operations with no event left. -/
def Island.tidy (v : Island) (t : Nat) : Island :=
  { v with ops := v.ops.filter fun o => v.sched.any fun e => e.op = o.1,
           banks := v.banks.filter fun b => t ≤ b.1 }

/-- Cycles that a wait takes up to cycle t (05 Table 5.13 `CNT_WAIT`). -/
def Island.waited (v : Island) (t : Nat) : Nat :=
  match v.waiting with
  | some w => t - max v.seqCycle w.cycle
  | none => 0

/-- Bring island i to cycle t: everything before it has happened, and the landings of t. -/
def State.advance (s : State) (i t : Nat) : State :=
  let s := s.runIsl i t 0 (s.getIsl i).fuel
  s.modIsl i fun v => { v.tidy t with seqCycle := max v.seqCycle t, cntWait := v.cntWait + BitVec.ofNat 64 (v.waited t) }

/-- Cycles after its own in which an event still has something to do. -/
def Act.span (a : Act) : Nat :=
  match a with
  | .ldRead _ _ | .vldRead _ _ _ => 3
  | .hmaxRead _ _ n _ => (n - 1) / 64 + 2
  | .vldBeat _ _ left _ => left + 1
  | .seedRead _ => 15
  | .drainRow _ => 12
  | .row _ => 4
  | _ => 0

/-- Cycle by whose end every operation already issued has finished. -/
def Island.quietAt (v : Island) : Nat :=
  v.arr.foldl (fun m a => max m (max a.2.loadEnd (max a.2.seedEnd (max a.2.footEnd a.2.drainEnd))))
    (v.sched.foldl (fun m e => max m (e.due + e.act.span + 1)) v.seqCycle)

/-- Every pass, load, seed, drain and vector operation issued before has finished (05 R122): the slots 2 to 6. -/
def Island.quiet (v : Island) : Bool :=
  v.arr.all (fun a => decide (max (max a.2.loadEnd a.2.seedEnd) (max a.2.footEnd a.2.drainEnd) ≤ v.seqCycle)) &&
    v.sched.all fun e => let x := (v.opAt e.op).2.toNat; x < 2 || x = 7

/-- Let every operation already issued run to its end (05 R126 step 3). -/
def State.runOut (s : State) (i : Nat) : State := s.advance i ((s.getIsl i).quietAt + 1)

/-! ### Opening a bundle (05 R113, R121) -/

/-- The next bundle after `pc`, looping at the ends of the active bodies; `fuel` is the stack depth. -/
def nextBundle (pc : BitVec 13) : List LoopLevel → BitVec 13 × List LoopLevel
  | [] => (pc + 1, [])
  | l :: t =>
    if l.last = pc then
      (if 1 < l.left.toNat then (l.start, { l with left := l.left - 1 } :: t) else nextBundle pc t)
    else (pc + 1, l :: t)

/-- Step over n all-no-operation bundles. -/
def Island.skip (v : Island) : Nat → Island
  | 0 => v
  | n + 1 =>
    let (pc, ls) := nextBundle v.seqPc v.loops
    ({ v with seqPc := pc, loops := ls, nextIssue := v.nextIssue + 1 } : Island).skip n

def State.canIssue (s : State) (i : Nat) : Bool :=
  let v := s.getIsl i
  s.islSt i = stRunning && !v.stopped && !v.starting && v.waiting.isNone

/-- The slots of a bundle issue together: those after one whose data showed a fault in the bundle's own cycle still do
(05 R113, R126). -/
def State.canContinue (s : State) (i : Nat) : Bool :=
  let v := s.getIsl i
  s.canIssue i || (s.islSt i = stFaulted && v.fault.msb && !v.fault.getLsbD 62 && v.faultAt = v.curCycle)

/-- How an 8-byte word of the instruction memory reads; a bundle has four (08 R179, R180). -/
def Island.imemErrOf (v : Island) (w : Nat) : Option LineErr := joinErr (smGet none v.imemErr w) (smGet none v.imemHard w)

/-- Open the next bundle, or continue the one just opened. Answers the issue cycle, or none where the
island issues nothing. -/
def State.issue (s : State) (w : Site) : State × Option Nat :=
  let i := w.island.toNat
  if w.cont then
    if s.canContinue i && (s.getIsl i).curCycle + 1 ≤ (s.getIsl i).nextIssue then (s, some (s.getIsl i).curCycle)
    else (s, none)
  else if !s.canIssue i || (s.getIsl i).ended then (s, none)
  else
    let v := (s.getIsl i).skip w.nops
    let t := v.nextIssue
    let s := (s.setIsl i v).advance i t
    if !s.canIssue i then (s, none)
    else
      let v := s.getIsl i
      let pc := v.seqPc
      let (pc', ls) := nextBundle pc v.loops
      let v := { v with curPc := pc, curCycle := t, nextIssue := t + 1, loopsWas := v.loops, loops := ls, seqPc := pc' }
      let s := s.setIsl i v
      let s := { s with bundle := smSet s.bundle i v }
      if (List.range 4).any fun k => isUe (v.imemErrOf (4 * pc.toNat + k)) then
        ((s.noteUe i).islandFault i ⟨0x0F, false, pc, 0, 0, ueImem, t⟩, none)
      else
        let c := ((List.range 4).filter fun k => isCorr (v.imemErrOf (4 * pc.toNat + k))).length
        (if c = 0 then s else s.modMem fun m => { m with imCorr := smSet m.imCorr i (satAdd 16 (smGet 0 m.imCorr i) c) }, some t)

/-- A slot instruction at its issue cycle: `f` gets the state, the island, the cycle and its operation
number. -/
def State.slot (s : State) (w : Site) (idx : BitVec 3) (f : State → Nat → Nat → Nat → State) : State :=
  match s.issue w with
  | (s, none) => s
  | (s, some t) =>
    let i := w.island.toNat
    let v := s.getIsl i
    f (s.setIsl i { v with nextOp := v.nextOp + 1, ops := smSet v.ops v.nextOp (some (.other v.curPc idx)) })
      i t v.nextOp

/-- A precise fault: the whole bundle is withdrawn and the island stops (05 R126 step 1). -/
def State.preciseFault (s : State) (i : Nat) (idx : BitVec 3) (code array detail t : Nat) : State :=
  let v := smGet Island.reset s.bundle i
  (s.setIsl i v).islandFault i ⟨code, true, v.curPc, idx, array, detail, t⟩

/-- Claim a bank in a cycle for each access; the detail of the first conflict (05 R104). -/
def bankCheck (banks : List (Nat × Nat)) : List (Nat × Nat) → Option Nat
  | [] => none
  | (c, b) :: t =>
    if c % 8 = 7 then some (b + 16)
    else if banks.contains (c, b) then some b
    else bankCheck ((c, b) :: banks) t

def granules (off n : Nat) : List Nat :=
  if n = 0 then [] else (List.range ((off + n - 1) / 128 - off / 128 + 1)).map fun k => (off / 128 + k) % 16

/-- A scheduled access judged at issue: range, then banks; `f` goes on where both pass (05 R104, R113). -/
def State.access (s : State) (i : Nat) (idx : BitVec 3) (t off n : Nat) (acc : List (Nat × Nat)) (f : State → State) : State :=
  match s.spOutside i off n with
  | some _ => s.preciseFault i idx 0x0B 0 off t
  | none =>
    match bankCheck (s.getIsl i).banks acc with
    | some d => s.preciseFault i idx 0x0A 0 d t
    | none => f (s.modIsl i fun v => ({ v with banks := acc ++ v.banks } : Island).count 1 acc.length)

end Sys2Proof.Machine
end

