-- ==== Sys2Proof/Machine/Scalar.lean ====
section
/-! DEFINITION. The scalar slot (05 R114, Tables 5.4, 5.8). -/

namespace Sys2Proof.Machine

/-- `XA op XB` (05 R114). -/
def aluOp (f : AluOp) (a b : Dword) : Dword :=
  let sh := (b.extractLsb' 0 6).toNat
  match f with
  | .add => a + b
  | .sub => a - b
  | .and => a &&& b
  | .or => a ||| b
  | .xor => a ^^^ b
  | .sll => a <<< sh
  | .srl => a >>> sh
  | .sra => a.sshiftRight sh
  | .mul => a * b
  | .min => if a.toInt ≤ b.toInt then a else b
  | .max => if a.toInt ≤ b.toInt then b else a
  | .slt => if a.toInt < b.toInt then 1 else 0

/-- A scalar result written in cycle t is seen from t + 1 (05 Table 5.8). -/
def State.result (s : State) (i op t : Nat) (a : Act) : State := s.modIsl i fun v => v.push (t + 1) 0 op a

/-- Offset XA + k × imm, modulo 2^64. -/
def offsetOf (xa : Dword) (k : Nat) (imm : BitVec w) : Nat :=
  (xa + BitVec.ofNat 64 k * imm.signExtend 64).toNat

/-- `ALU` (05 R114). -/
def execAlu (w : Site) (f : AluOp) (xd xa xb : BitVec 5) (s : State) : Out :=
  .next (s.slot w 0 fun s i t op =>
    let v := s.getIsl i
    s.result i op t (.setX xd (aluOp f (v.getX xa) (v.getX xb))))

/-- `ADDI` (05 R114). -/
def execAddi (w : Site) (xd xa : BitVec 5) (imm : Half) (s : State) : Out :=
  .next (s.slot w 0 fun s i t op =>
    s.result i op t (.setX xd ((s.getIsl i).getX xa + imm.signExtend 64)))

/-- `LIH` (05 R114): one quarter of XD; the other bits keep what they hold when it lands. -/
def execLih (w : Site) (xd : BitVec 5) (h : BitVec 2) (imm : Half) (s : State) : Out :=
  .next (s.slot w 0 fun s i t op => s.result i op t (.setXPart xd h imm))

/-- `LD` (05 R114): bank read in t + 1, XD seen from t + 4. -/
def execLd (w : Site) (xd xa : BitVec 5) (imm : Half) (s : State) : Out :=
  .next (s.slot w 0 fun s i t op =>
    let off := offsetOf ((s.getIsl i).getX xa) 8 imm
    s.access i 0 t off 8 ((granules off 8).map fun b => (t + 1, b)) fun s =>
      s.modIsl i fun v => v.push (t + 1) 1 op (.ldRead xd off))

/-- `ST` (05 R114): bank write in t + 1. -/
def execSt (w : Site) (xs xa : BitVec 5) (imm : Half) (s : State) : Out :=
  .next (s.slot w 0 fun s i t op =>
    let off := offsetOf ((s.getIsl i).getX xa) 8 imm
    s.access i 0 t off 8 ((granules off 8).map fun b => (t + 1, b)) fun s =>
      s.modIsl i fun v => v.push (t + 1) 2 op (.stWrite off (leBytes 8 (v.getX xs).toNat)))

/-- `HMAX` (05 R114): XB records from XA on, 64 a cycle from t + 1; HD seen from t + 2 + ⌈n ÷ 64⌉. -/
def execHmax (w : Site) (hd : BitVec 4) (xa xb : BitVec 5) (acc : Bool) (s : State) : Out :=
  .next (s.slot w 0 fun s i t op =>
    let v := s.getIsl i
    let off := (v.getX xa).toNat
    let n := (v.getX xb).toNat
    let best := if acc then v.getH hd else 0x8000
    if n = 0 then s.modIsl i fun v => v.push (t + 2) 0 op (.setH hd best)
    else
      s.access i 0 t off (2 * n)
        ((List.range (min (ceilDiv n 64) 0x10000)).flatMap fun k =>
          (granules (off + 128 * k) (min 128 (2 * n - 128 * k))).map fun b => (t + 1 + k, b)) fun s =>
        s.modIsl i fun v => v.push (t + 1) 1 op (.hmaxRead hd off n best))

/-- `HSET` (05 R114). -/
def execHset (w : Site) (hd : BitVec 4) (rec : Half) (s : State) : Out :=
  .next (s.slot w 0 fun s i t op => s.result i op t (.setH hd rec))

/-- `STEP` (05 R114): OP 0 sets from XA, OP 1 adds the immediate modulo 2^32. -/
def execStepOp (w : Site) (o : Bool) (xa : BitVec 5) (imm : Half) (s : State) : Out :=
  .next (s.slot w 0 fun s i t op =>
    let v := s.getIsl i
    s.result i op t (.setStep (if o then v.stepReg + imm.zeroExtend 32 else (v.getX xa).extractLsb' 0 32)))

end Sys2Proof.Machine
end

