-- ==== Sys2Proof/Machine/Seq.lean ====
section
/-! DEFINITION. The branch slot and the waits (05 R115, R120 to R122, Table 5.5). -/

namespace Sys2Proof.Machine

/-- Where issue goes on after the bundle issued in the cycle at hand. -/
def Island.goto (v : Island) (pc : BitVec 13) (ls : List LoopLevel) : Island := { v with seqPc := pc, loops := ls }

/-- A branch out of the innermost active body pops that level (05 R121). -/
def popOutside (ls : List LoopLevel) (target : BitVec 13) : List LoopLevel :=
  match ls with
  | [] => []
  | l :: t => if l.start ≤ target && target ≤ l.last then l :: t else t

/-- `LOOP` (05 R121): an immediate count of 0 or an `END` before the next bundle cannot have been
loaded. -/
def execLoop (w : Site) (src : Bool) (count : BitVec 12) (xa : BitVec 5) (last : BitVec 13) (s : State) : Out :=
  if !src ∧ count = 0 then .refused (.illFormed "LOOP")
  else .next (s.slot w 1 fun s i t _ =>
    let v := s.getIsl i
    let n : Dword := if src then v.getX xa else count.zeroExtend 64
    if last ≤ v.curPc then s
    else if n = 0 then s.setIsl i (v.goto (last + 1) v.loopsWas)
    else if 4 ≤ v.loopsWas.length then s.preciseFault i 1 0x0C 0 0 t
    else s.setIsl i (v.goto (v.curPc + 1) (⟨v.curPc + 1, last, n⟩ :: v.loopsWas)))

/-- `JMP` (05 R115, R121). -/
def execJmp (w : Site) (target : BitVec 13) (s : State) : Out :=
  .next (s.slot w 1 fun s i _ _ =>
    let v := s.getIsl i
    s.setIsl i (v.goto target (popOutside v.loopsWas target)))

/-- `XA COND XB` (05 Table 5.5). -/
def condHolds (c : Cond) (a b : Dword) : Bool :=
  match c with
  | .eq => a = b
  | .ne => a ≠ b
  | .lt => a.toInt < b.toInt
  | .ge => b.toInt ≤ a.toInt
  | .ltu => a.toNat < b.toNat
  | .geu => b.toNat ≤ a.toNat

/-- `BCC` (05 R115, R121): the next bundle issues in t + 3, taken or not. -/
def execBcc (w : Site) (c : Cond) (xa xb : BitVec 5) (target : BitVec 13) (s : State) : Out :=
  .next (s.slot w 1 fun s i t _ =>
    let v := s.getIsl i
    let v := if condHolds c (v.getX xa) (v.getX xb) then v.goto target (popOutside v.loopsWas target) else v
    s.setIsl i { v with nextIssue := t + 3 })

/-- A semaphore reaches the count of a wait: subtract it, issue resumes after cycle t. -/
def Island.takeSem (v : Island) (sem : BitVec 5) (count : Half) : Island := v.setSem sem (v.getSem sem - count)

/-- `WAIT` (05 R115, R120): satisfied in its issue cycle, or the island waits. -/
def execWait (w : Site) (sem : BitVec 5) (count : Half) (s : State) : Out :=
  if count = 0 then .refused (.illFormed "WAIT")
  else .next (s.slot w 1 fun s i t _ =>
    s.modIsl i fun v =>
      if count ≤ v.getSem sem then v.takeSem sem count
      else { v with waiting := some ⟨sem, count, s.clk.now, t, none, true⟩ })

/-- The wait of island i ends in cycle t′: what the rest of its bundle sees, and the semaphore less
the count (05 R120, R123). -/
def State.endWait (s : State) (i : Nat) (w : Waiting) : State :=
  let v := s.getIsl i
  let t := max w.cycle v.seqCycle
  let v := { v with waiting := none, curCycle := t, nextIssue := t + 1 }
  { s.setIsl i (v.takeSem w.sem w.count) with bundle := smSet s.bundle i v }

/-- `WAIT_SATISFIED` (05 R120): a running island's wait whose semaphore has reached the count. -/
def execWaitSatisfied (i : BitVec 8) (s : State) : Out :=
  .next (
    let v := s.getIsl i.toNat
    match v.waiting with
    | none => s
    | some w =>
      if s.islSt i.toNat = stRunning ∧ !v.stopped ∧ w.arrived ∧ w.count ≤ v.getSem w.sem then s.endWait i.toNat w
      else s)

/-- `WAIT_TIMEOUT` (05 R120): the wait has lasted `WAIT_LIMIT` ticks and the semaphore is still short. -/
def execWaitTimeout (i : BitVec 8) (s : State) : Out :=
  .next (
    let v := s.getIsl i.toNat
    match v.waiting with
    | none => s
    | some w =>
      if s.islSt i.toNat = stRunning ∧ v.waitLimit ≠ 0 ∧ w.since + v.waitLimit.toNat ≤ s.clk.now ∧
          ¬ (w.arrived ∧ w.count ≤ v.getSem w.sem) then
        s.islandFault i.toNat ⟨0x13, false, v.curPc, 1, 0, w.sem.toNat, v.seqCycle⟩
      else s)

/-- `BARRIVE` (05 R122): the arrival follows once earlier operations have finished, then the wait. -/
def execBarrive (w : Site) (group : Byte) (sem : BitVec 5) (s : State) : Out :=
  .next (s.slot w 1 fun s i t _ =>
    s.modIsl i fun v => { v with waiting := some ⟨sem, 1, s.clk.now, t, some group, false⟩ })

/-- `DELAY` (05 R115): no bundle in the next n cycles. -/
def execDelay (w : Site) (n : Half) (s : State) : Out :=
  if n = 0 then .refused (.illFormed "DELAY")
  else .next (s.slot w 1 fun s i t _ => s.modIsl i fun v => { v with nextIssue := t + 1 + n.toNat })

/-- `END` (05 R115): the island stops issuing and stays RUNNING. -/
def execEndRun (w : Site) (s : State) : Out :=
  .next (s.slot w 1 fun s i _ _ => s.modIsl i fun v => { v with ended := true })

end Sys2Proof.Machine
end

