-- ==== Sys2Proof/Machine/ArrayOps.lean ====
section
/-! DEFINITION. The array-control, feeder and drain slots: `PASS`, `SEED`, `ANCH`, `LOADW` and `DRAIN`
with the schedule checks of 05 R124, 04 R80, R94, R96 (03, 04, 05 R106 to R108, R116 to R119). -/

namespace Sys2Proof.Machine

/-- Slot number of an array-control instruction (05 Table 5.3). -/
def ctlSlot (b : Bool) : BitVec 3 := if b then 3 else 2

/-- A precise condition: fault code, array, detail. -/
abbrev Check := Option (Nat × Nat × Nat)

/-- The first array of a list that breaks a rule, as a fault of that array. -/
def onArrays (code : Nat) (v : Island) (as : List Nat) (bad : Array → Bool) : Check :=
  (as.find? fun a => bad (v.getArr a)).map fun a => (code, a, a)

/-- The first slot of an array that breaks a rule. -/
def onSlots (code : Nat) (v : Island) (as ss : List Nat) (bad : Array → Nat → Bool) : Check :=
  as.findSome? fun a => (ss.find? (bad (v.getArr a))).map fun k => (code, a, k)

def firstCheck (l : List Check) : Check := l.findSome? id

/-- Continue unless a precise condition holds. -/
def State.checked (s : State) (i : Nat) (idx : BitVec 3) (t : Nat) (c : Check) (f : State → State) : State :=
  match c with
  | some (code, a, d) => s.preciseFault i idx code a d t
  | none => f s

/-- `ADDR_RANGE` over extents (05 R113, R105). -/
def State.rangeCheck (s : State) (i : Nat) (ext : List (Nat × Nat)) : Check :=
  (ext.findSome? fun e => s.spOutside i e.1 e.2).map fun o => (0x0B, 0, o)

/-! ### `PASS` (03 R57 to R75, R425, 05 R107, R116, R124) -/

/-- The tile a pass uses on an array (03 R425): the shadow tile with `SWAP`. -/
def Array.usedBuf (a : Array) (swap : Bool) : Bool := a.active ^^ swap

/-- Schedule checks of a pass injected at `inj` (05 Table 5.11 in code order). -/
def passChecks (v : Island) (o : PassOp) (swap : Bool) (inj : Nat) : List Check :=
  let ss := (List.range o.rows).map (o.slot + ·)
  let want := BitVec.ofInt 10 (o.ec + 46)
  [ onArrays 0x02 v o.arrays fun a => swap && decide (inj < a.loadEnd),
    onArrays 0x03 v o.arrays fun a => match a.passInj with
      | some j => decide (inj < j + a.passRows)
      | none => false,
    if o.start then none else onSlots 0x05 v o.arrays (ss.filter (· < 128)) fun a k =>
      slotModeBad (a.issued k).1 (a.issued k).2 o.mode (if modeEcAnchor o.mode then some want else none),
    if 128 < o.slot + o.rows then some (0x06, 0, o.slot) else none,
    onArrays 0x07 v o.arrays fun a => decide (inj < a.seedEnd),
    onSlots 0x08 v o.arrays ss fun a k => decide (inj + (k - o.slot + 1) * o.p + o.p + 128 < smGet 0 a.readOf k) ]

/-- `TILE_MODE` (03 R425). -/
def tileModeBad (mode : Nat) (ec : Int) (t : Tile) : Bool :=
  t.loaded &&
    (if modeCommon mode then decide (t.ecw ≠ some ec)
     else if mode = 3 then !t.bin1
     else t.ecw.isSome)

/-- The later of a recorded cycle and a new one. -/
def smMax (m : SMap Nat) (k n : Nat) : SMap Nat := smMod 0 m k (max n)

/-- What issuing a pass as operation `op` leaves in an array's records. -/
def Array.passIssued (a : Array) (op : Nat) (o : PassOp) (swap : Bool) (inj : Nat) : Array :=
  let ks := List.range o.rows
  { a with
    active := a.usedBuf swap, passInj := some inj, passRows := o.rows * o.p,
    swapInj := if swap then some inj else a.swapInj,
    swaps := if swap then (a.swaps.filter fun j => inj < j + 255) ++ [inj] else a.swaps,
    footEnd := max a.footEnd (inj + o.rows * o.p + o.p + 255),
    footOf := ks.foldl (fun m k => smMax m (o.slot + k) (inj + (k + 1) * o.p + o.p + 256)) a.footOf,
    issuedTag := if o.start then
        ks.foldl (fun m k => smSet m (o.slot + k) (BitVec.ofNat 4 o.mode,
          if modeEcAnchor o.mode then BitVec.ofInt 10 (o.ec + 46) else (a.issued (o.slot + k)).2, op)) a.issuedTag
      else a.issuedTag }

/-- Events of a pass: injection, and each row as it is taken. -/
def Island.pushRows (v : Island) (op t p rows : Nat) : Island :=
  (List.range rows).foldl (fun v m => v.push (t + m * p) 1 op (.row m)) v

/-- The rule of `ECW` (05 Table 5.2, R108): a weight feed with a rounding-alignment format and `SCHED` = 0. -/
def ecwFault (f : FeedDesc) (d : FmtDesc) : Bool := f.ecw && (d.role || !fmtIsRounding d.format || d.sched)

/-- What issuing a pass leaves in the island's records: its arrays', the beat and activity counts and its operation. -/
def Island.passRecords (v : Island) (op : Nat) (o : PassOp) (swap : Bool) (inj : Nat) : Island :=
  let v := o.arrays.foldl (fun v a => v.modArr a fun x => x.passIssued op o swap inj) v
  let v := v.count 0 (o.rows * o.p * o.arrays.length)
  { v with cntBeats := v.cntBeats + BitVec.ofNat 64 (o.rows * o.p * o.arrays.length), ops := smSet v.ops op (some (.pass o)) }

/-- A pass whose checks are passed starts: its format descriptor is judged as it stands (05 R426). -/
def State.startPass (s : State) (i op t : Nat) (o : PassOp) (swap : Bool) : State :=
  let f := FeedDesc.parse o.fd
  let v := (s.getIsl i).passRecords op o swap (t + 4)
  let s := s.noteSp i f.fmtOff 32
  let bytes := bvBytes 32 o.fmt
  if v.spUe f.fmtOff 32 then (s.setIsl i v).opFault i op 0x0F 0 ueScratchpad t
  else if (fmtCheck i bytes).isSome || ecwFault f (FmtDesc.parse bytes) then (s.setIsl i v).opFault i op 0x15 0 f.fmtOff t
  else s.setIsl i ((v.push (t + 4) 1 op .inject).pushRows op t o.p o.rows)

/-- The pass that an instruction issues in cycle t. -/
def passOf (v : Island) (i t : Nat) (arrays : Byte) (pd : BitVec 4) (xk : BitVec 5) (s : Bool) (swap : Bool)
    (slotAdd : BitVec 7) (idx : BitVec 3) : PassOp :=
  let d := PassDesc.parse (smGet 0 v.pd pd.toNat)
  let fd := smGet 0 v.fd d.afd
  let f := FeedDesc.parse fd
  let fmt := v.spRead f.fmtOff 32
  let as := maskArrays arrays
  let use : SMap Bool := as.map fun a => (a, (v.getArr a).usedBuf swap)
  let tile := (v.getArr (as.headD 0)).tileRec (smGet false use (as.headD 0))
  { cycle := t, arrays := as, mode := d.mode, slot := d.slot + slotAdd.toNat, rows := d.rows,
    p := if modeTwoBeat d.mode then 2 else tile.p, kOffset := ((v.getX xk).extractLsb' 0 28).toNat,
    kRows := d.kRows, start := d.start || s, ec := d.ec, fd := fd, fmt := BitVec.ofNat 256 (leNat fmt),
    base := (v.getX (BitVec.ofNat 5 f.baseX)).toNat,
    scale := scaleBase i (FmtDesc.parse fmt) (v.getX (BitVec.ofNat 5 f.scaleX)), useBuf := use, anchors := [],
    bundle := v.curPc, slotIdx := idx }

/-- The extents a pass and its format descriptor read. -/
def passReads (i : Nat) (o : PassOp) : List (Nat × Nat) :=
  let f := FeedDesc.parse o.fd
  let bytes := bvBytes 32 o.fmt
  let d := FmtDesc.parse bytes
  if (fmtCheck i bytes).isSome then [(f.fmtOff, 32)]
  else (f.fmtOff, 32) :: ((if tableBytes d = 0 then [] else [(offsetIn i d.tableAddr, tableBytes d)]) ++
    (List.range o.rows).flatMap (passExtents o))

/-- `PASS` (03 R58, 05 R116, R123, R124). -/
def execPass (w : Site) (slotB : Bool) (arrays : Byte) (pd : BitVec 4) (xk : BitVec 5) (st sw : Bool)
    (slotAdd : BitVec 7) (s : State) : Out :=
  if arrays = 0 then .refused (.illFormed "PASS")
  else .next (s.slot w (ctlSlot slotB) fun s i t op =>
    let v := s.getIsl i
    let swap := sw || (PassDesc.parse (smGet 0 v.pd pd.toNat)).swap
    let o := passOf v i t arrays pd xk st swap slotAdd (ctlSlot slotB)
    s.checked i (ctlSlot slotB) t
      (firstCheck (passChecks v o swap (t + 4) ++ [s.rangeCheck i (passReads i o),
        onArrays 0x14 v o.arrays fun a => tileModeBad o.mode o.ec (a.tileRec (a.usedBuf swap))])) fun s =>
      s.startPass i op t o swap)

/-! ### `SEED` (04 R95 to R97) -/

/-- A row of a seed that adds meets a slot of another mode or anchor (04 R80, R97): judged in the issue cycle, as 05
Table 5.11 has it, by the row as it stands then (log 15). -/
def seedModeBad (v : Island) (o : SeedOp) (a : Array) (k : Nat) : Bool :=
  match seedFlags (v.spRead (o.src + 2048 * (k - o.slot)) 2048) with
  | some w => slotModeBad (a.issued k).1 (a.issued k).2 (seedMode w) (if seedMode w = modeComp then none else some (seedAnchor w))
  | none => false

def seedChecks (v : Island) (o : SeedOp) : List Check :=
  let ss := (List.range o.rows).map (o.slot + ·)
  [ if o.start then none else onSlots 0x05 v [o.array] (ss.filter (· < 128)) (seedModeBad v o),
    if 128 < o.slot + o.rows then some (0x06, o.array, o.slot) else none,
    onArrays 0x07 v [o.array] fun a => decide (a.footEnd ≠ 0) && decide (o.cycle ≤ a.footEnd),
    onSlots 0x08 v [o.array] ss fun a k => decide (o.cycle + 4 * (k - o.slot) + 15 < smGet 0 a.readOf k) ]

/-- Records and events of a seed: row m read from t + 4m, written in t + 4m + 15 (05 Table 5.8). -/
def Island.seedStart (v : Island) (op : Nat) (o : SeedOp) : Island :=
  let v := { v with ops := smSet v.ops op (some (.seed o)) }
  let v := v.modArr o.array fun a =>
    { a with seedEnd := max a.seedEnd (o.cycle + 4 * o.rows + 12),
             footOf := (List.range o.rows).foldl (fun m k => smMax m (o.slot + k) (o.cycle + 4 * k + 16)) a.footOf }
  let v := if o.start then (List.range o.rows).foldl (fun v m => v.modArr o.array fun a =>
      a.seedTag op (o.slot + m) (v.spRead (o.src + 2048 * m) 2048)) v
    else v
  (List.range o.rows).foldl (fun v m => v.push (o.cycle + 4 * m) 1 op (.seedRead m)) v

/-- `SEED` (04 R96, 05 R116). -/
def execSeed (w : Site) (slotB : Bool) (array : BitVec 3) (slotBase rowsM1 : BitVec 7) (start : Bool)
    (xa : BitVec 5) (s : State) : Out :=
  .next (s.slot w (ctlSlot slotB) fun s i t op =>
    let v := s.getIsl i
    let o : SeedOp := ⟨t, array.toNat, slotBase.toNat, rowsM1.toNat + 1, start, (v.getX xa).toNat, v.curPc, ctlSlot slotB⟩
    s.checked i (ctlSlot slotB) t
      (firstCheck (seedChecks v o ++ [s.rangeCheck i [(o.src, 2048 * o.rows)]])) fun s =>
      s.modIsl i fun v => v.seedStart op o)

/-! ### `ANCH` (04 R81) -/

/-- The anchor and whether it was clamped. -/
def anchorOf (v : Island) (src : AnchSrc) : BitVec 10 × Bool :=
  match src with
  | .imm a => (a, false)
  | .hwm hw ha adj =>
    match hwmOf (v.getH hw), hwmOf (v.getH ha) with
    | some x, some y =>
      let a := x + y + 5 + adj.toInt
      (BitVec.ofInt 10 (max (-512) (min 511 a)), a < -512 || 511 < a)
    | _, _ => (0, false)

/-- `ANCH` (04 R81, 05 R116): `NEXT_ANCHOR` written in t + 1. -/
def execAnch (w : Site) (slotB : Bool) (arrays : Byte) (src : AnchSrc) (xs : BitVec 5) (s : State) : Out :=
  if arrays = 0 then .refused (.illFormed "ANCH")
  else .next (s.slot w (ctlSlot slotB) fun s i t op =>
    let v := s.getIsl i
    let r := v.getX xs
    let first := (r.extractLsb' 0 7).toNat
    let count := (r.extractLsb' 8 7).toNat + 1
    let (a, cl) := anchorOf v src
    s.checked i (ctlSlot slotB) t (if 128 < first + count then some (0x06, 0, first) else none) fun s =>
      s.modIsl i fun v => v.push (t + 1) 0 op (.setNext arrays first count a cl))

/-! ### `LOADW` (05 R106, R108, R124, R426) -/

/-- The format descriptor a load reads breaks a rule of 02 R43, whatever its `ROLE` says its use as weights needs
`SCHED` for a fixed format, or the rule of `ECW` (05 R426). -/
def loadDescBad (i : Nat) (f : FeedDesc) (bytes : List Byte) : Bool :=
  let d := FmtDesc.parse bytes
  (fmtCheck i bytes).isSome || (!fmtIsRounding d.format && !d.sched) || ecwFault f d

/-- Records and events of a load: block b is read from t + b × P on (05 R106). -/
def Island.loadStart (v : Island) (op : Nat) (o : LoadOp) : Island :=
  let d := FmtDesc.parse (bvBytes 32 o.fmt)
  let v := { v with ops := smSet v.ops op (some (.load o)) }
  let v := o.arrays.foldl (fun v a => v.modArr a.1 fun x =>
    { x with loadEnd := o.cycle + 8 * d.planes + 4, loadRec := some (a.2, loadRecords (FeedDesc.parse o.fd) d) }) v
  v.push o.cycle 1 op (.loadBlock 0 [])

/-- `LOADW` (05 R106): the descriptors and the codebook table are read in the issue cycle, the tile block by block (log
21). The `ROLE` of the descriptor is not asked: the use says that these are weights (log 85). -/
def execLoadw (w : Site) (arrays : Byte) (fd xa : BitVec 5) (s : State) : Out :=
  if arrays = 0 then .refused (.illFormed "LOADW")
  else .next (s.slot w 4 fun s i t op =>
    let v := s.getIsl i
    let as := maskArrays arrays
    let fbits := smGet 0 v.fd fd.toNat
    let f := FeedDesc.parse fbits
    let bytes := v.spRead f.fmtOff 32
    let d := FmtDesc.parse bytes
    let bad := loadDescBad i f bytes
    let base := (v.getX xa).toNat
    let sBase := scaleBase i d (v.getX (BitVec.ofNat 5 f.scaleX))
    let ranks := (List.range as.length).zip as
    let tab := if tableBytes d = 0 then [] else [(offsetIn i d.tableAddr, tableBytes d)]
    let ext := if bad then [(f.fmtOff, 32)]
      else ranks.flatMap fun ra => loadExtents i f d (base + ra.1 * f.array) sBase ra.1
    s.checked i 4 t (firstCheck
      [ onArrays 0x01 v as fun a => match a.swapInj with
          | some j => decide (t + 4 < j + 256)
          | none => false,
        onArrays 0x04 v as fun a => decide (t < a.loadEnd),
        s.rangeCheck i ext ]) fun s =>
      let reads := (f.fmtOff, 32) :: (if bad then [] else tab)
      let s := reads.foldl (fun s e => s.noteSp i e.1 e.2) s
      let table := tableOf v i d
      if reads.any fun e => v.spUe e.1 e.2 then s.opFault i op 0x0F 0 ueScratchpad t
      else if bad then s.opFault i op 0x15 0 f.fmtOff t
      else
        match (if fmtIsRounding d.format then none else codebookFault d table) with
        | some c => s.opFault i op 0x0D 0 c t
        | none =>
          s.modIsl i fun v => v.loadStart op
            { cycle := t, arrays := as.map fun a => (a, !(v.getArr a).active), fd := fbits,
              fmt := BitVec.ofNat 256 (leNat bytes), table := table, base := base, scale := sBase, bundle := v.curPc,
              slotIdx := 4 })

/-! ### `DRAIN` (04 R84 to R94, 05 R117, R119) -/

/-- The scratchpad extents a drain writes. -/
def drainExtents (o : DrainOp) (d : DrainDesc) : List (Nat × Nat) :=
  let n := o.arrays.length * o.rows
  let rows (w : AddrWord) (on : Bool) (stride len : Nat) : List (Nat × Nat) :=
    if !on || w.none_ || w.strait then [] else (List.range n).map fun k => (o.at_ w + k * stride, len)
  rows d.dst true d.stride d.rowBytes ++ rows d.lo d.pair d.stride d.rowBytes ++ rows d.idx true 512 512 ++
    (if d.hwm.none_ || d.fmt = outRaw then [] else [(o.at_ d.hwm, 2 + 2 * n)]) ++ [(o.at_ d.status, 8)]

/-- Bank accesses of a drain in the one cycle 04 R93 fixes: its HWM records and status word, one for each bank (log 68). -/
def drainBanks (o : DrainOp) (d : DrainDesc) : List (Nat × Nat) :=
  let hw := if d.hwm.none_ || d.fmt = outRaw then [] else granules (o.at_ d.hwm) (2 + 2 * (o.arrays.length * o.rows))
  ((hw ++ granules (o.at_ d.status) 8).eraseDups).map fun b => (o.cycle + o.rows * d.w + 14, b)

def drainChecks (v : Island) (o : DrainOp) (w : Nat) : List Check :=
  let ss := (List.range o.rows).map (o.slot + ·)
  [ if 128 < o.slot + o.rows then some (0x06, 0, o.slot) else none,
    onSlots 0x08 v o.arrays ss fun a k => decide (o.cycle + (k - o.slot) * w < smGet 0 a.footOf k),
    onArrays 0x09 v o.arrays fun a => decide (o.cycle < a.drainEnd) ]

/-- Records and events of a drain. -/
def Island.drainStart (v : Island) (op w : Nat) (o : DrainOp) : Island :=
  let v := { v with ops := smSet v.ops op (some (.drain o)), drainSeq := v.drainSeq + 1 }
  let v := o.arrays.foldl (fun v a => v.modArr a fun x =>
    { x with drainEnd := o.cycle + o.rows * w + 15,
             readOf := (List.range o.rows).foldl (fun m k => smMax m (o.slot + k) (o.cycle + k * w + 1)) x.readOf }) v
  let v := (List.range o.rows).foldl (fun v m => v.push (o.cycle + m * w) 1 op (.drainRow m)) v
  v.push (o.cycle + o.rows * w + 14) 2 op .drainEnd

/-- `DRAIN` (04 R84, R93, 05 R117). -/
def execDrain (w : Site) (arrays : Byte) (dd : BitVec 4) (slotAdd : BitVec 7) (xd : BitVec 5) (s : State) : Out :=
  if arrays = 0 then .refused (.illFormed "DRAIN")
  else .next (s.slot w 5 fun s i t op =>
    let v := s.getIsl i
    let bits := smGet 0 v.dd dd.toNat
    let d := DrainDesc.parse bits
    let o : DrainOp :=
      { cycle := t, arrays := maskArrays arrays, dd := bits, slot := d.slot + slotAdd.toNat, rows := d.rows,
        off := (v.getX xd).toNat, key := v.drainKey, stepReg := v.stepReg, seq := v.drainSeq, kinds := 0,
        first := none, tileHwm := none, rowHwm := [], bundle := v.curPc, slotIdx := 5 }
    s.checked i 5 t (firstCheck (drainChecks v o d.w ++
        [(bankCheck v.banks (drainBanks o d)).map fun b => (0x0A, 0, b), s.rangeCheck i (drainExtents o d)])) fun s =>
      s.modIsl i fun v => ({ v with banks := drainBanks o d ++ v.banks } : Island).drainStart op d.w o)

end Sys2Proof.Machine
end

