-- ==== Sys2Proof/Machine/Strait.lean ====
section
/-! DEFINITION. The strait network: link directions of routes, departures and arrivals of beats
(07 R159 to R163, 05 R109). -/

namespace Sys2Proof.Machine

/-- The router a hop of direction d leads to (0 north, 1 east, 2 south, 3 west), with the causeway
crossings of 07 R159; `none` where there is no link. -/
def hopTo (i d : Nat) : Option Nat :=
  let x := i % 16
  let y := i / 16 % 8
  match d with
  | 0 => if y = 0 then none else some (i - 16)
  | 1 => if x = 15 then (if i < 128 then some (128 + 16 * y) else none) else some (i + 1)
  | 2 => if y = 7 then none else some (i + 16)
  | _ => if x = 0 then (if 128 ≤ i then some (i - 128 + 15) else none) else some (i - 1)

/-- A hop that crosses the causeway. -/
def crosses (i d : Nat) : Bool := (d = 1 && i % 16 = 15) || (d = 3 && i % 16 = 0)

/-- Routers a route visits after its source; `none` where it runs off an edge (07 R162). -/
def routePath (i : Nat) : List (BitVec 2) → Option (List Nat)
  | [] => some []
  | d :: t =>
    match hopTo i d.toNat with
    | none => none
    | some j => (routePath j t).map (j :: ·)

/-- Link directions of a route: router left and direction. -/
def routeLinks (i : Nat) : List (BitVec 2) → List (Nat × Nat)
  | [] => []
  | d :: t => (i, d.toNat) :: routeLinks ((hopTo i d.toNat).getD i) t

def routeCrossings (c : Circuit) : Nat := ((routeLinks c.src.toNat c.route).filter fun l => crosses l.1 l.2).length

/-- The side by which the last hop arrives. -/
def Circuit.dstPort (c : Circuit) : Nat := match c.route.getLast? with
  | none => 0
  | some d => (d.toNat + 2) % 4
def Circuit.srcPort (c : Circuit) : Nat := (c.route.headD 0).toNat

/-- Cycles from departure to arrival (07 R161): 8 for a hop on the die, 24 for a crossing. -/
def Circuit.latency (c : Circuit) : Nat := 8 * (c.route.length - routeCrossings c) + 24 * routeCrossings c

def State.circuitFrom (s : State) (i p : Nat) : Option Circuit :=
  s.circ.find? fun c => c.src.toNat = i && c.srcPort = p

/-- The first frame cycle after u that is a slot of the mask. -/
def slotAfter (slots : Byte) (u : Nat) : Option Nat := ((List.range 8).find? fun k => slots.getLsbD ((u + 1 + k) % 8)).map (u + 1 + ·)

/-- The frame cycle in which the head beat of a port departs: the first slot of its circuit after it was offered and
after the departure before it (07 R161). -/
def Island.departs (v : Island) (c : Circuit) (p : Nat) : Option Nat :=
  (v.tx p).head?.bind fun b => slotAfter c.slots (match v.lastDep.find? (·.1 = p) with
    | some d => max b.1 d.2
    | none => b.1)

/-- `STRAIT_BEAT_DEPART` (07 R161): the head beat leaves in its frame cycle, which the tick at hand has reached. -/
def execStraitBeatDepart (isl : BitVec 8) (port : BitVec 2) (cycle : Nat) (s : State) : Out :=
  .next (
    let v := s.getIsl isl.toNat
    match s.circuitFrom isl.toNat port.toNat, v.tx port.toNat with
    | some c, b :: t =>
      if v.departs c port.toNat = some cycle ∧ cycle < s.clk.frame + s.tickCycles then
        { s.setIsl isl.toNat ({ v with txq := smSet v.txq port.toNat t, lastDep := smSet v.lastDep port.toNat cycle } : Island)
            |>.modIsl isl.toNat (·.count 4 1) with
          beats := s.beats ++ [⟨c.dst, BitVec.ofNat 2 c.dstPort, cycle + c.latency, b.2⟩] }
      else s
    | _, _ => s)

/-- Remove the first element that satisfies p. -/
def takeFirst (p : α → Bool) : List α → Option (α × List α)
  | [] => none
  | a :: t => if p a then some (a, t) else (takeFirst p t).map fun r => (r.1, a :: r.2)

/-- `STRAIT_DROP` counts 15 beats a port at most (05 Table 5.13). -/
def dropCount (d : Half) (p : Nat) : Half :=
  let n := (d >>> (4 * p)).toNat % 16
  if n = 15 then d else d + ((1 : Half) <<< (4 * p))

/-- A beat enters the receive queue of port p of island i, or is dropped and counted (05 R109). -/
def State.beatInto (s : State) (i p at_ : Nat) (b : List Byte) : State :=
  let v := s.getIsl i
  let drop := { v with straitDrop := dropCount v.straitDrop p }
  if s.islSt i ≠ stRunning then s.setIsl i drop
  else if 64 ≤ (v.rx p).length then (s.setIsl i drop).looseFault i 0x11 p
  else s.setIsl i { v with rxq := smSet v.rxq p (v.rx p ++ [(at_, b)]) }

/-- `STRAIT_BEAT_ARRIVE` (07 R161, 05 R109): the oldest beat due at an inbound port arrives. -/
def execStraitBeatArrive (isl : BitVec 8) (port : BitVec 2) (s : State) : Out :=
  .next (
    match takeFirst (fun f : BeatFlight => f.island = isl && f.port = port) s.beats with
    | some (f, rest) =>
      if f.arrives < s.clk.frame + s.tickCycles then
        ({ s with beats := rest } : State).beatInto isl.toNat port.toNat f.arrives f.beat
      else s
    | none => s)

end Sys2Proof.Machine
end

