-- ==== Sys2Proof/Machine/Packets.lean ====
section
/-! DEFINITION. Fabric packets: header bytes, check, tables, routes, the switch (11 R234 to R243, R247 to
R254, 10 R218, R221). -/

namespace Sys2Proof
open Sys2Proof.Machine

/-! ### Header and check (11 Table 11.1, R238) -/

def Pkt.header (p : Pkt) : List Byte :=
  leBytes 1 (p.type.toNat * 16 + p.epoch.toNat * 8 + (if p.circuit then 4 else 0)) ++
    leBytes 1 (p.phase.toNat * 128 + p.hops.toNat) ++
    leBytes 2 (p.dstAtt.toNat * 4096 + p.dst.toNat) ++ leBytes 2 (p.srcAtt.toNat * 4096 + p.src.toNat) ++
    leBytes 2 (p.try_.toNat * 4096 + p.mid.toNat) ++ leBytes 2 p.session.toNat ++ leBytes 4 p.seq.toNat ++
    [p.srcIsland] ++ leBytes 1 ((if p.ctrl then 128 else 0) + p.entry.toNat) ++ leBytes 6 p.addr.toNat ++
    leBytes 1 p.partition.toNat ++ leBytes 1 p.rsem.toNat ++ leBytes 2 p.length.toNat ++
    leBytes 2 p.aux.toNat ++ leBytes 4 p.arg.toNat

/-- Eight steps of the CRC-64 register. -/
def crcBits : Nat → Dword → Dword
  | 0, c => c
  | n + 1, c => crcBits n (if c.msb then (c <<< 1) ^^^ 0x42F0E1EBA9EA3693 else c <<< 1)

/-- CRC-64 of 11 R238. -/
def crc64 (bs : List Byte) : Dword :=
  (bs.foldl (fun c b => crcBits 8 (c ^^^ ((b.zeroExtend 64 : Dword) <<< (56 : Nat)))) 0xFFFFFFFFFFFFFFFF) ^^^ 0xFFFFFFFFFFFFFFFF

/-- The check covers the header with byte 1 read as 0 and the payload. -/
def Pkt.check (p : Pkt) : Dword := crc64 (p.header.set 1 0 ++ p.payload)

def Pkt.sealed (p : Pkt) : Pkt := { p with crc := p.check }

/-- 16-byte blocks of a packet (10 R215). -/
def Pkt.blocks (p : Pkt) : Nat := (32 + p.payload.length + 8 + 15) / 16

/-- A packet from its bytes: header, payload, check. -/
def Pkt.parse (bs : List Byte) : Pkt :=
  let at_ (i n : Nat) : Nat := leNat ((bs.drop i).take n)
  let len := at_ 24 2 % 8192
  { type := BitVec.ofNat 4 (at_ 0 1 / 16), epoch := BitVec.ofNat 1 (at_ 0 1 / 8), circuit := at_ 0 1 / 4 % 2 = 1,
    phase := BitVec.ofNat 1 (at_ 1 1 / 128), hops := BitVec.ofNat 4 (at_ 1 1),
    dstAtt := BitVec.ofNat 3 (at_ 2 2 / 4096), dst := BitVec.ofNat 12 (at_ 2 2),
    srcAtt := BitVec.ofNat 3 (at_ 4 2 / 4096), src := BitVec.ofNat 12 (at_ 4 2),
    try_ := BitVec.ofNat 4 (at_ 6 2 / 4096), mid := BitVec.ofNat 12 (at_ 6 2), session := BitVec.ofNat 16 (at_ 8 2),
    seq := BitVec.ofNat 32 (at_ 10 4), srcIsland := BitVec.ofNat 8 (at_ 14 1), ctrl := at_ 15 1 / 128 = 1,
    entry := BitVec.ofNat 7 (at_ 15 1), addr := BitVec.ofNat 48 (at_ 16 6), partition := BitVec.ofNat 6 (at_ 22 1),
    rsem := BitVec.ofNat 5 (at_ 23 1), length := BitVec.ofNat 13 len, aux := BitVec.ofNat 16 (at_ 26 2),
    arg := BitVec.ofNat 32 (at_ 28 4), payload := (bs.drop 32).take len,
    crc := BitVec.ofNat 64 (at_ (32 + len) 8) }

/-- A packet as it arrives: its check judged over the bytes as they came, reserved bits included. -/
def Pkt.ofWire (bs : List Byte) : Pkt :=
  let p := Pkt.parse bs
  { p with crc := if crc64 ((bs.take (32 + p.length.toNat)).set 1 0) = p.crc then p.check else ~~~p.check }

/-! ### Types and virtual channels (11 Table 11.2, R237) -/

def tWrite : BitVec 4 := 1
def tReadReq : BitVec 4 := 2
def tNotify : BitVec 4 := 3
def tMcast : BitVec 4 := 4
def tReadResp : BitVec 4 := 5
def tAck : BitVec 4 := 6
def tNack : BitVec 4 := 7
def tDetour : BitVec 4 := 8
def tCircLost : BitVec 4 := 9
def tTime : BitVec 4 := 10
def tBarrier : BitVec 4 := 11

def Pkt.reserved (p : Pkt) : Bool := p.type = 0 || 11 < p.type.toNat

/-- Class: 0 request, 1 response, 2 control. -/
def Pkt.class (p : Pkt) : Nat := if p.type.toNat ≤ 4 then 0 else if p.type.toNat ≤ 8 then 1 else 2
def Pkt.vc (p : Pkt) : Nat := if p.circuit then 6 else p.class + 3 * p.phase.toNat

/-- The bytes of a packet on the link. -/
def Pkt.bytes (p : Pkt) : List Byte := p.header ++ p.payload ++ leBytes 8 p.crc.toNat

end Sys2Proof

namespace Sys2Proof.Machine

/-! ### Nodes, ports and paths (11 R235, R240, 10 R218, R221) -/

def coord (n d : Nat) : Nat := n / 8 ^ d % 8
def setCoord (n d c : Nat) : Nat := n - coord n d * 8 ^ d + c * 8 ^ d

/-- The node a port of a module leads to under 10 R218; 28 to 31 as twins of 0, 6, 1, 5. -/
def twinOf (p : Nat) : Nat :=
  match p with
  | 28 => 0
  | 29 => 6
  | 30 => 1
  | 31 => 5
  | p => p
def peerNodeOf (n p : Nat) : Nat :=
  let q := twinOf p
  setCoord n (q / 7) ((coord n (q / 7) + q % 7 + 1) % 8)
def peerPortOf (p : Nat) : Nat :=
  match p with
  | 28 => 29
  | 29 => 28
  | 30 => 31
  | 31 => 30
  | p => 7 * (p / 7) + (6 - p % 7)

/-- First dimension from d on in which u and t differ, with the direct port; `fuel` is 4. -/
def nextDim (u t : Nat) : Nat → Nat → Option Nat
  | 0, _ => none
  | f + 1, d => if coord u d = coord t d then nextDim u t f (d + 1)
      else some (7 * d + (coord t d + 8 - coord u d) % 8 - 1)

/-- The hops (node, port) of the dimension-order path from u to t. -/
def pathHops (u t : Nat) : Nat → List (Nat × Nat)
  | 0 => []
  | f + 1 =>
    match nextDim u t 4 0 with
    | none => []
    | some p => (u, p) :: pathHops (peerNodeOf u p) t f

/-! ### Table versions (11 Table 11.3) -/

def State.tab (s : State) (e : BitVec 1) : Table := if e = 0 then s.fab.tab0 else s.fab.tab1
def State.ver (s : State) (e : BitVec 1) : VerSt := if e = 0 then s.fab.ver0 else s.fab.ver1
def State.curEpoch (s : State) : BitVec 1 := if s.fab.epoch then 1 else 0

def memBit (m : Memory) (k : Nat) : Bool := (memByte m (k / 8)).getLsbD (k % 8)
def Table.has (t : Table) (n : Nat) : Bool := memBit t.present n
def Table.fenced (t : Table) (n : Nat) : Bool := memBit t.fence n
def Table.isDead (t : Table) (n p : Nat) : Bool := memBit t.dead (28 * n + p)
def Table.mcastOf (t : Table) (g : Nat) : Dword := BitVec.ofNat 64 (leNat (memRead t.mcast (8 * g) 8))
def Table.member (t : Table) (g n : Nat) : Bool := memBit t.members (4096 * g + n)
def Table.cinOf (t : Table) (port pos : Nat) : Half := BitVec.ofNat 16 (leNat (memRead t.cin (2 * (256 * port + pos)) 2))
def Table.csrcOf (t : Table) (k : Nat) : Dword := BitVec.ofNat 64 (leNat (memRead t.csrc (40 * k) 8))
def Table.csrcPos (t : Table) (k q : Nat) : Bool := memBit t.csrc (8 * (40 * k + 8) + q)

/-! ### Choosing an intermediate (11 R241) -/

def State.self (s : State) : Nat := s.fab.node.toNat

def State.avoided (s : State) (n p : Nat) : Bool :=
  s.fab.avoid.any fun a => a.1.toNat = n && a.2.toNat = p

/-- `clean` of 11 R241 for the version a packet will carry. -/
def State.clean (s : State) (e : BitVec 1) (m d : Nat) : Bool :=
  let t := s.tab e
  let me := s.self
  (pathHops me m 4 ++ pathHops m d 4).all fun h =>
    !t.isDead h.1 h.2 && !s.avoided h.1 h.2 && (h.1 = me || (!t.fenced h.1 && t.has h.1))

/-- `FAB_RKEY` of 11 R241: the node id and the session. -/
def State.rkey (s : State) : Quad := ⟨s.fab.node.zeroExtend 32, s.trk.session.zeroExtend 32, 0, 0⟩

/-- The m of draw j. -/
def State.midDraw (s : State) (dst : Nat) (seq : Word) (series isl j : Nat) : Nat :=
  let e : Dword := BitVec.ofNat 64 (dst * 2 ^ 40 + j * 2 ^ 32 + seq.toNat)
  (cbg s.rkey
    (islandCounter (BitVec.ofNat 32 (0xFB000000 + isl)) (BitVec.ofNat 32 series) e)).w0.toNat % 4096

/-- `pick_mid` of 11 R241. -/
def State.pickMid (s : State) (dst : Nat) (seq : Word) (series isl : Nat) : Nat :=
  let e := s.curEpoch
  ((List.range 16).findSome? fun j =>
    let m := s.midDraw dst seq series isl j
    if (s.tab e).has m && s.clean e m dst then some m else none).getD s.self

/-- The intermediate of a packet; one to its own module needs none (11 at the edges). -/
def State.midFor (s : State) (dst : Nat) (seq : Word) (series isl : Nat) : Nat :=
  if dst = s.self then s.self else s.pickMid dst seq series isl

/-! ### Counters of the fabric block -/

def bump (w : Word) : Word := satAdd 32 w 1
def State.countDetour (s : State) : State := s.modFab fun f => { f with detours := bump f.detours }
def State.countStale (s : State) : State := s.modFab fun f => { f with stale := bump f.stale }
def State.countExpired (s : State) : State := s.modFab fun f => { f with expired := bump f.expired }
def State.countFenceDrop (s : State) : State := s.modFab fun f => { f with fenceDrop := bump f.fenceDrop }
def State.countBadHdr (s : State) : State := s.modFab fun f => { f with badHdr := bump f.badHdr }
def State.countCircDrop (s : State) : State := s.modFab fun f => { f with circDrop := bump f.circDrop }

/-! ### Transmit queues -/

def Port.up (p : Port) : Bool := p.st = .up

def Port.queueBlocks (p : Port) (vc : Nat) : Nat := ((smGet [] p.txq vc).map fun q => q.pkt.blocks).sum

/-! ### Fault injection (10 R229 to R231) -/

def FiSet.sel (f : FiSet) : Nat := (f.ctrl.extractLsb' 0 2).toNat
def FiSet.action (f : FiSet) : Nat := (f.ctrl.extractLsb' 2 2).toNat
def FiSet.timed (f : FiSet) : Bool := f.ctrl.getLsbD 4
def FiSet.delay (f : FiSet) : Nat := (f.ctrl.extractLsb' 8 8).toNat
def FiSet.offset (f : FiSet) : Nat := (f.ctrl.extractLsb' 16 12).toNat
def FiSet.rate (f : FiSet) : Nat := (f.ctrl.extractLsb' 32 24).toNat

/-- The set is enabled, and a timed one has started. -/
def FiSet.on (f : FiSet) : Bool := f.sel ≠ 0 && (!f.timed || f.startAt.isNone)

/-- Packet n of the set is selected (10 R229). -/
def FiSet.selects (f : FiSet) (key : BitVec 128) (port vc : Nat) : Bool :=
  let n := f.n.toNat
  let lo := (f.param.extractLsb' 0 32).toNat
  let hi := (f.param.extractLsb' 32 32).toNat
  f.on && match f.sel with
    | 1 => decide ((cbg (Quad.ofKey key) (islandCounter (BitVec.ofNat 32 (0xFA000000 + 8 * port + vc)) 0 (BitVec.ofNat 64 n))).w0.toNat
        < f.rate * 256)
    | 2 => lo ≠ 0 && n % lo = hi
    | 3 => decide (lo ≤ n) && decide (n < lo + hi)
    | _ => false

/-- XOR a pattern over up to 8 bytes from an offset on (10 R231). -/
def xorAt (bs : List Byte) (off : Nat) (pat : Dword) : List Byte :=
  bs.zipIdx.map fun b => if off ≤ b.2 ∧ b.2 < off + 8 then b.1 ^^^ pat.extractLsb' (8 * (b.2 - off)) 8 else b.1

def Port.getFi (x : Port) (vc : Nat) : FiSet := smGet .reset x.fi vc
def State.modFi (s : State) (port vc : Nat) (g : FiSet → FiSet) : State := s.modPort port fun x => { x with fi := smMod .reset x.fi vc g }

/-- What the injection set of a virtual channel does to a packet whose header reaches the head of its queue: the packet as it
goes on, or none where it is dropped or held. An `OFFSET` beyond the packet selects nothing. -/
def State.judge (s : State) (port vc : Nat) (q : Queued) : State × Option Queued :=
  let f := (s.getPort port).getFi vc
  let bytes := q.pkt.bytes
  let hit := f.selects s.fab.fiKey port vc && !((f.action = 1 || f.action = 2) && decide (bytes.length ≤ f.offset))
  let s := s.modFi port vc fun f => { f with n := if f.on then f.n + 1 else f.n, count := if hit then satAdd 32 f.count 1 else f.count }
  let q := { q with seen := true }
  if !hit then (s, some q)
  else
    match f.action with
    | 0 => (s, none)
    | 1 => (s, some { q with hit := some (f.offset, f.pattern) })
    | 2 => (s, some { q with bytes := some (xorAt bytes f.offset f.pattern) })
    | _ => (s.modFi port vc fun f => { f with held := f.held ++ [⟨q, 0, s.clk.now⟩] }, none)

/-- The packets that reach the head of a queue are judged, up to the first that stays; `fuel` bounds them. -/
def State.atHead (s : State) (port vc : Nat) : Nat → State
  | 0 => s
  | fuel + 1 =>
    match smGet [] (s.getPort port).txq vc with
    | [] => s
    | q :: rest =>
      if q.seen then s
      else
        match s.judge port vc q with
        | (s, some q) => s.modPort port fun x => { x with txq := smSet x.txq vc (q :: rest) }
        | (s, none) => (s.modPort port fun x => { x with txq := smSet x.txq vc rest }).atHead port vc fuel

/-- A queue as it now stands, its head judged. -/
def State.setQueue (s : State) (port vc : Nat) (l : List Queued) : State :=
  (s.modPort port fun x => { x with txq := smSet x.txq vc l }).atHead port vc (l.length + 1)

/-- Put a packet into the transmit queue of its virtual channel. -/
def State.enqueue (s : State) (port : Nat) (p : Pkt) (discard : Bool) : State :=
  s.setQueue port p.vc (smGet [] (s.getPort port).txq p.vc ++ [⟨p, s.clk.now, discard, false, none, none⟩])

/-- Packets held for reorder go back to the head of their queue. -/
def State.putBack (s : State) (port vc : Nat) (l : List HeldPkt) : State :=
  s.setQueue port vc (l.map (·.q) ++ smGet [] (s.getPort port).txq vc)

/-- The packets that a set holds and that satisfy p are released. -/
def State.releaseHeld (s : State) (port vc : Nat) (p : HeldPkt → Bool) : State :=
  let held := ((s.getPort port).getFi vc).held
  if held.isEmpty then s
  else (s.modFi port vc fun f => { f with held := held.filter fun h => !p h }).putBack port vc (held.filter p)

/-- The blocks of a packet, padded with zeros (10 R215). -/
def Queued.lay (q : Queued) : List OutBlk :=
  let bs := takePad (16 * q.pkt.blocks) (q.bytes.getD q.pkt.bytes)
  (List.range q.pkt.blocks).map fun k =>
    ⟨(bs.drop (16 * k)).take 16, k = 0, q.discard, match q.hit with
      | some (off, pat) => if off / 16 = k then some (off % 256, pat) else none
      | none => none⟩

/-- The packet leaves its queue for the lanes: its counters and credits; packets held for reorder see it pass. -/
def State.depart (s : State) (port vc : Nat) (q : Queued) : State :=
  let s := s.modPort port fun x =>
    { x with pktTx := smSet x.pktTx vc (smGet 0 x.pktTx vc + 1),
             sentBlk := smSet x.sentBlk vc (smGet 0 x.sentBlk vc + BitVec.ofNat 10 q.pkt.blocks),
             outBlks := x.outBlks ++ q.lay }
  let s := s.modFi port vc fun f => { f with held := f.held.map fun h => { h with passed := h.passed + 1 } }
  let delay := ((s.getPort port).getFi vc).delay
  (s.releaseHeld port vc fun h => decide (delay ≤ h.passed)).emit (.packet (BitVec.ofNat 5 port) (BitVec.ofNat 3 vc) q.pkt q.discard)

/-! ### The switch (11 R239, R240, R243, R250) -/

/-- The twin auxiliary port of a dimension-0 port in DIM0_DOUBLE mode. -/
def auxTwin (p : Nat) : Option Nat :=
  match p with
  | 0 => some 28
  | 6 => some 29
  | 1 => some 30
  | 5 => some 31
  | _ => none

/-- The port of a hop: the twin with fewer queued blocks, the lower-numbered on a tie (11 R235). -/
def State.twinPort (s : State) (p vc : Nat) : Nat :=
  match auxTwin p with
  | none => p
  | some q =>
    if s.ret.auxMode then p
    else if (s.getPort q).queueBlocks vc < (s.getPort p).queueBlocks vc then q else p

/-- A response to packet p sent from here (11 R237): routed afresh in the current epoch. -/
def State.response (s : State) (p : Pkt) (type : BitVec 4) (aux : Half) (arg : Word) (payload : List Byte) : Pkt :=
  let mid := s.midFor p.src.toNat p.seq 1 (if p.ctrl then 0x100 else p.srcIsland.toNat)
  Pkt.sealed
    { type := type, epoch := s.curEpoch, circuit := false, phase := if mid = s.self then 1 else 0, hops := 0,
      dstAtt := p.srcAtt, dst := p.src, srcAtt := 0, src := s.fab.node, try_ := 0, mid := BitVec.ofNat 12 mid,
      session := p.session, seq := p.seq, srcIsland := p.srcIsland, ctrl := p.ctrl, entry := p.entry, addr := 0,
      partition := p.partition, rsem := 0, length := BitVec.ofNat 13 payload.length, aux := aux, arg := arg,
      payload := payload, crc := 0 }

/-- What the switch decides for a packet. -/
inductive Verdict where
  | here (p : Pkt)
  | out (port : Nat) (p : Pkt)
  | attached (port : Nat) (p : Pkt)
  | badAttach
  | expired
  | fencedHop (node : Nat)
  | down (port : Nat)
deriving DecidableEq, Repr

/-- Route a packet by the version it names. -/
def State.routePkt (s : State) (p : Pkt) : Verdict :=
  let me := s.self
  let p := if p.phase = 0 && p.mid = s.fab.node then { p with phase := 1 } else p
  let target := if p.phase = 0 then p.mid.toNat else p.dst.toNat
  let leave (f : Pkt → Verdict) : Verdict := if 10 ≤ p.hops.toNat then .expired else f { p with hops := p.hops + 1 }
  if target = me then
    if p.dstAtt = 0 then .here p
    else if !s.ret.auxMode || 4 < p.dstAtt.toNat then .badAttach
    else leave (.attached (27 + p.dstAtt.toNat))
  else
    match nextDim me target 4 0 with
    | none => .here p
    | some h =>
      if (s.tab p.epoch).fenced (peerNodeOf me h) then .fencedHop (peerNodeOf me h)
      else
        let port := s.twinPort h p.vc
        if !(s.getPort port).up then .down port else leave (.out port)

/-- Send a packet that is formed here or passes through; `fuel` bounds the responses it causes. A DETOUR that meets a port
that is not UP is lost (11 at the edges). -/
def State.switch (s : State) (p : Pkt) (discard : Bool) : Nat → State
  | 0 => s
  | fuel + 1 =>
    let answer (s : State) (type : BitVec 4) (aux : Half) (arg : Word) : State :=
      s.switch (s.response p type aux arg []) false fuel
    match s.routePkt p with
    | .here p => s.emit (.local_ p)
    | .out port p => s.enqueue port p discard
    | .attached port p =>
      if (s.getPort port).up then s.enqueue port p discard else answer s tNack 0x0302 p.dst.toNat
    | .badAttach => answer s tNack 0x0102 0
    | .expired => s.countExpired
    | .fencedHop n => answer s.countFenceDrop tNack 0x0302 (BitVec.ofNat 32 (n + if p.type = tMcast then n * 2 ^ 16 else 0))
    | .down port => if p.type = tDetour then s else answer s.countDetour tDetour 0 (BitVec.ofNat 32 (s.self + port * 2 ^ 12))

/-- Send from this module: through the switch, its answers included. -/
def State.route (s : State) (p : Pkt) : State := s.switch p false 4

/-- A packet that is answered from here. -/
def State.respond (s : State) (p : Pkt) (type : BitVec 4) (aux : Half) (arg : Word) (payload : List Byte) : State :=
  s.route (s.response p type aux arg payload)

def State.ack (s : State) (p : Pkt) : State := s.respond p tAck 0 0 []
/-- A NACK from here; to a multicast write it names this module as the member (11 Table 11.2). -/
def State.nack (s : State) (p : Pkt) (status : Half) (detail : Half) : State :=
  s.respond p tNack status (BitVec.ofNat 32 (detail.toNat + if p.type = tMcast then s.self * 2 ^ 16 else 0)) []

/-- A version whose packets are dropped: written anew, and not the one in use (11 R248, R249). -/
def State.retired (s : State) (e : BitVec 1) : Bool := s.ver e = VerSt.writable && e ≠ s.curEpoch

/-- `PACKET_FORWARD` at a switch (11 R237, R240, R249, R250): reserved types, retired versions and packets
of fenced sources are dropped; a packet for this module whose `DISCARD` is set is dropped and counted
(10 R217). -/
def State.forward (s : State) (port : Nat) (discard : Bool) (p : Pkt) : State :=
  if p.reserved then s.countBadHdr
  else if s.retired p.epoch then s.countStale
  else if (s.tab p.epoch).fenced p.src.toNat then s
  else
    match s.routePkt p with
    | .here q =>
      if discard then s.modPort port fun x => { x with voidIn := bump x.voidIn } else s.emit (.local_ q)
    | _ => s.switch p discard 4

/-! ### Circuits at the source (11 R253) -/

/-- The circuit that carries a WRITE or NOTIFY to a destination. -/
def State.circuitFor (s : State) (dst : NodeId) (att : BitVec 3) (part : BitVec 6) : Option Nat :=
  let t := s.tab s.curEpoch
  (List.range 256).find? fun k =>
    let c := t.csrcOf k
    c.getLsbD 63 && c.extractLsb' 48 12 = dst && c.extractLsb' 45 3 = att && c.extractLsb' 39 6 = part &&
      !s.fab.fallback.contains k

/-- Queue a packet on its circuit. -/
def State.onCircuit (s : State) (k : Nat) (p : Pkt) : State :=
  s.modFab fun f => { f with circQ := smSet f.circQ k (smGet [] f.circQ k ++ [⟨p, s.clk.now, false, false, none, none⟩]) }

/-- Put a packet of this module on its way. -/
def State.transmit (s : State) (p : Pkt) : State :=
  if p.circuit then s.onCircuit p.aux.toNat p else s.route p

end Sys2Proof.Machine
end

