-- ==== Sys2Proof/Machine/Tracker.lean ====
section
/-! DEFINITION. The tracker (09 R203 to R208, 11 R241 to R243, R245, R246, R257): entries, sequence
numbers, the duplicate filter, tries, unreachability, and what an outcome does to its sender. -/

namespace Sys2Proof

/-- The entry that a packet or its echo names (11 Table 11.1). -/
def Pkt.entryId (p : Pkt) : EntryId :=
  if p.ctrl then .control (p.srcIsland.extractLsb' 0 3 ++ p.entry) else .island p.srcIsland p.entry

/-- `SRC_ISLAND`, `ENTRY`, `CTRL` and `isl` of an entry (11 Table 11.1, R241). -/
def EntryId.srcIsland (e : EntryId) : Byte :=
  match e with
  | .island i _ => i
  | .control n => (n.extractLsb' 7 3).zeroExtend 8
  | .mcast n => n

def EntryId.entry (e : EntryId) : BitVec 7 :=
  match e with
  | .island _ k => k
  | .control n => n.extractLsb' 0 7
  | .mcast _ => 0

def EntryId.isCtrl (e : EntryId) : Bool :=
  match e with
  | .control _ => true
  | _ => false

/-- `isl` of 11 R241. -/
def EntryId.draw (e : EntryId) : Nat := if e.isCtrl then 0x100 else e.srcIsland.toNat

end Sys2Proof

namespace Sys2Proof.Machine

/-! ### What a DMA channel keeps of its pieces (09 R196, R201, R202) -/

def Island.getChan (v : Island) (c : Nat) : Chan := smGet .reset v.chan c
def Island.modChan (v : Island) (c : Nat) (f : Chan → Chan) : Island := { v with chan := smMod .reset v.chan c f }
def State.modChan (s : State) (i c : Nat) (f : Chan → Chan) : State := s.modIsl i fun v => v.modChan c f

/-- The first error of a transfer: no further read is issued, and what is not yet being written is
dropped (09 R202). -/
def Chan.fail (c : Chan) (status detail : Half) : Chan :=
  { c with err := if c.err.extractLsb' 0 16 = 0 then detail ++ status else c.err, allRead := true,
           pieces := c.pieces.map fun p =>
             if p.stage = .writing then p else { p with stage := .failed, data := [] } }

/-- A run that cannot be read ends the transfer there; the runs before it stand (09 R193). -/
def Chan.stop (c : Chan) (status detail : Half) : Chan :=
  { c with err := if c.err.extractLsb' 0 16 = 0 then detail ++ status else c.err, allRead := true }

/-- The transfer fails at one piece. -/
def Chan.failPiece (c : Chan) (id : Nat) (status detail : Half) : Chan :=
  let c := c.fail status detail
  { c with pieces := c.pieces.map fun p => if p.id = id then { p with stage := .failed, data := [] } else p }

/-- The data of a piece have been read. -/
def Chan.landed (c : Chan) (id : Nat) (data : List Byte) : Chan :=
  { c with pieces := c.pieces.map fun p =>
      if p.id = id ∧ p.stage = .reading then { p with stage := .ready, data := data } else p }

/-- A piece is written, or its write acknowledged. -/
def Chan.written (c : Chan) (id : Nat) : Chan :=
  match c.pieces.find? (·.id = id) with
  | none => c
  | some p => { c with bytes := c.bytes + BitVec.ofNat 64 p.len, pieces := c.pieces.filter (·.id ≠ id) }

/-! ### Entries -/

def Tracker.get (t : Tracker) (e : EntryId) : Option TrkEntry :=
  match e with
  | .island i k => smGet none t.entries (128 * i.toNat + k.toNat)
  | .control n => smGet none t.control n.toNat
  | .mcast _ => none

def Tracker.put (t : Tracker) (e : EntryId) (x : Option TrkEntry) : Tracker :=
  match e with
  | .island i k => { t with entries := smSet t.entries (128 * i.toNat + k.toNat) x }
  | .control n => { t with control := smSet t.control n.toNat x }
  | .mcast _ => t

/-- Entries held (09 Table 9.10). -/
def Tracker.used (t : Tracker) : Nat :=
  (t.entries.filter (·.2.isSome)).length + (t.control.filter (·.2.isSome)).length

/-- Packets outstanding to a node (09 R203, R204). -/
def Tracker.outstanding (t : Tracker) (dst : NodeId) : Nat :=
  ((t.entries ++ t.control).filter fun x =>
    match x.2 with
    | some e => e.pkt.dst = dst
    | none => false).length

/-- The first free entry of island i, or of the control pool, while the destination has room. -/
def Tracker.freeIsland (t : Tracker) (i : Nat) (dst : NodeId) : Option EntryId :=
  if 1024 ≤ t.outstanding dst then none
  else ((List.range 128).find? fun k => (smGet none t.entries (128 * i + k)).isNone).map
    fun k => .island (BitVec.ofNat 8 i) (BitVec.ofNat 7 k)

def Tracker.freeControl (t : Tracker) (dst : NodeId) : Option EntryId :=
  if 1024 ≤ t.outstanding dst then none
  else ((List.range 1024).find? fun k => (smGet none t.control k).isNone).map fun k => .control (BitVec.ofNat 10 k)

/-! ### Sending and resending (09 R205, 11 R240 to R242, R253) -/

/-- Header fields that each try builds anew: epoch, phase, intermediate, try, no circuit. -/
def State.tryOf (s : State) (p : Pkt) (series tries mid : Nat) : Pkt :=
  Pkt.sealed { p with epoch := s.curEpoch, circuit := false, phase := if mid = s.self then 1 else 0, hops := 0,
                      mid := BitVec.ofNat 12 mid, try_ := BitVec.ofNat 4 (8 * (series - 1) + tries - 1),
                      aux := if p.circuit then 0 else p.aux }

/-- Allocate a number, hold the entry and send try 0; a WRITE or NOTIFY takes its circuit. -/
def State.sendTracked (s : State) (e : EntryId) (p : Pkt) (ch : Option (BitVec 2)) (pieces : List Nat)
    (owner : Option CtrlOwner) : State :=
  let seq := smGet 0 s.trk.nextSeq p.dst.toNat
  let p := { p with session := s.trk.session, seq := seq, srcIsland := e.srcIsland, ctrl := e.isCtrl, entry := e.entry,
                    src := s.fab.node, srcAtt := 0 }
  let q := s.tryOf p 1 1 (s.midFor p.dst.toNat seq 1 e.draw)
  let q := if p.type = tWrite ∨ p.type = tNotify then
      match s.circuitFor p.dst p.dstAtt p.partition with
      | some k => Pkt.sealed { q with circuit := true, aux := BitVec.ofNat 16 k }
      | none => q
    else q
  let x : TrkEntry := ⟨q, ch, pieces, owner, 1, 1, s.clk.now + s.trk.resendT.toNat, p.type = tNotify, none⟩
  (s.modTrk fun t => ({ t with nextSeq := smSet t.nextSeq p.dst.toNat (seq + 1) } : Tracker).put e (some x)).transmit q

/-- A blank request packet to a node. -/
def blankPkt (type : BitVec 4) (dst : NodeId) : Pkt :=
  { type := type, epoch := 0, circuit := false, phase := 0, hops := 0, dstAtt := 0, dst := dst, srcAtt := 0,
    src := 0, try_ := 0, mid := 0, session := 0, seq := 0, srcIsland := 0, ctrl := false, entry := 0, addr := 0,
    partition := 0, rsem := 0, length := 0, aux := 0, arg := 0, payload := [], crc := 0 }

/-- Send for the snapshot engine from an entry of island i (16 R361). -/
def State.sendSnap (s : State) (i : Nat) (p : Pkt) (owner : CtrlOwner) (item : Nat) : State × Bool :=
  match s.trk.freeIsland i p.dst with
  | none => (s, false)
  | some e => (s.sendTracked e p none [item] (some owner), true)

/-- Send on the firmware's own account, or wait for an entry of the control pool (09 R204). -/
def State.sendControl (s : State) (p : Pkt) (owner : CtrlOwner) : State :=
  match s.trk.freeControl p.dst, s.trk.waitQ with
  | some e, [] => s.sendTracked e p none [] (some owner)
  | _, _ => s.modTrk fun t => { t with waitQ := t.waitQ ++ [(p, owner)] }

/-- Send what waits while entries are free; `fuel` bounds the packets. -/
def State.drainWaitQ (s : State) : Nat → State
  | 0 => s
  | fuel + 1 =>
    match s.trk.waitQ with
    | [] => s
    | (p, o) :: rest =>
      match s.trk.freeControl p.dst with
      | none => s
      | some e => ((s.modTrk fun t => { t with waitQ := rest }).sendTracked e p none [] (some o)).drainWaitQ fuel

/-! ### Outcomes -/

inductive TrkEnd where
  | ok (data : List Byte)
  | error (status detail : Half)
deriving DecidableEq, Repr

/-- A control packet's outcome: a barrier arrival that is lost is logged with its group (12 R274); a
snapshot's failed packet counts against the cut (16). -/
def State.ctrlEnd (s : State) (o : CtrlOwner) (piece : Nat) (p : Pkt) (r : TrkEnd) : State :=
  match r with
  | .ok _ => s
  | .error status _ =>
    match o with
    | .barrier g =>
      if status = sTimeout ∧ p.payload.headD 0 = 1 then s.logFault .barrierLost srcFabric 2 (g.zeroExtend 32) else s
    | .snapshot | .loss =>
      s.modSnap fun x => { x with fails := satAdd 32 x.fails 1, cut := x.cut.map fun c => { c with failed := c.failed.insert piece } }
    | .fabricManager => s

/-- The data of a READ_RESP go to the pieces that asked for them, in order. -/
def Chan.landAll (c : Chan) (ids : List Nat) (data : List Byte) : Chan :=
  (ids.foldl (fun (r : Chan × List Byte) id =>
    let n := ((c.pieces.find? (·.id = id)).map (·.len)).getD 0
    (r.1.landed id (r.2.take n), r.2.drop n)) (c, data)).1

/-- An entry resolves: its channel learns the outcome (09 R202), or its component does. -/
def State.endEntry (s : State) (e : EntryId) (x : TrkEntry) (r : TrkEnd) : State :=
  let s := s.modTrk fun t =>
    let t := t.put e none
    match r with
    | .error st _ =>
      if st = sTimeout then { t with unreach := bump t.unreach }
      else if st = sFenced then { t with fenced := bump t.fenced } else t
    | .ok _ => t
  match e, x.ch with
  | .island i _, some c =>
    s.modChan i.toNat c.toNat fun h =>
      let h := { h with tracked := h.tracked - 1 }
      match r with
      | .error st d => if x.notify then h.fail st d else x.pieces.foldl (fun h id => h.failPiece id st d) h
      | .ok data =>
        if x.notify then { h with notified := true }
        else if x.pkt.type = tReadReq then h.landAll x.pieces data else x.pieces.foldl Chan.written h
  | _, _ =>
    match x.owner with
    | some o => s.ctrlEnd o (x.pieces.headD 0) x.pkt r
    | none => s

/-- A destination is declared unreachable (11 R246). -/
def State.unreachable (s : State) (dst : NodeId) : State :=
  let s := s.logFault .unreachable srcFabric 2 (dst.zeroExtend 32)
  if s.trk.told.contains dst then s
  else (s.modTrk fun t => { t with told := dst :: t.told }).event 0x0001 sTimeout (dst.zeroExtend 16)
    (s.curEpoch.zeroExtend 32) 0 0

/-- Source bytes of a piece as they now stand; a failing read is flagged. -/
def State.pieceSource (s : State) (i : Nat) (p : Piece) : List Byte × Bool × State :=
  match p.src with
  | .own off => ((s.getIsl i).spRead off p.len, (s.getIsl i).spUe off p.len, s.noteSp i off p.len)
  | .hbm a => s.hbmRead a p.len
  | .island j off => ((s.getIsl j).spRead off p.len, (s.getIsl j).spUe off p.len, s.noteSp j off p.len)
  | .remote _ _ => (p.data, false, s)

/-- Source bytes of a held packet as they now stand (09 R197, R205). -/
def State.resource (s : State) (x : TrkEntry) : List Byte × Bool × State :=
  match x.ch with
  | none => (x.pkt.payload, false, s)
  | some c =>
    if x.pkt.type ≠ tWrite then (x.pkt.payload, false, s)
    else
      let i := x.pkt.srcIsland.toNat
      let ps := x.pieces.filterMap fun id => (((s.getIsl i).getChan c.toNat).pieces.find? (·.id = id))
      ps.foldl (fun (r : List Byte × Bool × State) p =>
        let (bs, bad, s) := r.2.2.pieceSource i p
        (r.1 ++ bs, r.2.1 || bad, s)) ([], false, s)

/-- Send a try of a held entry. -/
def State.resend (s : State) (e : EntryId) (x : TrkEntry) (series tries mid : Nat) : State :=
  let (data, bad, s) := s.resource x
  if bad then s.endEntry e x (.error sMemoryError 8)
  else
    let q := s.tryOf { x.pkt with payload := data } series tries mid
    let x := { x with pkt := q, series := series, tries := tries, expiry := s.clk.now + s.trk.resendT.toNat }
    (s.modTrk fun t => ({ t with resends := bump t.resends } : Tracker).put e (some x)).transmit q

/-- Open series 2 with a new draw (11 R242). -/
def State.series2 (s : State) (e : EntryId) (x : TrkEntry) : State :=
  s.resend e x 2 1 (s.midFor x.pkt.dst.toNat x.pkt.seq 2 e.draw)

/-- The entry's tries are used up: TIMEOUT (11 R242, R246). -/
def State.giveUp (s : State) (e : EntryId) (x : TrkEntry) : State :=
  (s.endEntry e x (.error sTimeout (x.pkt.dst.zeroExtend 16))).unreachable x.pkt.dst

/-- The resend timer of an entry runs out. -/
def State.tryAgain (s : State) (e : EntryId) (x : TrkEntry) : State :=
  if x.series = 1 then
    if x.tries < 8 ∧ s.clean s.curEpoch x.pkt.mid.toNat x.pkt.dst.toNat then s.resend e x 1 (x.tries + 1) x.pkt.mid.toNat
    else s.series2 e x
  else if x.tries < 8 then s.resend e x 2 (x.tries + 1) x.pkt.mid.toNat
  else s.giveUp e x

/-! ### Multicast entries (11 R257) -/

/-- A 512-byte bitmap of nodes (12 R270). -/
def nodeBitmap (ns : List NodeId) : List Byte :=
  (List.range 512).map fun b =>
    (List.range 8).foldl (fun (x : Byte) k => if ns.contains (BitVec.ofNat 12 (8 * b + k)) then x ||| (1 <<< k) else x) 0

/-- Resolve a multicast entry whose members are all marked. -/
def State.mcastSettle (s : State) (n : Nat) (m : McastEntry) : State :=
  let mark (d : NodeId) : Option Member := smGet none m.marks d.toNat
  if m.members.any fun d => (mark d).isNone then s.modTrk fun t => { t with mcast := smSet t.mcast n (some m) }
  else
    let missing := m.members.filter fun d => mark d ≠ some .delivered
    let status := if missing.isEmpty then sOk
      else if missing.any fun d => mark d = some .unreachable then sTimeout else sPartial
    s.modTrk fun t => { t with mcast := smSet t.mcast n none,
                               results := t.results ++ [⟨n, status, if missing.isEmpty then [] else nodeBitmap missing⟩] }

/-- A unicast try of a member, by an intermediate. -/
def State.mcastUnicast (s : State) (m : McastEntry) (d : NodeId) (series tries mid : Nat) : State × McastEntry :=
  let k := d.toNat
  let q := s.tryOf { m.pkt with dst := d } series tries mid
  ((s.modTrk fun t => { t with resends := bump t.resends }).transmit q,
   { m with series := smSet m.series k series, tries := smSet m.tries k tries, mids := smSet m.mids k mid })

/-- A member's series opens with a new draw; after the second it is unreachable. -/
def State.mcastSeries (s : State) (m : McastEntry) (d : NodeId) (series : Nat) : State × McastEntry :=
  if 2 < series then
    ((s.modTrk fun t => { t with unreach := bump t.unreach }).unreachable d,
     { m with marks := smSet m.marks d.toNat (some .unreachable) })
  else s.mcastUnicast m d series 1 (s.midFor d.toNat m.pkt.seq series m.pkt.srcIsland.toNat)

/-- A member's next unicast try (11 R242, R257). -/
def State.mcastTry (s : State) (m : McastEntry) (d : NodeId) : State × McastEntry :=
  let k := d.toNat
  let series := smGet 0 m.series k
  let tries := smGet 0 m.tries k
  let mid := smGet 0 m.mids k
  if series = 0 ∨ 8 ≤ tries ∨ (series = 1 ∧ !s.clean s.curEpoch mid k) then s.mcastSeries m d (series + 1)
  else s.mcastUnicast m d series (tries + 1) mid

/-- The members without a mark. -/
def McastEntry.open_ (m : McastEntry) : List NodeId := m.members.filter fun d => (smGet none m.marks d.toNat).isNone

def State.mcastTimeout (s : State) (n : Nat) (m : McastEntry) : State :=
  let (s, m) := m.open_.foldl (fun (r : State × McastEntry) d => r.1.mcastTry r.2 d) (s, m)
  s.mcastSettle n { m with expiry := s.clk.now + s.trk.resendT.toNat }

/-- A link of a member's route cannot be used: its next series opens. The DETOUR names no member; those whose route takes
the link are meant (11 R242, R257, log 29). -/
def State.mcastDetour (s : State) (n : Nat) (m : McastEntry) (node port : Nat) : State :=
  let uses (d : NodeId) : Bool := smGet 0 m.series d.toNat ≠ 0 &&
    (pathHops s.self (smGet 0 m.mids d.toNat) 4 ++ pathHops (smGet 0 m.mids d.toNat) d.toNat 4).contains (node, port)
  let (s, m) := (m.open_.filter uses).foldl (fun (r : State × McastEntry) d => r.1.mcastSeries r.2 d (smGet 0 r.2.series d.toNat + 1)) (s, m)
  s.mcastSettle n m

/-- `TRACKER_RESEND_TIMEOUT` (09 R208): a held entry whose timer has run out. The arrivals of its last tick come first, so
it acts once that tick is over. -/
def execTrackerResendTimeout (e : EntryId) (s : State) : Host.Outcome State Fault Refusal :=
  .next (
    match e with
    | .mcast n =>
      match smGet none s.trk.mcast n.toNat with
      | some m => if m.expiry < s.clk.now then s.mcastTimeout n.toNat m else s
      | none => s
    | e =>
      match s.trk.get e with
      | some x => if x.expiry < s.clk.now ∧ x.nack.isNone then s.tryAgain e x else s
      | none => s)

/-! ### Responses (09 R206 to R208, 11 R242, R243, R245, R257) -/

/-- The held entry that a response answers. -/
def State.entryOf (s : State) (p : Pkt) : Option TrkEntry :=
  match s.trk.get p.entryId with
  | some x => if x.pkt.session = p.session ∧ x.pkt.seq = p.seq then some x else none
  | none => none

/-- The multicast entry that a response answers: its packet has the same session, number and entry
fields. -/
def State.mcastOf (s : State) (p : Pkt) : Option (Nat × McastEntry) :=
  s.trk.mcast.findSome? fun x =>
    match x.2 with
    | some m =>
      if m.pkt.session = p.session ∧ m.pkt.seq = p.seq ∧ m.pkt.srcIsland = p.srcIsland ∧ m.pkt.entry = p.entry ∧
          m.pkt.ctrl = p.ctrl then some (x.1, m) else none
    | none => none

/-- An arrival that matches no held entry. -/
def State.late (s : State) : State := s.modTrk fun t => { t with late := bump t.late }

/-- A member's answer is noted; an acknowledgement of the same tick overrides a FENCED one (11 R257). -/
def State.mcastMark (s : State) (n : Nat) (m : McastEntry) (d : NodeId) (r : Member) : State :=
  match smGet none m.marks d.toNat with
  | some .delivered => s
  | _ => s.modTrk fun t => { t with mcast := smSet t.mcast n (some { m with marks := smSet m.marks d.toNat (some r) }) }

/-- Only the destination checks the CRC (11 R238); a packet that fails is dropped and counted. -/
def State.crcOk (s : State) (p : Pkt) (f : State → State) : State :=
  if p.crc = p.check then f s else s.modFab fun x => { x with crcBad := bump x.crcBad }

/-- `ACK_RECEIVED`. -/
def execAckReceived (p : Pkt) (s : State) : Host.Outcome State Fault Refusal :=
  .next (s.crcOk p fun s =>
    match s.entryOf p, s.mcastOf p with
    | some x, _ => s.endEntry p.entryId x (.ok [])
    | none, some (n, m) => if m.members.contains p.src then s.mcastMark n m p.src .delivered else s.late
    | none, none => s.late)

/-- `NACK_RECEIVED`: the entry is to resolve with the status that `AUX` carries, at the end of the tick, unless an
acknowledgement comes in it (09 R208). -/
def execNackReceived (p : Pkt) (s : State) : Host.Outcome State Fault Refusal :=
  .next (s.crcOk p fun s =>
    match s.entryOf p, s.mcastOf p with
    | some x, _ => s.modTrk fun t => t.put p.entryId (some { x with nack := x.nack.orElse fun _ => some (p.aux, p.arg.extractLsb' 0 16) })
    | none, some (n, m) =>
      let d : NodeId := p.arg.extractLsb' 16 12
      if p.aux = sFenced ∧ m.members.contains d then s.mcastMark n m d .fenced else s
    | none, none => s.late)

/-- `READ_RESP_RECEIVED`. -/
def execReadRespReceived (p : Pkt) (s : State) : Host.Outcome State Fault Refusal :=
  .next (s.crcOk p fun s =>
    match s.entryOf p with
    | some x => s.endEntry p.entryId x (.ok p.payload)
    | none => s.late)

/-- The avoid list takes a link in both directions, the oldest entries giving way (11 R243). -/
def avoidLink (l : List (NodeId × BitVec 5)) (n : NodeId) (p : BitVec 5) : List (NodeId × BitVec 5) :=
  let far : NodeId × BitVec 5 := (BitVec.ofNat 12 (peerNodeOf n.toNat p.toNat), BitVec.ofNat 5 (peerPortOf p.toNat))
  if l.contains (n, p) then l
  else
    let l := l ++ [(n, p), far]
    l.drop (l.length - 32)

/-- `DETOUR_RECEIVED` (11 R242, R243). -/
def execDetourReceived (p : Pkt) (s : State) : Host.Outcome State Fault Refusal :=
  .next (s.crcOk p fun s =>
    let s := s.modFab fun f => { f with avoid := avoidLink f.avoid (p.arg.extractLsb' 0 12) (p.arg.extractLsb' 12 5) }
    match s.entryOf p with
    | some x =>
      if x.nack.isSome then s.late else if x.series = 1 then s.series2 p.entryId x else s.giveUp p.entryId x
    | none =>
      match s.mcastOf p with
      | some (n, m) => s.mcastDetour n m (p.arg.extractLsb' 0 12).toNat (p.arg.extractLsb' 12 5).toNat
      | none => s.late)

/-- The end of a tick's arrivals: entries with a negative acknowledgement resolve, and so do multicast entries whose
members are all marked (09 R208, 11 R257). -/
def State.settleEntries (s : State) : State :=
  let ids : List EntryId := (s.trk.entries.filter fun x => x.2.any (·.nack.isSome)).map (fun x =>
      EntryId.island (BitVec.ofNat 8 (x.1 / 128)) (BitVec.ofNat 7 x.1)) ++
    (s.trk.control.filter fun x => x.2.any (·.nack.isSome)).map fun x => EntryId.control (BitVec.ofNat 10 x.1)
  let s := ids.foldl (fun s e =>
    match s.trk.get e with
    | some x => match x.nack with
      | some (st, d) => s.endEntry e x (.error st d)
      | none => s
    | none => s) s
  s.trk.mcast.foldl (fun s x =>
    match x.2 with
    | some m => s.mcastSettle x.1 m
    | none => s) s

/-! ### The duplicate filter of a destination (09 R206) -/

inductive SeqVerdict where
  | accept | duplicate | old
deriving DecidableEq, Repr

/-- The verdict on number `n` of a session, and the state kept after it. -/
def judgeSeq (k : Option SeqState) (session : Half) (n : Word) : SeqVerdict × SeqState :=
  match k with
  | none => (.accept, ⟨session, n, [n]⟩)
  | some k =>
    if k.session ≠ session then (.accept, ⟨session, n, [n]⟩)
    else
      let up := (n - k.high).toNat
      let down := (k.high - n).toNat
      if 1 ≤ up ∧ up ≤ 2 ^ 31 - 1 then
        (.accept, ⟨session, n, n :: k.accepted.filter fun a => (n - a).toNat ≤ 1023⟩)
      else if down ≤ 1023 then
        if k.accepted.contains n then (.duplicate, k) else (.accept, { k with accepted := n :: k.accepted })
      else (.old, k)

/-- Filter a numbered packet of a source; `f` carries out an accepted one, which has still to be
answered. -/
def State.filtered (s : State) (p : Pkt) (f : State → State) : State :=
  match judgeSeq (smGet none s.trk.sources (8 * p.src.toNat + p.srcAtt.toNat)) p.session p.seq with
  | (.accept, k) => f (s.modTrk fun t => { t with sources := smSet t.sources (8 * p.src.toNat + p.srcAtt.toNat) (some k) })
  | (.duplicate, _) => (s.modTrk fun t => { t with dups := bump t.dups }).ack p
  | (.old, _) => s

end Sys2Proof.Machine
end

