-- ==== Sys2Proof/Machine/Touch.lean ====
section
/-! DEFINITION. What a write does to the snapshot engine: touch bits, pre-images, protected pages, and
the copies on their way to the partner (16 R356, R359, R361, R364). -/

namespace Sys2Proof.Machine

def pageSize : Nat := 65536
def pageOf (a : Nat) : Nat := a / pageSize

/-- The first pages of the ranges of a policy entry, both buffers of a double-buffered one. -/
def PolicyEntry.holds (e : PolicyEntry) (page : Nat) : Bool :=
  (pageOf e.addr ≤ page && page < pageOf e.addr + e.pages) ||
    (e.dbuf && pageOf e.addr1 ≤ page && page < pageOf e.addr1 + e.pages)

/-- The partition and entry whose tensor holds a page. -/
def State.policyOf (s : State) (page : Nat) : Option (Nat × Policy × PolicyEntry) :=
  s.part.findSome? fun p =>
    match p.2.policy with
    | none => none
    | some t => (t.entries.find? (·.holds page)).map fun e => (p.1, t, e)

/-- Pages between two addresses. -/
def pagesOf (a n : Nat) : List Nat :=
  if n = 0 then [] else (List.range (pageOf (a + n - 1) - pageOf a + 1)).map (pageOf a + ·)

/-- A chunk whose lines cannot be read; a poisoned line is copied with its mark (16 at the edges). -/
def Mem.copyFails (m : Mem) (a n : Nat) : Bool := (linesOf a n).any fun l => m.errOf l = some .uncorrectable

/-- The bytes a copy carries: those at hand, or HBM as it stands; an uncorrectable line that is not
poisoned fails the copy (16 at the edges). -/
def State.copyBytes (s : State) (c : SnapCopy) : List Byte × Bool × State :=
  match c.data with
  | some d => (d, c.bad, s)
  | none =>
    let (d, _, t) := s.hbmRead c.src 4096
    (d, s.mem.copyFails c.src 4096, t)

/-- A protected page is copied ahead of every other: its chunks take the bytes as they stand and go to
the front (08 R184, 16 R359). -/
def Snap.ahead (x : Snap) (m : Mem) (page : Nat) : Snap :=
  let mine (c : SnapCopy) : Bool := c.data.isNone && pageOf c.src = page
  { x with guarded := x.guarded.filter (· ≠ page),
           queue := (x.queue.filter mine).map (fun c => { c with data := some (memRead m.hbm c.src 4096), bad := m.copyFails c.src 4096 }) ++
             x.queue.filter fun c => !mine c }

/-- The page as it stands goes to the pre-image buffer; the place in the buffer is not stated: a free one of its pages
(log 31). -/
def State.keepPreImage (s : State) (t : Policy) (page : Nat) : State :=
  let (old, _, s) := s.hbmRead (page * pageSize) pageSize
  let s := s.modSnap fun x => { x with preimage := x.preimage ++ [⟨s.snap.genNo, page, old⟩] }
  let (bs, s) := s.drawBytes 4
  let at_ := t.preArea.toNat + leNat bs % t.prePages * pageSize
  if at_ + pageSize ≤ hbmSize then (s.hbmWrite at_ old).1 else s

/-- A page is touched by a write (16 R356, R359, R364). How long the write is held is not stated: a
free number of ticks. -/
def State.touchPage (s : State) (page : Nat) : State :=
  match s.policyOf page with
  | none => s
  | some (_, t, e) =>
    let first := !s.snap.touched.contains page
    let s := if !first then s else s.modSnap fun x => { x with touched := page :: x.touched }
    let s := if first && e.stripe && s.snap.enabled && 0 < s.snap.genNo then
        (if s.snap.preimage.length < t.prePages then s.keepPreImage t page
        else s.modSnap fun x => { x with noStripe := true }) else s
    if s.snap.guarded.contains page then
      let s := (s.snap.queue.filter fun c => c.data.isNone && pageOf c.src = page).foldl (fun s c => (s.hbmRead c.src 4096).2.2) s
      let (bs, s) := s.drawBytes 4
      let ticks := leNat bs
      s.modSnap fun x =>
        let x := x.ahead s.mem page
        { x with touchN := satAdd 32 x.touchN 1, touchT := satAdd 32 x.touchT ticks,
                 cut := x.cut.map fun c => { c with touchMax := max c.touchMax ticks } }
    else s

/-- Before a write of n bytes at HBM address a. -/
def State.touch (s : State) (a n : Nat) : State := (pagesOf a n).foldl State.touchPage s

/-- A write to HBM from any requester: the snapshot engine first, then the bytes. -/
def State.storeHbm (s : State) (a : Nat) (bs : List Byte) : State × Bool := (s.touch a bs.length).hbmWrite a bs

/-- Send what waits for the partner while tracker entries are free; `fuel` bounds the packets. -/
def State.snapPump (s : State) (fuel : Nat) : State :=
  match fuel with
  | 0 => s
  | fuel + 1 =>
    match s.snap.cut, s.snap.queue with
    | some c, x :: rest =>
      match (s.getPart c.part.toNat).partner with
      | none => s
      | some node =>
        if (s.trk.freeIsland x.island.toNat node).isNone then s
        else
          let (bs, bad, s) := s.copyBytes x
          let s := s.modSnap fun y =>
            { y with queue := rest,
                     guarded := if rest.any fun z => z.data.isNone && pageOf z.src = pageOf x.src then y.guarded
                       else if x.data.isNone then y.guarded.filter (· ≠ pageOf x.src) else y.guarded }
          let s := if bad then
              s.modSnap fun y => { y with fails := satAdd 32 y.fails 1,
                                          cut := y.cut.map fun c => { c with failed := c.failed.insert x.item } }
            else (s.sendSnap x.island.toNat
              { blankPkt tWrite node with addr := x.dst, partition := c.part, length := BitVec.ofNat 13 bs.length,
                                          payload := bs } .snapshot x.item).1
          s.snapPump fuel
    | _, _ => s

end Sys2Proof.Machine
end

