-- ==== Sys2Proof/Machine/Desc.lean ====
section
/-! DEFINITION. DMA descriptors and completion queue headers: layouts, addresses of elements, and the
checks of 09 R191 to R194, R198 (with 05 R105 and 18 R408). -/

namespace Sys2Proof.Machine

/-- An address word (09, "Descriptors"). -/
structure AWord where
  remote : Bool
  rsv    : BitVec 3
  node   : NodeId
  addr   : DevAddr
deriving DecidableEq, Repr

def AWord.parse (n : Nat) : AWord :=
  let w : Dword := BitVec.ofNat 64 n
  ⟨w.getLsbD 63, w.extractLsb' 60 3, w.extractLsb' 48 12, w.extractLsb' 0 48⟩

/-- A reserved bit is set, or a local word names a node. -/
def AWord.bad (w : AWord) : Bool := w.rsv ≠ 0 || (!w.remote && w.node ≠ 0)

/-- Strided loops (09 Table 9.3) or an indexed table (Table 9.4). -/
inductive Walk where
  | strided (c0 c1 c2 : Nat) (s0 s1 s2 d0 d1 d2 : Int)
  | indexed (idx64 scatter : Bool) (table : AWord) (count run : Nat) (ostride lstep : Int)
deriving DecidableEq, Repr

structure Desc where
  notify : Bool
  rsem   : BitVec 5
  elem   : Nat
  cqOff  : Nat
  src    : AWord
  dst    : AWord
  walk   : Walk
deriving DecidableEq, Repr

/-- A signed field of n bytes at an offset. -/
def signedAt (bs : List Byte) (off n : Nat) : Int := (BitVec.ofNat (8 * n) (leAt bs off n)).toInt

def Desc.parse (bs : List Byte) : Desc :=
  let at_ := leAt bs
  let w24 := at_ 24 8
  { notify := at_ 1 1 / 128 % 2 = 1, rsem := BitVec.ofNat 5 (at_ 1 1), elem := at_ 2 1 + 1,
    cqOff := at_ 4 4 % 2 ^ 22, src := .parse (at_ 8 8), dst := .parse (at_ 16 8),
    walk := if at_ 0 1 = 2 then
        .indexed (at_ 1 1 / 64 % 2 = 1) (at_ 1 1 / 32 % 2 = 1) (.parse w24) (at_ 32 4 % 2 ^ 20 + 1) (at_ 36 2 + 1)
          (signedAt bs 38 5) (signedAt bs 43 5)
      else .strided (w24 % 2 ^ 20 + 1) (w24 / 2 ^ 20 % 2 ^ 20 + 1) (w24 / 2 ^ 40 % 2 ^ 20 + 1)
        (signedAt bs 32 5) (signedAt bs 37 5) (signedAt bs 42 5) (signedAt bs 47 5) (signedAt bs 52 5) (signedAt bs 57 5) }

/-- The first reserved `KIND` or nonzero reserved field, by byte offset (09 Table 9.5). -/
def descReserved (bs : List Byte) : Option Nat :=
  let at_ := leAt bs
  let indexed := at_ 0 1 = 2
  let bad : List (Nat × Bool) :=
    [(0, at_ 0 1 ≠ 1 && at_ 0 1 ≠ 2), (1, !indexed && at_ 1 1 / 32 % 4 ≠ 0), (3, at_ 3 1 ≠ 0),
     (4, at_ 4 4 / 2 ^ 22 ≠ 0), (8, (AWord.parse (at_ 8 8)).bad), (16, (AWord.parse (at_ 16 8)).bad),
     (24, if indexed then (AWord.parse (at_ 24 8)).bad else at_ 24 8 / 2 ^ 60 ≠ 0),
     (32, indexed && at_ 32 4 / 2 ^ 20 ≠ 0), (48, indexed && leAt bs 48 16 ≠ 0), (62, !indexed && at_ 62 2 ≠ 0)]
  (bad.find? (·.2)).map (·.1)

/-! ### Regions (09 Table 9.1, 00 Table 0.6) -/

def spBase0 : Nat := 0x100000000000

/-- What lies at a device address, for a run of n bytes of one region. -/
inductive Region where
  | hbm (a : Nat)
  | sp (island off : Nat)
  | reserved
deriving DecidableEq, Repr

def regionOf (a n : Nat) : Region :=
  if a + n ≤ hbmSize then .hbm a
  else if spBase0 ≤ a ∧ a + n ≤ spBase0 + 256 * spSize ∧ (a - spBase0) / spSize = (a + n - 1 - spBase0) / spSize then
    .sp ((a - spBase0) / spSize) ((a - spBase0) % spSize)
  else .reserved

/-- Island j is bound to the same pipeline as island i. -/
def State.samePipe (s : State) (i j : Nat) : Bool :=
  s.present j && (i = j || (stBound ≤ s.islSt j && (s.getIsl j).partition = (s.getIsl i).partition &&
    (s.getIsl j).pipeline = (s.getIsl i).pipeline))

/-- How a local extent of island i's channel fares: its region, or the status that refuses it. -/
def State.extent (s : State) (i : Nat) (lo hi : Int) : Except Half Region :=
  if lo < 0 ∨ hi < lo then .error sBadParam
  else
    match regionOf lo.toNat (hi - lo + 1).toNat with
    | .reserved => .error sBadParam
    | .hbm a => if s.admits (s.getIsl i).partition.toNat a (hi - lo + 1).toNat then .ok (.hbm a) else .error sNotPermitted
    | .sp j off =>
      if !s.samePipe i j then .error sBadParam
      else if i = j ∧ s.stagingHeld i ∧ stagingOff < off + (hi - lo + 1).toNat then .error sNotPermitted
      else .ok (.sp j off)

/-- Lowest and highest byte of a strided side. -/
def stridedExtent (base : Nat) (elem : Nat) (steps : List (Nat × Int)) : Int × Int :=
  let ds := steps.map fun c => ((c.1 : Int) - 1) * c.2
  ((base : Int) + (ds.map fun d => min 0 d).sum, (base : Int) + (ds.map fun d => max 0 d).sum + (elem : Int) - 1)

/-- The refusal of one side, if any. -/
def State.sideCheck (s : State) (i : Nat) (w : AWord) (e : Int × Int) : Option Half :=
  if w.remote then none
  else match s.extent i e.1 e.2 with
    | .error st => some st
    | .ok _ => none

/-- The checks of a descriptor before any read, in the order of 09 Table 9.5: the status and detail of
the first that fails. -/
def State.descCheck (s : State) (i : Nat) (bs : List Byte) : Option (Half × Half) :=
  match descReserved bs with
  | some off => some (sBadParam, BitVec.ofNat 16 off)
  | none =>
    let d := Desc.parse bs
    if d.src.remote ∧ d.dst.remote then some (sBadParam, 16)
    else
      let sides : List (Nat × Option Half) :=
        match d.walk with
        | .strided c0 c1 c2 s0 s1 s2 d0 d1 d2 =>
          [(8, s.sideCheck i d.src (stridedExtent d.src.addr.toNat d.elem [(c0, s0), (c1, s1), (c2, s2)])),
           (16, s.sideCheck i d.dst (stridedExtent d.dst.addr.toNat d.elem [(c0, d0), (c1, d1), (c2, d2)]))]
        | .indexed idx64 _ table count _ _ _ =>
          let size := if idx64 then 8 else 4
          let a := table.addr.toNat
          [(24, if table.remote then some sBadParam
            else match s.extent i a (a + size * count - 1) with
              | .error st => some st
              | .ok (.sp j off) => if j = i ∧ off % size = 0 then none else some sBadParam
              | .ok _ => some sBadParam)]
      match sides.find? fun x => x.2 = some sBadParam with
      | some x => some (sBadParam, BitVec.ofNat 16 x.1)
      | none =>
        match sides.find? fun x => x.2.isSome with
        | some x => some (sNotPermitted, BitVec.ofNat 16 x.1)
        | none =>
          match regionOf d.dst.addr.toNat 1 with
          | .sp _ _ => none
          | _ => if d.notify then some (sBadParam, 1) else none

/-! ### Elements (09 R191, R192) -/

/-- Loop counters of `CH_POS`, and the linear number of the element they name. -/
def posAt (w : Walk) (pos : BitVec 60) : Nat × Nat × Nat :=
  match w with
  | .strided .. => ((pos.extractLsb' 0 20).toNat, (pos.extractLsb' 20 20).toNat, (pos.extractLsb' 40 20).toNat)
  | .indexed .. => ((pos.extractLsb' 20 16).toNat, (pos.extractLsb' 0 20).toNat, 0)

def posOf (w : Walk) (a b c : Nat) : BitVec 60 :=
  match w with
  | .strided .. => BitVec.ofNat 60 (a + b * 2 ^ 20 + c * 2 ^ 40)
  | .indexed .. => BitVec.ofNat 60 (b + a * 2 ^ 20)

/-- Counts of the two inner loops and of the outer one. -/
def Walk.counts (w : Walk) : Nat × Nat × Nat :=
  match w with
  | .strided c0 c1 c2 .. => (c0, c1, c2)
  | .indexed _ _ _ count run _ _ => (run, count, 1)

def Walk.linear (w : Walk) (pos : BitVec 60) : Nat :=
  let (a, b, c) := posAt w pos
  let (n0, n1, _) := w.counts
  a + n0 * (b + n1 * c)

def Walk.total (w : Walk) : Nat := let (a, b, c) := w.counts; a * b * c

/-- The position after an element, or none after the last. -/
def Walk.next (w : Walk) (pos : BitVec 60) : Option (BitVec 60) :=
  let (a, b, c) := posAt w pos
  let (n0, n1, n2) := w.counts
  if a + 1 < n0 then some (posOf w (a + 1) b c)
  else if b + 1 < n1 then some (posOf w 0 (b + 1) c)
  else if c + 1 < n2 then some (posOf w 0 0 (c + 1))
  else none

/-- Source and destination addresses of the element at a position; `o` is the table entry of its run. -/
def Desc.addrs (d : Desc) (pos : BitVec 60) (o : Int) : Int × Int :=
  let (a, b, c) := posAt d.walk pos
  match d.walk with
  | .strided _ _ _ s0 s1 s2 d0 d1 d2 =>
    ((d.src.addr.toNat : Int) + a * s0 + b * s1 + c * s2, (d.dst.addr.toNat : Int) + a * d0 + b * d1 + c * d2)
  | .indexed _ scatter _ _ _ ostride lstep =>
    let j : Int := (a * d.elem : Nat)
    if scatter then ((d.src.addr.toNat : Int) + b * lstep + j, (d.dst.addr.toNat : Int) + o * ostride + j)
    else ((d.src.addr.toNat : Int) + o * ostride + j, (d.dst.addr.toNat : Int) + b * lstep + j)

/-- Bytes of an unbroken run that one access moves: 1 to 64, inside one line. -/
def lineRoom (a : Int) : Nat := 64 - (a % 64).toNat

/-! ### Completion queue headers (09 Table 9.6, R198) -/

structure CqHeader where
  ring : AWord
  log2 : Nat
  pi   : Word
  ci   : Word
deriving DecidableEq, Repr

/-- A header's ring, unless it breaks 09 R198. -/
def State.cqHeader (s : State) (i : Nat) (bs : List Byte) : Option (CqHeader × Region) :=
  let h : CqHeader := ⟨.parse (leAt bs 0 8), leAt bs 8 1, BitVec.ofNat 32 (leAt bs 12 4), BitVec.ofNat 32 (leAt bs 16 4)⟩
  let a := h.ring.addr.toNat
  if h.ring.bad || h.ring.remote || leAt bs 9 3 ≠ 0 || leAt bs 20 12 ≠ 0 || h.log2 = 0 || 16 < h.log2 || a % 32 ≠ 0 then none
  else
    match regionOf a (32 * 2 ^ h.log2) with
    | .hbm a => if s.admits (s.getIsl i).partition.toNat a (32 * 2 ^ h.log2) then some (h, .hbm a) else none
    | .sp j off => if j = i then some (h, .sp j off) else none
    | .reserved => none

/-- A completion record (09 Table 9.7). -/
def dmaRecord (status detail : Half) (ch : BitVec 2) (sem : BitVec 5) (desc : BitVec 22) (elements : Nat) (time : Dword) : List Byte :=
  leBytes 2 status.toNat ++ leBytes 2 detail.toNat ++ leBytes 1 ch.toNat ++ leBytes 1 sem.toNat ++ leBytes 2 0 ++
    leBytes 4 desc.toNat ++ leBytes 4 0 ++ leBytes 8 (elements % 2 ^ 60) ++ leBytes 8 time.toNat

end Sys2Proof.Machine
end

