-- ==== Sys2Proof/Machine/Hbm.lean ====
section
/-! DEFINITION. The memory frame: the owner of every slot, the slot and the completion of an island-class request, the
shared queue of a channel with its own and lent slots, and the order in which requests take effect (08 R171 to R178). -/

namespace Sys2Proof.Machine

/-! ### Time (08 R171, Table 8.2) -/

/-- A lighthouse tick is 16,800 units, a slot 336; a cycle of each clock level is a whole number of them. -/
def tickUnits : Nat := 16800
def slotUnits : Nat := 336

/-- When a frame cycle of the tick at hand, or one after it at the same level, begins. -/
def State.unitsOf (s : State) (cycle : Nat) : Nat :=
  let n := cyclesPerTick s.pwr.level.toNat
  let r := (3360 - s.clk.frac) % 3360
  let j := cycle - s.clk.frame
  tickUnits * s.clk.now +
    match s.clk.split with
    | some (k, old) => if j < k then (3360 * j + r) * 5 / old else (3360 * k + r) * 5 / old + (j - k) * (tickUnits / n)
    | none => (3360 * j + r) * 5 / n

/-! ### Slots (08 R171) -/

/-- What a slot position is for. -/
inductive SlotUse where
  | refresh | scrub | shared | island (i : Nat)
deriving DecidableEq, Repr

def sideOf (x : Nat) : Nat := x / 128

/-- `owner` of 08 R171, position p of channel g. -/
def slotUse (spread : Bool) (p g : Nat) : SlotUse :=
  if p % 16 = 15 then
    let k := p / 16 % 25
    if k < 16 then .refresh else if k = 16 then .scrub else .shared
  else
    let n := 15 * (p / 16) + p % 16
    if !spread then .island g
    else if n < 3584 ∧ n % 14 = 13 then .island (128 * (1 - sideOf g) + n / 14 % 128)
    else
      let m := n - min 256 ((n + 1) / 14)
      .island (128 * sideOf g + (m + g) % 128)

/-- c(i, g) of 08 R171. -/
def slotCount (spread : Bool) (i g : Nat) : Nat :=
  if !spread then (if i = g then 3750 else 0)
  else if sideOf i ≠ sideOf g then 2
  else if (i % 128 + 256 - g) % 128 < 38 then 28 else 27

/-- A start has passed its fill (15 Table 15.9, step 5). -/
def State.hbmUp (s : State) : Bool :=
  match s.fw.starting with
  | some x => decide (5 < x.step)
  | none => true

/-- The frame is suspended by self-refresh; it resumes at a multiple of 80 ticks after the exit (08 R177). -/
def State.frameHeld (s : State) : Bool := s.pwr.deepIdle || decide (s.clk.now < s.mem.frameFrom)

/-- The frame of memory slots runs: HBM trained, no fill under way, no self-refresh. -/
def State.frameRuns (s : State) : Bool := !s.frameHeld && !s.mem.filling && s.hbmUp

/-- The use of slot S, counted from tick 0, on channel g; slots of a suspended frame have none. -/
def State.useOf (s : State) (g slot : Nat) : Option SlotUse :=
  if slot / 50 < s.mem.frameFrom then none else some (slotUse s.mem.mode (slot % 4000) g)

/-- The first of the `fuel` slots from `slot` on that satisfies p. -/
def slotFrom (p : Nat → Bool) : Nat → Nat → Option Nat
  | 0, _ => none
  | fuel + 1, slot => if p slot then some slot else slotFrom p fuel (slot + 1)

/-- The slot in which a request accepted at a time is served: the first of the island's own that begins 40 ns later and
follows those of its earlier requests (08 R172). -/
def State.slotFor (s : State) (i g at_ : Nat) : Option Nat :=
  let after := (s.getIsl i).inFlight.foldl (fun m r => if (hbmMap s.mem.mode r.addr).1 = g then max m (r.slot + 1) else m) 0
  slotFrom (fun slot => s.useOf g slot = some (.island i)) 8000 (max (ceilDiv (at_ + tickUnits) slotUnits) after)

/-! ### Carrying out requests (08 R173, R175) -/

/-- Carry out a request in its slot. -/
def State.serveHbm (s : State) (r : HbmReq) : State × HbmReq :=
  if r.read then
    let (bs, ue, s) := s.hbmRead r.addr r.len
    (s, { r with data := bs, served := true, bad := ue })
  else
    let (s, bad) := s.storeHbm r.addr r.data
    (s, { r with served := true, bad := bad })

/-- The island's requests of one slot are served. -/
def State.serveAt (s : State) (i slot : Nat) : State :=
  let r := (s.getIsl i).inFlight.foldl (fun (a : State × List HbmReq) r =>
    if r.served || r.slot ≠ slot then (a.1, a.2 ++ [r])
    else
      let b := a.1.serveHbm r
      (b.1, a.2 ++ [b.2])) (s, [])
  r.1.modIsl i fun v => { v with inFlight := r.2 }

def insertSlot (x : Nat × Nat) : List (Nat × Nat) → List (Nat × Nat)
  | [] => [x]
  | y :: t => if y.1 ≤ x.1 then y :: insertSlot x t else x :: y :: t

/-- The slots before `bound` in which a request waits to be served, in slot order, each with its island. -/
def State.dueSlots (s : State) (bound : Nat) : List (Nat × Nat) :=
  (s.isl.flatMap fun v => (v.2.inFlight.filter fun r => !r.served && decide (r.slot < bound)).map fun r => (r.slot, v.1)).foldl
    (fun l x => if l.contains x then l else insertSlot x l) []

/-- Every island-class request whose slot comes before `bound` takes effect, in slot order (08 R175). -/
def State.serveTo (s : State) (bound : Nat) : State :=
  if s.frameHeld then s else (s.dueSlots bound).foldl (fun s x => s.serveAt x.2 x.1) s

/-- What a served request does to its channel at its completion (08 R173, 09 R202): a record's error is kept in `CH_ERR` and
its `PI` may be written (log 88). -/
def State.hbmDone (s : State) (r : HbmReq) : State :=
  s.modChan r.island.toNat r.ch.toNat fun c =>
    let c := { c with inFlight := c.inFlight - 1 }
    if r.record then { c with recOut := c.recOut.map fun x => { x with landed := true },
                              err := if r.bad && c.err.extractLsb' 0 16 = 0 then (0 : Half) ++ sMemoryError else c.err }
    else if r.bad then c.failPiece r.piece sMemoryError (if r.read then 8 else 16)
    else if r.read then c.landed r.piece r.data else c.written r.piece

/-! ### The shared class (08 R174) -/

/-- Slot S of channel g may serve the shared class: one of its own, or one that no request of its owner waits for. -/
def State.lentSlot (s : State) (g slot : Nat) : Bool :=
  match s.useOf g slot with
  | some .shared => true
  | some (.island i) => !(s.getIsl i).inFlight.any fun r => r.slot = slot && (hbmMap s.mem.mode r.addr).1 = g
  | _ => false

/-- The next slot of channel g for the shared class, from the tick at hand on. -/
def State.sharedSlot (s : State) (g : Nat) : Nat :=
  let from_ := max (smGet 0 s.mem.sharedAt g) (50 * s.clk.now)
  (slotFrom (s.lentSlot g) 4000 from_).getD from_

/-- A shared-class slot of channel g passes: the island-class requests of the slots before it, in this tick, come first. -/
def State.takeShared (s : State) (g slot : Nat) : State :=
  (s.serveTo (min slot (50 * s.clk.now + 50))).modMem fun m => { m with sharedAt := smSet m.sharedAt g (slot + 1) }

/-- The head of a channel's shared queue is served in a slot. -/
def State.serveShared (s : State) (g slot : Nat) : State :=
  match smGet [] s.mem.sharedQ g with
  | [] => s
  | r :: rest =>
    let s := (s.takeShared g slot).modMem fun m => { m with sharedQ := smSet m.sharedQ g rest }
    let s := if r.read then s else s.backInvAll (linesOf r.addr r.len)
    let (s, r) := s.serveHbm r
    s.hbmDone r

/-- The queue of channel g is served before an access that comes after it; `fuel` bounds its requests. -/
def State.sharedTurn (s : State) (g : Nat) : Nat → State
  | 0 => s.takeShared g (s.sharedSlot g)
  | fuel + 1 => (s.serveShared g (s.sharedSlot g)).sharedTurn g fuel

/-- The channels of a run of lines, each its turn once. -/
def State.sharedTurns (s : State) (a n : Nat) : State :=
  if s.frameHeld then s
  else ((linesOf a n).foldl (fun l x => let g := (hbmMap s.mem.mode x).1; if l.contains g then l else l ++ [g]) []).foldl
    (fun s g => s.sharedTurn g (smGet [] s.mem.sharedQ g).length) s

/-- A shared-class read in its arrival order. -/
def State.sharedRead (s : State) (a n : Nat) : List Byte × Bool × State := (s.sharedTurns a n).hbmRead a n

/-- A shared-class write in its arrival order, which also invalidates host copies. -/
def State.storeShared (s : State) (a : Nat) (bs : List Byte) : State × Bool :=
  ((s.sharedTurns a bs.length).touch a bs.length).sharedWrite a bs

/-- `HBM_SHARED_ACCESS` (08 R174): the head of a channel's shared queue, in a shared or lent slot of the tick at hand. -/
def execHbmSharedAccess (g : Byte) (s : State) : Out :=
  .next (
    let slot := s.sharedSlot g.toNat
    if s.frameHeld ∨ 50 * s.clk.now + 50 ≤ slot then s else s.serveShared g.toNat slot)

end Sys2Proof.Machine
end

