-- ==== Sys2Proof/Machine/Dma.lean ====
section
/-! DEFINITION. The DMA channels, cycle by cycle: starts, take-up, reads and writes of pieces, the memory port, the bank
queues and completion (09 R188 to R202, 08 R172, R173, 05 R103, R110). -/

namespace Sys2Proof.Machine

/-! ### Cycles and banks (05 R103) -/

def bankOf (off : Nat) : Nat := off / 128 % 16

/-- The island's schedule goes on by its cycles. -/
def State.cycling (s : State) (i : Nat) : Bool :=
  (s.islSt i = stRunning && !(s.getIsl i).starting) || s.islSt i = stFaulted

/-- The first open cycle from frame cycle c on: every eighth of a RUNNING island, else every one. -/
def State.openFrom (s : State) (i c : Nat) : Nat :=
  let v := s.getIsl i
  if s.islSt i = stRunning ∧ !v.starting then c + (15 - (c - v.origin) % 8) % 8 else c

/-- The first open cycle from c on in which a bank of island i takes a further access. -/
def State.bankFrom (s : State) (i bank c : Nat) : Nat := s.openFrom i (max c (smGet 0 (s.getIsl i).bankAt bank))

/-- A bank is taken in a cycle. -/
def State.claim (s : State) (i bank c : Nat) : State :=
  (s.modIsl i fun v => ({ v with bankAt := smSet v.bankAt bank (c + 1) } : Island).count 1 1)

/-- The frame cycle that island i has reached, and the end of the cycles that belong to the tick at hand. -/
def State.reached (s : State) (i : Nat) : Nat :=
  if s.cycling i then max s.clk.frame ((s.getIsl i).origin + (s.getIsl i).seqCycle) else s.clk.frame
def State.tickEnd (s : State) (i : Nat) : Nat := max (s.clk.frame + s.tickCycles) (s.reached i + 8)

/-- The control plane, the fabric and the snapshot engine take the next open cycle of each bank they touch (05 R103, log 89). -/
def State.bankTouch (s : State) (i off n : Nat) : State :=
  (granules off n).foldl (fun s b => s.claim i b (s.bankFrom i b (s.reached i))) s

/-- The first frame cycle at or after a time, of the tick at hand. -/
def State.cycleAt (s : State) (time : Nat) : Nat :=
  s.clk.frame + ((List.range s.tickCycles).find? fun j => decide (time ≤ s.unitsOf (s.clk.frame + j))).getD s.tickCycles

/-! ### Effects of a later cycle -/

/-- The number under which accesses of channels stand in an island's schedule; no slot instruction has it. -/
def asyncOp : Nat := 2 ^ 64

/-- A semaphore of island i is incremented in a frame cycle (05 R120). -/
def State.semAt (s : State) (i : Nat) (sem : BitVec 5) (c : Nat) : State :=
  if s.cycling i then s.modIsl i fun v => v.push (c - v.origin) 0 asyncOp (.semInc sem) else s.semInc i sem

/-- Bytes of island i's scratchpad are written in a frame cycle. -/
def State.writeAt (s : State) (i off : Nat) (bs : List Byte) (c : Nat) : State :=
  s.modIsl i fun v => if s.cycling i then v.push (c - v.origin) 2 asyncOp (.stWrite off bs) else v.spWrite off bs

/-! ### Channel states (09 Table 9.2) -/

def Chan.desc_ (c : Chan) : Desc := Desc.parse (bvBytes 64 c.dcopy)

/-- The queued starts, in order. -/
def Chan.starts (c : Chan) : List (BitVec 5 × BitVec 22) := c.queue.filterMap id

/-- A start queue without invalid entries at its end. -/
def trimQueue (q : List (Option (BitVec 5 × BitVec 22))) : List (Option (BitVec 5 × BitVec 22)) :=
  (q.reverse.dropWhile Option.isNone).reverse

/-- Elements certainly written (09 R202). -/
def Chan.elements (c : Chan) : Nat :=
  let d := c.desc_
  let at_ := d.walk.linear c.pos + (if c.sub = d.elem then 1 else 0)
  (c.pieces.filter (·.stage = .failed)).foldl (fun m p => min m p.elem) at_

/-- `CH_STATE.STATE`: `st` is 0 without a descriptor, 1 with one, 4 while it completes. -/
def Chan.state (c : Chan) : Nat :=
  if c.st = 4 then 4
  else if c.st = 0 then (if c.starts.isEmpty then 0 else if c.paused then 3 else 1)
  else if c.paused ∧ ¬ c.allRead then
    (if c.inFlight = 0 ∧ c.sub = 0 ∧ c.pieces.all (fun p => p.stage = .writing) then 3 else 2)
  else 1

/-! ### Starts and the pause bit (05 R110, R117, 09 R188, R201) -/

/-- A start enters the queue; the channel may take it up from the cycle after (09 R424). -/
def Chan.enqueue (c : Chan) (sem : BitVec 5) (desc : BitVec 22) (cycle : Nat) : Chan :=
  { c with queue := (c.starts ++ [(sem, desc)]).map some, since := if c.st = 0 ∧ c.starts.isEmpty then max c.since cycle else c.since }

/-- `DSTART`. -/
def execDstart (w : Site) (ch : BitVec 2) (xa sem : BitVec 5) (s : State) : Out :=
  .next (s.slot w 7 fun s i t op =>
    let v := s.getIsl i
    let off := (v.getX xa).toNat
    let lim := if s.stagingHeld i then stagingOff else spSize
    if lim ≤ off then s.preciseFault i 7 0x0B 0 off t
    else
      let d : BitVec 22 := BitVec.ofNat 22 off
      if (v.getChan ch.toNat).starts.length < 8 then s.modChan i ch.toNat fun c => c.enqueue sem d (v.origin + t + 1)
      else s.setIsl i (v.push (t + 1) 2 op (.dmaRefuse ch sem d)))

/-- `DPAUSE`: the pause bit is set in the cycle after issue. -/
def execDpause (w : Site) (ch : BitVec 2) (s : State) : Out :=
  .next (s.slot w 7 fun s i t op => s.modIsl i fun v => v.push (t + 1) 0 op (.dmaPause ch true))

/-- `DRESUME`. -/
def execDresume (w : Site) (ch : BitVec 2) (s : State) : Out :=
  .next (s.slot w 7 fun s i t op => s.modIsl i fun v => v.push (t + 1) 0 op (.dmaPause ch false))

/-! ### Take-up (09 R193, R194, R424) -/

/-- A channel that can write no record: the fault log, and the semaphore in the cycle after the failing read. -/
def State.noRecord (s : State) (i ch : Nat) (sem : BitVec 5) (c : Nat) : State :=
  (s.logFault .dmaNoRecord srcLighthouse 1 (BitVec.ofNat 32 (4 * i + ch))).semAt i sem (c + 1)

def State.takeUpFails (s : State) (i ch : Nat) (sem : BitVec 5) (status detail : Half) (c : Nat) : State :=
  (s.modChan i ch fun x => { x with st := 0, err := detail ++ status, since := c + 1 }).noRecord i ch sem c

/-- The queue header of an offset, as it stands: its bytes, or the status that stops it. -/
def State.readHeader (s : State) (i off : Nat) : Except Half (CqHeader × Region) × State :=
  if off % 32 ≠ 0 then (.error sBadParam, s)
  else
    let v := s.getIsl i
    let s := s.noteSp i off 32
    if v.spUe off 32 then (.error sMemoryError, s)
    else match s.cqHeader i (v.spRead off 32) with
      | none => (.error sBadParam, s)
      | some h => (.ok h, s)

/-- No request waits at a bank. -/
def Island.bankIdle (v : Island) (bank : Nat) : Bool := (smGet [] v.bankQ bank).isEmpty

/-- The cycle in which a channel can take up its next start: the first open one of the descriptor's bank. -/
def State.takeUpAt (s : State) (i ch : Nat) : Option Nat :=
  let v := s.getIsl i
  let c := v.getChan ch
  match c.starts with
  | [] => none
  | (_, desc) :: _ =>
    if c.st ≠ 0 ∨ c.paused ∨ c.recOut.isSome ∨ s.islSt i < stBound ∨ !v.bankIdle (bankOf desc.toNat) then none
    else some (s.bankFrom i (bankOf desc.toNat) (max c.since (s.reached i)))

/-- A channel takes up its next start in cycle c: the descriptor, then the header in the first open cycle of its bank after
that, judged before the checks of 09 R193; reads go out from the cycle after. -/
def State.takeUp (s : State) (i ch c : Nat) : State :=
  match ((s.getIsl i).getChan ch).starts with
  | [] => s
  | (sem, desc) :: rest =>
    let s := (s.claim i (bankOf desc.toNat) c).modChan i ch fun x =>
      { x with queue := rest.map some, desc := desc, sem := sem, err := 0, pos := 0, sub := 0, pieces := [], runOff := none,
               allRead := false, notified := false }
    if desc.toNat % 64 ≠ 0 then s.takeUpFails i ch sem sBadParam 0xFFFF c
    else
      let v := s.getIsl i
      let bs := v.spRead desc.toNat 64
      let s := s.noteSp i desc.toNat 64
      if v.spUe desc.toNat 64 then s.takeUpFails i ch sem sMemoryError 0 c
      else
        let hd := (Desc.parse bs).cqOff
        let c := s.bankFrom i (bankOf hd) (c + 1)
        let s := (s.claim i (bankOf hd) c).modChan i ch fun x => { x with dcopy := BitVec.ofNat 512 (leNat bs), since := c + 1 }
        match s.readHeader i hd with
        | (.error st, s) => s.takeUpFails i ch sem st 4 c
        | (.ok _, s) =>
          match s.descCheck i bs with
          | some (st, d) => s.modChan i ch fun x => { x with st := 4, err := d ++ st }
          | none => s.modChan i ch fun x => { x with st := 1 }

/-- `DMA_DESCRIPTOR_TAKE_UP`, in its cycle of the tick at hand. -/
def execDmaDescriptorTakeUp (isl : BitVec 8) (ch : BitVec 2) (s : State) : Out :=
  .next (match s.takeUpAt isl.toNat ch.toNat with
    | some c => if c < s.tickEnd isl.toNat then s.takeUp isl.toNat ch.toNat c else s
    | none => s)

/-! ### The next piece (09 R191 to R193, R201) -/

/-- A side of a piece, unless its address is no longer one the channel may use. -/
def State.sideAt (s : State) (i : Nat) (w : AWord) (a : Int) (n : Nat) : Option Side :=
  if w.remote then some (.remote w.node (BitVec.ofInt 48 a))
  else if a < 0 then none
  else match regionOf a.toNat n with
    | .hbm a => some (.hbm a)
    | .sp j off => if j = i then some (.own off) else if s.samePipe i j then some (.island j off) else none
    | .reserved => none

def Chan.mayRead (c : Chan) : Bool := c.st = 1 && !c.allRead && (!c.paused || c.sub ≠ 0)

/-- Entry n of a transfer's offset table. -/
def Island.tableEntry (v : Island) (idx64 : Bool) (table : AWord) (n : Nat) : Int :=
  let size := if idx64 then 8 else 4
  let raw := leNat (v.spRead (table.addr.toNat % spSize + n * size) size)
  if idx64 then (BitVec.ofNat 64 raw).toInt else raw

/-- Open the run at hand: read its table entry and check it; a run that fails ends the transfer, and the runs before it
stand. -/
def State.openRun (s : State) (i ch : Nat) : State :=
  let c := (s.getIsl i).getChan ch
  if !c.mayRead || c.runOff.isSome then s
  else
    let d := c.desc_
    match d.walk with
    | .strided .. => s.modChan i ch fun c => { c with runOff := some 0 }
    | .indexed idx64 _ table _ run _ _ =>
      let n := (posAt d.walk c.pos).2.1
      let size := if idx64 then 8 else 4
      let off := table.addr.toNat % spSize + n * size
      let v := s.getIsl i
      let s := s.noteSp i off size
      if v.spUe off size then s.modChan i ch fun c => c.fail sMemoryError 24
      else
        let o := v.tableEntry idx64 table n
        let len : Int := (run * d.elem : Nat)
        let (a, b) := d.addrs (posOf d.walk 0 n 0) o
        match s.sideCheck i d.src (a, a + len - 1), s.sideCheck i d.dst (b, b + len - 1) with
        | some st, _ => s.modChan i ch fun c => c.stop st 8
        | none, some st => s.modChan i ch fun c => c.stop st 16
        | none, none => s.modChan i ch fun c => { c with runOff := some o }

/-- The next piece to read, its detail where a side is refused. -/
def State.peek (s : State) (i ch : Nat) : Option (Except Half Piece) :=
  let c := (s.getIsl i).getChan ch
  if !c.mayRead then none
  else match c.runOff with
    | none => none
    | some o =>
      let d := c.desc_
      let (a, b) := d.addrs c.pos o
      let a := a + c.sub
      let b := b + c.sub
      let n := min (d.elem - c.sub) (min (lineRoom a) (lineRoom b))
      match s.sideAt i d.src a n, s.sideAt i d.dst b n with
      | none, _ => some (.error 8)
      | _, none => some (.error 16)
      | some x, some y =>
        some (.ok ⟨c.nextId, d.walk.linear c.pos, decide (c.sub + n = d.elem), x, y, n, .reading, []⟩)

/-- The channel has issued the read of a piece. -/
def Chan.issued (c : Chan) (p : Piece) : Chan :=
  let d := c.desc_
  let c := { c with pieces := c.pieces ++ [p], nextId := c.nextId + 1, sub := c.sub + p.len }
  if !p.lastOf then c
  else match d.walk.next c.pos with
    | none => { c with allRead := true }
    | some q =>
      { c with pos := q, sub := 0,
               runOff := if (posAt d.walk q).2.1 = (posAt d.walk c.pos).2.1 then c.runOff else
                 match d.walk with
                 | .strided .. => c.runOff
                 | .indexed .. => none }

/-! ### What a transfer still supplies to a granule (09 R196) -/

/-- n bytes from b on reach into the 128 bytes from g on. -/
def reaches (b n g : Int) : Bool := decide (b < g + 128) && decide (g < b + n)

/-- Some k with lo ≤ k < hi has `reaches (b + k · step) n g`. -/
def someReaches (lo hi : Int) (b step n g : Int) : Bool :=
  let l := g - n + 1 - b
  let u := g + 127 - b
  if hi ≤ lo then false
  else if step = 0 then decide (l ≤ 0) && decide (0 ≤ u)
  else
    let (l, u, q) := if 0 < step then (l, u, step) else (-u, -l, -step)
    let k := max lo ((l + q - 1) / q)
    decide (k < hi) && decide (k * q ≤ u)

/-- An element still to be read supplies bytes of a granule: the rest of the one at hand, and, unless the channel is paused,
the elements after it. -/
def Island.toCome (v : Island) (ch : Nat) (g : Int) : Bool :=
  let c := v.getChan ch
  let d := c.desc_
  if !c.mayRead then false
  else
    let (p0, p1, p2) := posAt d.walk c.pos
    match d.walk with
    | .strided c0 c1 c2 _ _ _ d0 d1 d2 =>
      let at_ (i1 i2 : Nat) : Int := (d.dst.addr.toNat : Int) + i1 * d1 + i2 * d2
      reaches (at_ p1 p2 + p0 * d0 + c.sub) (d.elem - c.sub : Nat) g ||
        (!c.paused && (List.range c2).any fun i2 => decide (p2 ≤ i2) && (List.range c1).any fun i1 =>
          (decide (p2 < i2) || decide (p1 ≤ i1)) &&
            someReaches (if p2 = i2 ∧ p1 = i1 then p0 + 1 else 0) c0 (at_ i1 i2) d0 d.elem g)
    | .indexed idx64 scatter table count run ostride lstep =>
      let o := c.runOff.getD (v.tableEntry idx64 table p1)
      let b := (d.addrs c.pos o).2
      reaches (b + c.sub) (d.elem - c.sub : Nat) g ||
        (!c.paused && (reaches (b + d.elem) (d.elem * (run - p0 - 1) : Nat) g && decide (p0 + 1 < run) ||
          if scatter then (List.range count).any fun n => decide (p1 < n) &&
            reaches ((d.dst.addr.toNat : Int) + v.tableEntry idx64 table n * ostride) (run * d.elem : Nat) g
          else someReaches (p1 + 1) count d.dst.addr.toNat lstep (run * d.elem : Nat) g))

/-! ### Reads and writes that need no memory port -/

/-- Queue a request at a bank of island j; `none` while the queue of 8 is full. -/
def State.bankPush (s : State) (j : Nat) (r : BankReq) : Option State :=
  let v := s.getIsl j
  let q := smGet [] v.bankQ (bankOf r.off)
  if 8 ≤ q.length then none
  else some ((s.setIsl j { v with bankQ := smSet v.bankQ (bankOf r.off) (q ++ [r]) }).modChan r.island.toNat r.ch.toNat
    fun c => { c with inFlight := c.inFlight + 1 })

/-- Where a side of a piece ends, if the next one can go on from there in one packet. -/
def Side.follows (x y : Side) (n : Nat) : Bool :=
  match x, y with
  | .own a, .own b => a + n = b
  | .hbm a, .hbm b => a + n = b
  | .island i a, .island j b => i = j && a + n = b
  | .remote m a, .remote k b => m = k && a.toNat + n = b.toNat
  | _, _ => false

def Side.off (x : Side) : Nat :=
  match x with
  | .own off | .island _ off => off
  | .hbm a => a
  | .remote _ a => a.toNat

/-- Piece q continues a packet whose last piece is p: contiguous at the destination, inside one 4 KiB page of it (09,
"Fabric transfers"). -/
def Piece.joins (p q : Piece) : Bool := p.dst.follows q.dst p.len && p.dst.off / 4096 = q.dst.off / 4096

/-- The pieces that one READ_REQ asks for, from the next one on: contiguous on both sides; `fuel` bounds them. -/
def State.askPieces (s : State) (i ch : Nat) (last : Option Piece) : Nat → List Piece × State
  | 0 => ([], s)
  | fuel + 1 =>
    let s := s.openRun i ch
    match s.peek i ch with
    | some (.ok p) =>
      if last.all fun q => q.src.follows p.src q.len && q.joins p then
        let (l, s) := (s.modChan i ch (·.issued p)).askPieces i ch (some p) fuel
        (p :: l, s)
      else ([], s)
    | _ => ([], s)

/-- Issue one read that needs no memory port, in cycle c. -/
def State.kickRead (s : State) (i ch c : Nat) : Option State :=
  let s := s.openRun i ch
  match s.peek i ch with
  | none => none
  | some (.error d) => some (s.modChan i ch fun c => c.stop sBadParam d)
  | some (.ok p) =>
    let bank (j off : Nat) : Option State :=
      (s.bankPush j ⟨BitVec.ofNat 8 i, BitVec.ofNat 2 ch, [p.id], off, p.len, [], c + 1⟩).map fun s => s.modChan i ch (·.issued p)
    match p.src with
    | .own off => bank i off
    | .island j off => bank j off
    | .hbm _ => none
    | .remote node addr =>
      match s.trk.freeIsland i node with
      | none => none
      | some e =>
        let (l, s) := s.askPieces i ch none 4096
        let q := { blankPkt tReadReq node with
          addr := addr, partition := (s.getIsl i).partition, arg := BitVec.ofNat 32 (l.map (·.len)).sum }
        let s := s.modChan i ch fun c => { c with tracked := c.tracked + 1 }
        some (s.sendTracked e q (some (BitVec.ofNat 2 ch)) (l.map (·.id)) none)

/-- The granule of a scratchpad destination. -/
def Side.granule (x : Side) (i : Nat) : Option (Nat × Nat) :=
  match x with
  | .own off => some (i, off / 128)
  | .island j off => some (j, off / 128)
  | _ => none

/-- Pieces not yet being written, in element order. -/
def Chan.waiting (c : Chan) : List Piece := c.pieces.filter fun p => p.stage = .reading || p.stage = .ready

def Chan.writing (c : Chan) (ids : List Nat) : Chan :=
  { c with pieces := c.pieces.map fun p => if ids.contains p.id then { p with stage := .writing } else p }

/-- The pieces of a packet that begins with p. -/
def packetOf (p : Piece) : List Piece → List Piece
  | [] => [p]
  | q :: t => if p.joins q then p :: packetOf q t else [p]

/-- Issue one write that needs no memory port, in cycle c: the next granule, once every piece that the transfer supplies to
it has arrived (09 R196), or the next packet, filled as far as its destination runs on. -/
def State.kickWrite (s : State) (i ch c : Nat) : Option State :=
  let v := s.getIsl i
  let x := v.getChan ch
  match x.waiting with
  | [] => none
  | p :: rest =>
    if p.stage ≠ .ready then none
    else match p.dst with
      | .hbm _ => none
      | .remote node addr =>
        let l := packetOf p rest
        let more := l.length = x.waiting.length && match s.peek i ch with
          | some (.ok q) => (l.getLastD p).joins q
          | _ => x.mayRead && x.runOff.isNone
        if l.any (fun q => q.stage ≠ .ready) || more then none
        else match s.trk.freeIsland i node with
          | none => none
          | some e =>
            let data := l.flatMap (·.data)
            let q := { blankPkt tWrite node with
              addr := addr, partition := v.partition, length := BitVec.ofNat 13 data.length, payload := data }
            let s := s.modChan i ch fun c => { c.writing (l.map (·.id)) with tracked := c.tracked + 1 }
            some (s.sendTracked e q (some (BitVec.ofNat 2 ch)) (l.map (·.id)) none)
      | d =>
        match d.granule i with
        | none => none
        | some (j, g) =>
          let grp := x.waiting.filter fun q => q.dst.granule i = some (j, g)
          if grp.any (fun q => q.stage ≠ .ready) || v.toCome ch ((spBase0 + j * spSize + 128 * g : Nat) : Int) then none
          else
            let req : BankReq :=
              ⟨BitVec.ofNat 8 i, BitVec.ofNat 2 ch, grp.map (·.id), d.off, 0, grp.map fun q => (q.dst.off, q.data), c + 1⟩
            (s.bankPush j req).map fun s => s.modChan i ch (·.writing (grp.map (·.id)))

/-- All data of a transfer are written or given up in cycle c: the notify, then COMPLETING (09 R200, R202, R206). -/
def State.settle (s : State) (i ch c : Nat) : State :=
  let v := s.getIsl i
  let x := v.getChan ch
  if x.st ≠ 1 ∨ ¬ x.allRead ∨ x.inFlight ≠ 0 ∨ x.tracked ≠ 0 ∨ x.pieces.any (fun p => p.stage ≠ .failed) then s
  else
    let d := x.desc_
    let done (s : State) : State := s.modChan i ch fun x => { x with st := 4, notified := true, since := max x.since (c + 1) }
    if x.err.extractLsb' 0 16 ≠ 0 ∨ ¬ d.notify ∨ x.notified then done s
    else if d.dst.remote then
      match s.trk.freeIsland i d.dst.node with
      | none => s
      | some e =>
        let q := { blankPkt tNotify d.dst.node with addr := d.dst.addr, partition := v.partition, rsem := d.rsem }
        (s.modChan i ch fun c => { c with tracked := c.tracked + 1 }).sendTracked e q (some (BitVec.ofNat 2 ch)) [] none
    else
      done (match regionOf d.dst.addr.toNat 1 with
        | .sp j _ => s.semAt j d.rsem (c + 1)
        | _ => s)

/-- Let a channel go on in cycle c; `fuel` bounds what it issues at once. -/
def State.kickChan (s : State) (i ch c : Nat) : Nat → State
  | 0 => s.settle i ch c
  | fuel + 1 =>
    match s.kickWrite i ch c with
    | some s => s.kickChan i ch c fuel
    | none =>
      match s.kickRead i ch c with
      | some s => s.kickChan i ch c fuel
      | none => (s.openRun i ch).settle i ch c

/-- The channels in the rotation of 09 R195. -/
def rotation (t : Nat) : List Nat := [t % 4, (t + 1) % 4, (t + 2) % 4, (t + 3) % 4]

/-- The rotation of island i in a frame cycle. -/
def State.rotationAt (s : State) (i c : Nat) : List Nat := rotation (c - (s.getIsl i).origin)

def State.kick (s : State) (i c : Nat) : State :=
  (s.rotationAt i c).foldl (fun s ch => if ((s.getIsl i).getChan ch).since ≤ c then s.kickChan i ch c 128 else s) s

/-! ### Bank queues (05 R103) -/

/-- Serve one request of a bank: the pieces it reads or writes land (08 R184). -/
def State.serveBank (s : State) (j : Nat) (r : BankReq) : State :=
  let i := r.island.toNat
  let k := r.ch.toNat
  let s := s.modChan i k fun c => { c with inFlight := c.inFlight - 1 }
  if r.writes.isEmpty then
    let s := s.noteSp j r.off r.len
    let v := s.getIsl j
    let id := r.pieces.headD 0
    if v.spUe r.off r.len then s.modChan i k fun c => c.failPiece id sMemoryError 8
    else s.modChan i k fun c => c.landed id (v.spRead r.off r.len)
  else
    let s := s.modIsl j fun v => r.writes.foldl (fun v w => v.spWrite w.1 w.2) v
    s.modChan i k fun c => r.pieces.foldl Chan.written c

/-- A write of a request lands after those of earlier elements (09 R197). -/
def Chan.inTurn (c : Chan) (r : BankReq) : Bool :=
  r.writes.isEmpty || c.pieces.all fun p => p.stage ≠ .writing || r.pieces.contains p.id || decide (r.pieces.headD 0 < p.id)

/-- The cycle in which the head of a bank's queue can be served. -/
def State.bankHeadAt (s : State) (j bank : Nat) : Option Nat :=
  match smGet [] (s.getIsl j).bankQ bank with
  | [] => none
  | r :: _ =>
    if ((s.getIsl r.island.toNat).getChan r.ch.toNat).inTurn r then some (s.bankFrom j bank (max r.at_ (s.reached j))) else none

/-- The head of a bank's queue is served in cycle c, after the landings of the island up to then. -/
def State.serveHead (s : State) (j bank c : Nat) : State :=
  match smGet [] (s.getIsl j).bankQ bank with
  | [] => s
  | r :: rest =>
    let s := if s.cycling j then s.runIsl j (c - (s.getIsl j).origin) 0 (s.getIsl j).fuel else s
    ((s.claim j bank c).modIsl j fun v => { v with bankQ := smSet v.bankQ bank rest }).serveBank j r

/-- `BANK_OPEN_CYCLE_ACCESS` (05 R103): the head of a bank's queue, in its open cycle of the tick at hand. -/
def execBankOpenCycleAccess (isl : BitVec 8) (bank : BitVec 4) (s : State) : Out :=
  .next (
    let j := isl.toNat
    match s.bankHeadAt j bank.toNat, smGet [] (s.getIsl j).bankQ bank.toNat with
    | some c, r :: _ => if c < s.tickEnd j then (s.serveHead j bank.toNat c).kick r.island.toNat c else s
    | _, _ => s)

/-! ### The memory port (08 R172, R173, 09 R195) -/

/-- Requests for channel g that island i's port accepted in the 3,200 ns before a time. -/
def State.recent (s : State) (i g time : Nat) : Nat :=
  ((s.getIsl i).portHist.filter fun h => decide (time < h.1 + 80 * tickUnits) && h.2 = g).length

/-- What a channel offers to the port: its record, the next write, or the next read. -/
inductive Offer where
  | record (x : RecWrite)
  | write (p : Piece) (a : Nat)
  | read (p : Piece) (a : Nat)
deriving DecidableEq, Repr

/-- One line request of a channel. -/
def State.portOffer (s : State) (i ch : Nat) : Option Offer :=
  let c := (s.getIsl i).getChan ch
  match c.recOut with
  | some x => if x.taken then none else some (.record x)
  | none =>
    match c.waiting with
    | p :: _ =>
      match p.stage, p.dst with
      | .ready, .hbm a => some (.write p a)
      | _, _ => read
    | [] => read
where
  /-- The read that is next in element order, where its source is HBM. -/
  read : Option Offer :=
    match s.peek i ch with
    | some (.ok p) =>
      match p.src with
      | .hbm a => some (.read p a)
      | _ => none
    | _ => none

/-- The request of an offer; a record is 32 bytes of one line (09 R199). -/
def Offer.req (o : Offer) (i ch slot due : Nat) : HbmReq :=
  let (i, ch) := (BitVec.ofNat 8 i, BitVec.ofNat 2 ch)
  match o with
  | .record x => ⟨i, ch, 0, false, x.addr, 32, x.bytes, slot, due, false, false, true⟩
  | .write p a => ⟨i, ch, p.id, false, a, p.len, p.data, slot, due, false, false, false⟩
  | .read p a => ⟨i, ch, p.id, true, a, p.len, [], slot, due, false, false, false⟩

def Offer.addr (o : Offer) : Nat :=
  match o with
  | .record x => x.addr
  | .write _ a | .read _ a => a

/-- An access outside the partition's windows, as they now stand: the piece and its detail (18 R408). -/
def State.offerRefused (s : State) (i : Nat) (o : Offer) : Option (Nat × Half) :=
  let p := (s.getIsl i).partition.toNat
  match o with
  | .record _ => none
  | .write q a => if s.admits p a q.len then none else some (q.id, 16)
  | .read q a => if s.admits p a q.len then none else some (q.id, 8)

/-- The channel's side of an accepted request. -/
def Chan.offered (c : Chan) (o : Offer) : Chan :=
  let c : Chan := match o with
    | .record _ => { c with recOut := c.recOut.map fun (x : RecWrite) => ({ x with taken := true } : RecWrite) }
    | .write p _ => c.writing [p.id]
    | .read p _ => c.issued p
  { c with inFlight := c.inFlight + 1 }

/-- The port takes a channel's next request in cycle c, if it may: the state and whether a request was taken. -/
def State.portTake (s : State) (i ch c : Nat) : State × Bool :=
  let s := s.openRun i ch
  match s.portOffer i ch with
  | none => (s, false)
  | some o =>
    match s.offerRefused i o with
    | some (id, d) => (s.modChan i ch fun x => x.failPiece id sNotPermitted d, false)
    | none =>
      let g := (hbmMap s.mem.mode o.addr).1
      let k := slotCount s.mem.mode i g
      let time := s.unitsOf c
      let take (s : State) : State :=
        (match o with
          | .write p a => s.touch a p.len
          | _ => s).modChan i ch (·.offered o)
      if k = 0 then
        if 64 ≤ (smGet [] s.mem.sharedQ g).length then (s, false)
        else ((take s).modMem fun m => { m with sharedQ := smSet m.sharedQ g (smGet [] m.sharedQ g ++ [o.req i ch 0 0]) }, true)
      else if k ≤ s.recent i g time then (s, false)
      else match s.slotFor i g time with
        | none => (s, false)
        | some slot =>
          ((take s).modIsl i fun v =>
            ({ v with inFlight := v.inFlight ++ [o.req i ch slot (time + 84 * tickUnits)],
                      portHist := (v.portHist.filter fun h => decide (time < h.1 + 80 * tickUnits)) ++ [(time, g)] } : Island).count 5 1,
           true)

/-- Offer the channels in order, two requests each and two in all. -/
def State.portRound (s : State) (i c : Nat) : List Nat → Nat → State
  | [], _ => s
  | _, 0 => s
  | ch :: t, n + 1 =>
    if c < ((s.getIsl i).getChan ch).since then s.portRound i c t (n + 1)
    else
      let a := s.portTake i ch c
      if !a.2 then a.1.portRound i c t (n + 1)
      else if n = 0 then a.1
      else
        let b := a.1.portTake i ch c
        if !b.2 then b.1.portRound i c t n else b.1.portRound i c t (n - 1)

/-- The port's round of one cycle. -/
def State.portCycle (s : State) (i c : Nat) : State :=
  (s.portRound i c (s.rotationAt i c) 2).modIsl i fun v => { v with portAt := c + 1 }

/-- `MEMORY_PORT_ACCEPT` (08 R172, 09 R195): the round of the next cycle of the tick at hand. -/
def execMemoryPortAccept (isl : BitVec 8) (s : State) : Out :=
  .next (
    let i := isl.toNat
    let c := max (s.getIsl i).portAt (s.reached i)
    if s.islSt i < stBound ∨ s.frameHeld ∨ s.tickEnd i ≤ c then s else (s.portCycle i c).kick i c)

/-- The requests of island i that complete by a time do. -/
def State.hbmLands (s : State) (i time : Nat) : State :=
  let v := s.getIsl i
  (v.inFlight.filter fun r => r.served && decide (r.due ≤ time)).foldl State.hbmDone
    (s.setIsl i { v with inFlight := v.inFlight.filter fun r => !(r.served && decide (r.due ≤ time)) })

/-- `HBM_ISLAND_ACCESS_COMPLETE` (08 R173): the oldest request that completes in the tick at hand, 84 ticks after its
acceptance, at the first island edge. -/
def execHbmIslandAccessComplete (isl : BitVec 8) (s : State) : Out :=
  .next (
    let i := isl.toNat
    match takeFirst (fun r : HbmReq => r.served && decide (r.due < tickUnits * (s.clk.now + 1))) (s.getIsl i).inFlight with
    | none => s
    | some (r, rest) => ((s.modIsl i fun v => { v with inFlight := rest }).hbmDone r).kick i (s.cycleAt r.due))

/-! ### Completion (09 R188, R200) -/

/-- What a record is for: its queue header, its semaphore, its bytes for a time, and whether a refused start owes it. -/
structure RecordOf where
  cqOff   : Nat
  sem     : BitVec 5
  bytes   : Dword → List Byte
  refused : Bool

/-- The channel is done with a record whose last write is in cycle c. -/
def Chan.recordDone (x : Chan) (refused : Bool) (c : Nat) : Chan :=
  let x := { x with recOut := none, since := max x.since (c + 1) }
  if refused then { x with refused := x.refused.drop 1 } else { x with st := 0, pieces := [], dcopy := 0 }

/-- `PI` + 1 is written in the next open cycle of the header's bank after c, and the semaphore follows (steps 4 and 5). -/
def State.writePi (s : State) (i ch cqOff : Nat) (pi : Word) (sem : BitVec 5) (refused : Bool) (c : Nat) : State :=
  let c := s.bankFrom i (bankOf cqOff) (c + 1)
  let s := ((s.claim i (bankOf cqOff) c).writeAt i (cqOff + 12) (leBytes 4 (pi + 1).toNat) c).semAt i sem (c + 1)
  (s.modIsl i fun v => { v with cqAt := smSet v.cqAt cqOff (c + 1) }).modChan i ch (·.recordDone refused c)

/-- A header that cannot be used ends the completion without a record (09 R194). -/
def State.badHeader (s : State) (i ch : Nat) (r : RecordOf) (st : Half) (c : Nat) : State :=
  ((if r.refused then s else s.modChan i ch fun x => { x with err := (4 : Half) ++ st }).noRecord i ch r.sem c).modChan i ch
    (·.recordDone r.refused c)

/-- Steps 1 to 5 of 09 R200 from the header read in cycle c on: a full queue waits; a record in the scratchpad is written in
the first open cycle of its bank, one in HBM goes to the memory port. -/
def State.writeRecord (s : State) (i ch : Nat) (r : RecordOf) (c : Nat) : State :=
  let s := s.claim i (bankOf r.cqOff) c
  match s.readHeader i r.cqOff with
  | (.error st, s) => s.badHeader i ch r st c
  | (.ok (h, reg), s) =>
    if (h.pi - h.ci).toNat = 2 ^ h.log2 then s.modChan i ch fun x => { x with since := c + 1 }
    else
      let slot := 32 * (h.pi.toNat % 2 ^ h.log2)
      match reg with
      | .hbm a => s.modChan i ch fun x =>
          { x with recOut := some ⟨a + slot, r.bytes s.now, r.cqOff, h.pi, r.sem, r.refused, false, false⟩, since := c + 1 }
      | .sp _ off =>
        let w := s.bankFrom i (bankOf (off + slot)) (c + 1)
        ((s.claim i (bankOf (off + slot)) w).writeAt i (off + slot) (r.bytes (BitVec.ofNat 64 (s.unitsOf w / tickUnits))) w).writePi
          i ch r.cqOff h.pi r.sem r.refused w
      | .reserved => s

/-- The record of the transfer that completes (09 R199). -/
def Chan.record (x : Chan) (ch : Nat) : RecordOf :=
  ⟨x.desc_.cqOff, x.sem,
   dmaRecord (x.err.extractLsb' 0 16) (x.err.extractLsb' 16 16) (BitVec.ofNat 2 ch) x.sem x.desc x.elements, false⟩

/-- The refused start comes before the transfer: it came to wait earlier. -/
def Chan.refusedFirst (x : Chan) : Option Refused :=
  match x.refused with
  | [] => none
  | r :: _ => if x.st = 4 ∧ x.since < r.since then none else some r

/-- The cycle in which a channel's next completion step can begin: the header read of a transfer, the read of a refused
start's `CQ_OFF`, or the write of `PI` after a record in HBM. A queue serves one completion at a time. -/
def State.completeAt (s : State) (i ch : Nat) : Option Nat :=
  let v := s.getIsl i
  let x := v.getChan ch
  let free (off bank from_ : Nat) : Option Nat :=
    if !v.bankIdle bank ∨ v.chan.any (fun y => y.2.recOut.any fun z => z.cqOff = off) then none
    else some (s.bankFrom i bank (max from_ (max (smGet 0 v.cqAt off) (s.reached i))))
  match x.recOut with
  | some z => if z.landed then some (s.bankFrom i (bankOf z.cqOff) (max x.since (s.reached i))) else none
  | none =>
    match x.refusedFirst with
    | some r => if v.bankIdle (bankOf (r.desc.toNat + 4)) then some (s.bankFrom i (bankOf (r.desc.toNat + 4)) (max r.since (s.reached i))) else none
    | none => if x.st = 4 then free x.desc_.cqOff (bankOf x.desc_.cqOff) x.since else none

/-- The record of a `DSTART` that found its queue full, from the read of `CQ_OFF` in cycle c on. -/
def State.completeRefused (s : State) (i ch : Nat) (r : Refused) (c : Nat) : State :=
  let v := s.getIsl i
  let off := r.desc.toNat
  let s := (s.claim i (bankOf (off + 4)) c).noteSp i (off + 4) 4
  if off % 64 ≠ 0 ∨ v.spUe (off + 4) 4 then (s.noRecord i ch r.sem c).modChan i ch (·.recordDone true c)
  else
    let hd := leNat (v.spRead (off + 4) 4) % 2 ^ 22
    let w := s.bankFrom i (bankOf hd) (max (c + 1) (smGet 0 v.cqAt hd))
    if v.chan.any fun y => y.2.recOut.any fun z => z.cqOff = hd then s
    else s.writeRecord i ch ⟨hd, r.sem, dmaRecord sNoResource 0 (BitVec.ofNat 2 ch) r.sem r.desc 0, true⟩ w

/-- A channel's next completion step, in cycle c. -/
def State.completeStep (s : State) (i ch c : Nat) : State :=
  let x := (s.getIsl i).getChan ch
  match x.recOut with
  | some z => s.writePi i ch z.cqOff z.pi z.sem z.refused (c - 1)
  | none =>
    match x.refusedFirst with
    | some r => s.completeRefused i ch r c
    | none => s.writeRecord i ch (x.record ch) c

/-- `DMA_COMPLETION` (09 R200), in its cycle of the tick at hand. -/
def execDmaCompletion (isl : BitVec 8) (ch : BitVec 2) (s : State) : Out :=
  .next (match s.completeAt isl.toNat ch.toNat with
    | some c => if c < s.tickEnd isl.toNat then s.completeStep isl.toNat ch.toNat c else s
    | none => s)

/-! ### One cycle of an island's channels -/

/-- The banks whose head can be served in cycle c are; `fuel` bounds the rounds in which one write makes way for another. -/
def State.bankCycle (s : State) (j c : Nat) : Nat → State
  | 0 => s
  | fuel + 1 =>
    match (List.range 16).find? fun b => s.bankHeadAt j b = some c with
    | some b => (s.serveHead j b c).bankCycle j c fuel
    | none => s

/-- Take-ups and completions of a cycle, in ascending channel order (09 R200). -/
def State.chanCycle (s : State) (i c ch : Nat) : State :=
  let s := if s.completeAt i ch = some c then s.completeStep i ch c else s
  if s.takeUpAt i ch = some c then s.takeUp i ch c else s

/-- What happens at the channels and banks of island i in frame cycle c. -/
def State.asyncCycle (s : State) (i c : Nat) : State :=
  let s := (s.hbmLands i (s.unitsOf c)).bankCycle i c 16
  let s := (List.range 4).foldl (fun s ch => s.chanCycle i c ch) s
  let s := if s.islSt i < stBound ∨ s.frameHeld ∨ c < (s.getIsl i).portAt then s else s.portCycle i c
  s.kick i c

/-- Something at the channels or banks of an island goes on by itself. -/
def Island.async (v : Island) : Bool :=
  (v.chan.any fun c => c.2.st ≠ 0 || !c.2.starts.isEmpty || !c.2.refused.isEmpty || c.2.recOut.isSome) ||
    (v.bankQ.any fun q => !q.2.isEmpty) || !v.inFlight.isEmpty ||
    (v.waiting.isSome && v.sched.any fun e => match e.act with
      | .semInc _ => true
      | _ => false)

end Sys2Proof.Machine
end

