-- ==== Sys2Proof/Machine/Capture.lean ====
section
/-! DEFINITION. Capture sets, cuts and what they send (16 R353 to R368). -/

namespace Sys2Proof.Machine

/-! ### Register images (09 Table 9.9, 05 Table 5.13) -/

/-- Bytes 0x00 to 0xBF of a channel's registers, `tracked` and `inFlight` as `CH_OUT` shows them. -/
def Chan.regs (c : Chan) : List Byte :=
  leBytes 8 (c.state + (if c.paused then 8 else 0) + c.starts.length * 256) ++ leBytes 8 c.desc.toNat ++
    leBytes 8 c.pos.toNat ++ leBytes 8 c.sem.toNat ++ leBytes 8 c.err.toNat ++
    leBytes 8 (min 255 c.tracked + min 255 c.inFlight * 256) ++ leBytes 8 c.bytes.toNat ++ leBytes 8 0 ++
    bvBytes 64 c.dcopy ++
    takePad 64 (c.queue.flatMap fun q => match q with
      | some q => leBytes 8 (2 ^ 63 + q.1.toNat * 2 ^ 22 + q.2.toNat)
      | none => leBytes 8 0)

/-- One level of the loop stack. -/
def LoopLevel.word (l : LoopLevel) : Nat :=
  2 ^ 63 + l.start.toNat * 2 ^ 32 + l.last.toNat * 2 ^ 16 + min 0xFFFF l.left.toNat

/-- The capture set of island i at release n (16 Table 16.4), semaphores before the release. -/
def Island.capture (v : Island) (i : Nat) (n : Word) : List Byte :=
  let regs (k w : Nat) (f : Nat → Nat) : List Byte := (List.range k).flatMap fun j => leBytes w (f j)
  leBytes 8 v.seqPc.toNat ++ leBytes 8 v.stepReg.toNat ++ leBytes 8 v.waitLimit.toNat ++ leBytes 8 0 ++
    bvBytes 16 v.drainKey ++ leBytes 16 0 ++ regs 16 2 (fun j => (smGet (0x8000 : Half) v.h j).toNat) ++ leBytes 32 0 ++
    regs 32 2 (fun j => (smGet (0 : Half) v.sem j).toNat) ++
    takePad 32 (v.loops.reverse.flatMap fun l => leBytes 8 l.word) ++ leBytes 32 0 ++
    regs 32 8 (fun j => (smGet (0 : Dword) v.x j).toNat) ++
    (v.getChan 0).regs ++ (v.getChan 1).regs ++ (v.getChan 2).regs ++
    leBytes 4 i ++ leBytes 4 v.pipeline.toNat ++ leBytes 4 n.toNat ++ leBytes 4 0 ++ List.replicate 944 0

/-- A channel from its register image; its pause bit and queue included. -/
def Chan.ofRegs (bs : List Byte) : Chan :=
  let at_ (o n : Nat) : Nat := leAt bs o n
  let st := at_ 0 1 % 8
  { Chan.reset with
    paused := at_ 0 1 / 8 % 2 = 1, desc := BitVec.ofNat 22 (at_ 8 8), pos := BitVec.ofNat 60 (at_ 0x10 8),
    sem := BitVec.ofNat 5 (at_ 0x18 8), err := BitVec.ofNat 32 (at_ 0x20 8), bytes := BitVec.ofNat 64 (at_ 0x30 8),
    dcopy := BitVec.ofNat 512 (at_ 0x40 64),
    st := if st = 4 then 4 else if st ≠ 0 ∧ at_ 0x40 64 ≠ 0 then 1 else 0,
    queue := trimQueue ((List.range 8).map fun k =>
      let w := at_ (0x80 + 8 * k) 8
      if w / 2 ^ 63 = 1 then some (BitVec.ofNat 5 (w / 2 ^ 22), BitVec.ofNat 22 w) else none) }

/-- The loop stack from its register image, innermost level first. -/
def loopsOf (bs : List Byte) : List LoopLevel :=
  ((List.range 4).filterMap fun k =>
    let w := leAt bs (8 * k) 8
    if w / 2 ^ 63 = 1 then
      some ⟨BitVec.ofNat 13 (w / 2 ^ 32), BitVec.ofNat 13 (w / 2 ^ 16), BitVec.ofNat 64 (w % 65536)⟩
    else none).reverse

/-- An island as its capture set left it (16 R371). -/
def Island.uncapture (v : Island) (bs : List Byte) : Island :=
  { v with
    seqPc := BitVec.ofNat 13 (leAt bs 0 8), stepReg := BitVec.ofNat 32 (leAt bs 8 8),
    waitLimit := BitVec.ofNat 32 (leAt bs 0x10 8), drainKey := BitVec.ofNat 128 (leAt bs 0x20 16),
    h := (List.range 16).map fun k => (k, BitVec.ofNat 16 (leAt bs (0x40 + 2 * k) 2)),
    sem := (List.range 32).map fun k => (k, BitVec.ofNat 16 (leAt bs (0x80 + 2 * k) 2)),
    loops := loopsOf (bs.drop 0xC0),
    x := (List.range 32).map fun k => (k, BitVec.ofNat 64 (leAt bs (0x100 + 8 * k) 8)),
    chan := (List.range 3).map fun k => (k, Chan.ofRegs (bs.drop (0x200 + 192 * k))) }

/-! ### Generations and their layout (16 R360) -/

def Policy.partnerPages (t : Policy) : Nat := ((t.entries.filter (·.partner)).map (·.pages)).sum
def Policy.genSize (t : Policy) : Nat := 0x80000 + pageSize * t.partnerPages
def Policy.genBase (t : Policy) (g : Nat) : Nat := t.partnerArea.toNat + 0x10000 + g * t.genSize

/-- Partner pages of the entries before entry k. -/
def Policy.pagesBefore (t : Policy) (k : Nat) : Nat :=
  (((t.entries.take k).filter (·.partner)).map (·.pages)).sum

/-- The 16 copies of page j of entry k, read from `page`. -/
def Policy.copyPage (t : Policy) (isl : BitVec 8) (g k j page : Nat) (dbuf : Bool) : List SnapCopy :=
  (List.range 16).map fun c =>
    ⟨isl, k, page * pageSize + 4096 * c, none,
     BitVec.ofNat 48 (t.genBase g + 0x80000 + (t.pagesBefore k + j) * pageSize + 4096 * c), dbuf, false⟩

/-- The header of the partner area. -/
def snapHeader (x : Snap) : List Byte :=
  leBytes 8 x.gen.toNat ++ leBytes 8 (smGet 0 x.rel 0).toNat ++ leBytes 8 (smGet 0 x.rel 1).toNat ++
    leBytes 8 (smGet 0 x.steps 0).toNat ++ leBytes 8 (smGet 0 x.steps 1).toNat

/-- Send bytes to the partner area of partition p from the control pool. -/
def State.toPartner (s : State) (p : Nat) (off : Nat) (bs : List Byte) (o : CtrlOwner) : State :=
  let t := s.getPart p
  match t.policy, t.partner with
  | some y, some node =>
    s.sendControl { blankPkt tWrite node with
      addr := BitVec.ofNat 48 (y.partnerArea.toNat + off), partition := BitVec.ofNat 6 p,
      length := BitVec.ofNat 13 bs.length, payload := bs } o
  | _, _ => s

/-! ### Stripe rows (16 R363) -/

def stripeRow (r j : Nat) : Nat := j + (j + 7 - r) / 7
def stripeHolder (q : Nat) : Nat := q % 8

/-- Data pages of the stripe-covered entries, in policy order. -/
def Policy.stripePages (t : Policy) : List Nat :=
  (t.entries.filter (·.stripe)).flatMap fun e => (List.range e.pages).map fun k => pageOf e.addr + k

def xorBytes (a b : List Byte) : List Byte := (a.zip b).map fun x => x.1 ^^^ x.2

/-- What one data page contributes at cut k: the whole page, or its difference from the pre-image. -/
def State.delta (s : State) (stripe : List NodeId) (r k : Nat) (full : Bool) (jp : Nat × Nat) : Option Delta :=
  let page := memRead s.mem.hbm (jp.2 * pageSize) pageSize
  let q := stripeRow r jp.1
  let node := stripe.getD (stripeHolder q) 0
  if full then some ⟨node, q, k % 2, true, page⟩
  else match s.snap.preimage.find? fun x => x.page = jp.2 ∧ x.cut + 1 = k with
    | some x => some ⟨node, q, k % 2, false, xorBytes x.data page⟩
    | none => none

def bit2 (g : Nat) : BitVec 2 := 1 <<< (g % 2)

/-- Two feed tags count as shared. -/
def tagShared (a b : Half) : Bool := a = 0 || b = 0 || a = b

/-- The first node of a list that shares a tag with an earlier one. -/
def sharedIn : List (NodeId × Half) → List (NodeId × Half) → Option NodeId
  | _, [] => none
  | seen, x :: t => if seen.any fun y => tagShared y.2 x.2 then some x.1 else sharedIn (x :: seen) t

/-- The feed tag of a node as SNAP_PARTNERS read it; this module's own as it stands. -/
def State.tagOf (s : State) (tags : List (NodeId × Half)) (n : NodeId) : Half :=
  if n = s.fab.node then s.snap.feed else ((tags.find? fun x => x.1 = n).map (·.2)).getD 0

/-- The first node, partner then stripe list, that shares a feed tag under 16 R366. -/
def State.firstShared (s : State) (t : Part) : Option NodeId :=
  match t.partner with
  | none => none
  | some p =>
    let tag := s.tagOf t.tags
    if tagShared s.snap.feed (tag p) then some p else sharedIn [(p, tag p)] (t.stripe.map fun n => (n, tag n))

/-- E of release n: a cut begins (16 R356 to R365). -/
def State.cutEdge (s : State) (p : Nat) (n : Word) (byCmd : Bool) : State :=
  let t := s.getPart p
  match t.policy with
  | none => s
  | some y =>
    let k := s.snap.genNo + 1
    let g := k % 2
    let full := (s.snap.fullDue &&& bit2 g) ≠ 0
    let isl : BitVec 8 := (t.stages.head?.map (·.island)).getD 0
    let sends (page : Nat) : Bool := full || s.snap.touched.contains page || s.snap.dirty.contains page
    let pick (dbuf : Bool) : List (SnapCopy × Nat) := (y.entries.zipIdx.filter fun e => e.1.partner && e.1.dbuf = dbuf).flatMap fun e =>
      let base := pageOf (if dbuf && n.toNat % 2 = 1 then e.1.addr1 else e.1.addr)
      ((List.range e.1.pages).filter fun j => sends (base + j)).flatMap fun j =>
        (y.copyPage isl g e.2 j (base + j) dbuf).map fun c => (c, base + j)
    let queue := if t.partner.isSome then pick true ++ pick false else []
    let r := (t.stripe.takeWhile (· ≠ s.fab.node)).length
    let data := y.stripePages.zipIdx.map fun x => (x.2, x.1)
    let ds := if !t.stripe.contains s.fab.node then [] else
      (data.filter fun x => full || s.snap.touched.contains x.2).filterMap (s.delta t.stripe r k full)
    let beyond := ds.any fun d => y.parityPages ≤ d.row / 8
    let c : Cut := ⟨BitVec.ofNat 6 p, n, byCmd, true, if beyond then [2 ^ 21] else [], 0,
      (s.getIsl isl.toNat).stepReg, 0, 0, full⟩
    let s := s.modSnap fun x =>
      { x with cut := some c, genNo := k, gen := x.gen &&& ~~~bit2 g, touched := [], dirty := x.touched,
               queue := queue.map (·.1), guarded := ((queue.filter fun q => !q.1.dbuf).map (·.2)).dedup,
               preimage := x.preimage.filter fun i => k ≤ i.cut + 1, deltas := x.deltas ++ ds,
               noStripe := false, sharedTag := (s.firstShared t).isSome }
    s.toPartner p 0 (snapHeader s.snap) .snapshot

/-- Island i latches its capture set at release n (16 R357, R358): it is staged and goes to the partner
before everything else. -/
def State.latch (s : State) (p i : Nat) (n : Word) : State :=
  let v := s.getIsl i
  let bs := v.capture i n
  let inexact := [0, 1, 2].any fun c => (v.getChan c).state = 1 || (v.getChan c).state = 2 || (v.getChan c).state = 4
  let s := (s.setIsl i (v.spWrite stagingOff bs)).bankTouch i stagingOff bs.length
  match (s.getPart p).policy, (s.getPart p).partner with
  | some y, some _ =>
    s.modSnap fun x =>
      { x with queue := ⟨BitVec.ofNat 8 i, 2 ^ 20 + i, 0, some bs, BitVec.ofNat 48 (y.genBase (x.genNo % 2) + 0x800 * i), false, false⟩ :: x.queue,
               cut := x.cut.map fun c => { c with inexact := c.inexact + if inexact then 1 else 0 } }
  | _, _ => s

/-- Copies still to be sent or acknowledged. -/
def State.copying (s : State) : Bool :=
  !s.snap.queue.isEmpty ||
    (s.trk.entries ++ s.trk.control).any fun e =>
      match e.2 with
      | some x => x.owner = some .snapshot
      | none => false

/-- The loss record at `LOSS_ADDR` (16 R368): HBM or a stage island's scratchpad. -/
def State.lossRecord (s : State) (p : Nat) (m : Word) : Option (List Byte × State) :=
  match (s.getPart p).policy with
  | none => none
  | some y =>
    match regionOf y.lossAddr.toNat 64 with
    | .hbm a =>
      let (bs, _, s) := s.sharedRead a 64
      some (bs.take 60 ++ leBytes 4 m.toNat, s)
    | .sp j off =>
      if (s.getPart p).stages.any (·.island.toNat = j) then
        let s := (s.bankTouch j off 64).noteSp j off 64
        some (((s.getIsl j).spRead off 64).take 60 ++ leBytes 4 m.toNat, s)
      else none
    | .reserved => none

end Sys2Proof.Machine
end

