-- ==== Sys2Proof/Machine/Power.lean ====
section
/-! DEFINITION. Power, clock levels, temperature and emergencies (17 R375 to R391), and the announcements
of 12 R281. -/

namespace Sys2Proof.Machine

/-! ### Levels (17 Table 17.3) -/

/-- VCORE in mV. -/
def vcore (l : Nat) : Nat :=
  match l with
  | 0 => 810
  | 1 => 770
  | 2 => 730
  | 3 => 690
  | 4 => 660
  | _ => 610

/-- r(l) := f(l) × vcore(l)² of 17 R385. -/
def rOf (l : Nat) : Nat := levelMHz l * vcore l ^ 2

/-- The effective cap (17 R384). -/
def Power.cap (p : Power) : Nat :=
  match p.mgmtCap.toNat, p.hostCap.toNat with
  | 0, 0 => 2200
  | a, 0 => a
  | 0, b => b
  | a, b => min a b

/-! ### Announcing a level (12 R281, R275, 07 R167) -/

/-- A port runs on fewer than four lanes outside DEEP_IDLE (10 R225). -/
def State.degraded (s : State) : Bool := !s.pwr.deepIdle && s.port.any fun p => p.2.up && decide (p.2.width < 4)

/-- `DEGRADED`, `LEVEL`, `NODE` of a BARRIER payload. -/
def Arrival.word (a : Arrival) : Nat := (if a.degraded then 2 ^ 15 else 0) + a.level.toNat * 2 ^ 12 + a.node.toNat

/-- The payload of 12 Table 12.3. -/
def barPayload (kind : Nat) (g : Nat) (n : Word) (time : Dword) (a : Arrival) (apply : Bool) (level : BitVec 3) (last : Dword) : List Byte :=
  leBytes 1 kind ++ leBytes 1 g ++ leBytes 2 0 ++ leBytes 4 n.toNat ++ leBytes 8 time.toNat ++ leBytes 2 a.word ++
    leBytes 1 ((if apply then 128 else 0) + level.toNat) ++ leBytes 1 0 ++ leBytes 8 last.toNat ++ leBytes 4 0

/-- Send a BARRIER packet. -/
def State.sendBar (s : State) (g : Nat) (dst : NodeId) (payload : List Byte) : State :=
  s.sendControl { blankPkt tBarrier dst with length := 32, payload := payload } (.barrier (BitVec.ofNat 8 g))

/-- The groups that a pipeline of partition p uses (07 R154, R157). -/
def Part.uses (p : Part) (g : Nat) : Bool := p.pipe ≠ .none && (p.stepGroup.toNat = g || p.groups.contains g || p.startGrp = some (BitVec.ofNat 8 g))

def State.groupUsed (s : State) (g : Nat) : Bool := s.part.any fun p => p.2.uses g

/-- The change of a level, logged and told to the groups that ask for it. -/
def State.announce (s : State) (level : BitVec 3) : State :=
  let s := s.logFault .levelChange srcPower 0 (level.zeroExtend 32)
  let a : Arrival := ⟨s.fab.node, level, s.degraded, s.fab.time⟩
  s.bar.foldl (fun s b =>
    if b.2.valid && b.2.pace && s.groupUsed b.1 then
      (b.2.members.filter (· ≠ s.fab.node)).foldl
        (fun s m => s.sendBar b.1 m (barPayload 3 b.1 0 s.fab.time a false 0 0)) s
    else s) s

/-! ### Choosing a level (17 R385, R388) -/

def sensorOf (p : Power) (k : Nat) : Int := (smGet 0 p.temp k).toInt

/-- Hottest reading of sensors a to b − 1, and the first that has it. -/
def hottest (p : Power) (a b : Nat) : Int × Nat :=
  (List.range (b - a)).foldl (fun r k => if r.1 < sensorOf p (a + k) then (sensorOf p (a + k), a + k) else r) (sensorOf p a, a)

def Power.hot (p : Power) : Bool := decide (1000 ≤ (hottest p 0 128).1) || decide (950 ≤ (hottest p 128 160).1)
def Power.cool (p : Power) : Bool := decide ((hottest p 0 128).1 < 970) && decide ((hottest p 128 160).1 < 920)

/-- The thermal floor (17 R388), at most L4; 0 is none. -/
def Power.floor (p : Power) : Nat :=
  min 4 (if p.hot then p.level.toNat + 1
    else if p.cool && !p.floorOn then (if p.recovered then p.level.toNat - 1 else 0)
    else p.level.toNat)

/-- Energy of the mean window of the last 1 ms, in pJ, and its part that does not follow the level: classes
5 to 7 and the regulator share, a tenth over what is delivered (log 33). `window` holds both. -/
def Power.mean (p : Power) : Nat := p.window.sum / max 1 p.window.length

/-- predict(l) ≤ num/100 of the cap, over the common denominator r(cur). -/
def Power.fits (p : Power) (l num : Nat) : Bool :=
  let cur := p.level.toNat
  let pav := p.mean
  let fixed := min pav (p.fixedPj + pav / 11)
  100 * (fixed * rOf cur + (pav - fixed) * rOf l) ≤ num * p.cap * 4000000 * rOf cur

/-- choose() of 17 R385, with the paced level; the second value is `cap_unmet`. -/
def Power.choose (p : Power) (paced : Nat) : Nat × Bool :=
  let cur := p.level.toNat
  let found := ([0, 1, 2, 3, 4].filter fun l => p.limit.toNat ≤ l).find? fun l =>
    p.fits l 100 && (cur ≤ l || p.fits l 95)
  let t := match found with
    | some l => l
    | none => 4
  (max (max t p.floor) (min 4 paced), found.isNone)

/-- Ticks the rail needs for what is left of its move: 10 mV per µs (17 R383). -/
def Power.rampTicks (p : Power) : Nat := ((p.railGoal - p.rail) + (p.rail - p.railGoal)) * 5 / 2

/-- The rail has reached its setpoint. -/
def State.railDone (s : State) : Bool := decide (s.pwr.railSince + s.pwr.rampTicks ≤ s.clk.now)

/-- Move the rail from where it stands to a new setpoint. -/
def State.ramp (s : State) (goal : Nat) : State :=
  let p := s.pwr
  let moved := (s.clk.now - p.railSince) * 2 / 5
  let here := if s.railDone then p.railGoal
    else if p.rail ≤ p.railGoal then p.rail + moved else p.rail - moved
  s.modPwr fun p => { p with rail := here, railGoal := goal, railSince := s.clk.now }

/-- Choose and decide (17 R382, R385): a new decision is announced, and a faster level lets the rail
rise at once. An emergency holds L5. -/
def State.decideLevel (s : State) (paced : Nat) : State :=
  if s.emergency then s
  else
    let (t, unmet) := s.pwr.choose paced
    let l : BitVec 3 := BitVec.ofNat 3 t
    let fresh := l ≠ s.pwr.level && !(s.pwr.decision && s.pwr.decided = l)
    let s := s.modPwr fun p => { p with decided := l, decision := decide (l ≠ p.level), capUnmet := unmet }
    if !fresh then s
    else
      let s := s.announce l
      if t < s.pwr.level.toNat then s.ramp (vcore t) else s

/-- The pace output (19 R416): high while the level is not L0. -/
def State.paceOut (s : State) (l : BitVec 3) : State :=
  if s.ret.syncMode = 3 then s.modPins fun p => { p with syncOut := l ≠ 0 } else s

/-- The level changes: event 0x0008. -/
def State.setLevel (s : State) (l : BitVec 3) : State :=
  let old := s.pwr.level
  let s := s.paceOut l
  let s := s.modPwr fun p => { p with level := l, decided := l, decision := false, levelN := satAdd 16 p.levelN 1,
                                      recovered := p.recovered && decide (l < old) }
  let s := s.ramp (vcore l.toNat)
  s.event 0x0008 sOk (l.zeroExtend 16) (old.zeroExtend 32) 0 0

/-- A level point (17 R382, R383, R386, 12 R282): the release edge of a group that a loaded pipeline
uses. -/
def State.levelPoint (s : State) (paced : Nat) : State :=
  let s := s.modPwr fun p => { p with grace := none, testCap := BitVec.ofNat 16 p.cap }
  if s.emergency then s.modPwr fun p => { p with decision := false }
  else
    let own := if s.pwr.decision then s.pwr.decided.toNat else s.pwr.level.toNat
    let t := max own (min 4 paced)
    if t = s.pwr.level.toNat then (s.paceOut s.pwr.level).modPwr fun p => { p with decision := false }
    else if s.pwr.level.toNat < t then s.setLevel (BitVec.ofNat 3 t)
    else if s.pwr.railGoal = vcore t && s.railDone then s.setLevel (BitVec.ofNat 3 t)
    else s.modPwr fun p => { p with deferN := satAdd 16 p.deferN 1 }

/-- `LEVEL_CHOICE`: the choice of every millisecond. -/
def execLevelChoice (s : State) : Out := .next (s.decideLevel 0)

/-- `VCORE_RAMP_REACHED`: the rail stands at its setpoint. -/
def execVcoreRampReached (s : State) : Out :=
  .next (if s.railDone then s.modPwr fun p => { p with rail := p.railGoal, railSince := s.clk.now } else s)

/-- `CAP_GRACE_EXPIRY` (17 R386): 100 ms after a cap was lowered. -/
def execCapGraceExpiry (s : State) : Out :=
  .next (
    match s.pwr.grace with
    | some t => if t + 2500000 ≤ s.clk.now then s.modPwr fun p => { p with grace := none, testCap := BitVec.ofNat 16 p.cap } else s
    | none => s)

/-- A cap changed (17 R385, R386): a lowered one is tested after the grace period while a pipeline
runs. -/
def State.capChanged (s : State) (old : Nat) : State :=
  let new := s.pwr.cap
  let s :=
    if new < old ∧ s.part.any (fun p => p.2.pipe.active) then
      s.modPwr fun p => { p with grace := some (p.grace.getD s.clk.now), testCap := if p.grace.isSome then p.testCap else BitVec.ofNat 16 old }
    else s.modPwr fun p => { p with grace := none, testCap := BitVec.ofNat 16 new }
  s.decideLevel 0

/-! ### Emergencies (17 R389, R390) -/

def hotWord (s : State) : Word :=
  let a := hottest s.pwr 0 128
  let b := hottest s.pwr 128 160
  BitVec.ofInt 32 (max a.1 b.1)

/-- An activation before its hand-offs goes back to its hold (15 R347, R349, R350). -/
def Activation.alarm (a : Activation) : Activation :=
  match a.phase with
  | .quiesce | .load => { a with phase := .hold, held := true, calmAt := none }
  | _ => { a with calmAt := none }

/-- Causes 1 to 3 (as bits 0 to 2) begin to hold. -/
def State.emergencyBegins (s : State) (bits : BitVec 3) : State :=
  let was := s.pwr.causes
  let s := s.modPwr fun p => { p with causes := p.causes ||| bits }
  if was ≠ 0 ∨ bits = 0 then s
  else
    let first : Nat := if bits.getLsbD 0 then 1 else if bits.getLsbD 1 then 2 else 3
    let s := s.modPwr fun p => { p with emergN := satAdd 16 p.emergN 1, emergAt := s.clk.now, emergFirst := BitVec.ofNat 2 first,
                                        level := 5, decided := 5, decision := false }
    let s := (s.ramp (vcore 5)).paceOut 5
    let s := s.modFw fun f => { f with act := f.act.map Activation.alarm }
    let s := s.logFault .emergency srcLighthouse 0 (BitVec.ofNat 32 first)
    (s.event 0x0004 sOk (BitVec.ofNat 16 first) (hotWord s) 0 0).announce 5

/-- Causes cease; the last one ends the emergency. -/
def State.emergencyClears (s : State) (bits : BitVec 3) : State :=
  let was := s.pwr.causes
  let s := s.modPwr fun p => { p with causes := p.causes &&& ~~~bits }
  if was = 0 ∨ s.pwr.causes ≠ 0 then s
  else
    let ms := (s.clk.now - s.pwr.emergAt) / 25000
    let s := s.modPwr fun p => { p with emergMs := satAdd 32 p.emergMs ms }
    let s := s.modFw fun f => { f with act := f.act.map fun (a : Activation) => { a with calmAt := some s.clk.now } }
    (s.event 0x0005 sOk 0 (BitVec.ofNat 32 ms) 0 0).decideLevel 0

/-! ### The estimate (17 R377 to R381) -/

def State.weight (s : State) (k : Nat) : Nat := (smGet 0 s.id.weights (8 * s.pwr.level.toNat + k)).toNat

/-- S(L, t) over a window of 4 µs, in pJ (17 R377, Table 17.9). -/
def State.staticPj (s : State) : Nat :=
  let w := smGet 0 s.id.statics (if s.pwr.deepIdle then 6 else s.pwr.level.toNat)
  let base : Int := (w.extractLsb' 0 16).toNat
  let slope : Int := (w.extractLsb' 16 16).toInt
  let sum := (List.range 128).foldl (fun a k => a + sensorOf s.pwr k) 0
  (base * 4000000 + slope * (sum - 38400) * 4000000 / (256 * 1280)).toNat

/-- Whether island i is clocked (01 R23). -/
def State.clocked (s : State) (i : Nat) : Bool :=
  stBound ≤ s.islSt i && (s.getPart (s.getIsl i).partition.toNat).pipe.active

/-- One window: its energy, the part of classes 5 to 7, and what each partition but 0 is charged. -/
def State.windowEnergy (s : State) (cores : Nat) : Nat × Nat × SMap Nat :=
  let cls (m : SMap Nat) (ks : List Nat) : Nat := (ks.map fun k => s.weight k * smGet 0 m k).sum
  let isl := s.isl.map fun v => (v.1, cls v.2.acts [0, 1, 2, 3, 4], cls v.2.acts [5])
  let stat := s.staticPj
  let mod57 := cls (smSet s.pwr.acts 7 (smGet 0 s.pwr.acts 7 + cores)) [5, 6, 7] + (isl.map (·.2.2)).sum
  let mod04 := (isl.map (·.2.1)).sum + cls s.pwr.acts [0, 1, 2, 3, 4]
  let charge (m : SMap Nat) (p e : Nat) : SMap Nat := if p = 0 then m else smSet m p (smGet 0 m p + e)
  let m := isl.foldl (fun m v =>
    charge m (s.getIsl v.1).partition.toNat ((v.2.1 + v.2.2) / 16 + (if s.clocked v.1 then stat / 256 else 0))) []
  let m := s.pwr.partActs.foldl (fun m x => charge m x.1 (s.weight 5 * x.2 / 16)) m
  (stat + (mod04 + mod57) / 16, mod57 / 16, m)

/-- g × E. -/
def Power.scaled (p : Power) (e : Nat) : Nat := if p.calibrated then p.gain.toNat * e / 0x4000 else e

/-- `POWER_ESTIMATE_WINDOW` (17 R377, R379, R380, R389). -/
def execPowerEstimateWindow (cores : Nat) (s : State) : Out :=
  .next (
    let (raw, fixed, shares) := s.windowEnergy cores
    let e := s.pwr.scaled raw
    let s := s.modPwr fun p =>
      { p with window := (e :: p.window).take 250, fixedPj := fixed, est := e / 4000000, energy := p.energy + e,
               estJ := p.estJ + raw, acts := [], partActs := [] }
    let s : State := { s with isl := s.isl.map fun (v : Nat × Island) => (v.1, { v.2 with acts := [] }) }
    let s : State := if !s.pwr.perPart then s
      else
        let others : SMap Nat := shares.map fun x => (x.1, s.pwr.scaled x.2)
        let s := others.foldl (fun s x => s.modPart x.1 fun p => { p with energy := p.energy + x.2 }) s
        s.modPart 0 fun p => { p with energy := p.energy + (e - (others.map (·.2)).sum) }
    let excess := decide (11 * s.pwr.testCap.toNat * 4000000 < 10 * e)
    let s := s.modPwr fun p => { p with overCap := if excess then p.overCap + 1 else 0 }
    if 251 ≤ s.pwr.overCap then s.emergencyBegins 1
    else if s.pwr.causes.getLsbD 0 ∧ s.pwr.mean ≤ s.pwr.cap * 4000000 then s.emergencyClears 1
    else s)

/-- `INPUT_POWER_SAMPLE` (17 R378): current in 10 mA and voltage in 10 mV. -/
def execInputPowerSample (mA10 mV10 : Half) (s : State) : Out :=
  .next (
    let x := mA10.toNat * mV10.toNat
    (s.modPwr fun p => { p with measured := BitVec.ofNat 16 (x / 10000), volt := mV10, measJ := p.measJ + x * 100000 }).modPins
      fun p => { p with inputV := mV10, inputA := mA10 })

/-- `GAIN_UPDATE` (17 R378): in calibrated mode, measured over estimated energy of the last second, between
0.80 and 1.25; with nothing estimated the quotient is free. -/
def execGainUpdate (s : State) : Out :=
  .next (
    let p := s.pwr
    if !p.calibrated then s.modPwr fun p => { p with measJ := 0, estJ := 0 }
    else if p.estJ = 0 then
      let (bs, s) := s.drawBytes 2
      s.modPwr fun p => { p with gain := BitVec.ofNat 16 (leNat bs), measJ := 0, estJ := 0 }
    else s.modPwr fun p =>
      { p with gain := BitVec.ofNat 16 (min 0x5000 (max 0x3333 (p.measJ * 0x4000 / p.estJ))), measJ := 0, estJ := 0 })

/-- `SENSOR_SAMPLE` (17 R387 to R389, R393): 160 readings in 0.1 °C. -/
def execSensorSample (readings : List Half) (s : State) : Out :=
  .next (
    let s := s.modPwr fun p =>
      { p with temp := (List.range 160).map fun k => (k, readings.getD k (smGet 0 p.temp k)) }
    let p := s.pwr
    let below := decide ((hottest p 0 128).1 < 850) && decide ((hottest p 128 160).1 < 850)
    let s := s.modPwr fun p =>
      let coolFor := if p.cool then p.coolFor + 500 else 0
      { p with floorOn := !p.cool || (p.floorOn && decide (coolFor < 2500000)),
               recovered := p.recovered || (p.floorOn && decide (2500000 ≤ coolFor)),
               coolFor := coolFor, tripCool := if below then p.tripCool + 500 else 0 }
    let p := s.pwr
    if decide (1080 ≤ (hottest p 0 128).1) || decide (1000 ≤ (hottest p 128 160).1) then s.emergencyBegins 4
    else if decide ((hottest p 0 128).1 < 1040) && decide ((hottest p 128 160).1 < 970) then s.emergencyClears 4
    else s)

end Sys2Proof.Machine
end

