-- ==== Sys2Proof/Machine/Barrier.lean ====
section
/-! DEFINITION. Barrier groups: arrivals, releases, the release edge and the tide ramp (12 R271 to R282,
07 R157, R164 to R168, 05 R122). -/

namespace Sys2Proof.Machine

/-- A group without a configuration; what its registers counted stays. -/
def Barrier.freed (b : Barrier) : Barrier :=
  { Barrier.reset with late := b.late, ignored := b.ignored, paces := b.paces, skewLast := b.skewLast,
                       skewWaitMax := b.skewWaitMax, releases := b.releases, skewLate := b.skewLate }

/-- Every stage island of the group's pipeline has signalled arrival, or the pipeline's start or resume
has been accepted (12 R272). -/
def State.moduleArrived (s : State) (g : Nat) : Bool :=
  let b := s.getBar g
  let t := s.getPart b.owner.toNat
  if t.starting && t.startGrp = some (BitVec.ofNat 8 g) then true
  else (t.pipe = .running || t.pipe = .pauseArmed || t.pipe = .faulted) && t.uses g &&
    t.stages.all fun x => b.arrived.contains x.island.toNat

/-- A double-buffered copy of the last cut still holds the arrival (16 R359). -/
def State.arrivalHeld (s : State) (g : Nat) : Bool :=
  let b := s.getBar g
  match s.snap.cut with
  | some c => c.part = b.owner && (s.getPart b.owner.toNat).stepGroup.toNat = g && s.snap.queue.any (·.dbuf)
  | none => false

/-- The skew word of 07 Table 7.10. -/
def skewWord (a : Arrival) (isl : Byte) (wait : Nat) : Dword :=
  BitVec.ofNat 64 (a.node.toNat * 2 ^ 44 + isl.toNat * 2 ^ 36 + a.level.toNat * 2 ^ 33 +
    (if a.degraded then 2 ^ 32 else 0) + min (2 ^ 32 - 1) wait)

/-- A cut is armed for, or falls due at, release m of partition p (16 R357). -/
def State.cutDue (s : State) (p : Nat) (m : Word) : Bool :=
  s.snap.enabled &&
    (s.snap.armed.any (fun a => a.1.toNat = p && a.2.1 = m) ||
      match (s.getPart p).policy with
      | some y => y.cutEvery ≠ 0 && m.toNat % y.cutEvery.toNat = 0
      | none => false)

/-- Release n of group g is fixed: T, the skew record, the level decision, the flip armed for it, and the
release edge to come (12 R273, R274, 07 R168, 11 R249, 17 R382). -/
def State.recordRelease (s : State) (g : Nat) (n : Word) (t : Dword) (last : Arrival) (apply : Bool) (level : BitVec 3) : State :=
  let b := s.getBar g
  let p := b.owner.toNat
  let late := decide (t < s.fab.time)
  let wait := match b.ownTime with
    | some o => if o ≤ last.time then (last.time - o).toNat / 40 else 0
    | none => 0
  let q := s.getPart p
  let step := q.stepGroup.toNat = g
  let starts := q.starting && q.startGrp = some (BitVec.ofNat 8 g)
  let m := q.releases + 1
  let pend : Pending := ⟨n, t, if late then s.fab.time else t, last, apply, level, late, none, level, [], starts,
    step && !starts && q.pauseAt = some m, step && !starts && s.cutDue p m⟩
  let s := s.setBar g { b with
    fixed := true, t := t, late := if late then satAdd 16 b.late 1 else b.late, pending := some pend,
    skewLast := skewWord last b.lastIsl wait, skewWaitMax := BitVec.ofNat 32 (max b.skewWaitMax.toNat (min (2 ^ 32 - 1) wait)),
    skewLate := if last.node = s.fab.node then satAdd 32 b.skewLate 1 else b.skewLate }
  let s := if starts then s.modPart p fun q => { q with startT := some t } else s
  let s := if s.fab.armed = some (BitVec.ofNat 8 g, n) then s.modFab fun f => { f with flipAt := some t } else s
  if s.groupUsed g then s.decideLevel (if apply then level.toNat else 0) else s

/-- The coordinator fixes T once every member has arrived, and tells the members (12 R273, R282). -/
def State.fixRelease (s : State) (g : Nat) : State :=
  let b := s.getBar g
  if !b.valid || b.coord ≠ s.fab.node || b.fixed || b.members.isEmpty ||
      !b.members.all (fun m => b.arrivals.any (·.node = m)) then s
  else
    match b.arrivals.getLast? with
    | none => s
    | some last =>
      let t := s.fab.time + BitVec.ofNat 64 (b.lead.toNat * 40)
      let lvl : BitVec 3 := BitVec.ofNat 3 (min 4 (b.arrivals.foldl (fun m a => max m a.level.toNat) 0))
      let s := (b.members.filter (· ≠ s.fab.node)).foldl
        (fun s m => s.sendBar g m (barPayload 2 g b.next t last b.pace lvl last.time)) s
      s.recordRelease g b.next t last b.pace lvl

/-- The coordinator applies an arrival of a member at release n. -/
def State.applyArrival (s : State) (g : Nat) (n : Word) (a : Arrival) : State :=
  let b := s.getBar g
  let add (l : List Arrival) : List Arrival := if l.any (·.node = a.node) then l else l ++ [a]
  if n = b.next ∧ ¬ b.fixed then (s.setBar g { b with arrivals := add b.arrivals }).fixRelease g
  else if n = b.next + 1 ∧ b.fixed then s.setBar g { b with early := add b.early }
  else s

/-- Send this module's arrival to the coordinator, or apply it here. -/
def State.sendArrival (s : State) (g : Nat) (a : Arrival) : State :=
  let b := s.getBar g
  if b.coord = s.fab.node then s.applyArrival g b.next a
  else s.sendBar g b.coord (barPayload 1 g b.next a.time a false 0 0)

/-- The module arrives at the next release of group g, if it now can (12 R272, 16 R359). -/
def State.tryArrive (s : State) (g : Nat) : State :=
  let b := s.getBar g
  if !b.valid || b.ownTime.isSome || b.pending.isSome || !s.moduleArrived g then s
  else if s.arrivalHeld g then
    if s.snap.holdSince.isSome then s
    else s.modSnap fun x => { x with heldN := satAdd 32 x.heldN 1, holdSince := some s.clk.now }
  else
    let s : State := match s.snap.holdSince with
      | some t => s.modSnap fun x =>
          { x with heldT := satAdd 32 x.heldT (s.clk.now - t), holdSince := none,
                   cut := x.cut.map fun (c : Cut) => { c with arrHold := c.arrHold + (s.clk.now - t) } }
      | none => s
    let a : Arrival := ⟨s.fab.node, s.pwr.level, s.degraded, s.fab.time⟩
    (s.setBar g { b with ownTime := some a.time, ownNode := some a }).sendArrival g a

/-- `BARRIVE_ARRIVAL` (05 R122): the island's earlier operations have finished, and it signals its group. -/
def execBarriveArrival (isl : BitVec 8) (s : State) : Out :=
  .next (
    let i := isl.toNat
    let v := s.getIsl i
    match v.waiting with
    | some ⟨sem, n, since, c, some g, false⟩ =>
      if s.islSt i ≠ stRunning ∨ v.stopped ∨ !v.quiet then s
      else
        let s := s.setIsl i { v with waiting := some ⟨sem, n, since, c, some g, true⟩, barSem := smSet v.barSem g.toNat sem }
        let s := s.modBar g.toNat fun b => { b with arrived := b.arrived.insert i, lastIsl := isl }
        s.tryArrive g.toNat
    | _ => s)

/-! ### BARRIER packets (12 R271, R275) -/

/-- The fields of 12 Table 12.3. -/
structure BarMsg where
  kind  : Nat
  group : Nat
  n     : Word
  time  : Dword
  who   : Arrival
  apply : Bool
  level : BitVec 3
deriving DecidableEq, Repr

def BarMsg.parse (bs : List Byte) : BarMsg :=
  let w := leAt bs 16 2
  let time : Dword := BitVec.ofNat 64 (leAt bs 8 8)
  let kind := leAt bs 0 1
  { kind := kind, group := leAt bs 1 1, n := BitVec.ofNat 32 (leAt bs 4 4), time := time,
    who := ⟨BitVec.ofNat 12 w, BitVec.ofNat 3 (w / 2 ^ 12), w / 2 ^ 15 = 1, if kind = 2 then BitVec.ofNat 64 (leAt bs 20 8) else time⟩,
    apply := leAt bs 18 1 / 128 = 1, level := BitVec.ofNat 3 (leAt bs 18 1) }

/-- A BARRIER packet: checked, filtered, acknowledged, and acted on if this module is meant to. -/
def State.barPacket (s : State) (p : Pkt) (kind : Nat) (mine : Barrier → Bool) (f : State → BarMsg → State) : State :=
  s.crcOk p fun s => s.filtered p fun s =>
    let m := BarMsg.parse p.payload
    let s := s.ack p
    if m.kind ≠ kind then s
    else if mine (s.getBar m.group) then f s m
    else s.modBar m.group fun b => { b with ignored := satAdd 16 b.ignored 1 }

/-- `ARRIVE_RECEIVED`. -/
def execArriveReceived (p : Pkt) (s : State) : Out :=
  .next (s.barPacket p 1 (fun b => b.valid && b.coord = s.fab.node && b.members.contains p.src)
    fun s m => s.applyArrival m.group m.n { m.who with node := p.src })

/-- `RELEASE_RECEIVED`. -/
def execReleaseReceived (p : Pkt) (s : State) : Out :=
  .next (s.barPacket p 2 (fun b => b.valid && b.coord = p.src)
    fun s m =>
      let b := s.getBar m.group
      if m.n = b.next ∧ ¬ b.fixed then s.recordRelease m.group m.n m.time m.who m.apply m.level else s)

/-- `PACE_RECEIVED`. -/
def execPaceReceived (p : Pkt) (s : State) : Out :=
  .next (s.barPacket p 3 (fun b => b.valid)
    fun s m => s.modBar m.group fun b => { b with paces := satAdd 16 b.paces 1 })

/-! ### The release edge (07 R164 to R166) -/

/-- Fabric time at which a release begins on this module: T + (node mod 64) × 50 ns. -/
def State.edgeTime (s : State) (t : Dword) : Nat := t.toNat + s.self % 64 * 50

/-- Frame cycle of the first island clock edge at or after it whose frame count is a multiple of 8; a time that has
passed counts back from the present. -/
def State.edgeCycle (s : State) (t : Dword) : Nat :=
  let ns : Int := (s.edgeTime t : Int) - s.fab.time.toNat
  let c : Int := s.clk.frame - (-ns * levelMHz s.pwr.level.toNat) / 1000
  ceilDiv c.toNat 8 * 8

/-- d_i of 07 R165. -/
def rampCycles (level i : Nat) : Nat := i * 8 * levelMHz level / 1000

/-- Island i's channels as a pause or its end leaves them (09 R201). -/
def Island.pauseAll (v : Island) : Island :=
  { v with chan := (List.range 4).foldl (fun m c => smMod .reset m c fun x =>
      { x with paused := true, pauseByIsland := x.pauseByIsland || !x.paused }) v.chan }

def Island.unpauseAll (v : Island) : Island :=
  { v with chan := (List.range 4).foldl (fun m c => smMod .reset m c fun x =>
      { x with paused := x.paused && !x.pauseByIsland, pauseByIsland := false }) v.chan }

def opCut : Half := 0x0504
def opVerify : Half := 0x0506

/-- The words in which two records differ first. -/
def firstDiff (a b : List Byte) (n : Nat) : Nat :=
  ((List.range n).find? fun k => leAt a (4 * k) 4 ≠ leAt b (4 * k) 4).getD n

def State.stepOfPart (s : State) (p : Nat) : Word :=
  match ((s.getPart p).stages.map (·.island.toNat)).min? with
  | some i => (s.getIsl i).stepReg
  | none => 0

/-- At E of `STEP_GROUP` release m: the loss record goes to the partner's ring, and a replay is judged
(16 R368, R369). -/
def State.lossEdge (s : State) (p : Nat) (m : Word) : State :=
  match s.lossRecord p m with
  | none => s
  | some (bs, s) =>
    let slot := m.toNat % 256
    let s := s.toPartner p (0x4000 + 64 * slot) bs .loss
    let q := s.getPart p
    if !q.verifyArmed then s
    else
      let old := smGet [] q.lossSaved slot
      let step := s.stepOfPart p
      let s := s.setPart p { q with verifyArmed := false }
      let fin (st : Half) (r1 : Word) (s : State) : State :=
        (s.cmds.long.filter fun c => c.part.toNat = p && c.opcode = opVerify).foldl (fun s c => s.complete c st 0 step r1 0) s
      if old.length ≠ 64 ∨ leAt old 60 4 ≠ m.toNat then fin sVerifyFailed 0xFFFFFFFF s
      else if old.take 60 = bs.take 60 then fin sOk 0 s
      else fin sVerifyFailed (BitVec.ofNat 32 (firstDiff bs old 15)) s

/-- A stage island enters RUNNING at frame cycle e: one that starts counts its cycles from its own turn of the ramp, one
that resumes goes on counting at E (07 R164, R165, 05 Table 5.13). -/
def Island.released (v : Island) (e ramp i : Nat) : Island :=
  let v := v.unpauseAll
  if v.st = stPaused then { v with st := stRunning, origin := e - v.seqCycle }
  else { v with st := stRunning, origin := e + rampCycles ramp i, starting := true, seqCycle := 0, nextIssue := 0, curCycle := 0 }

/-- A start or resume takes effect at E (07 R164, R156, 12 R274). -/
def State.startEdge (s : State) (p e : Nat) (time : Dword) : State :=
  let q := s.getPart p
  let s := s.setPart p { q with
    pipe := .running, starting := false, startGrp := none, startT := none,
    releases := if q.pipe = .bound then q.restored.getD 0 else q.releases }
  let s := q.stages.foldl (fun s x => s.modIsl x.island.toNat fun v =>
    v.released e s.pwr.level.toNat x.island.toNat) s
  (s.cmds.long.filter fun c => c.part.toNat = p && (c.opcode = opStart || c.opcode = opResume)).foldl
    (fun s c => s.complete c sOk 0 (Word.lo time) (Word.hi time) 0) s

/-- `RELEASE_EDGE`: E of the release that group g has fixed falls in the tick at hand or has passed. -/
def execReleaseEdge (group : Byte) (s : State) : Out :=
  .next (
    let g := group.toNat
    let b := s.getBar g
    match b.pending with
    | none => s
    | some pd =>
      let e := s.edgeCycle pd.local_
      if pd.edge.isSome ∨ s.clk.frame + s.tickCycles ≤ e then s
      else
        let n := s.tickCycles
        let was := s.pwr.level
        let s := if s.groupUsed g then s.levelPoint (if pd.apply then pd.level.toNat else 0) else s
        let s := if s.pwr.level = was ∨ s.clk.split.isSome then s
          else { s with clk := { s.clk with split := some (e - s.clk.frame, n) } }
        let p := b.owner.toNat
        let q := s.getPart p
        let starts := pd.start && q.starting
        let runs := !pd.start && (q.pipe = .running || q.pipe = .pauseArmed || q.pipe = .faulted) && q.uses g
        let waiting := if starts then q.stages.map (·.island.toNat)
          else if runs then (q.stages.map (·.island.toNat)).filter b.arrived.contains else []
        let s := s.setBar g { b with
          pending := if waiting.isEmpty then none else some { pd with edge := some e, ramp := s.pwr.level, waiting := waiting },
          arrived := [], ownTime := none, ownNode := none, fixed := false, next := b.next + 1,
          arrivals := b.early, early := [], releases := b.releases + 1 }
        if starts then s.startEdge p e pd.local_
        else if runs ∧ q.stepGroup.toNat = g then
          let m := q.releases + 1
          let s := s.setPart p { q with releases := m }
          let s := s.lossEdge p m
          if !pd.cut then s
          else
            let byCmd := s.snap.armed.any fun a => a.1.toNat = p && a.2.1 = m
            let s := s.modSnap fun x => { x with armed := if byCmd then none else x.armed }
            if s.snap.cut.isSome then
              if byCmd then s.completeAll (fun c => c.opcode = opCut) sWrongState opCut
              else s.modSnap fun x => { x with skipped := satAdd 32 x.skipped 1 }
            else s.cutEdge p m byCmd
        else s)

/-- The last island of a paused release has stopped: the pipeline is PAUSED (07 R157). -/
def State.pauseDone (s : State) (p : Nat) : State :=
  let q := s.getPart p
  if q.pipe ≠ .pauseArmed then s
  else
    let s := s.setPart p { q with pipe := .paused, pauseAt := none }
    (s.cmds.long.filter fun c => c.part.toNat = p && c.opcode = opPause).foldl
      (fun s c => s.complete c sOk 0 q.releases 0 0) s

/-- `ISLAND_RELEASE` (07 R165, 05 R122): island i reaches its own cycle of a release: it starts, takes its
increment or pauses, its capture set latched first where a cut runs. -/
def execIslandRelease (group : Byte) (isl : BitVec 8) (s : State) : Out :=
  .next (
    let g := group.toNat
    let i := isl.toNat
    let b := s.getBar g
    match b.pending with
    | none => s
    | some pd =>
      match pd.edge with
      | none => s
      | some e =>
        if ¬ pd.waiting.contains i ∨
            s.clk.frame + s.tickCycles ≤ e + rampCycles pd.ramp.toNat i then s
        else
          let rest := pd.waiting.filter (· ≠ i)
          let p := b.owner.toNat
          let s := s.setBar g { b with pending := if rest.isEmpty then none else some { pd with waiting := rest } }
          let s :=
            if s.islSt i ≠ stRunning then s
            else
              let s := if pd.cut && s.snap.cut.any (fun c => c.part.toNat = p) then s.latch p i (s.getPart p).releases else s
              let v := s.getIsl i
              if pd.pause ∧ (s.getPart p).pipe = .pauseArmed then s.setIsl i { v.pauseAll with st := stPaused }
              else
                if !pd.start then (match v.barSem.find? (·.1 = g) with
                  | some b => s.semInc i b.2
                  | none => s)
                else match v.waiting with
                | some w => s.semInc i w.sem
                | none => s.setIsl i { v with starting := false }
          if rest.isEmpty && pd.pause then s.pauseDone p else s)

end Sys2Proof.Machine
end

