-- ==== Sys2Proof/Machine/Code.lean ====
section
/-! DEFINITION. The code of a flit: GF(2^8), RS(128,122), two interleaved codewords (10 R212, R213). -/

namespace Sys2Proof.Machine

/-! ### The field and the code (10 R213) -/

/-- Eight steps of multiplication in GF(2^8) by x^8 + x^4 + x^3 + x^2 + 1. -/
def gfMulAux : Nat → Byte → Byte → Byte → Byte
  | 0, _, _, r => r
  | n + 1, a, b, r =>
    gfMulAux n (if a.msb then (a <<< 1) ^^^ 0x1D else a <<< 1) (b >>> 1) (if b.getLsbD 0 then r ^^^ a else r)

def gfMul (a b : Byte) : Byte := gfMulAux 8 a b 0

def gfPow (a : Byte) : Nat → Byte
  | 0 => 1
  | n + 1 => gfMul a (gfPow a n)

def gfInv (a : Byte) : Byte := gfPow a 254
def alpha (n : Nat) : Byte := gfPow 2 (n % 255)

/-- Value at x of the polynomial whose coefficients are listed from the constant on. -/
def polyAt (p : List Byte) (x : Byte) : Byte := p.foldr (fun c r => c ^^^ gfMul r x) 0

/-- Syndromes 0 to 5 of a codeword, its first symbol the highest coefficient (log 52). -/
def syndromes (w : List Byte) : List Byte := (List.range 6).map fun i => polyAt w.reverse (alpha i)

def polyAdd (p q : List Byte) : List Byte := (List.range (max p.length q.length)).map fun i => p.getD i 0 ^^^ q.getD i 0

/-- Step n of the search for the error locator: locator, earlier locator, length, shift, earlier discrepancy. -/
def locatorStep (syn : List Byte) (st : List Byte × List Byte × Nat × Nat × Byte) (n : Nat) : List Byte × List Byte × Nat × Nat × Byte :=
  let (c, b, l, m, d0) := st
  let d := (List.range (l + 1)).foldl (fun r i => r ^^^ gfMul (c.getD i 0) (if i ≤ n then syn.getD (n - i) 0 else 0)) 0
  if d = 0 then (c, b, l, m + 1, d0)
  else
    let c' := polyAdd c (List.replicate m 0 ++ b.map (gfMul (gfMul d (gfInv d0))))
    if 2 * l ≤ n then (c', c, n + 1 - l, 1, d) else (c', b, l, m + 1, d0)

/-- Error locator and number of errors that the syndromes ask for. -/
def locator (syn : List Byte) : List Byte × Nat :=
  let (c, _, l, _, _) := (List.range 6).foldl (locatorStep syn) ([1], [1], 0, 1, 1)
  (c, l)

/-- A codeword after decoding, with the indices of its corrected symbols; `none` where more than 3 symbols
would have to change. -/
def rsDecode (w : List Byte) : Option (List Byte × List Nat) :=
  let syn := syndromes w
  if syn.all (· = 0) then some (w, [])
  else
    let (loc, l) := locator syn
    let omega := (List.range 6).map fun k => (List.range (k + 1)).foldl (fun r i => r ^^^ gfMul (loc.getD i 0) (syn.getD (k - i) 0)) 0
    let deriv := (List.range loc.length).map fun i => if i % 2 = 0 then loc.getD (i + 1) 0 else 0
    let bad := (List.range 128).filter fun j => polyAt loc (alpha (255 - (127 - j))) = 0
    let fixed := bad.foldl (fun w j =>
      let x := alpha (127 - j)
      let xi := gfInv x
      w.set j (w.getD j 0 ^^^ gfMul x (gfMul (polyAt omega xi) (gfInv (polyAt deriv xi))))) w
    if 3 < l ∨ bad.length ≠ l ∨ (syndromes fixed).any (· ≠ 0) then none else some (fixed, bad)

/-- Codeword k of the coded bytes. -/
def codeword (coded : List Byte) (k : Nat) : List Byte := (List.range 128).map fun j => coded.getD (2 * j + k) 0

/-- The 244 bytes of a flit and the coded bytes that were corrected. -/
def flitDecode (coded : List Byte) : Option (List Byte × List Nat) :=
  match rsDecode (codeword coded 0), rsDecode (codeword coded 1) with
  | some (a, x), some (b, y) =>
    some ((List.range 244).map fun i => (if i % 2 = 0 then a else b).getD (i / 2) 0, x.map (2 * ·) ++ y.map (2 * · + 1))
  | _, _ => none

/-- The generator polynomial, highest coefficient first, without its leading 1. -/
def genTail : List Byte :=
  ((List.range 6).foldl (fun (p : List Byte) i => List.zipWith (· ^^^ ·) (p ++ [0]) (0 :: p.map (gfMul (alpha i)))) [1]).drop 1

/-- The six check symbols of 122. -/
def rsCheck (m : List Byte) : List Byte :=
  let g := genTail
  m.foldl (fun r x => List.zipWith (· ^^^ ·) (r.drop 1 ++ [0]) (g.map (gfMul (x ^^^ r.headD 0)))) (List.replicate 6 0)

/-- The 256 coded bytes of a flit of 244 (10 R212, R213). -/
def flitEncode (flit : List Byte) : List Byte :=
  let check (k : Nat) : List Byte := rsCheck ((List.range 122).map fun j => flit.getD (2 * j + k) 0)
  let a := check 0
  let b := check 1
  takePad 244 flit ++ (List.range 12).map fun i => (if i % 2 = 0 then a else b).getD (i / 2) 0

end Sys2Proof.Machine
end

