-- ==== Sys2Proof/Machine/Flits.lean ====
section
/-! DEFINITION. The flits that a port sends: the blocks of packets laid into bodies, headers, idle flits, and the time they
take (10 R211, R212, R214 to R217, R231). -/

namespace Sys2Proof.Machine

/-- The time of a flit in ns, by the width in lanes (10 R212). -/
def flitNs (width : Nat) : Nat :=
  match width with
  | 4 => 4
  | 2 => 8
  | _ => 16

/-- A zero block that no packet owns. -/
def OutBlk.filler : OutBlk := ⟨List.replicate 16 0, false, false, none⟩

/-- Blocks of the packet that a list begins with. -/
def packetLen (l : List OutBlk) : Nat := 1 + ((l.drop 1).takeWhile fun b => !b.first).length

/-- Lay blocks into a body with `room` blocks left: what goes in, and what waits. A void packet is laid so that it does not
end in the flit that it begins in, where `DISCARD` would not name it; `stop` begins no further packet (log 90). -/
def layBody (stop : Bool) : Nat → List OutBlk → List OutBlk × List OutBlk
  | 0, l => ([], l)
  | _, [] => ([], [])
  | room + 1, b :: t =>
    if b.first && stop then ([], b :: t)
    else if b.first && b.void && decide (packetLen (b :: t) ≤ room + 1) then
      let n := packetLen (b :: t)
      (List.replicate (room + 2 - n) .filler ++ (b :: t).take (n - 1), (b :: t).drop (n - 1))
    else
      let (x, y) := layBody stop room t
      (b :: x, y)

/-- `DISCARD`: the packet that leads the body began in an earlier flit, ends here and is void. -/
def discardOf (body rest : List OutBlk) : Bool :=
  let run := body.takeWhile fun b => b.void && !b.first
  !run.isEmpty && (decide (run.length < body.length) || (rest.head?.map fun b => b.first).getD true)

/-- `FIRST`: the first block that begins a packet, 15 where none does. -/
def flitFirst (body : List OutBlk) : Nat :=
  let k := (body.takeWhile fun b => !b.first).length
  if k < body.length then k else 15

/-- Header of the next flit of a port (10 Table 10.1). -/
def Port.flitHeader (x : Port) (kind : Nat) (body rest : List OutBlk) : Nat :=
  let cvc := x.fseqOut.toNat % 8
  let credits := if cvc < 6 then (smGet (0 : BitVec 10) x.freedBlk cvc).toNat else 0
  kind * 2 ^ 30 + flitFirst body * 2 ^ 26 +
    (if kind = 1 && discardOf body rest then 2 ^ 25 else 0) + cvc * 2 ^ 22 + credits * 2 ^ 12 + x.fseqOut.toNat

/-- The coded bytes of a flit with a body; the patterns laid over its blocks are XORed into them. -/
def Port.flitOf (x : Port) (kind : Nat) (body rest : List OutBlk) : List Byte :=
  let coded := flitEncode (leBytes 4 (x.flitHeader kind body rest) ++ takePad 240 (body.flatMap (·.bytes)))
  body.foldl (fun c b => match b.hit with
    | some (off, pat) => xorAt c off pat
    | none => c) coded

/-- A flit leaves the port. -/
def State.sendFlit (s : State) (port kind : Nat) (body rest : List OutBlk) : State :=
  let x := s.getPort port
  let s := s.modPort port fun x =>
    { x with fseqOut := x.fseqOut + 1, flitsTx := x.flitsTx + 1, sinceIdle := if kind = 0 then 0 else x.sinceIdle + 1 }
  let s := s.modPwr fun p => { p with acts := smSet p.acts 6 (smGet 0 p.acts 6 + x.width) }
  s.emit (.flit (BitVec.ofNat 5 port) (x.flitOf kind body rest))

/-- Flits after which a port that never runs dry begins no packet before an idle flit: it has sent one in every 4,096
(10 R211; DESIGN CHOICE, log 90). -/
def idleAfter : Nat := 3840

/-- The next flit of a port: packet data, or idle. -/
def State.nextFlit (s : State) (port : Nat) : State :=
  let x := s.getPort port
  let due := decide (idleAfter ≤ x.sinceIdle)
  match layBody due 15 x.outBlks with
  | ([], _) => s.sendFlit port 0 [] []
  | (body, rest) => (s.modPort port fun x => { x with outBlks := rest }).sendFlit port 1 body rest

/-- The flits of a tick of a port that is UP: the time that circuit positions have taken is not theirs. -/
def State.tickFlits (s : State) (port : Nat) : State :=
  let x := s.getPort port
  if !x.up then s
  else
    let have_ := 40 + x.txNs
    let ns := flitNs x.width
    let left := have_ - x.circNs
    let s := s.modPort port fun x => { x with circNs := x.circNs - have_, txNs := left % ns }
    (List.range (left / ns)).foldl (fun s _ => s.nextFlit port) s

end Sys2Proof.Machine
end

