-- ==== Sys2Proof/Machine/Transport.lean ====
section
/-! DEFINITION. What a switch and a destination do with packets: queues and fault injection, writes,
reads, notifies, multicast, circuits and the epoch flip (11 R239 to R257, 09 R206, R207, 10 R229 to R233). -/

namespace Sys2Proof.Machine

/-! ### Access checks of arriving packets (09 R207, 18 R408) -/

/-- Activity of HBM lines that a fabric packet or the host moves (17 Tables 17.4, 17.5). -/
def State.countLines (s : State) (p n : Nat) : State :=
  s.modPwr fun x => { x with acts := smSet x.acts 5 (smGet 0 x.acts 5 + n), partActs := smSet x.partActs p (smGet 0 x.partActs p + n) }

/-- Where an access of a partition lands, or the status that refuses it. -/
def State.remoteRegion (s : State) (part a n : Nat) : Except Half Region :=
  match regionOf a n with
  | .reserved => .error sBadParam
  | .hbm a => if s.admits part a n then .ok (.hbm a) else .error sNotPermitted
  | .sp j off =>
    if !s.present j then .error sBadParam
    else if stBound ≤ s.islSt j ∧ (s.getIsl j).partition.toNat = part then .ok (.sp j off)
    else .error sNotPermitted

/-- Store an arriving payload; the flag says that a merge met an uncorrectable line. -/
def State.storeRegion (s : State) (part : Nat) (r : Region) (bs : List Byte) : State × Bool :=
  match r with
  | .hbm a => (s.countLines part (linesOf a bs.length).length).storeShared a bs
  | .sp j off => ((s.bankTouch j off bs.length).modIsl j fun v => v.spWrite off bs, false)
  | .reserved => (s, false)

/-- An access to HBM waits while the memory frame is suspended (08 R177, log 62). -/
def State.hbmWaits (s : State) (a n : Nat) : Bool :=
  s.frameHeld && match regionOf a n with
    | .hbm _ => true
    | _ => false

/-- The verdict of the duplicate filter on a packet, `refuse` judged before it counts as accepted. -/
def State.receive (s : State) (p : Pkt) (refuse : Option Half) (f : State → State) : State :=
  match (judgeSeq (smGet none s.trk.sources (8 * p.src.toNat + p.srcAtt.toNat)) p.session p.seq).1, refuse with
  | .accept, some st => s.nack p st 16
  | _, _ => s.filtered p f

/-- The status of a refused access. -/
def refusalOf (r : Except Half Region) : Option Half :=
  match r with
  | .error st => some st
  | .ok _ => none

/-- Store and answer an accepted write. -/
def State.acceptWrite (s : State) (p : Pkt) (r : Except Half Region) : State :=
  match r with
  | .error _ => s
  | .ok r =>
    let (s, bad) := s.storeRegion p.partition.toNat r p.payload
    if bad then s.nack p sMemoryError 16 else s.ack p

/-- `WRITE_RECEIVED`. -/
def execWriteReceived (p : Pkt) (s : State) : Out :=
  .next (s.crcOk p fun s => if s.hbmWaits p.addr.toNat p.payload.length then s else
    let r := s.remoteRegion p.partition.toNat p.addr.toNat p.payload.length
    let r := if p.payload.isEmpty then .error sBadParam else r
    s.receive p (refusalOf r) fun s => s.acceptWrite p r)

/-- `READ_REQ_RECEIVED` (11 R245): answered every time it arrives. -/
def execReadReqReceived (p : Pkt) (s : State) : Out :=
  let n := (p.arg.extractLsb' 0 13).toNat
  .next (s.crcOk p fun s =>
    if s.hbmWaits p.addr.toNat n then s
    else if n = 0 ∨ 4096 < n then s.nack p sBadParam 8
    else
      match s.remoteRegion p.partition.toNat p.addr.toNat n with
      | .error st => s.nack p st 8
      | .ok (.hbm a) =>
        let (bs, bad, s) := (s.countLines p.partition.toNat (linesOf a n).length).sharedRead a n
        if bad then s.nack p sMemoryError 8 else s.respond p tReadResp 0 0 bs
      | .ok (.sp j off) =>
        let v := s.getIsl j
        let s := (s.bankTouch j off n).noteSp j off n
        if v.spUe off n then s.nack p sMemoryError 8 else s.respond p tReadResp 0 0 (v.spRead off n)
      | .ok .reserved => s)

/-- `NOTIFY_RECEIVED` (09 R206): the island's semaphore takes an increment; an overflow is still
acknowledged. -/
def execNotifyReceived (p : Pkt) (s : State) : Out :=
  .next (s.crcOk p fun s =>
    let r : Except Half Region := match s.remoteRegion p.partition.toNat p.addr.toNat 1 with
      | .ok (.hbm _) => .error sBadParam
      | r => r
    s.receive p (refusalOf r) fun s =>
      match r with
      | .ok (.sp j _) => (s.semInc j p.rsem).ack p
      | _ => s)

/-! ### Flooding and multicast (11 R256, R258) -/

/-- The dimension of a port: the twins are of dimension 0, an attached node's port comes after all (10 R221). -/
def State.dimOf (s : State) (port : Nat) : Nat := if port < 28 then port / 7 else if s.ret.auxMode then 4 else 0

/-- Ports of a dimension above d, and the attached nodes' ports. -/
def State.portsAbove (s : State) (d : Nat) : List Nat :=
  (List.range 32).filter fun p => if p < 28 then decide (d ≤ s.dimOf p) else s.ret.auxMode

/-- The dimension from which a copy may go on: all of them at its origin, else those above the one it came
in by. -/
def State.nextAbove (s : State) (port : Nat) : Nat := min 4 (s.dimOf port + 1)

/-- Send one copy on a port: pruned where it would enter a fenced node, dropped where the port is not
UP. -/
def State.copyTo (s : State) (p : Pkt) (port : Nat) : State :=
  let peer := peerNodeOf s.self port
  if (port < 28 ∨ !s.ret.auxMode) ∧ (s.tab p.epoch).fenced peer then
    let s := s.countFenceDrop
    if p.type = tMcast then s.route (s.response p tNack sFenced (BitVec.ofNat 32 (peer + peer * 2 ^ 16)) []) else s
  else if 10 ≤ p.hops.toNat then s.countExpired
  else if (s.getPort port).up then s.enqueue port { p with hops := p.hops + 1, phase := 1 } false
  else s

/-- Forward a multicast copy that came in by a port (none: at the root). -/
def State.mcastForward (s : State) (port : Option Nat) (p : Pkt) : State :=
  let e := (s.tab p.epoch).mcastOf p.aux.toNat
  let want := (List.range 32).filter fun k => e.getLsbD k
  let ok (k : Nat) : Bool := match port with
    | none => true
    | some q => 28 ≤ k || s.nextAbove q ≤ s.dimOf k
  let s := (want.filter fun k => !ok k).foldl (fun s _ => s.countBadHdr) s
  (want.filter ok).foldl (fun s k => s.copyTo p k) s

/-- Deliver a copy to this module: the group's own duplicate filter, the write, the ACK to the root. -/
def State.mcastDeliver (s : State) (p : Pkt) : State :=
  s.crcOk p fun s =>
    let g := p.aux.toNat
    match judgeSeq (smGet none s.trk.groups g) p.session p.seq with
    | (.accept, k) =>
      match s.remoteRegion p.partition.toNat p.addr.toNat p.payload.length with
      | .error st => s.nack p st 16
      | .ok r =>
        let s := s.modTrk fun t => { t with groups := smSet t.groups g (some k) }
        let (s, bad) := s.storeRegion p.partition.toNat r p.payload
        if bad then s.nack p sMemoryError 16 else s.ack p
    | (.duplicate, _) => (s.modTrk fun t => { t with dups := bump t.dups }).ack p
    | (.old, _) => s

/-- A packet that a port has received is taken: its blocks leave the receive buffer. -/
def State.taken (s : State) (port : Nat) (p : Pkt) : State :=
  s.modPort port fun x =>
    { x with pktRx := smSet x.pktRx p.vc (smGet 0 x.pktRx p.vc + 1),
             freedBlk := smSet x.freedBlk p.vc (smGet 0 x.freedBlk p.vc + BitVec.ofNat 10 p.blocks) }

/-- `MCAST_WRITE_RECEIVED`: a unicast resend to this member, or a copy on the tree. -/
def execMcastWriteReceived (port : BitVec 5) (p : Pkt) (s : State) : Out :=
  .next (
    let unicast := p.dst = s.fab.node ∧ p.src ≠ s.fab.node
    if s.hbmWaits p.addr.toNat p.payload.length then s
    else
      let s := if unicast then s else s.taken port.toNat p
      if s.retired p.epoch then s.countStale
      else if (s.tab p.epoch).fenced p.src.toNat then s
      else
      let e := (s.tab p.epoch).mcastOf p.aux.toNat
      if unicast then s.mcastDeliver p
      else if !e.getLsbD 63 then s
      else
        let s := s.mcastForward (some port.toNat) p
        if e.getLsbD 62 then s.mcastDeliver p else s)

/-- Build a multicast write at its root, in entry n (11 R256, R257). -/
def State.mcastOpen (s : State) (n : Nat) (p : Pkt) (members : List NodeId) : State :=
  let g := p.aux.toNat
  let seq := smGet 0 s.trk.groupSeq g
  let q := Pkt.sealed { p with
    type := tMcast, epoch := s.curEpoch, circuit := false, phase := 1, hops := 0, dstAtt := 0, dst := s.fab.node, srcAtt := 0,
    src := s.fab.node, try_ := 0, mid := s.fab.node, session := s.trk.session, seq := seq,
    srcIsland := (EntryId.mcast (BitVec.ofNat 8 n)).srcIsland, ctrl := false, entry := 0 }
  let s := s.modTrk fun t =>
    { t with groupSeq := smSet t.groupSeq g (seq + 1),
             mcast := smSet t.mcast n (some ⟨q, members, [], [], [], [], s.clk.now + s.trk.resendT.toNat⟩) }
  let s := s.mcastForward none q
  if ((s.tab q.epoch).mcastOf g).getLsbD 62 then s.mcastDeliver q else s

/-- The first free multicast entry. -/
def Tracker.freeMcast (t : Tracker) : Option Nat := (List.range 256).find? fun n => (smGet none t.mcast n).isNone

/-- Members of the group that a packet names, as the version in use lists them. -/
def State.membersOf (s : State) (p : Pkt) : List NodeId :=
  ((List.range 4096).filter fun n => (s.tab s.curEpoch).member p.aux.toNat n).map (BitVec.ofNat 12)

/-- A sender asks for a multicast write: it is built, or waits while all 256 entries are held or others wait (11 R257). No
row of the command table asks for one (log 29). -/
def State.mcastSend (s : State) (p : Pkt) : State :=
  match s.trk.freeMcast, s.trk.mcastQ with
  | some n, [] => s.mcastOpen n p (s.membersOf p)
  | _, _ => s.modTrk fun t => { t with mcastQ := t.mcastQ ++ [(p, s.membersOf p)] }

/-- Multicast writes that wait are built while entries are free, in the order in which they began to wait. -/
def State.drainMcastQ (s : State) : Nat → State
  | 0 => s
  | fuel + 1 =>
    match s.trk.mcastQ, s.trk.freeMcast with
    | (p, ms) :: rest, some n => ((s.modTrk fun t => { t with mcastQ := rest }).mcastOpen n p ms).drainMcastQ fuel
    | _, _ => s

/-- `PACKET_FORWARD`: a packet that a port has received. -/
def execPacketForward (port : BitVec 5) (discard : Bool) (p : Pkt) (s : State) : Out :=
  .next ((s.taken port.toNat p).forward port.toNat discard p)

/-! ### Transmit queues and fault injection (10 R216, R229 to R233, 11 R239) -/

/-- What a port's circuit queues hold the longest past 500 ticks is dropped, each packet of it counted (VC 6). -/
def State.expireCircuit (s : State) (port : Nat) : State :=
  let x := s.getPort port
  let old (t : Nat) : Bool := decide (t + 500 ≤ s.clk.now)
  match x.circOut.find? fun c => c.2.any fun y => old y.since with
  | some (pos, l) =>
    match takeFirst (fun y : CircPay => old y.since) l with
    | some (y, rest) => y.parts.foldl (fun s _ => s.countExpired) (s.modPort port fun x => { x with circOut := smSet x.circOut pos rest })
    | none => s
  | none =>
    let mine (k : Nat) : Bool := (((s.tab s.curEpoch).csrcOf k).extractLsb' 34 5).toNat = port
    match s.fab.circQ.find? fun c => mine c.1 && c.2.any fun q => old q.since with
    | some (k, l) =>
      match takeFirst (fun q : Queued => old q.since) l with
      | some (q, rest) =>
        (s.modFab fun f => { f with circQ := smSet f.circQ k rest,
                                    circPart := if l.head? = some q then smSet f.circPart k 0 else f.circPart }).countExpired
      | none => s
    | none => s

/-- `PACKET_QUEUE_EXPIRY`: the first packet that has waited 500 ticks is dropped. -/
def execPacketQueueExpiry (port : BitVec 5) (vc : BitVec 3) (s : State) : Out :=
  .next (
    match takeFirst (fun q : Queued => decide (q.since + 500 ≤ s.clk.now)) (smGet [] (s.getPort port.toNat).txq vc.toNat) with
    | some (_, rest) => (s.setQueue port.toNat vc.toNat rest).countExpired
    | none => if vc = 6 then s.expireCircuit port.toNat else s)

/-- The credits of a channel admit n blocks; circuits take none (10 R216). -/
def Port.admits (x : Port) (vc n : Nat) : Bool := vc = 6 || decide ((smGet 0 x.sentBlk vc - smGet 0 x.credits vc).toNat + n ≤ 512)

/-- `PACKET_AT_QUEUE_HEAD`: the head packet leaves for the lanes, once its blocks fit the credits and the lanes have room in
this tick (log 90). -/
def execPacketAtQueueHead (port : BitVec 5) (vc : BitVec 3) (s : State) : Out :=
  .next (
    let k := port.toNat
    let x := s.getPort k
    let v := vc.toNat
    match smGet [] x.txq v with
    | [] => s
    | q :: rest =>
      if !x.up || !x.admits v q.pkt.blocks || decide (15 * (40 / flitNs x.width) ≤ x.outBlks.length) then s
      else (s.setQueue k v rest).depart k v q)

/-- 256 flit times of a port in ticks, rounded up (10 R231). -/
def Port.holdTicks (x : Port) : Nat := ceilDiv (256 * flitNs x.width) 40

/-- `REORDER_HOLD_EXPIRY`: packets held for 256 flit times are released. -/
def execReorderHoldExpiry (port : BitVec 5) (vc : BitVec 3) (s : State) : Out :=
  .next (s.releaseHeld port.toNat vc.toNat fun h => decide (h.since + (s.getPort port.toNat).holdTicks ≤ s.clk.now))

/-- One event of a timed set at tick `now`: its start, then its stop. -/
def FiSet.fire (f : FiSet) (now : Nat) : FiSet :=
  let f := match f.startAt with
    | some t => if t ≤ now then { f with startAt := none, n := 0 } else f
    | none => f
  match f.stopAt with
  | some t => if t ≤ now then { f with stopAt := none, startAt := none, ctrl := f.ctrl &&& ~~~3 } else f
  | none => f

/-- No timed set has a pending event. -/
def State.fiIdle (s : State) : Bool := s.port.all fun p => p.2.fi.all fun f => f.2.startAt.isNone && f.2.stopAt.isNone

/-- Comparators that the fault-injection scheduler holds are released. -/
def State.dropClaims (s : State) (feature : Byte) : State :=
  { s with claims := s.claims.filter fun c => c.2.holder.extractLsb' 8 8 ≠ feature }

/-- Feature code of the fault-injection scheduler (19 Table 19.8). -/
def featFi : Byte := 0x06

/-- `FI_SCHEDULER_FIRE` (10 R230): every event due takes effect together. -/
def execFiSchedulerFire (s : State) : Out :=
  .next (
    let s : State := { s with port := s.port.map fun (p : Nat × Port) => (p.1, { p.2 with fi := p.2.fi.map fun f => (f.1, f.2.fire s.clk.now) }) }
    let s := s.port.foldl (fun s p => p.2.fi.foldl (fun s f => if f.2.sel = 0 then s.releaseHeld p.1 f.1 fun _ => true else s) s) s
    if s.fiIdle then s.dropClaims featFi else s)

/-! ### Circuits (11 R251 to R254) -/

/-- A packet's circuit has lost its link at this switch: its source is told once per circuit and epoch, or falls back at
once. -/
def State.circuitLost (s : State) (port : Nat) (p : Pkt) : State :=
  let key := p.src.toNat * 256 + p.aux.toNat
  if s.fab.lostSent.contains key then s
  else
    let s := s.modFab fun f => { f with lostSent := key :: f.lostSent }
    if p.src = s.fab.node then s.modFab fun f => { f with fallback := f.fallback.insert p.aux.toNat }
    else
      let mid := s.midFor p.src.toNat 0 1 0x100
      s.route (Pkt.sealed { blankPkt tCircLost p.src with
        epoch := s.curEpoch, phase := if mid = s.self then 1 else 0, mid := BitVec.ofNat 12 mid, src := s.fab.node,
        dstAtt := p.srcAtt, session := s.trk.session, aux := p.aux, arg := BitVec.ofNat 32 (s.self + port * 2 ^ 12) })

/-- The data of a position are discarded: one position is counted (11 R254). -/
def State.positionLost (s : State) (port : Nat) (ps : List Pkt) : State := ps.foldl (fun s p => s.circuitLost port p) s.countCircDrop

/-- `CIRCUIT_LOST_RECEIVED`: the circuit falls back to routed packets. -/
def execCircuitLostReceived (p : Pkt) (s : State) : Out :=
  .next (s.crcOk p fun s =>
    if p.aux.toNat < 256 then s.modFab fun f => { f with fallback := f.fallback.insert p.aux.toNat } else s)

/-- The part holds the last block of its packet. -/
def partEnds (c : CircPart) : Bool := decide (c.pkt.blocks ≤ c.first + c.count)

/-- A part of a packet arrives at the end of its circuit: it begins the packet or continues it, and a packet that is whole is
delivered; a part whose beginning is missing belongs to no packet. -/
def State.circArrive (s : State) (port : Nat) (c : CircPart) : State :=
  let x := s.getPort port
  let same (y : CircPart) : Bool := y.pkt.src = c.pkt.src && y.pkt.srcAtt = c.pkt.srcAtt && y.pkt.aux = c.pkt.aux
  let rest := x.circIn.filter fun y => !same y
  let joined : Option CircPart :=
    if c.first = 0 then some c
    else match x.circIn.find? same with
      | some y =>
        if y.count = c.first ∧ y.pkt.seq = c.pkt.seq then some ⟨if c.pkt.crc = c.pkt.check then y.pkt else c.pkt, 0, y.count + c.count⟩
        else none
      | none => none
  let keep (l : List CircPart) : State := s.setPort port { x with circIn := l }
  match joined with
  | none => keep rest
  | some z =>
    if !partEnds z then keep (rest ++ [z])
    else if z.pkt.dstAtt = 0 then (keep rest).emit (.local_ z.pkt)
    else (keep rest).switch { z.pkt with phase := 1 } false 4

/-- A part goes on from this switch, one hop further; none past ten hops (11 R239). -/
def State.circOnward (s : State) (ps : List CircPart) : State × List CircPart :=
  ps.foldl (fun (r : State × List CircPart) c =>
    if 10 ≤ c.pkt.hops.toNat then (r.1.countExpired, r.2)
    else (r.1, r.2 ++ [{ c with pkt := { c.pkt with hops := c.pkt.hops + 1 } }])) (s, [])

/-- `CIRCUIT_POSITION_RECEIVE`: delivered, queued onward or discarded by `CIN`; parts of packets from fenced sources are
dropped (11 R250). -/
def execCircuitPositionReceive (port : BitVec 5) (d : CircuitData) (s : State) : Out :=
  .next (
    if !(s.getPort port.toNat).up then s
    else if s.retired d.epoch then s.countStale
    else
      let t := s.tab d.epoch
      let e := t.cinOf port.toNat d.pos.toNat
      let ps := d.parts.filter fun c => !t.fenced c.pkt.src.toNat
      let s := s.modPort port.toNat fun x => { x with pktRx := smSet x.pktRx 6 (smGet 0 x.pktRx 6 + BitVec.ofNat 32 (ps.filter partEnds).length) }
      if !e.getLsbD 15 then s.countCircDrop
      else if e.getLsbD 14 then ps.foldl (fun s c => s.circArrive port.toNat c) s
      else
        let out := (e.extractLsb' 9 5).toNat
        let pos := (e.extractLsb' 1 8).toNat
        let (s, ps) := s.circOnward ps
        if (s.getPort out).up then
          s.modPort out fun x => { x with circOut := smSet x.circOut pos (smGet [] x.circOut pos ++ [⟨d.epoch, ps, s.clk.now⟩]) }
        else s.positionLost out (ps.map (·.pkt)))

/-- Blocks of 16 bytes that a position carries beside its tag (11 R252). -/
def circBlocks (width : Nat) : Nat := if width = 4 then 59 else if width = 2 then 29 else 14

/-- A packet, or the part of it from a block on, that a position carries. -/
structure CircSeg where
  q     : Queued
  first : Nat
  count : Nat

/-- The packet as its injection set leaves it. -/
def Queued.sent (q : Queued) : Pkt :=
  match q.bytes with
  | some bs => Pkt.ofWire bs
  | none => q.pkt

def CircSeg.part (g : CircSeg) : CircPart := ⟨g.q.sent, g.first, g.count⟩
def CircSeg.blocks (g : CircSeg) : List OutBlk := (g.q.lay.drop g.first).take g.count

/-- Fill n blocks from the packets that wait for circuit k; a packet that comes to the head of its queue is judged by the
injection set of VC 6. `fuel` bounds the packets. -/
def State.fillPosition (s : State) (port k n : Nat) : Nat → State × List CircSeg
  | 0 => (s, [])
  | fuel + 1 =>
    match smGet [] s.fab.circQ k with
    | [] => (s, [])
    | q :: rest =>
      if n = 0 then (s, [])
      else
        let set (s : State) (l : List Queued) (part : Nat) : State :=
          s.modFab fun f => { f with circQ := smSet f.circQ k l, circPart := smSet f.circPart k part }
        let done := smGet 0 s.fab.circPart k
        match if q.seen then (s, some q) else s.judge port 6 q with
        | (s, none) => (set s rest 0).fillPosition port k n fuel
        | (s, some q) =>
          if q.pkt.blocks - done ≤ n then
            let (s, l) := (set s rest 0).fillPosition port k (n - (q.pkt.blocks - done)) fuel
            (s, ⟨q, done, q.pkt.blocks - done⟩ :: l)
          else (set s (q :: rest) (done + n), [⟨q, done, n⟩])

/-- The parts of a position in transit; a packet that begins is judged by the injection set of VC 6. -/
def State.transitSegs (s : State) (port : Nat) (ps : List CircPart) : State × List CircSeg :=
  ps.foldl (fun (r : State × List CircSeg) c =>
    let q : Queued := ⟨c.pkt, s.clk.now, false, false, none, none⟩
    if c.first ≠ 0 then (r.1, r.2 ++ [⟨q, c.first, c.count⟩])
    else match r.1.judge port 6 q with
      | (s, some q) => (s, r.2 ++ [⟨q, 0, c.count⟩])
      | (s, none) => (s, r.2)) (s, [])

/-- The slot tag (11 R252). -/
def slotTag (pos : Byte) (epoch : BitVec 1) : OutBlk := ⟨pos :: epoch.zeroExtend 8 :: List.replicate 14 0, false, false, none⟩

/-- A position leaves: its flits, 16 ns of the lanes, its packets. -/
def State.sendPosition (s : State) (port : Nat) (pos : Byte) (epoch : BitVec 1) (l : List CircSeg) : State :=
  let x := s.getPort port
  let ps := l.map CircSeg.part
  let blocks := slotTag pos epoch :: l.flatMap CircSeg.blocks
  let s := s.modPort port fun x =>
    { x with circNs := x.circNs + 16, pktTx := smSet x.pktTx 6 (smGet 0 x.pktTx 6 + BitVec.ofNat 32 (ps.filter partEnds).length) }
  let s := (List.range (16 / flitNs x.width)).foldl (fun s k => s.sendFlit port 2 ((blocks.drop (15 * k)).take 15) []) s
  s.emit (.circuit (BitVec.ofNat 5 port) ⟨pos, epoch, ps⟩)

/-- When a position begins in the tick at hand, in local fabric time (11 R251). -/
def State.slotTime (s : State) (pos : Byte) : Option Nat :=
  let t := s.fab.time.toNat + (16 * pos.toNat + 4096 - s.fab.time.toNat % 4096) % 4096
  if t < s.fab.time.toNat + 40 then some t else none

/-- The version whose `CIN` and `CSRC` a slot that begins at a time uses (11 R249 step 3). -/
def State.epochAt (s : State) (t : Nat) : BitVec 1 :=
  match s.fab.flipAt with
  | some f => if f.toNat ≤ t then ~~~s.curEpoch else s.curEpoch
  | none => s.curEpoch

/-- The circuit that begins here and holds a position of a port. -/
def Table.circuitAt (t : Table) (port pos : Nat) : Option Nat :=
  (List.range 256).find? fun k => (t.csrcOf k).getLsbD 63 && ((t.csrcOf k).extractLsb' 34 5).toNat = port && t.csrcPos k pos

/-- The data of a position leave, or are discarded where the port is not UP. -/
def State.dispatchPosition (s : State) (port : Nat) (pos : Byte) (epoch : BitVec 1) (l : List CircSeg) : State :=
  if l.isEmpty then s
  else if (s.getPort port).up then s.sendPosition port pos epoch l
  else s.positionLost port (l.map fun g => g.q.pkt)

/-- `CIRCUIT_POSITION_SEND`: a reserved position of a port begins, once in each superframe: data in transit that wait for it,
with their own tag, or the packets of the circuit that begins here. -/
def execCircuitPositionSend (port : BitVec 5) (pos : Byte) (s : State) : Out :=
  .next (
    let p := port.toNat
    let x := s.getPort p
    match s.slotTime pos with
    | none => s
    | some t =>
      if smGet 0 x.circAt pos.toNat = t / 4096 + 1 then s
      else
        let s := s.modPort p fun x => { x with circAt := smSet x.circAt pos.toNat (t / 4096 + 1) }
        match smGet [] x.circOut pos.toNat with
        | y :: rest =>
          let s := s.modPort p fun x => { x with circOut := smSet x.circOut pos.toNat rest }
          if s.retired y.epoch then s.countStale
          else
            let (s, l) := s.transitSegs p y.parts
            s.dispatchPosition p pos y.epoch l
        | [] =>
          match (s.tab (s.epochAt t)).circuitAt p pos.toNat with
          | none => s
          | some k =>
            let (s, l) := s.fillPosition p k (circBlocks x.width) 64
            s.dispatchPosition p pos (s.epochAt t) l)

/-! ### The epoch flip (11 R249) -/

def setVer (f : Fabric) (e : Bool) (v : VerSt) : Fabric := if e then { f with ver1 := v } else { f with ver0 := v }

def opFlipArm : Half := 0x0403

/-- A packet that waits for circuit k still has it in a version. -/
def Table.carries (t : Table) (k : Nat) (q : Queued) : Bool :=
  let c := t.csrcOf k
  c.getLsbD 63 && c.extractLsb' 48 12 = q.pkt.dst && c.extractLsb' 45 3 = q.pkt.dstAtt && c.extractLsb' 39 6 = q.pkt.partition

/-- At the flip, packets whose circuit the new version does not hold are dropped; their sources send them again (log 41). -/
def Fabric.recircuit (f : Fabric) (t : Table) : Fabric :=
  { f with circQ := f.circQ.map fun c => (c.1, c.2.filter (t.carries c.1)),
           circPart := f.circPart.map fun c => (c.1, if ((smGet [] f.circQ c.1).head?.map (t.carries c.1)).getD false then c.2 else 0) }

/-- `EPOCH_FLIP`: at local fabric time T the other version becomes the source epoch. -/
def execEpochFlip (s : State) : Out :=
  .next (
    match s.fab.flipAt with
    | none => s
    | some t =>
      if s.fab.time.toNat + 40 ≤ t.toNat then s
      else
        let s := s.modFab fun f =>
          let f := (setVer (setVer f f.epoch .retiring) (!f.epoch) .active).recircuit (if f.epoch then f.tab0 else f.tab1)
          { f with epoch := !f.epoch, armed := none, flipAt := none, flips := bump f.flips,
                   retire := s.now + 10000, avoid := [], fallback := [], lostSent := [] }
        let s := s.modTrk fun x => { x with told := [] }
        (s.cmds.long.filter fun c => c.opcode = opFlipArm).foldl
          (fun s c => s.complete c sOk 0 (Word.lo t) (Word.hi t) 0) s)

/-- `EPOCH_RETIRE`: 400 µs later the old version is WRITABLE. -/
def execEpochRetire (s : State) : Out :=
  .next (
    let old := !s.fab.epoch
    let v := if old then s.fab.ver1 else s.fab.ver0
    if v = .retiring ∧ s.fab.retire ≤ s.now then s.modFab fun f => setVer f old .writable else s)

end Sys2Proof.Machine
end

