-- ==== Sys2Proof/Machine/Links.lean ====
section
/-! DEFINITION. Ports: the code, flits, training, narrowing (10 R212 to R227). -/

namespace Sys2Proof.Machine

/-! ### Receiving flits (10 R214 to R217) -/

/-- Lanes of a mask, ascending. -/
def lanesOf (m : BitVec 4) : List Nat := (List.range 4).filter fun l => m.getLsbD l

/-- Blocks of the packet that bytes begin, once its header is there. -/
def blocksNeeded (bs : List Byte) : Nat := if bs.length < 32 then 2 else (32 + leAt bs 24 2 % 8192 + 8 + 15) / 16

/-- Blocks of a virtual channel leave the receive buffer. -/
def State.freeBlocks (s : State) (port vc n : Nat) : State :=
  s.modPort port fun x => { x with freedBlk := smSet x.freedBlk vc (smGet 0 x.freedBlk vc + BitVec.ofNat 10 n) }

/-- A packet is cut: if its header has arrived, the port it leaves by completes it with zeros and marks it void; the part of
a header is discarded. -/
def State.cutPacket (s : State) (port : Nat) : State :=
  match (s.getPort port).partial_ with
  | none => s
  | some bs =>
    let s := s.modPort port fun x => { x with partial_ := none }
    if bs.length < 32 then s.freeBlocks port (Pkt.parse bs).vc (bs.length / 16)
    else
      let p := Pkt.ofWire (takePad (16 * blocksNeeded bs) bs)
      let s := match s.routePkt p with
        | .out q _ | .attached q _ => s.modPort q fun x => { x with voidOut := bump x.voidOut }
        | _ => s
      s.emit (.assembled (BitVec.ofNat 5 port) p true)

/-- A flit is lost: what it cut, and whether blocks of a packet that it began may still come. -/
def State.flitLost (s : State) (port : Nat) : State :=
  (s.modPort port fun x => { x with cutting := x.partial_.all fun bs => decide (bs.length < 32) }).cutPacket port

/-- Blocks before `FIRST` whose packet's header was lost are discarded; their virtual channel is free (log 91). -/
def State.freeLost (s : State) (port first : Nat) : State :=
  if !(s.getPort port).cutting then s
  else
    let (bs, s) := if first = 0 then ([], s) else s.drawBytes 1
    (s.freeBlocks port ((bs.headD 0).toNat % 6) first).modPort port fun x => { x with cutting := decide (first = 15) }

/-- Block i of a body, by `FIRST` and `DISCARD`; `old` says that the packet in hand began in an earlier
flit. A packet follows another at once, and a block of type 0 after the first packet is filling (log 51). -/
def State.takeBlock (port first : Nat) (discard : Bool) (r : State × Bool) (ib : Nat × List Byte) : State × Bool :=
  let (s, old) := r
  let (i, b) := ib
  let s := if i = first then s.cutPacket port else s
  let old := old && i ≠ first
  match (s.getPort port).partial_ with
  | some bs =>
    let bs := bs ++ b
    if bs.length < 16 * blocksNeeded bs then (s.modPort port fun x => { x with partial_ := some bs }, old)
    else
      ((s.modPort port fun x => { x with partial_ := none }).emit (.assembled (BitVec.ofNat 5 port) (Pkt.ofWire bs) (old && discard)),
       false)
  | none =>
    if i < first ∨ (first < i ∧ (b.headD 0).toNat / 16 = 0) then (s, false)
    else (s.modPort port fun x => { x with partial_ := some b }, false)

/-- Training flits on a port that is UP: the peer has begun a narrowing or a retest (10 R224, log 92). -/
def State.peerNarrows (s : State) (port : Nat) : State :=
  s.modPort port fun p =>
    if p.st = .up then { p with st := .narrowing, target := p.active, since := s.clk.now, narrowings := satAdd 16 p.narrowings 1 } else p

/-- A good flit. -/
def State.goodFlit (s : State) (port : Nat) (flit : List Byte) (fixed : List Nat) : State :=
  let h := leAt flit 0 4
  let x := s.getPort port
  let lanes := lanesOf x.active
  let lane (b : Nat) : Nat := lanes.getD (b % max 1 lanes.length) 0
  let fseq : BitVec 12 := BitVec.ofNat 12 h
  let gap := (fseq - x.fseqIn).toNat
  let cvc := h / 2 ^ 22 % 8
  let s := s.modPort port fun x =>
    { x with
      corrFlits := if fixed.isEmpty then x.corrFlits else bump x.corrFlits, corrSyms := satAdd 32 x.corrSyms fixed.length,
      laneErr := fixed.foldl (fun m b => smMod (0 : Word) m (lane b) bump) x.laneErr,
      laneWin := fixed.foldl (fun m b => smMod (0 : Word) m (lane b) bump) x.laneWin,
      dropGap := satAdd 32 x.dropGap gap, fseqIn := fseq + 1,
      credits := if cvc < 6 then smSet x.credits cvc (BitVec.ofNat 10 (h / 2 ^ 12)) else x.credits }
  let s := if gap = 0 then s else s.flitLost port
  if h / 2 ^ 30 = 3 then s.peerNarrows port
  else if h / 2 ^ 30 ≠ 1 then s
  else
    let s := s.freeLost port (h / 2 ^ 26 % 16)
    let blocks := (List.range 15).map fun i => (i, (flit.drop (4 + 16 * i)).take 16)
    (blocks.foldl (State.takeBlock port (h / 2 ^ 26 % 16) (h / 2 ^ 25 % 2 = 1)) (s, true)).1

/-- `FLIT_RECEIVE`: a flit of a port that is UP or in its handshake. -/
def execFlitReceive (port : BitVec 5) (coded : List Byte) (s : State) : Out :=
  .next (
    let p := port.toNat
    let x := s.getPort p
    let drop (s : State) : State := (s.modPort p fun x => { x with dropUnc := bump x.dropUnc }).flitLost p
    if x.st = .up ∨ x.st = .narrowing then
      let s := s.modPort p fun x => { x with flitsRx := x.flitsRx + 1 }
      let s := s.modPwr fun y => { y with acts := smSet y.acts 6 (smGet 0 y.acts 6 + x.width) }
      if x.st = .narrowing then drop s
      else match flitDecode coded with
        | none => drop s
        | some (flit, fixed) => s.goodFlit p flit fixed
    else s)

/-! ### Port states and width (10 R224 to R227) -/

def PortSt.code (t : PortSt) : Nat :=
  match t with
  | .disabled => 0 | .down => 1 | .training => 2 | .held => 3 | .miswired => 4 | .up => 5 | .narrowing => 6

/-- `PORT_STATE` [31:0] (10 Table 10.5). -/
def Port.stateWord (p : Port) : Word :=
  BitVec.ofNat 32 (p.st.code + p.width * 16 + p.active.toNat * 2 ^ 8 + p.failed.toNat * 2 ^ 12 + p.peerNode.toNat * 2 ^ 16 +
    p.peerPort.toNat * 2 ^ 28)

/-- The fabric manager reports a change of width: event 0x0007 and a fault-log record. -/
def State.widthChanged (s : State) (port : Nat) : State :=
  let w := (s.getPort port).stateWord
  (s.logFault .portWidth srcFabric 0 w).event 0x0007 sOk (BitVec.ofNat 16 port) w 0 0

/-- The lane set of a port with failed lanes: a whole pair, else the lowest healthy lane. -/
def chooseLanes (failed : BitVec 4) : BitVec 4 :=
  if failed = 0 then 0xF
  else if failed &&& 0x3 = 0 then 0x3
  else if failed &&& 0xC = 0 then 0xC
  else match (List.range 4).find? fun l => !failed.getLsbD l with
    | some l => 1 <<< l
    | none => 0

def laneCount (m : BitVec 4) : Nat := (lanesOf m).length

/-- The set a port may run on: fewer than two lanes only where PORT_SET allows it. -/
def Port.allowed (p : Port) (set : BitVec 4) : BitVec 4 := if laneCount set = 1 ∧ ¬ p.allow1 then 0 else set

/-- A port goes DOWN. -/
def Port.goDown (p : Port) (now : Nat) : Port :=
  { p with st := .down, width := 0, active := 0, since := now, retest := false, partial_ := none, outBlks := [], circIn := [],
           cutting := false }

/-- In DEEP_IDLE a port that is UP runs on one lane (01 Table 1.6); `target` keeps its lane set. -/
def Port.idled (p : Port) : Port :=
  if p.st = .up then { p with target := p.active, active := 1 <<< ((lanesOf p.active).headD 0), width := 1 } else p

/-- The lane set that an idled port keeps. -/
def Port.unidled (p : Port) : Port := if p.st = .up then { p with active := p.target, width := laneCount p.target } else p

/-- What a port that has just come UP runs on. -/
def State.settlePort (s : State) (port : Nat) : State := if s.pwr.deepIdle then s.modPort port Port.idled else s

/-- Narrow a port for its failed lanes; a handshake under way starts again. -/
def State.narrow (s : State) (port : Nat) : State :=
  let p := s.getPort port
  let set := p.allowed (chooseLanes p.failed)
  if set = 0 then (s.setPort port (p.goDown s.clk.now)).widthChanged port
  else s.setPort port { p with st := .narrowing, target := set, since := s.clk.now,
                               narrowings := if p.st = .up then satAdd 16 p.narrowings 1 else p.narrowings }

/-- A lane of a running port fails. In DEEP_IDLE the port narrows when it leaves (10 at the edges). -/
def State.failLanes (s : State) (port : Nat) (lanes : BitVec 4) : State :=
  let p := s.getPort port
  let s := s.setPort port { p with failed := p.failed ||| lanes }
  if lanes = 0 ∨ (p.st ≠ .up ∧ p.st ≠ .narrowing) then s
  else if s.pwr.deepIdle ∧ chooseLanes (p.failed ||| lanes) ≠ 0 then s
  else if (if p.st = .up then p.active else p.target) &&& lanes = 0 then s
  else s.narrow port

/-- `LANE_LOSS_OF_LOCK`. -/
def execLaneLossOfLock (port : BitVec 5) (lane : BitVec 2) (s : State) : Out :=
  .next (
    let l := lane.toNat
    (s.modPort port.toNat fun p => { p with laneLock := smMod (0 : Half) p.laneLock l fun n => satAdd 16 n 1 }).failLanes
      port.toNat (1 <<< l))

/-- `LANE_ERROR_WINDOW`: the end of a window of 25,000 ticks. -/
def execLaneErrorWindow (port : BitVec 5) (s : State) : Out :=
  .next (
    let p := s.getPort port.toNat
    if s.clk.now < p.winAt then s
    else
    let bad : BitVec 4 := (List.range 4).foldl (fun m l =>
      if p.thr ≠ 0 ∧ p.thr ≤ smGet 0 p.laneWin l then m ||| (1 <<< l) else m) 0
    (s.setPort port.toNat { p with laneWin := [], winAt := s.clk.now + 25000 }).failLanes port.toNat bad)

/-- `NARROWING_HANDSHAKE_END`: 50 µs on. `lanes` are, at the end with the lower node id, those that the peer has not failed; at
the other, the set that the peer chose; of a retest, those that passed code lock. -/
def execNarrowingHandshakeEnd (port : BitVec 5) (lanes : BitVec 4) (s : State) : Out :=
  .next (
    let k := port.toNat
    let p := s.getPort k
    if p.st ≠ .narrowing ∨ s.clk.now < p.since + 1250 then s
    else
      let failed := if p.retest then ~~~lanes else p.failed
      let set := p.allowed (if p.retest ∨ s.fab.node ≤ p.peerNode then chooseLanes (failed ||| ~~~lanes) else lanes)
      if set = 0 then (s.setPort k (({ p with failed := failed } : Port).goDown s.clk.now)).widthChanged k
      else
        let s := s.setPort k { p with st := .up, failed := failed, active := set, width := laneCount set, retest := false }
        (if laneCount set = p.width then s else s.widthChanged k).settlePort k)

/-! ### Training (10 R222, R223) -/

/-- A port begins to train, unless it is disabled. Its failed lanes stay so until a retest or a start, unless none is left
(10 R225). -/
def State.openPort (s : State) (port : Nat) : State :=
  s.modPort port fun p =>
    if !p.enabled then { p.goDown s.clk.now with st := .disabled }
    else { p.goDown s.clk.now with st := .training, trainStep := 1, cold := !p.trained, failed := if p.failed = 0xF then 0 else p.failed,
                                   trainings := satAdd 16 p.trainings 1 }

/-- In step 5 a port sends its node id, number and mode (10 R223), where its module has a node id. -/
def State.exchange (s : State) (port : Nat) : State :=
  let p := s.getPort port
  if s.fab.nodeSet ∧ p.st = .training ∧ p.trainStep = 5 then
    s.emit (.exchange (BitVec.ofNat 5 port) s.fab.node (decide (28 ≤ port) && !s.ret.auxMode))
  else s

/-- `TRAINING_STEP_DONE`: steps 1 to 4; step 5 ends with the peer exchange. -/
def execTrainingStepDone (port : BitVec 5) (info : TrainInfo) (s : State) : Out :=
  .next (
    let p := s.getPort port.toNat
    if p.st ≠ .training then s
    else (s.setPort port.toNat (
      match p.trainStep with
      | 1 => { p with trainStep := 2, since := s.clk.now }
      | 2 => { p with trainStep := if p.cold then 3 else 4, since := s.clk.now }
      | 3 => { p with trainStep := 4, trained := true, since := s.clk.now }
      | 4 =>
        let failed := p.failed ||| ~~~info.lanes
        let set := p.allowed (chooseLanes failed)
        if !p.cold ∧ failed ≠ p.failed then { p with trainStep := 3, cold := true, since := s.clk.now }
        else if set = 0 then p.goDown s.clk.now
        else { p with trainStep := 5, failed := failed, active := set, width := laneCount set, delay := info.delay,
                      since := s.clk.now }
      | _ => p)).exchange port.toNat)

/-- Limit of a training step in ticks (10 Table 10.3). -/
def trainLimit (step : Nat) : Nat :=
  match step with
  | 1 => 250000
  | 2 => 125000
  | 3 => 37500000
  | _ => 25000

/-- `TRAINING_STEP_TIMEOUT`: back to DOWN; a code lock that fails with retained coefficients runs step 3. -/
def execTrainingStepTimeout (port : BitVec 5) (s : State) : Out :=
  .next (
    let p := s.getPort port.toNat
    if p.st ≠ .training ∨ s.clk.now < p.since + trainLimit p.trainStep then s
    else if p.trainStep = 4 ∧ ¬ p.cold then s.setPort port.toNat { p with trainStep := 3, cold := true, since := s.clk.now }
    else s.setPort port.toNat (p.goDown s.clk.now))

/-- `TRAINING_RETRY`: 1 s later. -/
def execTrainingRetry (port : BitVec 5) (s : State) : Out :=
  .next (
    let p := s.getPort port.toNat
    if p.st = .down ∧ p.since + 25000000 ≤ s.clk.now then s.openPort port.toNat else s)

/-- The peer is the one that R218 and R221 ask for. -/
def State.wired (s : State) (port : Nat) : Bool :=
  let p := s.getPort port
  let twin := p.peerNode.toNat = peerNodeOf s.self port && p.peerPort.toNat = peerPortOf port && !p.attached
  if port < 28 then twin
  else if s.ret.auxMode then p.attached
  else twin && p.doubled

/-- The wiring check: UP with its credits initialised, or MISWIRED. -/
def State.checkWiring (s : State) (port : Nat) : State :=
  let ok := s.wired port
  (s.modPort port fun p =>
    if ok then { p with st := .up, credits := [], sentBlk := [], freedBlk := [], fseqIn := 0, fseqOut := 0, sinceIdle := 0,
                        txNs := 0, circNs := 0, partial_ := none, cutting := false, laneWin := [], winAt := s.clk.now + 25000,
                        since := s.clk.now }
    else { p with st := .miswired, miswires := satAdd 16 p.miswires 1, since := s.clk.now }).settlePort port

/-- `PEER_EXCHANGE`: step 5. -/
def execPeerExchange (port : BitVec 5) (node : NodeId) (peerPort : BitVec 5) (attached doubled : Bool) (s : State) : Out :=
  .next (
    let k := port.toNat
    let p := s.getPort k
    if p.st ≠ .training ∨ p.trainStep ≠ 5 then s
    else
      let s := s.setPort k { p with peerNode := node, peerPort := peerPort, attached := attached, doubled := doubled }
      if s.fab.nodeSet then s.checkWiring k else s.modPort k fun p => { p with st := .held })

/-- SET_NODE: every UP or HELD port repeats step 5. -/
def State.recheckPorts (s : State) : State :=
  let again (p : Port) : Bool := p.st = .up || p.st = .held
  let s : State :=
    { s with port := s.port.map fun p =>
        if again p.2 then
          (p.1, { (if s.pwr.deepIdle then p.2.unidled else p.2) with st := .training, trainStep := 5, since := s.clk.now, partial_ := none })
        else p }
  (s.port.map (·.1)).foldl State.exchange s

/-- `MISWIRED_RETRY`: once a minute. -/
def execMiswiredRetry (port : BitVec 5) (s : State) : Out :=
  .next (
    let p := s.getPort port.toNat
    if p.st = .miswired ∧ p.since + 1500000000 ≤ s.clk.now then s.openPort port.toNat else s)

end Sys2Proof.Machine
end

