-- ==== Sys2Proof/Machine/Claims.lean ====
section
/-! DEFINITION. The claim table (19 R418 to R423, 14 R317). -/

namespace Sys2Proof.Machine

/-- Feature codes (19 Table 19.8). -/
def featPulse : Byte := 0x01
def featTrigger : Byte := 0x02
def featPace : Byte := 0x03
def featWatchdog : Byte := 0x04
def featSched : Byte := 0x05
def featTelemetry : Byte := 0x07
def featSnap : Byte := 0x08
def featPipe : Byte := 0x09
def featDouble : Byte := 0x0A
def featAttach : Byte := 0x0B

/-- Holder id: the feature and the partition that enabled it. -/
def holderId (feat : Byte) (p : Nat) : Half := feat ++ BitVec.ofNat 8 (p % 64)

/-- Ranks of the resources (19 Table 19.7). -/
def rankSync : Nat := 0
def rankComp (n : Nat) : Nat := 1 + n
def rankAux : Nat := 5
def rankCh3 (i : Nat) : Nat := 6 + i
def rankStaging (i : Nat) : Nat := 262 + i
def claimCount : Nat := 518

/-- The rank of a resource id. -/
def rankOfId (id : Nat) : Option Nat :=
  if id = 1 then some rankSync
  else if 0x10 ≤ id ∧ id ≤ 0x13 then some (rankComp (id - 0x10))
  else if id = 0x20 then some rankAux
  else if 0x100 ≤ id ∧ id < 0x200 then some (rankCh3 (id - 0x100))
  else if 0x200 ≤ id ∧ id < 0x300 then some (rankStaging (id - 0x200))
  else none

/-- The island whose resource a rank is. -/
def rankIsland (r : Nat) : Option Nat := if r < 6 then none else some ((r - 6) % 256)

/-- The claim at a rank: an absent island's resources carry holder 0xFF00. -/
def State.claimAt (s : State) (r : Nat) : Claim :=
  match rankIsland r with
  | some i => if s.present i then smGet ⟨0, 0⟩ s.claims r else ⟨0xFF00, 0⟩
  | none => smGet ⟨0, 0⟩ s.claims r

def State.holder (s : State) (r : Nat) : Half := (s.claimAt r).holder

def State.setClaim (s : State) (r : Nat) (h : Half) : State :=
  { s with claims := smSet s.claims r ⟨h, s.now.setWidth 32⟩ }

def State.setClaims (s : State) (rs : List Nat) (h : Half) : State := rs.foldl (fun s r => s.setClaim r h) s

/-- Release every claim of a feature (and, for a pipeline, of its partition). -/
def State.release (s : State) (h : Half → Bool) : State := { s with claims := s.claims.filter fun c => !h c.2.holder }

def State.releaseFeat (s : State) (feat : Byte) : State := s.release fun h => h.extractLsb' 8 8 = feat
def State.holdsFeat (s : State) (feat : Byte) : Bool := s.claims.any fun c => c.2.holder.extractLsb' 8 8 = feat

/-- The lowest free pool comparator (19 R420). -/
def State.freeComp (s : State) : Option Nat := [rankComp 2, rankComp 3].find? fun r => s.holder r = 0

/-- The holder of the first held resource among `low` (ids below the comparators), the pool if wanted,
and `high`, in ascending id; `none` where all are free (14 R317, 19 R420). -/
def State.firstHeld (s : State) (low : List Nat) (pool : Bool) (high : List Nat) : Option Half :=
  match low.find? fun r => s.holder r ≠ 0 with
  | some r => some (s.holder r)
  | none =>
    if pool && s.freeComp.isNone then some (s.holder (rankComp 2))
    else (high.find? fun r => s.holder r ≠ 0).map s.holder

/-- Take the lowest free pool comparator. -/
def State.takeComp (s : State) (h : Half) : State :=
  match s.freeComp with
  | some r => s.setClaim r h
  | none => s

/-- The claim of the auxiliary ports in their retained mode. -/
def State.auxHolder (s : State) : Half := holderId (if s.ret.auxMode then featAttach else featDouble) 0

/-- Ports 28 to 31 are all DISABLED: the claim falls free (19 R421). -/
def State.auxSettle (s : State) : State :=
  if [28, 29, 30, 31].all fun p => !(s.getPort p).enabled then { s with claims := s.claims.filter fun c => c.1 ≠ rankAux } else s

/-- The claims of retained features at a start, in ascending id after comparators 0 and 1 (15 R338, 19
R420). -/
def State.retainedClaims (s : State) : State :=
  let s : State := { s with claims := [] }
  let s := s.setClaim (rankComp 0) (holderId featWatchdog 0)
  let feat : Option Byte := match s.ret.syncMode.toNat with
    | 1 => some featPulse
    | 2 => some featTrigger
    | 3 => some featPace
    | _ => none
  let s := match feat with
    | some f => s.setClaim rankSync (holderId f 0)
    | none => s
  let s := if s.ret.syncMode = 2 then s.setClaim (rankComp 2) (holderId featTrigger 0) else s
  if [28, 29, 30, 31].any fun p => (s.getPort p).enabled then s.setClaim rankAux s.auxHolder else s

end Sys2Proof.Machine
end

