-- ==== Sys2Proof/Machine/Gating.lean ====
section
/-! DEFINITION. Gating groups (01 R22 to R27), patrol scrub and refresh (08 R177, R178), and the copies of
the logs (05 R129, 18 R406). -/

namespace Sys2Proof.Machine

/-! ### Power gating -/

def groupOf (i : Nat) : Nat := i / 16
def groupIslands (g : Nat) : List Nat := (List.range 16).map (16 * g + ·)

/-- A group with an island that is not fused off (01 R22, R27 at the edges). -/
def State.groupPresent (s : State) (g : Nat) : Bool := (groupIslands g).any s.present

/-- Every island of the group is bound to no pipeline, and no bind under way has asked for the group (01 R23, R26). -/
def State.groupFree (s : State) (g : Nat) : Bool :=
  ((groupIslands g).all fun i => decide (s.islSt i ≤ stGated)) &&
    s.part.all fun p => p.2.binding.all fun b => !b.2.contains g

/-- Set the state of the group's islands that are present. -/
def State.setGroupSt (s : State) (g : Nat) (st : BitVec 4) : State :=
  (groupIslands g).foldl (fun s i => if s.present i then s.modIsl i fun v => { v with st := st } else s) s

/-- What power gating takes from an island: all but the scratchpad and the instruction memory (01 R24). The
registers of the sequencer, drains and vector unit return at their reset values; the exception-log ring with its
pointers and lost count, `STRAIT_DROP` and `PARTITION` stay, and `PIPELINE` and `FAULT` are cleared (DESIGN CHOICE, log 43). -/
def Island.powered (v : Island) : Island :=
  { Island.reset with lastServed := v.lastServed, partition := v.partition, imem := v.imem, imemErr := v.imemErr, imemHard := v.imemHard,
                      sp := v.sp, spErr := v.spErr, spHard := v.spHard, st := stGated,
                      logHead := v.logHead, logTail := v.logTail, logLost := v.logLost, excLog := v.excLog,
                      straitDrop := v.straitDrop, pipeline := 0 }

/-- A group is asked to wake (01 R24, R25): a request during entry waits for its end. -/
def State.wakeGroup (s : State) (g : Nat) : State :=
  if !s.groupPresent g then s
  else
    let x := s.getGrp g
    match x.gate with
    | .off => s.setGrp g { x with gate := .waking s.clk.now, wakeReq := false }
    | .entering _ => s.setGrp g { x with wakeReq := true }
    | _ => s

/-- `GROUP_POWER_GATING_ENTRY` (01 R23): the first tick in which the group has been unbound for more than 1 ms. -/
def execGroupPowerGatingEntry (g : BitVec 4) (s : State) : Out :=
  .next (
    let k := g.toNat
    let x := s.getGrp k
    if x.gate = .clocked ∧ s.groupFree k ∧ x.unbound + 25001 ≤ s.clk.now then
      s.setGrp k { x with gate := .entering s.clk.now, wakeReq := false }
    else s)

/-- `POWER_GATING_ENTRY_DONE` (01 R25): tick v + 5; a waiting wake request is acted on in it. -/
def execPowerGatingEntryDone (g : BitVec 4) (s : State) : Out :=
  .next (
    let k := g.toNat
    let x := s.getGrp k
    match x.gate with
    | .entering v =>
      if v + 5 ≤ s.clk.now then
        (s.setGroupSt k stOff).setGrp k
          { x with gate := if x.wakeReq then .waking s.clk.now else .off, wakeReq := false }
      else s
    | _ => s)

/-- `GROUP_WAKE_COMPLETE` (01 R24): 2 µs after the request is acted on; accumulators and weight buffers are
cleared. A group that nothing binds after its wake counts its 1 ms from this tick: the rule names only the last unbind
(DESIGN CHOICE, log 86). -/
def execGroupWakeComplete (g : BitVec 4) (s : State) : Out :=
  .next (
    let k := g.toNat
    let x := s.getGrp k
    match x.gate with
    | .waking w =>
      if w + 50 ≤ s.clk.now then
        let s := (groupIslands k).foldl (fun s i => if s.present i then s.modIsl i Island.powered else s) s
        s.setGrp k { x with gate := .clocked, unbound := s.clk.now }
      else s
    | _ => s)

/-! ### Patrol scrub and refresh (08 R177, R178) -/

/-- Lines of a channel. -/
def channelLines : Nat := 41943040

/-- A scrub slot of channel g in the tick at hand that has not been used. -/
def State.scrubSlot (s : State) (g : Nat) : Option Nat :=
  if !s.frameRuns then none
  else slotFrom (fun slot => decide (smGet 0 s.mem.scrubAt g ≤ slot) && s.useOf g slot = some .scrub) 50 (50 * s.clk.now)

/-- A scrub slot of a channel passes: island-class requests of earlier slots come first (08 R175). -/
def State.takeScrub (s : State) (g slot : Nat) : State :=
  (s.serveTo slot).modMem fun m => { m with scrubAt := smSet m.scrubAt g (slot + 1) }

/-- `PATROL_SCRUB` (08 R178, R182, R183): the next line of a channel is read in a scrub slot; a correctable one is to be
rewritten in the next scrub slot. -/
def execPatrolScrub (g : Byte) (s : State) : Out :=
  .next (
    let k := g.toNat
    match s.scrubSlot k, smGet none s.mem.rewrite k with
    | some slot, none =>
      let s := s.takeScrub k slot
      let n := smGet 0 s.mem.walk k
      let line := hbmUnmap s.mem.mode k (64 * n)
      let s := s.noteLine line
      let fix := match s.mem.errOf line with
        | some (.symbol _) => true
        | _ => false
      s.modMem fun m =>
        let done := n + 1 = channelLines
        let scrubbed := if done then smSet m.scrubbed k (smGet 0 m.scrubbed k + 1) else m.scrubbed
        let all := (List.range 256).foldl (fun a c => min a (smGet 0 scrubbed c)) (smGet 0 scrubbed 0)
        { m with walk := smSet m.walk k (if done then 0 else n + 1), scrubbed := scrubbed,
                 scrubs := BitVec.ofNat 32 (min (2 ^ 32 - 1) all),
                 rewrite := smSet m.rewrite k (if fix then some line else none) }
    | _, _ => s)

/-- `SCRUB_REWRITE` (08 R178): the line is written back corrected in the next scrub slot; a hard fault stays (R180). A
write of an earlier slot cancels it. -/
def execScrubRewrite (g : Byte) (s : State) : Out :=
  .next (
    let k := g.toNat
    match s.scrubSlot k, smGet none s.mem.rewrite k with
    | some slot, some _ =>
      let s := s.serveTo slot
      match smGet none s.mem.rewrite k with
      | none => s
      | some line =>
        (s.takeScrub k slot).modMem fun m => { m with rewrite := smSet m.rewrite k none,
                                                      lineErr := smSet m.lineErr line (match smGet none m.lineErr line with
                                                        | some (.symbol _) => none
                                                        | e => e) }
    | _, _ => s)

/-- `REFRESH_SLOT` (08 R177): a refresh command or an idle slot of the channel; neither changes what can be read. -/
def execRefreshSlot (_g : Byte) (s : State) : Out := .next s

/-! ### Copies of the logs -/

/-- The 32 bytes of a record (05 Table 5.16). -/
def ExcRec.bytes (r : ExcRec) (i : Nat) : List Byte :=
  leBytes 8 r.word.toNat ++ leBytes 8 r.time.toNat ++ leBytes 2 i ++ [r.kind, 0] ++ leBytes 4 r.pipeline.toNat ++
    leBytes 2 r.bundle.toNat ++ leBytes 1 r.slot.toNat ++ [0] ++ leBytes 4 r.cycle.toNat

/-- Put one record into the partition's exception queue, or drop it (14 Table 14.6). -/
def State.excPut (s : State) (p : Nat) (bs : List Byte) : State :=
  match (s.getPart p).exc with
  | none => s
  | some q =>
    if 2 ^ q.log2 ≤ (q.pi - q.ci).toNat then
      s.modPart p fun t => { t with exc := some { q with dropped := bump1 q.dropped } }
    else
      let s := s.out (.data (q.base + BitVec.ofNat 64 (32 * (q.pi.toNat % 2 ^ q.log2))) bs)
      (s.modPart p fun t => { t with exc := some { q with pi := q.pi + 1 } }).out (.index q.piAddr (q.pi + 1))
where
  bump1 (w : Word) : Word := satAdd 32 w 1

/-- The records between `LOG_TAIL` and `LOG_HEAD`. -/
def Island.excPending (v : Island) : List ExcRec :=
  (List.range ((v.logHead - v.logTail).toNat)).map fun k => smGet .reset v.excLog ((v.logTail.toNat + k) % 128)

/-- `EXCEPTION_LOG_COPY` (05 R129): the island's new records go to its partition's queue, whose consumer
index is read as `ci`; an interval that drops some leaves one fault-log record. -/
def execExceptionLogCopy (i : BitVec 8) (ci : Word) (s : State) : Out :=
  .next (
    let k := i.toNat
    let v := s.getIsl k
    let p := v.partition.toNat
    let s := s.modPart p fun t => { t with exc := t.exc.map fun q => { q with ci := ci } }
    let before := (s.getPart p).exc.map (·.dropped)
    let s := v.excPending.foldl (fun s r => s.excPut p (r.bytes k)) s
    let s := s.setIsl k { s.getIsl k with logTail := v.logHead }
    if (s.getPart p).exc.map (·.dropped) = before then s
    else s.logFault .excDropped srcInterp 0 (BitVec.ofNat 32 p))

/-- Records the flash archive holds, and how many it overwrites at a time (18 R406). -/
def archiveSize : Nat := 1966080

/-- `FAULT_LOG_ARCHIVE` (18 R406). -/
def execFaultLogArchive (s : State) : Out :=
  .next { s with flog :=
    let l := s.flog
    let new := l.ring.filter fun r => decide (l.archived ≤ r.seq)
    let all := l.archive ++ new
    let extra := all.length - archiveSize
    { l with archive := all.drop ((extra + 2047) / 2048 * 2048), archived := l.seq } }

end Sys2Proof.Machine
end

