-- ==== Sys2Proof/Machine/Image.lean ====
section
/-! DEFINITION. Pipeline images: their layout and the checks of a load or bind (07 R150 to R162, 05 R105,
R108, R109, R112, R115 to R119, R121, 03 R71, R72, 02 R43, R46, R47). The order of checks that fail together
is the order of the header, the bitmap, the stages with their blocks, and the map (log 44). -/

namespace Sys2Proof.Machine

def firstSome : List (Option α) → Option α
  | [] => none
  | some a :: _ => some a
  | none :: t => firstSome t

/-- A nonzero reserved run of n bits from bit lo on, as its low bit. -/
def rsv (w lo n : Nat) : Option Nat := if field w lo n = 0 then none else some lo

def failAt (bad : Bool) (at_ : Nat) : Option Nat := if bad then some at_ else none

/-! ### Bundles (05 R112, Tables 5.4 to 5.7, 06 Table 6.1) -/

/-- Scalar slot: the low bit of the first field at fault. -/
def scalarFault (op w : Nat) : Option Nat :=
  match op with
  | 1 => failAt (12 ≤ field w 0 11) 0
  | 2 | 4 | 5 => none
  | 3 => rsv w 18 3
  | 6 => firstSome [rsv w 0 10, rsv w 21 1]
  | 7 => firstSome [rsv w 16 5, rsv w 21 1]
  | 8 => rsv w 21 4
  | _ => some 26

/-- Branch slot of the bundle at address pc (05 R115, R121). -/
def branchFault (op w pc : Nat) : Option Nat :=
  match op with
  | 1 => firstSome [failAt (field w 0 13 < pc + 1) 0,
      if bitAt w 25 then rsv w 18 7 else failAt (field w 13 12 = 0) 13]
  | 2 => rsv w 13 13
  | 3 => failAt (6 ≤ field w 23 3) 23
  | 4 => firstSome [rsv w 0 5, failAt (field w 5 16 = 0) 5]
  | 5 => rsv w 0 13
  | 6 => firstSome [failAt (field w 0 16 = 0) 0, rsv w 16 10]
  | 7 => rsv w 0 26
  | _ => some 26

/-- Array-control slots (05 R116). -/
def arrayFault (op w : Nat) : Option Nat :=
  match op with
  | 1 => failAt (field w 18 8 = 0) 18
  | 2 => rsv w 0 3
  | 3 => firstSome [if bitAt w 17 then rsv w 10 2 else none, failAt (field w 18 8 = 0) 18]
  | _ => some 26

/-- Vector slot (06 R132, R133, R147). -/
def vectorFault (op w : Nat) : Option Nat :=
  match op with
  | 1 | 2 => failAt (5 ≤ field w 13 3) 13
  | 3 => failAt (12 ≤ field w 0 5) 0
  | 4 => firstSome [failAt (15 ≤ field w 0 5) 0, rsv w 5 1]
  | 5 => firstSome [failAt (6 ≤ field w 0 6) 0, rsv w 6 5]
  | 6 => rsv w 0 16
  | 7 => firstSome [rsv w 0 16, failAt (field w 21 5 = 31) 21]
  | 8 => firstSome [failAt (4 ≤ field w 0 6) 0, rsv w 6 10]
  | 9 => firstSome [failAt (6 ≤ field w 0 6) 0, rsv w 6 10]
  | 10 => firstSome [failAt (2 ≤ field w 0 4) 0, failAt (field w 16 5 = 31) 16]
  | _ => some 26

/-- Low bit of the first field at fault in slot k (05 R112, R117). -/
def slotFault (k pc w : Nat) : Option Nat :=
  let op := field w 26 6
  if op = 0 then rsv w 0 26
  else match k with
    | 0 => scalarFault op w
    | 1 => branchFault op w pc
    | 2 | 3 => arrayFault op w
    | 4 => if op = 1 then firstSome [rsv w 0 8, failAt (field w 18 8 = 0) 18] else some 26
    | 5 => if op = 1 then firstSome [rsv w 0 2, failAt (field w 18 8 = 0) 18] else some 26
    | 6 => vectorFault op w
    | _ => if op = 1 then rsv w 0 14 else if op = 2 ∨ op = 3 then rsv w 0 24 else some 26

/-- Arrays an array-control slot names. -/
def slotArrays (w : Nat) : Byte :=
  let op := field w 26 6
  if op = 0 then 0 else if op = 2 then 1 <<< field w 23 3 else BitVec.ofNat 8 (field w 18 8)

/-- The byte of a bundle that holds its first field at fault; `src` and `dst` say which strait ports carry a circuit,
and `many` which drain descriptors send a stream to a strait, so that a drain by them names one array (05 R109). -/
def bundleFault (pc : Nat) (bs : List Byte) (src dst many : Nat → Bool) : Option Nat :=
  let w (k : Nat) : Nat := leAt bs (4 * k) 4
  firstSome [
    (List.range 8).findSome? fun k => (slotFault k pc (w k)).map fun b => 4 * k + b / 8,
    failAt ((slotArrays (w 2) &&& slotArrays (w 3)) ≠ 0) (12 + 2),
    failAt (field (w 5) 26 6 = 1 && many (field (w 5) 14 4) && decide (1 < (maskArrays (slotArrays (w 5))).length)) 22,
    failAt (field (w 6) 26 6 = 1 && field (w 6) 13 3 = 4 && !dst (field (w 6) 11 2)) 25,
    failAt (field (w 6) 26 6 = 2 && field (w 6) 13 3 = 4 && !src (field (w 6) 11 2)) 25]

/-- The bundle starts, pauses or resumes channel 3 (05 R110). -/
def bundleCh3 (bs : List Byte) : Bool :=
  let w := leAt bs 28 4
  field w 26 6 ≠ 0 && field w 24 2 = 3

/-! ### Descriptors (05 R108, R118, R119, 04 R85, R86) -/

/-- The byte of a pass descriptor at fault. -/
def pdFault (n : Nat) : Option Nat :=
  let d := PassDesc.parse (BitVec.ofNat 64 n)
  firstSome [rsv n 0 2 |>.map fun _ => 0,
    failAt (modeCommon d.mode && d.mode ≠ 4 && decide (465 < d.ec)) 0,
    failAt (9 ≤ d.mode) 5, rsv n 44 20 |>.map fun _ => 5]

/-- The byte of a feed descriptor at fault, its own fields alone. -/
def fdFault (bs : List Byte) (dst : Nat → Bool) : Option Nat :=
  let b (i : Nat) : Nat := byteAt bs i
  let f := FeedDesc.parse (BitVec.ofNat 128 (leAt bs 0 16))
  firstSome [failAt (f.fmtOff % 32 ≠ 0) 0, failAt (b 2 / 64 ≠ 0) 2, failAt (b 3 % 8 ≠ 0 || 2 ≤ f.source) 3,
    failAt (f.source = 1 && !dst f.port) 3, failAt (b 8 / 64 ≠ 0) 8, failAt (b 11 / 64 ≠ 0) 11, failAt (b 12 / 32 ≠ 0) 12,
    failAt (b 13 / 32 ≠ 0) 13, failAt (!f.ecw && f.ec ≠ 0) 14, failAt (b 15 / 4 % 32 ≠ 0) 15]

/-- The byte of a feed descriptor that its format descriptor puts at fault (05 Table 5.2). -/
def fdRoleFault (f : FeedDesc) (d : FmtDesc) : Option Nat :=
  firstSome [failAt (!d.role && (f.bcast || f.source = 1)) 3, failAt (f.ecw && (d.role || !fmtIsRounding d.format || d.sched)) 15]

/-- The byte of an address word at fault; `strait` says whether it may name a port, `opt` whether it may
be absent. -/
def addrFault (n : Nat) (strait opt : Bool) (src : Nat → Bool) : Option Nat :=
  let a := AddrWord.parse (BitVec.ofNat 32 n)
  firstSome [failAt (a.strait && strait && !a.none_ && !src a.port) 2, rsv n 24 6 |>.map fun _ => 3,
    failAt (a.strait && !strait) 3, failAt (a.none_ && !opt) 3]

/-- The output formats of 04 Table 4.4. -/
def outFmtCodes : List Nat := [0x00, 0x01, 0x02, 0x03, 0x04, 0x08, 0x10, 0x11, 0x1F]

/-- The byte of a drain descriptor at fault. -/
def ddFault (bs : List Byte) (src : Nat → Bool) : Option Nat :=
  let d := DrainDesc.parse (BitVec.ofNat 512 (leAt bs 0 64))
  let word (o : Nat) (strait opt : Bool) : Option Nat := (addrFault (leAt bs o 4) strait opt src).map (o + ·)
  firstSome [failAt (128 ≤ byteAt bs 0) 0, failAt (128 ≤ byteAt bs 1 || decide (128 < d.slot + d.rows)) 1,
    failAt (!outFmtCodes.contains d.fmt || (d.pair && ((d.fmt ≠ 0 && d.fmt ≠ 1) || d.round ≠ 0))) 2,
    word 4 true true, failAt (leAt bs 10 2 ≠ 0) 10, word 12 true true, word 16 true true, word 20 false true,
    word 24 false false, failAt (leAt bs 44 20 ≠ 0) 44]

/-- A drain by this descriptor sends a stream to a strait port. -/
def DrainDesc.toStrait (d : DrainDesc) : Bool :=
  (d.dst :: d.idx :: if d.pair then [d.lo] else []).any fun a => a.strait && !a.none_

/-- The byte of a register block at fault (07 R152). -/
def regsFault (bs : List Byte) : Option Nat :=
  firstSome [failAt (leAt bs 0 8 ≠ 0) 0,
    (List.range 16).findSome? fun k =>
      let h := leAt bs (256 + 2 * k) 2
      firstSome [failAt (32768 ≤ h && h % 1024 ≠ 0) (256 + 2 * k), failAt (h / 1024 % 32 ≠ 0) (257 + 2 * k)],
    failAt (leAt bs 356 4 ≠ 0) 356, failAt (leAt bs 380 4 ≠ 0) 380]

/-! ### Images (07 Tables 7.1, 7.2, 7.5) -/

/-- A stage as its entry gives it; preloads are (source in the image, scratchpad offset, length). -/
structure ImgStage where
  stage   : Stage
  imemOff : Nat
  bundles : Nat
  descOff : Nat
  regsOff : Nat
  pre     : List (Nat × Nat × Nat)
deriving DecidableEq, Repr

structure Image where
  pipeId    : Word
  stepGroup : Byte
  groups    : List Nat
  stages    : List ImgStage
  circuits  : List Circuit
deriving DecidableEq, Repr

/-- A position at fault: image byte offset and stage index, 0xFFFF_FFFF outside the stages. -/
abbrev ImgFault := Nat × Nat

def noStage : Nat := 0xFFFFFFFF

/-- The bit-identity key of stepping A1 (00 R5). -/
def idKey : Word := 0x03020102

/-- Image byte that a preloaded scratchpad byte comes from: the later preload wins (07 R150). -/
def preSrc (pre : List (Nat × Nat × Nat)) (o : Nat) : Option Nat :=
  (pre.reverse.find? fun e => e.2.1 ≤ o && decide (o < e.2.1 + e.2.2)).map fun e => e.1 + (o - e.2.1)

/-- The bytes of a scratchpad extent, if they are wholly preloaded. -/
def preBytes (img : List Byte) (pre : List (Nat × Nat × Nat)) (o n : Nat) : Option (List Byte) :=
  (List.range n).mapM fun k => (preSrc pre (o + k)).map fun a => img.getD a 0

/-- An extent reaches into the staging range (05 R105). -/
def intoStaging (o n : Nat) : Bool := n ≠ 0 && decide (stagingOff < o + n)

/-- The strait map entry at an offset, unchecked. -/
def circuitAt (img : List Byte) (o : Nat) (p : Nat) : Circuit :=
  { src := img.getD o 0, dst := img.getD (o + 1) 0, slots := img.getD (o + 2) 0, partition := BitVec.ofNat 6 p,
    route := (List.range (byteAt img (o + 3) % 64)).map fun h => BitVec.ofNat 2 (leAt img (o + 4) 12 / 4 ^ h) }

/-- Slots of link directions that a circuit holds (07 R160). -/
def Circuit.holds (c : Circuit) : List (Nat × Nat × Nat) :=
  (routeLinks c.src.toNat c.route).flatMap fun l =>
    ((List.range 8).filter fun k => c.slots.getLsbD k).map fun k => (l.1, l.2, k)

/-- The byte of a strait map entry at fault, given the entries before it (07 R160, R162). -/
def circuitFault (img : List Byte) (o : Nat) (c : Circuit) (before : List Circuit) : Option Nat :=
  let hops := c.route.length
  let path := routePath c.src.toNat c.route
  firstSome [
    failAt (before.any fun b => b.src = c.src && b.srcPort = c.srcPort) 0,
    failAt (c.src = c.dst || (before.any fun b => b.dst = c.dst && b.dstPort = c.dstPort)) 1,
    failAt (c.slots = 0 || (before.any fun b => b.holds.any c.holds.contains)) 2,
    failAt (64 ≤ byteAt img (o + 3) || hops = 0 || decide (48 < hops)) 3,
    failAt (leAt img (o + 4) 12 / 4 ^ hops ≠ 0 || decide (1 < routeCrossings c) ||
      (match path with
        | none => true
        | some l => l.getLast? ≠ some c.dst.toNat || decide (¬ (c.src.toNat :: l).Nodup))) 4,
    failAt (leAt img (o + 16) 16 ≠ 0) 16]

/-- A stage from its entry at an offset, unchecked. -/
def stageAt (img : List Byte) (o : Nat) : ImgStage :=
  let at_ (i n : Nat) : Nat := leAt img (o + i) n
  let pOff := at_ 20 4
  { stage := ⟨img.getD o 0, BitVec.ofNat 13 (at_ 2 2), false, false⟩, imemOff := at_ 4 4, bundles := at_ 8 2,
    descOff := at_ 12 4, regsOff := at_ 16 4,
    pre := (List.range (at_ 24 2)).map fun k =>
      (leAt img (pOff + 16 * k) 4, leAt img (pOff + 16 * k + 4) 4, leAt img (pOff + 16 * k + 8) 4) }

/-- Fields of a stage entry itself (07 Table 7.2). -/
def stageEntryFault (img : List Byte) (o total : Nat) (earlier : List Byte) : Option Nat :=
  let at_ (i n : Nat) : Nat := leAt img (o + i) n
  let inside (a n : Nat) : Bool := decide (a + n ≤ total)
  (firstSome [failAt (earlier.contains (img.getD o 0)) 0, failAt (byteAt img (o + 1) ≠ 0) 1,
    failAt (32 ≤ byteAt img (o + 3)) 3, failAt (!inside (at_ 4 4) (32 * at_ 8 2)) 4,
    failAt (at_ 8 2 = 0 || decide (8192 < at_ 8 2)) 8, failAt (at_ 10 2 ≠ 0) 10, failAt (!inside (at_ 12 4) 1664) 12,
    failAt (!inside (at_ 16 4) 384) 16, failAt (!inside (at_ 20 4) (16 * at_ 24 2)) 20,
    failAt (4096 < at_ 24 2) 24, failAt (leAt img (o + 26) 38 ≠ 0) 26]).map (o + ·)

/-- A preload entry (07 R152). -/
def preFault (img : List Byte) (total o : Nat) (e : Nat × Nat × Nat) : Option Nat :=
  (firstSome [failAt (e.1 % 64 ≠ 0 || decide (total < e.1 + e.2.2)) 0, failAt (e.2.1 % 64 ≠ 0) 4,
    failAt (e.2.2 % 64 ≠ 0 || decide (spSize < e.2.1 + e.2.2)) 8, failAt (leAt img (o + 12) 4 ≠ 0) 12]).map (o + ·)

/-- Feed descriptor k of a stage. -/
def ImgStage.fd (g : ImgStage) (img : List Byte) (k : Nat) : FeedDesc :=
  FeedDesc.parse (BitVec.ofNat 128 (leAt img (g.descOff + 128 + 16 * k) 16))

/-- The format descriptor that feed k names, if it is wholly preloaded. -/
def ImgStage.fmt (g : ImgStage) (img : List Byte) (k : Nat) : Option (List Byte) :=
  preBytes img g.pre (g.fd img k).fmtOff 32

/-- Checks of the format descriptor and table that feed k names (02 R43, R47, 05 R108). -/
def ImgStage.feedFault (g : ImgStage) (img : List Byte) (k : Nat) : Option Nat :=
  match g.fmt img k with
  | none => none
  | some bs =>
    let f := g.fd img k
    let i := g.stage.island.toNat
    let d := FmtDesc.parse bs
    match fmtCheck i bs with
    | some o => preSrc g.pre (f.fmtOff + o)
    | none =>
      match fdRoleFault f d with
      | some o => some (g.descOff + 128 + 16 * k + o)
      | none =>
        if d.role ∨ !fmtIsCodebook d.format then none
        else
          let t := offsetIn i d.tableAddr
          match preBytes img g.pre t (tableBytes d) with
          | none => none
          | some tb =>
            let vals := (List.range (tableBytes d / 2)).map fun c => (BitVec.ofNat 16 (leAt tb (2 * c) 2)).toInt
            (codebookFault d vals).bind fun c => preSrc g.pre (t + 2 * c)

/-- The rule of 03 R72 on the activation feed that pass descriptor k names. -/
def ImgStage.passFault (g : ImgStage) (img : List Byte) (k : Nat) : Option Nat :=
  let d := PassDesc.parse (BitVec.ofNat 64 (leAt img (g.descOff + 8 * k) 8))
  match g.fmt img d.afd with
  | none => none
  | some bs =>
    let x := FmtDesc.parse bs
    let bad := (d.mode = 3 && x.format ≠ 0x0B) || (modeCommon d.mode && (!fmtIsRounding x.format || x.sched))
    if bad then preSrc g.pre (g.fd img d.afd).fmtOff else none

/-- All checks of the blocks of a stage, in image order of the entry's fields. -/
def ImgStage.fault (g : ImgStage) (img : List Byte) (total : Nat) (preOff : Nat) (cs : List Circuit) : Option Nat :=
  let src (p : Nat) : Bool := cs.any fun c => c.src = g.stage.island && c.srcPort = p
  let dst (p : Nat) : Bool := cs.any fun c => c.dst = g.stage.island && c.dstPort = p
  let block (o n : Nat) : List Byte := (img.drop o).take n
  let many (k : Nat) : Bool := (DrainDesc.parse (BitVec.ofNat 512 (leAt img (g.descOff + 640 + 64 * k) 64))).toStrait
  firstSome [
    (List.range g.bundles).findSome? fun b =>
      (bundleFault b (block (g.imemOff + 32 * b) 32) src dst many).map (g.imemOff + 32 * b + ·),
    (List.range 16).findSome? fun k => (pdFault (leAt img (g.descOff + 8 * k) 8)).map (g.descOff + 8 * k + ·),
    (List.range 32).findSome? fun k =>
      (fdFault (block (g.descOff + 128 + 16 * k) 16) dst).map (g.descOff + 128 + 16 * k + ·),
    (List.range 16).findSome? fun k =>
      (ddFault (block (g.descOff + 640 + 64 * k) 64) src).map (g.descOff + 640 + 64 * k + ·),
    (regsFault (block g.regsOff 384)).map (g.regsOff + ·),
    g.pre.zipIdx.findSome? fun e => preFault img total (preOff + 16 * e.2) e.1,
    (List.range 32).findSome? (g.feedFault img),
    (List.range 16).findSome? (g.passFault img)]

/-- Uses of channel 3 and of the staging range (05 R105, R110). -/
def ImgStage.claims (g : ImgStage) (img : List Byte) : ImgStage :=
  let i := g.stage.island.toNat
  let ch3 := (List.range g.bundles).any fun b => bundleCh3 ((img.drop (g.imemOff + 32 * b)).take 32)
  let feeds := (List.range 32).any fun k => (intoStaging (g.fd img k).fmtOff 32 ||
    match g.fmt img k with
    | none => false
    | some bs =>
      let d := FmtDesc.parse bs
      (d.scaleSrc && intoStaging (offsetIn i d.scaleAddr) 1) ||
        (fmtIsCodebook d.format && intoStaging (offsetIn i d.tableAddr) (tableBytes d)))
  let drains := (List.range 16).any fun k => [4, 12, 16, 20, 24].any fun o =>
    let a := AddrWord.parse (BitVec.ofNat 32 (leAt img (g.descOff + 640 + 64 * k + o) 4))
    !a.strait && !a.none_ && intoStaging a.off 1
  { g with stage := { g.stage with ch3 := ch3, staging := (g.pre.any fun e => intoStaging e.2.1 e.2.2) || feeds || drains } }

/-- Header fields (07 Table 7.1). -/
def headerFault (img : List Byte) (admitted : Nat → Bool) : Option Nat :=
  let at_ (i n : Nat) : Nat := leAt img i n
  let total := at_ 28 4
  let inside (a n : Nat) : Bool := decide (a + n ≤ total)
  let bOff := at_ 24 4
  firstSome [failAt (at_ 28 4 < 256 || !admitted total) 28,
    failAt (at_ 0 1 ≠ 1) 0, failAt (2 ≤ at_ 1 1) 1, failAt (at_ 2 2 = 0 || decide (256 < at_ 2 2)) 2,
    failAt (at_ 1 1 = 1 && at_ 4 4 ≠ idKey.toNat) 4, failAt (at_ 8 4 = 0) 8, failAt (1024 < at_ 12 2) 12,
    failAt (inside bOff 32 && byteAt img (bOff + at_ 14 1 / 8) / 2 ^ (at_ 14 1 % 8) % 2 = 0) 14,
    failAt (at_ 15 1 ≠ 0) 15, failAt (at_ 16 4 % 64 ≠ 0 || !inside (at_ 16 4) (64 * at_ 2 2)) 16,
    failAt (at_ 20 4 % 32 ≠ 0 || !inside (at_ 20 4) (32 * at_ 12 2)) 20, failAt (!inside bOff 32) 24,
    failAt (leAt img 32 224 ≠ 0) 32]

/-- The image in the bytes from its base on, or its first fault; `admitted n` says that n bytes from the
base lie in the partition's windows. -/
def parseImage (img : List Byte) (p : Nat) (admitted : Nat → Bool) : Except ImgFault Image :=
  match headerFault img admitted with
  | some o => .error (o, noStage)
  | none =>
    let at_ (i n : Nat) : Nat := leAt img i n
    let total := at_ 28 4
    let sOff := at_ 16 4
    let mOff := at_ 20 4
    let bits := leAt img (at_ 24 4) 32
    let n := at_ 2 2
    let cs := (List.range (at_ 12 2)).map fun k => circuitAt img (mOff + 32 * k) p
    let stages := (List.range n).map fun k => stageAt img (sOff + 64 * k)
    let stageBad := (List.range n).findSome? fun k =>
      let o := sOff + 64 * k
      let g := stageAt img o
      let before := (List.range k).map fun j => img.getD (sOff + 64 * j) 0
      (match stageEntryFault img o total before with
        | some e => some e
        | none => g.fault img total (leAt img (o + 20) 4) cs).map fun e => (e, k)
    match stageBad with
    | some e => .error e
    | none =>
      match (List.range cs.length).findSome? fun k =>
          (circuitFault img (mOff + 32 * k) (cs.getD k ⟨0, 0, 0, [], 0⟩) (cs.take k)).map (mOff + 32 * k + ·) with
      | some e => .error (e, noStage)
      | none => .ok
        { pipeId := BitVec.ofNat 32 (at_ 8 4), stepGroup := BitVec.ofNat 8 (at_ 14 1),
          groups := (List.range 256).filter (bitAt bits), stages := stages.map (·.claims img), circuits := cs }

/-! ### Reading an image (14 Table 14.6) -/

/-- How the read and check of an image ends: the image and its bytes, a fault inside it, or the first line that reads
uncorrectable. -/
inductive ImgRead where
  | ok (im : Image) (bytes : List Byte)
  | bad (f : ImgFault)
  | memory (f : ImgFault)
deriving DecidableEq, Repr

/-- The stage whose entry holds an image offset. -/
def stageOf (img : List Byte) (o : Nat) : Nat :=
  let sOff := leAt img 16 4
  if sOff ≤ o ∧ o < sOff + 64 * leAt img 2 2 then (o - sOff) / 64 else noStage

/-- Read the image of partition p at HBM address a and check it. -/
def State.readImage (s : State) (p a : Nat) : ImgRead × State :=
  let (hd, ue, s) := s.sharedRead a 256
  let adm (n : Nat) : Bool := s.admits p a n
  let fail (n : Nat) (img : List Byte) : ImgRead :=
    let l := ((linesOf a n).find? s.mem.uncorrectable).getD a
    .memory (l - a, stageOf img (l - a))
  if ue then (fail 256 hd, s)
  else
    let total := leAt hd 28 4
    if total < 256 ∨ !adm total then
      (match parseImage hd p adm with
        | .error f => .bad f
        | .ok _ => .bad (28, noStage), s)
    else
      let (img, ue, s) := s.sharedRead a total
      if ue then (fail total img, s)
      else
        (match parseImage img p adm with
          | .error f => .bad f
          | .ok im => .ok im img, s)

end Sys2Proof.Machine
end

