-- ==== Sys2Proof/Machine/Command.lean ====
section
/-! DEFINITION. The command interpreter's generic half (14 R306 to R316, 13 R298): fetching a command, the
checks of R308, expert fields, replies, long commands and deferral. -/

namespace Sys2Proof

/-! ### Packets (14 Table 14.1) -/

def Packet.at_ (p : Packet) (off n : Nat) : Nat := Machine.leAt p.body (off - 16) n
def Packet.expert (p : Packet) : Bool := p.flags.getLsbD 0
def Packet.fence (p : Packet) : Bool := p.flags.getLsbD 1
def Packet.part (p : Packet) : Nat := p.partWord.toNat % 64

end Sys2Proof

namespace Sys2Proof.Machine

/-! ### Opcodes (14 Tables 14.4 to 14.12) -/

/-- A parameter field: place, width in bytes, mask, bits below it, range, divisor, and whether it is a †
field with its factory default (`none`: taken from the object). -/
structure OpField where
  off    : Nat
  size   : Nat
  mask   : Nat
  shift  : Nat
  lo     : Nat
  hi     : Nat
  align  : Nat
  expert : Bool
  dflt   : Option Nat
deriving DecidableEq, Repr

/-- A whole field of n bytes with a range. -/
def fld (off n lo hi : Nat) : OpField := ⟨off, n, 256 ^ n - 1, 0, lo, hi, 1, false, none⟩
/-- A whole field of n bytes. -/
def anyF (off n : Nat) : OpField := fld off n 0 (256 ^ n - 1)
/-- Bits of a field. -/
def bitsF (off n lo w : Nat) : OpField := ⟨off, n, (2 ^ w - 1) * 2 ^ lo, lo, 0, 2 ^ w - 1, 1, false, none⟩
/-- A device address. -/
def devF (off align : Nat) : OpField := ⟨off, 8, 2 ^ 48 - 1, 0, 0, 2 ^ 48 - 1, align, false, none⟩
/-- A host address. -/
def hostF (off align : Nat) : OpField := ⟨off, 8, 2 ^ 64 - 1, 0, 0, 2 ^ 64 - 1, align, false, none⟩
def expF (f : OpField) (d : Option Nat) : OpField := { f with expert := true, dflt := d }

/-- An opcode: length in slots, whether it is marked P0, default timeout in ms, parameters. -/
structure OpSpec where
  len     : Nat
  p0      : Bool
  timeout : Nat
  fields  : List OpField
deriving DecidableEq, Repr

def lowSpec (op : Nat) : Option OpSpec :=
  match op with
  | 0x0101 => some ⟨1, false, 10, [hostF 16 64]⟩
  | 0x0102 => some ⟨1, true, 100, [bitsF 16 2 0 12]⟩
  | 0x0103 => some ⟨1, false, 10, []⟩
  | 0x0104 => some ⟨1, true, 100, [anyF 16 2, anyF 18 2, anyF 24 8]⟩
  | 0x0105 => some ⟨1, true, 100, [fld 16 1 0 1]⟩
  | 0x0106 => some ⟨1, true, 1000, []⟩
  | 0x0107 => some ⟨1, true, 100, [bitsF 16 1 0 1]⟩
  | 0x0201 => some ⟨1, true, 10, [fld 16 1 1 63]⟩
  | 0x0202 => some ⟨1, true, 100, [fld 16 1 1 63]⟩
  | 0x0203 => some ⟨2, true, 100, [fld 16 1 0 63, fld 17 1 0 15, { bitsF 18 1 0 2 with hi := 2 }, bitsF 18 1 2 1,
      devF 24 0x200000, { hostF 32 0x200000 with lo := 1 }]⟩
  | 0x0204 => some ⟨1, true, 100, [fld 16 1 0 63, fld 17 1 0 15]⟩
  | 0x0205 => some ⟨1, false, 10, []⟩
  | 0x0301 => some ⟨1, false, 5000, [devF 24 4096]⟩
  | 0x0302 => some ⟨1, false, 10, []⟩
  | 0x0303 => some ⟨1, false, 1000, []⟩
  | 0x0304 => some ⟨1, false, 60000, [expF (anyF 16 1) none]⟩
  | 0x0305 => some ⟨1, false, 60000, [anyF 16 4]⟩
  | 0x0306 => some ⟨1, false, 60000, [expF (anyF 16 1) none]⟩
  | 0x0307 => some ⟨1, false, 100, []⟩
  | 0x0308 => some ⟨1, false, 10, [hostF 16 64]⟩
  | 0x0309 => some ⟨2, false, 10, [fld 16 1 0 16, hostF 24 4096, hostF 32 64, hostF 40 64]⟩
  | _ => none

def fabricSpec (op : Nat) : Option OpSpec :=
  match op with
  | 0x0401 => some ⟨2, true, 100, [fld 16 1 0 1, fld 17 1 0 6, anyF 20 4, devF 24 1, fld 32 4 1 0xFFFFFFFF]⟩
  | 0x0402 => some ⟨1, true, 100, [fld 16 1 0 1]⟩
  | 0x0403 => some ⟨1, true, 60000, [anyF 16 1, anyF 20 4]⟩
  | 0x0404 => some ⟨1, true, 10, [fld 16 1 0 1, bitsF 18 2 0 12, bitsF 18 2 15 1]⟩
  | 0x0405 => some ⟨1, true, 10, [hostF 16 1]⟩
  | 0x0406 => some ⟨1, true, 100, [fld 16 1 0 31, bitsF 17 1 0 1, bitsF 17 1 1 1, bitsF 17 1 2 1, expF (anyF 20 4) (some 4096)]⟩
  | 0x0407 => some ⟨1, true, 2000, [fld 16 1 0 1]⟩
  | 0x0408 => some ⟨1, true, 10, [fld 16 2 50 5000]⟩
  | 0x0409 => some ⟨1, true, 100, [bitsF 16 2 0 12, bitsF 16 2 15 1, bitsF 18 1 0 1, { bitsF 18 1 1 2 with hi := 2 }, anyF 20 2]⟩
  | 0x040A => some ⟨2, true, 100, [anyF 16 1, fld 17 1 0 63, anyF 18 2, expF (fld 20 2 25 25000) (some 250), bitsF 22 1 0 1, devF 24 1]⟩
  | 0x040B => some ⟨1, true, 10, [anyF 16 1]⟩
  | 0x0501 => some ⟨1, true, 100, [bitsF 16 1 0 1]⟩
  | 0x0502 => some ⟨1, false, 100, [fld 16 2 1 4096, devF 24 1]⟩
  | 0x0503 => some ⟨2, true, 100, [fld 16 1 0 63, bitsF 17 1 0 1, anyF 18 2, anyF 24 16]⟩
  | 0x0504 => some ⟨1, false, 60000, [anyF 16 4]⟩
  | 0x0505 => some ⟨1, false, 600000, [fld 16 1 0 2, hostF 24 1]⟩
  | 0x0506 => some ⟨1, false, 600000, [fld 16 1 0 1]⟩
  | 0x0507 => some ⟨1, false, 10, [hostF 16 1]⟩
  | _ => none

def highSpec (op : Nat) : Option OpSpec :=
  match op with
  | 0x0601 => some ⟨1, false, 10, []⟩
  | 0x0602 => some ⟨1, true, 10, [fld 16 2 0 2200]⟩
  | 0x0603 => some ⟨1, true, 10, [fld 16 1 0 4]⟩
  | 0x0604 => some ⟨1, true, 100, [bitsF 16 1 0 1]⟩
  | 0x0605 => some ⟨1, false, 10, []⟩
  | 0x0606 => some ⟨1, true, 10, [fld 16 1 0 1]⟩
  | 0x0607 => some ⟨1, true, 10, [fld 16 1 0 1]⟩
  | 0x0701 => some ⟨1, true, 60000, [expF (fld 16 1 0 1) none, fld 20 4 0 0x6000000, devF 24 1]⟩
  | 0x0702 => some ⟨1, true, 120000, [bitsF 16 1 0 1]⟩
  | 0x0703 => some ⟨1, true, 120000, [bitsF 16 1 0 1]⟩
  | 0x0704 => some ⟨1, true, 10, []⟩
  | 0x0801 => some ⟨1, true, 10, [bitsF 16 1 0 1]⟩
  | 0x0802 => some ⟨2, true, 10, [fld 16 1 0 31, fld 17 1 0 6, anyF 24 8, anyF 32 8, anyF 40 8]⟩
  | 0x0803 => some ⟨1, true, 10, [anyF 16 16]⟩
  | 0x0804 => some ⟨1, true, 10, []⟩
  | 0x0805 => some ⟨1, true, 100, [hostF 16 1, anyF 24 4, fld 28 4 1 4096]⟩
  | 0x0901 => some ⟨1, false, 10, [anyF 16 2]⟩
  | 0x0902 => some ⟨1, true, 10, [hostF 16 1]⟩
  | _ => none

/-- The parameters of an opcode; `none` where it is undefined. -/
def opSpec (op : Nat) : Option OpSpec :=
  if op < 0x0400 then lowSpec op else if op < 0x0600 then fabricSpec op else highSpec op


def OpField.raw (f : OpField) (p : Packet) : Nat := (p.at_ f.off f.size &&& f.mask) >>> f.shift

/-- The value lies in the field's range. -/
def OpField.fits (f : OpField) (v : Nat) : Bool := f.lo ≤ v && v ≤ f.hi && v % f.align = 0

/-- The value of a † field: as written in expert form, else the stored default, else the factory one
(14 R311). -/
def State.expertVal (s : State) (p : Packet) (op off n : Nat) (factory : Nat) : Nat :=
  if p.expert then p.at_ off n
  else match s.cmds.defaults.find? fun d => d.1.toNat = op && d.2.1 = off with
    | some d => d.2.2.toNat
    | none => factory

/-! ### Checks (14 R308, R307, R311) -/

/-- Bits of body byte j that some field covers. -/
def OpSpec.cover (o : OpSpec) (j : Nat) : Nat :=
  o.fields.foldl (fun m f => if f.off ≤ j ∧ j < f.off + f.size then m ||| (f.mask / 256 ^ (j - f.off) % 256) else m) 0

/-- The first byte of the reserved field that holds byte j: a reserved byte before it, with no field between, is part of it. -/
def OpSpec.fieldStart (o : OpSpec) : Nat → Nat
  | 0 => 0
  | j + 1 => if 16 ≤ j ∧ o.cover (j + 1) = 0 ∧ o.cover j = 0 then o.fieldStart j else j + 1

/-- Byte offsets of the fields at fault in step 6 by themselves: reserved bits of the word at 8 among them, which no step
of R308 names (log 45). -/
def OpSpec.faults (o : OpSpec) (p : Packet) : List Nat :=
  (if 64 ≤ p.partWord.toNat then [8] else []) ++ (if 3600000 < p.timeout.toNat then [12] else []) ++
    (o.fields.filter fun f => if f.expert && !p.expert then f.raw p ≠ 0 else !f.fits (f.raw p)).map (·.off) ++
    (((List.range (32 * o.len - 16)).map (16 + ·)).filter fun j => p.at_ j 1 &&& (255 - o.cover j) ≠ 0).map o.fieldStart

/-- The failure at the lowest byte offset. -/
def lowestFault (l : List (Nat × Half × Half)) : Option (Half × Half) :=
  (l.foldl (fun (b : Option (Nat × Half × Half)) e =>
    match b with
    | none => some e
    | some x => if e.1 < x.1 then some e else some x) none).map (·.2)

/-- Steps 1 to 6 of R308; `extra` are the parameters' further checks, by byte offset. -/
def State.checkCmd (s : State) (p : Packet) (o : OpSpec) (extra : List (Nat × Half × Half)) : Option (Half × Half) :=
  let ring := (s.getCr p.ring.toNat).partition
  if p.version ≠ 1 then some (sBadParam, 3)
  else if 8 ≤ p.flags.toNat then some (sBadParam, 2)
  else if p.length.toNat ≠ o.len then some (sBadLength, BitVec.ofNat 16 o.len)
  else if !(s.getPart p.part).exists_ || (ring ≠ 0 && p.part ≠ ring) then some (sBadPartition, 0)
  else if o.p0 && (ring ≠ 0 || p.part ≠ 0) then some (sNotPermitted, 0)
  else lowestFault ((o.faults p).map (fun k => (k, sBadParam, BitVec.ofNat 16 k)) ++ extra)

/-! ### Replies and long commands (14 R309, R310, R312 to R314, R316) -/

/-- Status, detail and results of a record. -/
structure Rep where
  status : Half
  detail : Half
  r0     : Word
  r1     : Word
  r2     : Word
deriving DecidableEq, Repr

def rep (st detail : Half) : Rep := ⟨st, detail, 0, 0, 0⟩
def okRep : Rep := rep sOk 0

/-- How a command that passed steps 1 to 6 goes on: its effect and then its reply, its reply and then its effect, or
its reply and then what a long command begins. -/
inductive Run where
  | reply (r : Rep) (s : State)
  | first (r : Rep) (s : State) (f : State → State)
  | long (r : Rep) (c : LongCmd) (begin_ : State → State)

def State.refuse (s : State) (st detail : Half) : Run := .reply (rep st detail) s
def State.wrong (s : State) (detail : Nat) : Run := s.refuse sWrongState (BitVec.ofNat 16 detail)

/-- The deadline of a command fetched at a tick (14 R312). -/
def deadline (p : Packet) (o : OpSpec) (fetched : Nat) : Nat :=
  fetched + 25000 * (if p.timeout = 0 then o.timeout else p.timeout.toNat)

/-- The limits of R313: the detail of a refusal. -/
def State.fullFor (s : State) (part : Nat) : Option Half :=
  if 256 ≤ s.cmds.long.length then some 0
  else if part ≠ 0 ∧ 32 ≤ (s.cmds.long.filter fun c => c.part.toNat = part).length then some 1
  else none

/-- Begin to leave DEEP_IDLE (14 R314). -/
def State.leaveIdle (s : State) : State :=
  if s.pwr.deepIdle && s.pwr.leaving.isNone then s.modPwr fun p => { p with leaving := some s.clk.now } else s

/-- Commands that an activation refuses while `ST_STATE` is UPDATING (15 R347). -/
def stillOps : List Half := [0x0303, 0x0402, 0x0403, 0x0504, 0x0505, 0x0506]

/-- Accept a long command: DEFERRED with detail 1 while it needs the data plane in DEEP_IDLE. -/
def State.startLong (s : State) (p : Packet) (op : Half) (fetched : Nat) (plane : Bool) (begin_ : State → State) : Run :=
  if s.host.dev = 2 ∧ stillOps.contains op then s.wrong 0x0702
  else match opSpec op.toNat, s.fullFor p.part with
  | none, _ => s.refuse sBadOpcode 0
  | some _, some d => s.refuse sNoResource d
  | some o, none =>
    let c : LongCmd := ⟨p, op, BitVec.ofNat 6 p.part, .accepted, deadline p o fetched, fetched, (s.getCr p.ring.toNat).cq⟩
    if plane && s.pwr.deepIdle then .long (rep sDeferred 1) { c with st := .deferred } State.leaveIdle
    else .long (rep sAccepted 0) c begin_

/-- A long command in progress on an object refuses a changing one with its opcode (14 R316). -/
def State.busy (s : State) (p : LongCmd → Bool) : Option Half := (s.cmds.long.find? p).map (·.opcode)

/-- The pipeline's long commands. -/
def onPipe (part : Nat) (c : LongCmd) : Bool :=
  c.part.toNat = part && [opLoad, opBind, opStart, opPause, opResume, opDrain].contains c.opcode

/-- Refuse where `b` names the opcode of a command in progress; else go on. -/
def State.unlessBusy (s : State) (b : Option Half) (f : Unit → Run) : Run :=
  match b with
  | some op => s.refuse sWrongState op
  | none => f ()

/-! ### Fetching (13 R298, R299, 14 R315) -/

/-- The command interpreter runs and accepts commands (15 R339). -/
def State.serving (s : State) : Bool :=
  s.clk.lit && !s.fw.recovery && !s.pwr.tripped && !s.pins.latched && match s.fw.starting with
    | some x => decide (7 < x.step)
    | none => true

/-- A ring becomes BROKEN: event 0x0009 (13 R298, R305). -/
def State.breakRing (s : State) (r : Nat) (reason : Byte) : State :=
  ((s.setCr r { s.getCr r with st := .broken, reason := reason }).modHost fun h =>
    { h with cached := h.cached.erase (false, BitVec.ofNat 4 r) }).event 0x0009 sOk (BitVec.ofNat 16 r)
    (reason.zeroExtend 32) 0 0

/-- A command of the ring waits under `FENCE_BEFORE`. -/
def State.fenceOn (s : State) (r : Nat) : Bool := s.cmds.fenced.any fun f => f.pkt.ring.toNat = r

/-- Write CI where it is due, and end a STOPPING ring whose commands are all taken and started. -/
def State.settleRing (s : State) (r : Nat) : State :=
  let c := s.getCr r
  if c.ci = c.piRead ∨ 32 ≤ c.fetched then
    (s.setCr r { c with fetched := 0, st := if c.st = .stopping ∧ c.ci = c.piRead ∧ ¬ s.fenceOn r then .disabled else c.st }).out
      (.index c.ciAddr c.ci)
  else s

/-- Settle a STOPPING ring. -/
def State.settleStop (s : State) (r : Nat) : State := if (s.getCr r).st = .stopping then s.settleRing r else s

/-- CI moves past a command of n slots, unless a start has disabled the ring. -/
def State.advanceCi (s : State) (r n : Nat) : State :=
  if !(s.getCr r).active then s
  else (s.setCr r { s.getCr r with ci := (s.getCr r).ci + BitVec.ofNat 32 n, fetched := (s.getCr r).fetched + 1 }).settleRing r

/-- Earlier commands of a ring that still owe their final record. -/
def State.owing (s : State) (r : Nat) : Bool := s.cmds.long.any fun c => c.ring = r

/-- The completion ring of a command ring has room. -/
def State.cqRoom (s : State) (r : Nat) : Bool :=
  let q := s.getQr (s.getCr r).cq
  !q.full && q.held.isEmpty

/-- The lines of n slots of a ring are read with RdCurr (13 R298). -/
def State.readSlots (s : State) (r n : Nat) : State :=
  let c := s.getCr r
  let line (k : Nat) : Dword := (c.base + BitVec.ofNat 64 (32 * ((c.ci.toNat + k) % c.slots))) &&& ~~~(0x3F : Dword)
  (((List.range n).map line).dedup).foldl (fun s a => s.out (.cacheRead a false)) s

/-- The interpreter takes a command up; `start` gets the tick of its fetch. A command under
`FENCE_BEFORE` waits, and is presented again when it starts (log 45). -/
def State.fetch (s : State) (p : Packet) (op : Half) (start : Nat → State → State) : State :=
  let r := p.ring.toNat
  let c := s.getCr r
  if !c.active || !s.serving || !s.cqRoom r then s
  else
    match s.cmds.fenced.find? (·.pkt.ring = p.ring) with
    | some f =>
      if f.pkt = p ∧ f.opcode = op ∧ ¬ s.owing r then
        (start f.fetched { s with cmds := { s.cmds with fenced := s.cmds.fenced.erase f } }).settleStop r
      else s
    | none =>
      let n := p.length.toNat
      let left := (c.piRead - c.ci).toNat
      if left = 0 then s
      else
      let s := s.readSlots r (min left (max 1 n))
      if p.poison then s.breakRing r 0x12
      else if n = 0 ∨ c.slots < n then
        (s.record p op 0 sBadLength (BitVec.ofNat 16 (((opSpec op.toNat).map (·.len)).getD 0)) 0 0 0).breakRing r 0x11
      else if left < n then
        (if c.st = .stopping then (s.setCr r { c with st := .disabled }).out (.index c.ciAddr c.ci) else s)
      else
        let s := s.modHost fun h => { h with lastServed := p.ring }
        if p.fence && s.owing r then
          ({ s with cmds := { s.cmds with fenced := s.cmds.fenced ++ [⟨p, op, s.clk.now⟩] } } : State).advanceCi r n
        else (start s.clk.now s).advanceCi r n

/-- A command of a defined opcode: fetched, checked, run, answered. -/
def State.command (s : State) (p : Packet) (op : Half) (extra : State → List (Nat × Half × Half))
    (body : Nat → State → Run) : State :=
  match opSpec op.toNat with
  | none => s
  | some o =>
    s.fetch p op fun at_ s =>
      match s.checkCmd p o (extra s) with
      | some (st, d) => s.record p op 0 st d 0 0 0
      | none =>
        match body at_ s with
        | .reply r s => s.record p op 0 r.status r.detail r.r0 r.r1 r.r2
        | .first r s f => f (s.record p op 0 r.status r.detail r.r0 r.r1 r.r2)
        | .long r c begin_ =>
          begin_ (({ s with cmds := { s.cmds with long := s.cmds.long ++ [c] } } : State).record
            p op 0 r.status r.detail r.r0 r.r1 r.r2)

/-- A command without further parameter checks that replies at once. -/
def State.simple (s : State) (p : Packet) (op : Half) (body : State → Rep × State) : State :=
  s.command p op (fun _ => []) fun _ s => let (r, s) := body s; .reply r s

/-- `UNDEFINED_OPCODE` (14 R308, step 2). -/
def execUndefinedOpcode (opcode : Half) (c : Packet) (s : State) : Out :=
  .next (
    if (opSpec opcode.toNat).isSome then s
    else s.fetch c opcode fun _ s =>
      if c.version ≠ 1 then s.record c opcode 0 sBadParam 3 0 0 0
      else if 8 ≤ c.flags.toNat then s.record c opcode 0 sBadParam 2 0 0 0
      else s.record c opcode 0 sBadOpcode 0 0 0 0)

/-! ### Timeouts (14 R312, Table 14.3) -/

/-- A barrier group's release is fixed and has not passed. -/
def State.relFixed (s : State) (g : Nat) (f : Pending → Bool) : Bool :=
  match (s.getBar g).pending with
  | some p => f p
  | none => false

def opCommit : Half := 0x0402
def opRestore : Half := 0x0505
def opFwStage : Half := 0x0701
def opFwActivate : Half := 0x0702
def opFwRollback : Half := 0x0703

/-- The command has passed its commit point. -/
def State.committed (s : State) (c : LongCmd) : Bool :=
  let q := s.getPart c.part.toNat
  let g := q.stepGroup.toNat
  if c.opcode = opFwActivate ∨ c.opcode = opFwRollback then
    match s.fw.act with
    | some a => match a.phase with
      | .hand _ | .calm => true
      | _ => false
    | none => false
  else if c.st = .deferred then false
  else if c.opcode = opStart ∨ c.opcode = opResume then q.startT.isSome
  else if c.opcode = opPause then s.relFixed g (·.pause)
  else if c.opcode = opFlipArm then s.fab.flipAt.isSome
  else if c.opcode = opCut then s.snap.armed.isNone || s.relFixed g (·.cut)
  else !(c.opcode = opLoad || c.opcode = opBind || c.opcode = opCommit || c.opcode = opFwStage)

/-- What a withdrawn command takes back. -/
def State.withdraw (s : State) (c : LongCmd) : State :=
  let p := c.part.toNat
  if c.opcode = opFwActivate ∨ c.opcode = opFwRollback then
    (s.modFw fun f => { f with act := none }).modHost fun h => { h with dev := if h.dev = 2 then 1 else h.dev }
  else if c.st = .deferred then s
  else if c.opcode = opStart ∨ c.opcode = opResume then
    s.modPart p fun q => { q with starting := false, startGrp := none, startT := none }
  else if c.opcode = opPause then
    s.modPart p fun q => { q with pipe := if q.pipe = .pauseArmed then .running else q.pipe, pauseAt := none }
  else if c.opcode = opFlipArm then s.modFab fun f => { f with armed := none }
  else if c.opcode = opCut then s.modSnap fun x => { x with armed := none }
  else if c.opcode = opBind then s.release fun h => h = holderId featPipe p
  else s

/-- `COMMAND_TIMEOUT`: a command's time limit has passed before its commit point; a fenced one never starts. -/
def execCommandTimeout (ring : BitVec 4) (tag : Word) (s : State) : Out :=
  .next (
    match s.cmds.fenced.find? fun f => f.pkt.ring = ring && f.pkt.tag = tag with
    | some f =>
      match opSpec f.opcode.toNat with
      | none => s
      | some o =>
        if deadline f.pkt o f.fetched ≤ s.clk.now then
          ({ s with cmds := { s.cmds with fenced := s.cmds.fenced.erase f } } : State).record f.pkt f.opcode 0 sTimeout 0 0 0 0 |>.settleStop ring.toNat
        else s
    | none =>
      match s.cmds.long.find? fun c => c.pkt.ring = ring && c.pkt.tag = tag && decide (c.deadline ≤ s.clk.now) && !s.committed c with
      | some c => (s.withdraw c).complete c sTimeout 0 0 0 0
      | none => s)

end Sys2Proof.Machine
end

