-- ==== Sys2Proof/Machine/HostIf.lean ====
section
/-! DEFINITION. The host interface (13 R283 to R305): its resets, the BAR, the rings, notices of new indices,
and HBM as the host sees it. -/

namespace Sys2Proof.Machine

/-- A change of retained settings is written to flash (15 R333). -/
def State.saveSettings (s : State) : State := s.modFw fun f => { f with settingsCount := f.settingsCount + 1 }

/-- The host has used the link: it is in L0 (log 47). -/
def State.linkWoken (s : State) : State :=
  (s.modHost fun h => { h with linkL1 := false }).modPins fun p => { p with wake := false }

/-- A BAR write that is discarded (13 R288). -/
def State.barDiscarded (s : State) : State := s.modHost fun h => { h with barDiscard := satAdd 32 h.barDiscard 1 }

/-! ### Resets (13 R286, R287) -/

/-- Completions that were held for a full ring fall due with the ring disabled. -/
def State.dropHeld (s : State) (r : Nat) : State :=
  ((s.getQr r).held.foldl (fun s x => s.logFault .completionLost srcInterp 0 x.tag) s).setQr r { s.getQr r with held := [] }

/-- Every ring is disabled; a command that waits under `FENCE_BEFORE` is lost with its ring (log 46). -/
def State.dropRings (s : State) : State :=
  let s := (List.range 16).foldl State.dropHeld s
  let s := s.cmds.fenced.foldl (fun s f => s.logFault .completionLost srcInterp 0 f.pkt.tag) s
  ({ s with cmds := { s.cmds with fenced := [] } } : State).modHost fun h => { h with cmd := [], comp := [] }

/-- PERST_N, a hot reset, a CXL reset or a loss of link. -/
def State.hostReset (s : State) : State :=
  s.dropRings.modHost fun h =>
    { HostIf.reset with dev := h.dev, stCtrl := h.stCtrl, directory := h.directory, lastServed := h.lastServed,
                        polled := h.polled, log := h.log }

/-- `PERST_ASSERT`. -/
def execPerstAssert (cause : HostReset) (s : State) : Out :=
  .next (
    let s := s.hostReset
    if cause = .perst then s.modPins fun p => { p with perst := true, perstAt := s.clk.now, perstLogged := false } else s)

/-- `REFCLK_LOSS` (19 Table 19.4): a loss of link. -/
def execRefclkLoss (s : State) : Out := .next (s.hostReset.modPins fun p => { p with refclk := false })

/-- Memory_Active follows `MEM_VALID` while the link is up and carries back-invalidation (13 R284, R287). -/
def State.activateMem (s : State) : State :=
  if s.host.linkUp && s.host.biPath && s.mem.valid && !s.host.memActive then
    (s.backInvAll s.host.directory).modHost fun h => { h with memActive := true }
  else s

/-- `MEM_VALID` is cleared: Memory_Active goes with it. -/
def State.memInvalid (s : State) : State :=
  (s.modMem fun m => { m with valid := false }).modHost fun h => { h with memActive := false }

/-- `CXL_LINK_UP`: the link has trained to a width and rate of Table 13.1; PERST_N is released and REFCLK valid. Memory_Active
is set anew. -/
def execCxlLinkUp (l : Link) (s : State) : Out :=
  .next ((s.modHost fun h => { h with linkUp := true, link := some (l.width, l.rate), biPath := l.biPath, linkL1 := false, memActive := false }).modPins
    (fun p => { p with perst := false, refclk := true, wake := false })).activateMem

/-! ### Rings (13 R292 to R295) -/

/-- An index line lies in a ring's slots, or both lines are one. -/
def linesClash (base pi ci : Dword) (slots : Nat) : Bool :=
  pi = ci || [pi, ci].any fun a => base.toNat ≤ a.toNat && decide (a.toNat < base.toNat + 32 * slots)

/-- The interpreter reads an index line and keeps it Shared (13 R297). -/
def State.holdLine (s : State) (comp : Bool) (r : Nat) (a : Dword) : State :=
  (s.out (.cacheRead a true)).modHost fun h => { h with cached := h.cached.insert (comp, BitVec.ofNat 4 r) }

/-- The line leaves the cache with its ring. -/
def State.dropLine (s : State) (comp : Bool) (r : Nat) : State :=
  s.modHost fun h => { h with cached := h.cached.erase (comp, BitVec.ofNat 4 r) }

/-- The device is READY (13 Table 13.4). -/
def State.ready (s : State) : Bool := s.host.dev = 1

/-- First failure of an enabling of command ring r by a write of v (13 Table 13.7); 0 is none. -/
def State.crReason (s : State) (r : Nat) (v : Dword) : Byte :=
  let c := { s.getCr r with ctrl := v }
  let log2 := (v.extractLsb' 8 5).toNat
  if log2 < 6 ∨ 16 < log2 ∨ v &&& ~~~0x0F3F1F01 ≠ 0 then 1
  else if linesClash c.base c.piAddr c.ciAddr c.slots then 2
  else if (r = 0 ∧ (c.partition ≠ 0 ∨ c.cq ≠ 0)) ∨ (s.getQr c.cq).st ≠ .enabled then 3
  else if !s.ready then 4 else 0

/-- `COMMAND_RING_ENABLE`. -/
def execCommandRingEnable (ring : BitVec 4) (v : Dword) (s : State) : Out :=
  .next (
    let r := ring.toNat
    let s := s.linkWoken
    let c := s.getCr r
    if !v.getLsbD 0 then s
    else if c.st ≠ .disabled then s.barDiscarded
    else
      let why := s.crReason r v
      let c := { c with ctrl := v &&& 0x0F3F1F01, reason := why }
      if why ≠ 0 then s.setCr r c else (s.setCr r { c with st := .enabled, ci := 0, piRead := 0, fetched := 0 }).holdLine false r c.piAddr)

/-- `COMMAND_RING_DISABLE`. A DISABLED ring takes the fields; a BROKEN one stops at once. -/
def execCommandRingDisable (ring : BitVec 4) (v : Dword) (s : State) : Out :=
  .next (
    let r := ring.toNat
    let s := s.linkWoken
    let c := s.getCr r
    if v.getLsbD 0 then s
    else match c.st with
      | .disabled => s.setCr r { c with ctrl := v &&& 0x0F3F1F01 }
      | .broken => ((s.setCr r { c with st := .disabled, ctrl := c.ctrl &&& ~~~1 }).dropLine false r).out (.index c.ciAddr c.ci)
      | .enabled => ((s.setCr r { c with st := .stopping, ctrl := c.ctrl &&& ~~~1 }).dropLine false r).settleRing r
      | .stopping => s.barDiscarded)

def State.qrReason (s : State) (r : Nat) (v : Dword) : Byte :=
  let q := { s.getQr r with ctrl := v }
  let log2 := (v.extractLsb' 8 5).toNat
  if log2 < 6 ∨ 16 < log2 ∨ v &&& ~~~0xFFFFFFFF1F03 ≠ 0 then 1
  else if linesClash q.base q.piAddr q.ciAddr q.slots then 2
  else if !s.ready then 4 else 0

/-- `COMPLETION_RING_ENABLE`. -/
def execCompletionRingEnable (ring : BitVec 4) (v : Dword) (s : State) : Out :=
  .next (
    let r := ring.toNat
    let s := s.linkWoken
    let q := s.getQr r
    if !v.getLsbD 0 then s
    else if q.st ≠ .disabled then s.barDiscarded
    else
      let why := s.qrReason r v
      let q := { q with ctrl := v &&& 0xFFFFFFFF1F03, reason := why }
      if why ≠ 0 then s.setQr r q
      else (s.setQr r { q with st := .enabled, pi := 0, ciRead := 0, held := [], unsig := 0 }).holdLine true r q.ciAddr)

/-- A completion ring is still named by a running command ring, or owed a completion, one held for room among them
(13 R295). -/
def State.cqInUse (s : State) (r : Nat) : Bool :=
  ((List.range 16).any fun k => (s.getCr k).active && (s.getCr k).cq = r) ||
    (s.cmds.long.any fun c => c.cq = r) || (s.getQr r).held.any fun x => x.kind = 1

/-- `COMPLETION_RING_DISABLE`: refused while in use, the ring then BUSY until the next tick (log 46). -/
def execCompletionRingDisable (ring : BitVec 4) (v : Dword) (s : State) : Out :=
  .next (
    let r := ring.toNat
    let s := s.linkWoken
    let q := s.getQr r
    if v.getLsbD 0 then s
    else if q.st = .disabled then s.setQr r { q with ctrl := v &&& 0xFFFFFFFF1F03 }
    else if s.cqInUse r then s.barDiscarded.setQr r { q with st := .busy }
    else
      let s := s.dropHeld r
      (s.setQr r { s.getQr r with st := .disabled, ctrl := q.ctrl &&& ~~~1 }).dropLine true r)

/-- Refused disables have been discarded: BUSY rings are ENABLED again. -/
def State.ringsSettled (s : State) : State :=
  if s.host.comp.any fun q => q.2.st = .busy then
    s.modHost fun h => { h with comp := h.comp.map fun q => (q.1, if q.2.st = .busy then { q.2 with st := .enabled } else q.2) }
  else s

/-! ### Notices (13 R297, R298) -/

/-- An index as it was read; `poll` says how it was found. -/
def State.noticed (s : State) (poll : Bool) (x : IndexRead) : State :=
  let r := x.ring.toNat
  let wake (s : State) : State := s.modHost fun h =>
    if poll then { h with wakesPoll := satAdd 32 h.wakesPoll 1 } else { h with wakesInv := satAdd 32 h.wakesInv 1 }
  if !s.serving then s
  else if x.completion then
    let q := s.getQr r
    if !q.live ∨ q.ciRead = x.value then s
    else (wake (s.setQr r { q with ciRead := x.value })).postHeld r (q.held.length + 1)
  else
    let c := s.getCr r
    if c.st ≠ .enabled ∨ c.piRead = x.value then s
    else
      let s := wake s
      if c.slots < (x.value - c.ci).toNat then s.breakRing r 0x10 else s.setCr r { c with piRead := x.value }

/-- Address of the index line that the device reads. -/
def State.indexAddr (s : State) (comp : Bool) (r : Nat) : Dword := if comp then (s.getQr r).ciAddr else (s.getCr r).piAddr

/-- `INDEX_LINE_INVALIDATION`: the device's copy goes; the interpreter reads the line again with RdShared. One that comes while
that read is outstanding is a second command, and makes a second read (13 R297). -/
def execIndexLineInvalidation (r : IndexRead) (s : State) : Out :=
  .next (
    let s := s.linkWoken
    if !s.host.cached.contains (r.completion, r.ring) then s
    else ((s.dropLine r.completion r.ring.toNat).holdLine r.completion r.ring.toNat (s.indexAddr r.completion r.ring.toNat)).noticed false r)

/-- Ticks of 50 µs. -/
def pollTicks : Nat := 1250

/-- `INDEX_POLL`: 50 µs after the last one, RdCurr of the index lines of every enabled ring; `rs` holds what they read. -/
def execIndexPoll (rs : List IndexRead) (s : State) : Out :=
  .next (
    let missing (x : Bool × BitVec 4) : Bool := !rs.any fun r => (r.completion, r.ring) = x
    if s.clk.now < s.host.polled + pollTicks ∨ s.host.cached.any missing then s
    else
      let s := s.modHost fun h => { h with polled := s.clk.now }
      rs.foldl (fun s r =>
        if s.host.cached.contains (r.completion, r.ring) then
          (s.out (.cacheRead (s.indexAddr r.completion r.ring.toNat) false)).noticed true r
        else s) s)

/-- `COMPLETION_COALESCE_TIMEOUT` (13 R299): `COAL_TIME` µs since the first record not yet signalled. -/
def execCompletionCoalesceTimeout (ring : BitVec 4) (s : State) : Out :=
  .next (
    let q := s.getQr ring.toNat
    if q.live && q.ctrl.getLsbD 1 && decide (0 < q.unsig) &&
        decide (q.since + 25 * (q.ctrl.extractLsb' 32 16).toNat ≤ s.clk.now) then
      (s.setQr ring.toNat { q with unsig := 0 }).raiseMsix ring.toNat
    else s)

/-! ### HBM seen from the host (13 R301 to R304) -/

/-- The device line that a host physical address names, if the decoder holds it. -/
def State.hdmLine (s : State) (hpa : Dword) : Option Nat :=
  if s.host.hdmBase ≤ hpa ∧ (hpa - s.host.hdmBase).toNat < hbmSize then some (lineOf (hpa - s.host.hdmBase).toNat) else none

/-- A refused access is counted. -/
def State.hostRefused (s : State) : State := s.modHost fun h => { h with refused := satAdd 32 h.refused 1 }

def directorySize : Nat := 1048576

/-- Record that the host may hold a line; a full directory gives up the line granted longest ago. -/
def State.grant (s : State) (line : Nat) : State :=
  if s.host.directory.contains line then s
  else
    let s := if s.host.directory.length < directorySize then s
      else match s.host.directory with
        | l :: _ => s.backInv l
        | [] => s
    s.modHost fun h => { h with directory := h.directory ++ [line] }

def zeroLine : List Byte := List.replicate 64 0

/-- `CXL_MEM_READ`. -/
def execCxlMemRead (hpa : Dword) (cacheable : Bool) (s : State) : Out :=
  .next (
    let s := s.linkWoken
    if !s.host.memActive then s.hostRefused.out (.readData zeroLine true)
    else match s.hdmLine hpa with
    | none => s
    | some line =>
      if (s.hostWindows false line).isEmpty then
        (s.hostRefused.logFault .windowRefused srcLighthouse 0 (BitVec.ofNat 32 line)).out (.readData zeroLine true)
      else
        if s.frameHeld then s
        else
        let (bs, bad, s) := s.sharedRead line 64
        let s := if bad then s.modHost fun h =>
            { h with poisoned := satAdd 32 h.poisoned 1, comps := smSet h.comps Config.rasHeaderOffset hpa } else s
        let s := if cacheable && s.cacheable line then s.grant line else s
        s.out (.readData bs bad))

/-- `CXL_MEM_WRITE`: bytes of one line from an address on. -/
def execCxlMemWrite (hpa : Dword) (bytes : List Byte) (poison : Bool) (s : State) : Out :=
  .next (
    let s := s.linkWoken
    if !s.host.memActive then s.hostRefused
    else match s.hdmLine hpa with
    | none => s
    | some line =>
      let a := (hpa - s.host.hdmBase).toNat
      let bs := bytes.take (64 - a % 64)
      if (s.hostWindows true line).isEmpty then
        s.hostRefused.logFault .windowRefused srcLighthouse 0 (BitVec.ofNat 32 line)
      else
        if s.frameHeld then s
        else
        let s := (((s.sharedTurns a bs.length).touch a bs.length).hbmWriteLine a bs).1
        if poison then s.modMem fun m => { m with lineErr := smSet m.lineErr line (some .poison) } else s)

/-! ### Register writes (13 R288, R290, 00 R10, R11) -/

/-- `ST_CTRL_WRITE`. -/
def execStCtrlWrite (v : Dword) (s : State) : Out :=
  .next ((s.linkWoken.modHost fun h => { h with stCtrl := v.extractLsb' 0 4 }).saveSettings)

/-- Vectors unmasked with their pending bit set are raised (log 7). -/
def State.unmask (s : State) (r : Nat) : State :=
  if s.host.pba.getLsbD r && !(smGet msixReset s.host.msix r).getLsbD 96 then
    (s.modHost fun h => { h with pba := h.pba &&& ~~~((1 : Half) <<< r) }).raiseMsix r
  else s

/-- Write 8 bytes of an MSI-X table entry. -/
def State.writeMsix (s : State) (off : Nat) (v : Dword) : State :=
  let r := off / 16
  let e := smGet msixReset s.host.msix r
  let e : BitVec 128 := if off / 8 % 2 = 0 then e.extractLsb' 64 64 ++ v else v ++ e.extractLsb' 0 64
  (s.modHost fun h => { h with msix := smSet h.msix r e }).unmask r

/-- An address register of a ring, reserved bits discarded. -/
def State.writeRing (s : State) (comp : Bool) (r k : Nat) (v : Dword) : State :=
  let addr := if k = 0 then v &&& ~~~0xFFF else v &&& ~~~0x3F
  if comp then
    let q := s.getQr r
    if q.st ≠ .disabled then s.barDiscarded
    else s.setQr r (if k = 0 then { q with base := addr } else if k = 1 then { q with piAddr := addr } else { q with ciAddr := addr })
  else
    let c := s.getCr r
    if c.st ≠ .disabled then s.barDiscarded
    else s.setCr r (if k = 0 then { c with base := addr } else if k = 1 then { c with piAddr := addr } else { c with ciAddr := addr })

/-- A component register as it reads: the HDM base, or what stands in it (13 R288). -/
def HostIf.compAt (h : HostIf) (off : Nat) : Dword :=
  if off = Config.hdmBaseOffset then h.hdmBase
  else match h.comps.find? fun c => c.1 = off with
    | some c => c.2
    | none => Config.compReset off

/-- A write of 8 bytes to BAR0; registers with rows of their own are left to these. -/
def State.writeBar (s : State) (off : Nat) (v : Dword) : State :=
  let s := s.linkWoken
  if off % 8 ≠ 0 then s.barDiscarded
  else if off = 0x1010 ∨ ((0x2000 ≤ off ∧ off < 0x2400 ∨ 0x3000 ≤ off ∧ off < 0x3400) ∧ off % 64 = 0x18) then s
  else if (0x2000 ≤ off ∧ off < 0x2400 ∨ 0x3000 ≤ off ∧ off < 0x3400) ∧ off % 64 < 0x18 then
    s.writeRing (0x3000 ≤ off) (off % 0x400 / 64) (off % 64 / 8) v
  else if 0x10000 ≤ off ∧ off < 0x20000 then
    if off = Config.hdmBaseOffset then s.modHost fun h => { h with hdmBase := v &&& ~~~0xFFFFFFF }
    else if Config.compMask off = 0 then s.barDiscarded
    else s.modHost fun h => { h with comps := smSet h.comps off ((h.compAt off &&& ~~~Config.compMask off) ||| (v &&& Config.compMask off)) }
  else if 0x20000 ≤ off ∧ off < 0x20100 then s.writeMsix (off - 0x20000) v
  else s.barDiscarded

end Sys2Proof.Machine
end

