-- ==== Sys2Proof/Machine/Pins.lean ====
section
/-! DEFINITION. The pins (19 R414 to R417). -/

namespace Sys2Proof.Machine

/-- `PWRBRK_ASSERT`: emergency cause 2 (17 R389). -/
def execPwrbrkAssert (s : State) : Out :=
  .next ((s.modPins fun p => { p with pwrbrk := true, pwrbrkAt := s.clk.now }).emergencyBegins 2)

/-- `PWRBRK_DEASSERT` (17 R390). -/
def execPwrbrkDeassert (s : State) : Out := .next ((s.modPins fun p => { p with pwrbrk := false }).emergencyClears 2)

/-- 60 s in ticks. -/
def minute : Nat := 1500000000

/-- `PWRBRK_HELD_LOG`: every 60 s that PWRBRK_N stays asserted. -/
def execPwrbrkHeldLog (s : State) : Out :=
  .next (if s.pins.pwrbrk ∧ s.pins.pwrbrkAt + minute ≤ s.clk.now then
      (s.modPins fun p => { p with pwrbrkAt := s.clk.now }).logFault .pwrbrkHeld srcLighthouse 0 0 else s)

/-- `PERST_HELD_LOG`: after 1 s, then every 60 s. -/
def execPerstHeldLog (s : State) : Out :=
  .next (if s.pins.perst ∧ s.pins.perstAt + (if s.pins.perstLogged then minute else 25000000) ≤ s.clk.now then
      (s.modPins fun p => { p with perstAt := s.clk.now, perstLogged := true }).logFault .perstHeld srcLighthouse 0 0 else s)

/-- `WAKE_RELEASE_TIMEOUT`: 100 ms without the link in L0. -/
def execWakeReleaseTimeout (s : State) : Out :=
  .next (if s.pins.wake ∧ s.pins.wakeAt + 2500000 ≤ s.clk.now then
      (s.modPins fun p => { p with wake := false }).logFault .wakeReleased srcLighthouse 0 0 else s)

/-- `SMBUS_CLOCK_LOW_TIMEOUT`: in SMBus mode the port releases the bus and resets its transfer. -/
def execSmbusClockLowTimeout (s : State) : Out :=
  .next (if s.mgmt.i3c then s
    else s.modPins fun p => { p with xfer := false, filtSmbus := satAdd 16 p.filtSmbus 1 })

end Sys2Proof.Machine
end

