-- ==== Sys2Proof/Machine/Slots.lean ====
section
/-! DEFINITION. The firmware slots: manifests, their verification and hand-off paths (15 R335, R336, R346). -/

namespace Sys2Proof.Machine

def slotSize : Nat := 0x6000000

/-- A slot that nothing has written holds what the part was made with (log 8). -/
def Firmware.slot (f : Firmware) (b : Bool) : Memory :=
  if b then (if f.ownB then Config.factoryImage true else f.slotB) else if f.ownA then Config.factoryImage false else f.slotA

def Firmware.setSlot (f : Firmware) (b : Bool) (m : Memory) : Firmware :=
  if b then { f with slotB := m, ownB := false } else { f with slotA := m, ownA := false }

def memNat (m : Memory) (a n : Nat) : Nat := leNat (memRead m a n)

def manComps (m : Memory) : Nat := memNat m 10 2
def manVersion (m : Memory) : Word := BitVec.ofNat 32 (memNat m 4 4)
def manSvn (m : Memory) : Byte := memByte m 8
def manRaise (m : Memory) : Bool := (memByte m 9).getLsbD 0
def sigOff (m : Memory) : Nat := 2608 + 128 * manComps m
def entryOff (n : Nat) : Nat := 2608 + 128 * n

/-- The component entries (15 Table 15.6). -/
def slotComps (m : Memory) : List CompVer :=
  (List.range (manComps m)).map fun n =>
    let o := entryOff n
    ⟨memByte m o, BitVec.ofNat 16 (memNat m (o + 2) 2), BitVec.ofNat 16 (memNat m (o + 4) 2),
     BitVec.ofNat 16 (memNat m (o + 6) 2), BitVec.ofNat 512 (memNat m (o + 64) 64)⟩

/-- Why a slot fails, as DETAIL and RESULT0 (15 Table 15.7). -/
abbrev SlotFault := Half × Word

/-- Check 1: the byte offset at fault. -/
def formatFault (m : Memory) : Option Nat :=
  firstSome ([failAt (memNat m 0 4 ≠ 0x31464D51) 0, failAt (64 < memNat m 8 1) 8, failAt (2 ≤ memNat m 9 1) 9,
    failAt (manComps m = 0 || decide (16 < manComps m)) 10, failAt (memNat m 12 1 ≠ 0xA1) 12, failAt (memNat m 13 1 ≠ 0xB0) 13,
    failAt (memNat m 14 2 ≠ 0) 14] ++
    (List.range (min 16 (manComps m))).flatMap fun n =>
      [failAt (7 < memNat m (entryOff n) 1) (entryOff n), failAt (memNat m (entryOff n + 1) 1 ≠ 0) (entryOff n + 1),
       failAt (memNat m (entryOff n + 16) 48 ≠ 0) (entryOff n + 16)])

/-- Check 2: the index of a revoked key, or 0xFF. -/
def keyFault (f : Firmware) (m : Memory) : Option Nat :=
  let d := Config.sha3 (memRead m 16 2592)
  match findIx (· = d) ((List.range 4).map Config.keyDigest) with
  | some k => if f.revoked.getLsbD k then some k else none
  | none => some 0xFF

/-- Checks 1 to 4 of 15 R336. -/
def Firmware.manifestFault (f : Firmware) (m : Memory) : Option SlotFault :=
  match formatFault m with
  | some o => some (1, BitVec.ofNat 32 o)
  | none =>
    match keyFault f m with
    | some k => some (2, BitVec.ofNat 32 k)
    | none =>
      if (manSvn m).toNat < f.floor then some (3, BitVec.ofNat 32 f.floor)
      else if !Config.mldsaVerify (memRead m 16 2592) (memRead m 0 (sigOff m)) (memRead m (sigOff m) 4627) then some (4, 0)
      else none

/-- Bytes that a component may take: 256 KiB of code and data, half of that on core 0 (15 R330, log 50). -/
def compLimit (id : Byte) : Nat := if id = 7 then slotSize else if id = 0 ∨ id = 6 then 0x20000 else 0x40000

/-- Check 5: the component at fault. -/
def digestFault (m : Memory) : Option SlotFault :=
  (List.range (manComps m)).findSome? fun n =>
    let o := entryOff n
    let id := memByte m o
    let at_ := memNat m (o + 8) 4
    let len := memNat m (o + 12) 4
    if slotSize < at_ + len ∨ compLimit id < len ∨ Config.sha3 (memRead m at_ len) ≠ BitVec.ofNat 512 (memNat m (o + 64) 64)
    then some (5, id.zeroExtend 32) else none

/-- The checks of 15 R336. -/
def Firmware.slotFault (f : Firmware) (b : Bool) : Option SlotFault :=
  (f.manifestFault (f.slot b)).orElse fun _ => digestFault (f.slot b)

/-- The first component of Table 15.1 without a hand-off path from the running image (15 R346). -/
def Firmware.pathFault (f : Firmware) (b : Bool) : Option SlotFault :=
  let new := slotComps (f.slot b)
  (List.range 7).findSome? fun k =>
    match f.running.find? (·.id.toNat = k), new.find? (·.id.toNat = k) with
    | some r, some n => if n.importMin ≤ r.exportVer ∧ r.exportVer ≤ n.importMax then none else some (6, BitVec.ofNat 32 k)
    | _, _ => some (6, BitVec.ofNat 32 k)

end Sys2Proof.Machine
end

