-- ==== Sys2Proof/Machine/Starts.lean ====
section
/-! DEFINITION. Starts, component restarts, the trip and input faults (15 R333 to R344, R351, 17 R392, R393,
19 R415, 08 R186, R187). -/

namespace Sys2Proof.Machine

/-! ### What a start leaves (15 R333, R338) -/

/-- A partition keeps its windows and its energy counter (15 Table 15.3, 17 R379). -/
def Part.retained (p : Part) : Part := { Part.reset with exists_ := p.exists_, windows := p.windows, energy := p.energy }

/-- A port keeps its settings; its coefficients only over a warm start (10 R222). -/
def Port.retained (p : Port) (warm : Bool) : Port :=
  { Port.reset with enabled := p.enabled, allow1 := p.allow1, thr := p.thr, trained := warm && p.trained,
                    st := if p.enabled then .down else .disabled }

/-- The device address of a line in the other mode (08 R170). -/
def remap (old new : Bool) (line : Nat) : Nat :=
  let (g, o) := hbmMap old line
  hbmUnmap new g o

/-- Hard faults and worst locations under the mode that a start takes up. -/
def Mem.inMode (m : Mem) (new : Bool) : Mem :=
  if m.mode = new then m
  else { m with mode := new, hard := m.hard.foldl (fun h x => smSet h (remap m.mode new x.1) x.2) [],
                wlog := m.wlog.map fun e => { e with line := BitVec.ofNat 48 (remap m.mode new e.line.toNat) } }

/-- HBM and its error block over a start: a cold one loses the contents and the counters (08 R187). -/
def Mem.restarted (m : Mem) (warm : Bool) : Mem :=
  let n := m.inMode m.staged
  if warm then { n with sharedQ := [], rewrite := [], filling := false, valid := m.valid && m.mode = m.staged }
  else { Mem.reset with mode := m.staged, staged := m.staged, hard := n.hard }

/-- The host interface over a module start: rings off; the link and what the host set stay over a warm one. -/
def HostIf.restarted (h : HostIf) (warm : Bool) : HostIf :=
  if warm then { h with dev := 0, cmd := [], comp := [], memActive := false, lastServed := 0, wakesInv := 0, wakesPoll := 0,
                        barDiscard := 0, refused := 0, poisoned := 0, biCount := 0 }
  else { HostIf.reset with stCtrl := h.stCtrl, log := h.log }

/-- The power manager: caps, modes and the trip log are retained, the energy counter runs on (17 R379, R384); a
warm start leaves level, rail, causes and temperatures as the hardware holds them. -/
def Power.restarted (p : Power) (warm : Bool) : Power :=
  if warm then { p with decided := p.level, decision := false, grace := none, testCap := BitVec.ofNat 16 p.cap,
                        acts := [], partActs := [], deepIdle := false, leaving := none }
  else { Power.reset with mgmtCap := p.mgmtCap, hostCap := p.hostCap, limit := p.limit, calibrated := p.calibrated,
                          perPart := p.perPart, testCap := BitVec.ofNat 16 p.cap, energy := p.energy, tripLog := p.tripLog,
                          temp := p.temp, tripped := p.tripped, tripCool := p.tripCool }

def Firmware.restarted (f : Firmware) : Firmware :=
  { f with starting := none, recovery := false, act := none, sides := [], restarts := [] }

/-- The management port stays in its bus mode; its sessions, queue and update end. -/
def Mgmt.restarted (m : Mgmt) : Mgmt := { Mgmt.reset with i3c := m.i3c, dynAddr := m.dynAddr, eid := m.eid, log := m.log }

/-- Everything that does not outlive the loss of power or the reset of the module. -/
def State.wiped (s : State) (warm : Bool) : State :=
  { State.reset with
    pending := s.pending, clk := s.clk, id := s.id, free := s.free, sent := s.sent, ret := s.ret, claims := s.claims,
    mem := s.mem.restarted warm,
    trk := { Tracker.reset with session := s.trk.session },
    port := (List.range 32).map fun k => (k, (s.getPort k).retained warm),
    fab := { Fabric.reset with node := s.fab.node, nodeSet := s.fab.nodeSet },
    host := s.host.restarted warm,
    cmds := ⟨[], [], s.cmds.defaults, false⟩,
    part := s.part.map fun p => (p.1, p.2.retained),
    snap := { Snap.reset with feed := s.snap.feed },
    pwr := s.pwr.restarted warm,
    fw := s.fw.restarted,
    mgmt := s.mgmt.restarted,
    pins := { s.pins with alert := false, syncOut := false, wake := false, latchedEver := s.pins.latched, xfer := false },
    flog := { s.flog with sinceStart := 0 } }

/-! ### Beginning a start -/

/-- The trial window is open (15 R351). -/
def State.trialOpen (s : State) : Bool := s.fw.trial && decide (s.clk.now < s.fw.trialAt + 1500000000)

/-- A start begins: session, rings, claims, retained state (15 R338). `other` boots the slot that is not
active, `halt` stops after step 3. PWRBRK_N still asserted is a cause at once. -/
def State.beginStart (s : State) (kind : StartKind) (keep other halt : Bool) : State :=
  let warm := kind = .warm
  let s := s.wiped warm
  let s := s.modTrk fun t => { t with session := t.session + 1 }
  let slot := if other ∨ s.fw.atStart then !s.fw.active else s.fw.active
  let s := s.modFw fun f =>
    { f with starting := some ⟨kind, keep, 1, slot, false, !other && f.atStart, halt⟩, atStart := f.atStart && other }
  let s := s.retainedClaims
  if s.pins.pwrbrk ∧ ¬ warm then s.emergencyBegins 2 else s

/-- A warm start of the watchdog or of an escalation: a trial falls back to the other slot; the third
within 10 minutes outside a trial halts (15 R344, R351). -/
def State.watchdogStart (s : State) : State :=
  let trial := s.trialOpen
  let s := s.modFw fun f =>
    { f with wdStarts := s.clk.now :: f.wdStarts.filter fun t => decide (s.clk.now < t + 15000000000),
             trial := f.trial && !trial, raise := f.raise && !trial }
  let halt := !trial && decide (3 ≤ s.fw.wdStarts.length)
  let s := if trial then s.logFault .fallBack 0x11 2 0 else s
  s.beginStart .warm true trial halt

/-- The module has power and its ROM or firmware runs. -/
def State.powered (s : State) : Bool := s.clk.lit && !s.pwr.tripped && !s.pins.latched

/-- `WATCHDOG_EXPIRY` (15 R342): the fault log keeps the supervisor's program counter. -/
def execWatchdogExpiry (pc : Word) (s : State) : Out :=
  .next (if !s.powered ∨ s.fw.recovery then s else (s.logFault .watchdog srcLighthouse 3 pc).watchdogStart)

/-! ### Steps of a start (15 Table 15.9, R340, R351) -/

/-- Recovery mode: `ST_STATE` FAULT, nothing runs. -/
def State.recover (s : State) : State :=
  (s.modFw fun f => { f with starting := none, recovery := true }).modHost fun h => { h with dev := 3, memActive := false }

def State.setStart (s : State) (x : Starting) : State := s.modFw fun f => { f with starting := some x }

/-- The booted slot fails: the other one from step 3 on, once (15 R351). -/
def State.otherSlot (s : State) (x : Starting) : State :=
  if x.tried then s.recover
  else
    let s := s.logFault .fallBack 0x11 2 0
    (s.modFw fun f => { f with trial := false, raise := false }).setStart { x with step := 3, slot := !x.slot, tried := true, first := false }

/-- The HBM fill is skipped (08 R187); a mode change has cleared `MEM_VALID`. -/
def State.keepsHbm (s : State) (x : Starting) : Bool := x.kind = .warm && x.keep && s.mem.valid

/-- Step 5 begins: a fill clears `MEM_VALID` first. -/
def State.fillBegins (s : State) (x : Starting) : State :=
  if s.keepsHbm x then s else s.memInvalid.modMem fun m => { m with filling := true }

/-- Step 7: the components run, retained state applies, READY; an image in its first start opens its
trial. All ports begin to train; the frame count starts (07 R160, log 24). -/
def State.goReady (s : State) (x : Starting) : State :=
  let m := s.fw.slot x.slot
  let s := s.modFw fun f =>
    { f with active := x.slot, version := manVersion m, svn := manSvn m, running := slotComps m,
             raise := if x.first then manRaise m else f.raise,
             trial := f.trial || x.first, trialAt := if x.first then s.clk.now else f.trialAt, staged := f.staged && !x.first,
             starting := some { x with step := 8 } }
  let s := s.setClaim (rankComp 1) (holderId featTelemetry 0)
  let s := (s.modHost fun h => { h with dev := 1 }).activateMem
  let s := { s with clk := { s.clk with frame := 0, frac := 0, split := none } }
  (List.range 32).foldl State.openPort s

/-- `START_STEP_DONE`: the step under way ends; `ok` says that the self-test or the HBM training
passed. -/
def execStartStepDone (ok : Bool) (s : State) : Out :=
  .next (
    match s.fw.starting with
    | none => s
    | some x =>
      match x.step with
      | 1 => if ok then s.setStart { x with step := 2 } else s.recover
      | 2 => s.setStart { x with step := 3 }
      | 3 =>
        if (s.fw.manifestFault (s.fw.slot x.slot)).isSome then s.otherSlot x
        else if x.halt then s.recover
        else s.setStart { x with step := 4 }
      | 4 => if ok then (s.fillBegins x).setStart { x with step := 5 } else s.recover
      | 5 => (if s.mem.filling then s.modMem Mem.fill else s).setStart { x with step := 6 }
      | 6 => if (digestFault (s.fw.slot x.slot)).isNone then s.setStart { x with step := 7 } else s.otherSlot x
      | 7 => s.goReady x
      | 8 => s.setStart { x with step := 9 }
      | _ => s.modFw fun f => { f with starting := none })

/-! ### Component restarts (15 R341 to R344, Table 15.10) -/

def componentCode (c : Component) : Nat :=
  match c with
  | .supervisor => 0 | .interpreter => 1 | .power => 2 | .fabric => 3 | .snapshot => 4 | .management => 5 | .security => 6

/-- What a restart of the snapshot manager ends: a cut, restore or verify. -/
def State.loseSnapshots (s : State) : State :=
  let s := s.modSnap fun x => { x with cut := none, armed := none, restoring := none, queue := [], guarded := [], holdSince := none }
  s.completeAll (fun c => c.opcode = opCut || c.opcode = opRestore || c.opcode = 0x0506) sInternal 4

/-- A TABLE_COMMIT or FLIP_ARM in progress. -/
def State.loseFabric (s : State) : State :=
  (s.modFab fun f => { f with armed := none, flipAt := none }).completeAll (fun c => c.opcode = opCommit || c.opcode = opFlipArm) sInternal 3

/-- Commands fetched but not yet replied to receive INTERNAL. -/
def State.loseCommands (s : State) : State :=
  s.cmds.fenced.foldl (fun s f => s.record f.pkt f.opcode 0 sInternal 1 0 0 0) { s with cmds := { s.cmds with fenced := [] } }

def State.componentLoss (s : State) (c : Component) : State :=
  match c with
  | .supervisor => s
  | .interpreter => s.loseCommands
  | .power => s.modPwr fun p => { p with decision := false }
  | .fabric => s.loseFabric
  | .snapshot => s.loseSnapshots
  | .management => s.modMgmt fun m => { m with conns := m.conns.map fun k => { k with inbox := [], inSeq := 0, outbox := [], outSeq := 0 } }
  | .security => s.modMgmt fun m => { m with conns := [] }

/-- A restart: event 0x0006, a fault-log record, the losses, and escalation of the fourth within 60 s. A fault of
the supervisor itself ends in the watchdog's warm start. -/
def State.restartComponent (s : State) (c : Component) (why : Word) : State :=
  if c = .supervisor ∨ !s.serving ∨ !s.powered then s
  else
    let k := componentCode c
    let seq := s.flog.seq + if s.flog.lost = 0 then 0 else 1
    let s := s.logFault .componentRestart (BitVec.ofNat 8 k) 2 why
    let s := (s.event 0x0006 sInternal (BitVec.ofNat 16 k) seq 0 0).componentLoss c
    let times := s.clk.now :: (smGet [] s.fw.restarts k).filter fun t => decide (s.clk.now < t + 1500000000)
    let s := s.modFw fun f => { f with restarts := smSet f.restarts k times }
    if 4 ≤ times.length then s.watchdogStart else s

/-- `COMPONENT_HEARTBEAT_MISS`: three periods missed. -/
def execComponentHeartbeatMiss (c : Component) (s : State) : Out := .next (s.restartComponent c 0)

def compFaultCode (f : CompFault) : Nat :=
  match f with
  | .protection => 1 | .illegalInstruction => 2 | .memory => 3 | .request => 4

/-- `COMPONENT_FAULT`. -/
def execComponentFault (c : Component) (f : CompFault) (s : State) : Out := .next (s.restartComponent c (BitVec.ofNat 32 (compFaultCode f)))

/-! ### Loss of power: trip, input fault, lighthouse (17 R392, R393, 19 R415) -/

/-- Everything but the lighthouse loses power: HBM contents are lost. -/
def State.powerOff (s : State) : State :=
  let s := s.wiped false
  (s.modFw fun f => { f with starting := none }).modHost fun h => { h with dev := 0 }

/-- `THERMAL_TRIP`: a comparator of 115 °C or 105 °C fires. -/
def execThermalTrip (sensor : Byte) (s : State) : Out :=
  .next (
    if !s.clk.lit ∨ s.pwr.tripped then s
    else
      let s := s.powerOff
      let s := s.modPwr fun p =>
        { p with tripped := true, tripCool := 0, tripLog := (s.now.extractLsb' 0 48) ++ (0x01 : Byte) ++ sensor }
      (s.modPins fun p => { p with thermtrip := true }).logFault .trip srcLighthouse 3 (sensor.zeroExtend 32))

/-- The cold start after the last latch has cleared. -/
def State.coldStart (s : State) : State := if s.pwr.tripped ∨ s.pins.latched then s else s.beginStart .cold false false false

/-- A restart request clears the trip once every sensor has read below 85 °C for 10 s; an earlier one is
refused and logged. -/
def State.clearTrip (s : State) : State × Bool :=
  if !s.pwr.tripped then (s, false)
  else if s.pwr.tripCool < 250000000 then (s.logFault .tripRefused srcLighthouse 0 0, false)
  else (((s.modPwr fun p => { p with tripped := false }).modPins fun p => { p with thermtrip := false }).coldStart, true)

/-- Input states of 19 Table 19.5 short of FAULT. -/
def inputState (v : Nat) : BitVec 2 := if v < 4000 then 1 else if 5000 < v then 2 else 0

/-- `INPUT_VOLTAGE_SAMPLE`: P44V of one tick, in units of 10 mV. -/
def execInputVoltageSample (mV10 : Half) (s : State) : Out :=
  .next (
    let v := mV10.toNat
    let run (hold : Bool) (n : Nat) : Nat := if hold then n + 1 else 0
    let s := s.modPins fun p =>
      { p with inputV := mV10, inState := inputState v, lowFor := run (v < 3800) p.lowFor, highFor := run (5500 < v) p.highFor,
               marginFor := run (inputState v ≠ 0) p.marginFor, goodFor := run (inputState v = 0) p.goodFor }
    let p := s.pins
    if (500 ≤ p.lowFor ∨ 125 ≤ p.highFor) ∧ ¬ p.latched then
      let s := (s.logFault .inputFault srcLighthouse 3 (mV10.zeroExtend 32)).modPins fun p =>
        { p with latched := true, faults := satAdd 16 p.faults 1, faultAt := s.now.extractLsb' 0 48 |>.zeroExtend 64 }
      s.powerOff.modPins fun p => { p with latchedEver := true }
    else if p.marginFor = 25000 then s.logFault .inputMargin srcLighthouse 0 (mV10.zeroExtend 32)
    else s)

/-- `INPUT_FAULT_CLEAR`: after 100 ms in OPERATING. -/
def execInputFaultClear (s : State) : Out :=
  .next (if s.pins.latched ∧ 2500000 ≤ s.pins.goodFor then (s.modPins fun p => { p with latched := false }).coldStart else s)

/-- `LIGHTHOUSE_POWER_LOSS`: below 18 V nothing is left but flash; the archive carries the record numbers
(18 R406). -/
def execLighthousePowerLoss (s : State) : Out :=
  .next (
    let s := s.powerOff
    { s with
      clk := ⟨0, 0, 0, none, false⟩,
      part := s.part.map fun p => (p.1, { p.2 with energy := 0 }),
      pwr := { s.pwr with tripped := false, tripCool := 0, tripLog := 0, energy := 0, temp := [] },
      pins := .reset,
      mgmt := { Mgmt.reset with log := s.mgmt.log },
      fw := { s.fw with wdStarts := [], trialAt := 0 },
      claims := [],
      flog := { s.flog with ring := [], seq := s.flog.archived, lost := 0 } })

/-- `LIGHTHOUSE_POWER_UP`: the counter begins at 0 and a cold start follows. -/
def execLighthousePowerUp (s : State) : Out :=
  .next (if s.clk.lit then s
    else ({ s with clk := ⟨0, 0, 0, none, true⟩ } : State).beginStart .cold false false false)

/-- `STACK_SUPPLY_FAULT` (08 R186). -/
def execStackSupplyFault (_stack : BitVec 3) (s : State) : Out := .next s.memInvalid

/-- `SELF_REFRESH_EXIT_UNCOMMANDED` (08 R186). -/
def execSelfRefreshExitUncommanded (_stack : BitVec 3) (s : State) : Out := .next s.memInvalid

end Sys2Proof.Machine
end

