-- ==== Sys2Proof/Machine/CmdDevice.lean ====
section
/-! DEFINITION. The device, identity, partition and window commands (14 R319, R320). -/

namespace Sys2Proof.Machine

/-! ### Words of the identity and status windows (13 Tables 13.3, 13.4) -/

def State.idGrade (s : State) : Nat := (if s.id.gradeH then 1 else 0) + 0xA100 + 0xB00000
def State.idFw (s : State) : Nat := s.fw.version.toNat + (if s.fw.active then 2 ^ 32 else 0)
def State.harvest (s : State) : List Byte :=
  (List.range 32).map fun b => BitVec.ofNat 8 ((List.range 8).foldl (fun m k => if s.present (8 * b + k) then m + 2 ^ k else m) 0)

/-- Identity window 0x000 to 0x07F. -/
def State.identity (s : State) : List Byte :=
  leBytes 8 0x544B0009 ++ leBytes 8 s.idGrade ++ leBytes 8 idKey.toNat ++ s.harvest ++ leBytes 8 0 ++ leBytes 8 s.id.serial.toNat ++
    leBytes 8 s.idFw ++ leBytes 8 (s.fab.node.toNat + if s.fab.nodeSet then 4096 else 0) ++ leBytes 8 0x101010 ++
    leBytes 8 hbmSize ++ leBytes 24 0

/-- `ST_STATE`: its power state reads 0 while the module is STARTING, as Table 13.4 resets it. -/
def State.stWord (s : State) : Nat :=
  s.host.dev.toNat + (if s.host.dev = 0 then 0 else s.powerState * 16) + (if s.emergency then 128 else 0) + s.pwr.level.toNat * 256

/-- `IDENTIFY`. -/
def execIdentify (c : Packet) (s : State) : Out :=
  .next (s.simple c 0x0101 fun s =>
    (⟨sOk, 0, idKey, BitVec.ofNat 32 s.idGrade, BitVec.ofNat 32 s.idFw⟩, s.toHost (BitVec.ofNat 64 (c.at_ 16 8)) s.identity))

/-- The first partition whose pipeline satisfies p. -/
def State.pipeWhere (s : State) (p : PipeSt → Bool) : Option (Nat × Part) := s.part.find? fun x => p x.2.pipe

/-- Beyond LOADED. -/
def PipeSt.beyondLoaded (p : PipeSt) : Bool := !p.quiet

/-- `SET_NODE`. -/
def execSetNode (c : Packet) (s : State) : Out :=
  .next (s.simple c 0x0102 fun s =>
    match s.pipeWhere PipeSt.beyondLoaded with
    | some (_, p) => (rep sWrongState (BitVec.ofNat 16 p.pipe.code), s)
    | none => (okRep, ((s.modFab fun f => { f with node := BitVec.ofNat 12 (c.at_ 16 2), nodeSet := true }).recheckPorts).saveSettings))

/-- `DEVICE_STATUS`. -/
def execDeviceStatus (c : Packet) (s : State) : Out :=
  .next (s.simple c 0x0103 fun s =>
    (⟨sOk, 0, BitVec.ofNat 32 s.stWord, BitVec.ofNat 32 s.cmds.long.length, s.flog.sinceStart⟩, s))

/-- The † field of an opcode at an offset. -/
def expertField (op off : Nat) : Option OpField := (opSpec op).bind fun o => o.fields.find? fun f => f.expert && f.off = off

/-- Faults of SET_DEFAULT: not a † field, or a value out of range. -/
def defaultFaults (c : Packet) : List (Nat × Half × Half) :=
  match expertField (c.at_ 16 2) (c.at_ 18 2) with
  | none => [(18, sBadParam, 18)]
  | some f => if f.fits (c.at_ 24 8) then [] else [(24, sBadParam, 24)]

/-- `SET_DEFAULT`. -/
def execSetDefault (c : Packet) (s : State) : Out :=
  .next (s.command c 0x0104 (fun _ => defaultFaults c) fun _ s =>
    let op : Half := BitVec.ofNat 16 (c.at_ 16 2)
    let off := c.at_ 18 2
    let rest := s.cmds.defaults.filter fun d => !(d.1 = op && d.2.1 = off)
    .reply okRep ({ s with cmds := { s.cmds with defaults := rest ++ [(op, off, BitVec.ofNat 64 (c.at_ 24 8))] } } : State).saveSettings)

/-- `MEMORY_MODE`: staged for the next start. -/
def execMemoryMode (c : Packet) (s : State) : Out :=
  .next (s.simple c 0x0105 fun s => (okRep, (s.modMem fun m => { m with staged := c.at_ 16 1 = 1 }).saveSettings))

def opMemClear : Half := 0x0106

/-- The fill of R186 begins. -/
def State.clearBegins (s : State) : State := s.memInvalid.modMem fun m => { m with filling := true }

/-- `MEMORY_CLEAR`. -/
def execMemoryClear (c : Packet) (s : State) : Out :=
  .next (s.command c opMemClear (fun _ => []) fun at_ s =>
    match s.pipeWhere (· ≠ .none) with
    | some (p, _) => s.wrong p
    | none => s.startLong c opMemClear at_ true State.clearBegins)

/-- `MEMORY_CLEAR_COMPLETE`. -/
def execMemoryClearComplete (s : State) : Out :=
  .next (
    match s.cmds.long.find? fun c => c.opcode = opMemClear && c.st = .accepted with
    | none => s
    | some c => if s.mem.filling then ((s.modMem Mem.fill).activateMem).complete c sOk 0 0 0 0 else s)

/-- `RESET`: the reply, then a warm start. -/
def execReset (c : Packet) (s : State) : Out :=
  .next (s.command c 0x0107 (fun _ => []) fun _ s =>
    if s.host.dev = 2 then s.wrong 2
    else .first (rep sAccepted 0) s fun s => s.beginStart .warm (c.at_ 16 1 = 1) false false)

/-! ### Partitions and windows -/

/-- `PART_CREATE`. -/
def execPartCreate (c : Packet) (s : State) : Out :=
  .next (s.simple c 0x0201 fun s =>
    let p := c.at_ 16 1
    if (s.getPart p).exists_ then (rep sWrongState (BitVec.ofNat 16 (s.getPart p).pipe.code), s)
    else (okRep, (s.setPart p { Part.reset with exists_ := true }).saveSettings))

/-- A partition named by a parameter does not exist (log 53). -/
def State.noPart (s : State) (p off : Nat) : List (Nat × Half × Half) := if (s.getPart p).exists_ then [] else [(off, sBadPartition, 0)]

/-- Directory lines of an extent that the host may no longer hold are back-invalidated. -/
def State.recheckLines (s : State) (a n : Nat) : State := s.backInvAll ((s.directoryIn a n).filter fun l => !s.cacheable l)

/-- Barrier groups of a partition are freed. -/
def State.freeGroups (s : State) (p : Nat) : State :=
  { s with bar := s.bar.map fun (b : Nat × Barrier) => (b.1, if b.2.valid && b.2.owner.toNat = p then b.2.freed else b.2) }

/-- `PART_DESTROY`. -/
def execPartDestroy (c : Packet) (s : State) : Out :=
  .next (s.command c 0x0202 (fun s => s.noPart (c.at_ 16 1) 16) fun _ s =>
    let p := c.at_ 16 1
    s.unlessBusy (s.busy (onPipe p)) fun _ =>
      let q := s.getPart p
      if q.pipe ≠ .none then s.wrong q.pipe.code
      else match (List.range 16).find? fun r => (s.getCr r).st ≠ .disabled && (s.getCr r).partition = p with
        | some r => s.wrong (0x100 + r)
        | none =>
          let s : State := { s with part := s.part.filter fun x => x.1 ≠ p }
          let s := q.windows.foldl (fun s w => if w.2.valid then s.recheckLines w.2.base.toNat w.2.size.toNat else s) s
          .reply okRep (s.freeGroups p).saveSettings)

/-- The extents overlap. -/
def overlaps (a n b m : Nat) : Bool := decide (a < b + m) && decide (b < a + n)

/-- A window of another partition but 0, or another window of the same one, overlaps. -/
def State.windowOverlap (s : State) (p w a n : Nat) : Bool :=
  p ≠ 0 && s.part.any fun x => x.1 ≠ 0 && x.2.windows.any fun y =>
    y.2.valid && !(x.1 = p && y.1 = w) && overlaps a n y.2.base.toNat y.2.size.toNat

def windowFaults (c : Packet) (s : State) : List (Nat × Half × Half) :=
  let a := c.at_ 24 8
  let n := c.at_ 32 8
  s.noPart (c.at_ 16 1) 16 ++ (if s.windowOverlap (c.at_ 16 1) (c.at_ 17 1) a n then [(24, sBadParam, 24)] else []) ++
    (if hbmSize < a + n then [(32, sBadParam, 32)] else [])

/-- Put a window in place of another one. -/
def State.putWindow (s : State) (p w : Nat) (x : Window) : State :=
  let old := smGet Window.reset (s.getPart p).windows w
  let s := s.modPart p fun q => { q with windows := smSet q.windows w x }
  let s := if old.valid then s.recheckLines old.base.toNat old.size.toNat else s
  (if x.valid then s.recheckLines x.base.toNat x.size.toNat else s).saveSettings

/-- A window of a pipeline beyond LOADED cannot be changed. -/
def State.windowChange (s : State) (p w : Nat) (x : Window) : Run :=
  let q := s.getPart p
  if q.pipe.beyondLoaded then s.wrong q.pipe.code else .reply okRep (s.putWindow p w x)

/-- `WINDOW_SET`. -/
def execWindowSet (c : Packet) (s : State) : Out :=
  .next (s.command c 0x0203 (windowFaults c) fun _ s =>
    s.windowChange (c.at_ 16 1) (c.at_ 17 1)
      ⟨true, c.at_ 18 1 / 4 % 2 = 1, BitVec.ofNat 2 (c.at_ 18 1), BitVec.ofNat 48 (c.at_ 24 8), BitVec.ofNat 48 (c.at_ 32 8)⟩)

/-- `WINDOW_CLEAR`. -/
def execWindowClear (c : Packet) (s : State) : Out :=
  .next (s.command c 0x0204 (fun s => s.noPart (c.at_ 16 1) 16) fun _ s => s.windowChange (c.at_ 16 1) (c.at_ 17 1) .reset)

/-- Numbers below 16 as a bit mask. -/
def mask16 (p : Nat → Bool) : Word := BitVec.ofNat 32 ((List.range 16).foldl (fun m k => if p k then m + 2 ^ k else m) 0)

/-- `PART_STATUS`: windows and rings as bit masks (log 53). -/
def execPartStatus (c : Packet) (s : State) : Out :=
  .next (s.simple c 0x0205 fun s =>
    let q := s.getPart c.part
    (⟨sOk, 0, BitVec.ofNat 32 q.pipe.code, mask16 fun w => (smGet Window.reset q.windows w).valid,
      mask16 fun r => (s.getCr r).st = .enabled && (s.getCr r).partition = c.part⟩, s))

end Sys2Proof.Machine
end

