-- ==== Sys2Proof/Machine/FabricTime.lean ====
section
/-! DEFINITION. Fabric time and the SYNC pin (11 R258, R259, 19 R416). -/

namespace Sys2Proof.Machine

/-- SYNC serves as time-pulse input. -/
def State.pulseInput (s : State) : Bool := s.ret.syncMode = 1

/-- A time master in trigger-output mode counts as LOCKED (19 R416). -/
def State.drivesSync (s : State) : Bool := s.ret.syncMode = 2 && s.fab.master = s.fab.node

/-- Nanoseconds from the nearest multiple of 1 ms, signed. -/
def pulseError (t : Int) : Int :=
  let r := t % 1000000
  if r ≤ 500000 then r else r - 1000000

/-- The milliseconds over which the error of a pulse came about: those since the last accepted one (11 R258). -/
def State.msSincePulse (s : State) : Nat := max 1 ((s.clk.now - s.fab.lastPulse.toNat + 12500) / 25000)

/-- `SYNC_PULSE` (11 R258, 19 Table 19.4): a pulse of a width, at a local fabric time. -/
def execSyncPulse (widthNs : Nat) (arrival : Dword) (s : State) : Out :=
  .next (
    if !s.pulseInput ∨ widthNs < 20 then s
    else
      let t : Int := (arrival.toNat : Int) + s.ret.syncOff.toInt
      let first := s.fab.timeMsg.isSome && !s.fab.pulseSeen
      let discard (s : State) : State :=
        (s.modFab fun f => { f with pulsesBad := bump f.pulsesBad }).modPins fun p => { p with filtSync := satAdd 16 p.filtSync 1 }
      if widthNs < 50 ∨ 10000 < widthNs then discard s
      else if first then
        s.modFab fun f =>
          { f with time := f.timeMsg.getD f.time + BitVec.ofNat 64 ((s.clk.now - f.lastPulse.toNat) / 25000 * 1000000), lastPulse := s.now,
                   pulseSeen := true, tst := if f.freeMode then f.tst else .locked, lastErr := 0 }
      else
        let e := pulseError t
        if e < -100 ∨ 100 < e then discard s
        else
          s.modFab fun f =>
            { f with time := BitVec.ofInt 64 (f.time.toNat - e), lastErr := BitVec.ofInt 16 e, rate := f.rate - e.tdiv (s.msSincePulse : Int),
                     lastPulse := s.now,
                     tst := if f.tst = TimeSt.holdover ∧ f.timeSeen then TimeSt.locked else f.tst })

/-- `SYNC_HOLDOVER`: no pulse accepted for 3 ms. -/
def execSyncHoldover (s : State) : Out :=
  .next (if s.fab.tst = TimeSt.locked ∧ ¬ s.drivesSync ∧ s.fab.lastPulse.toNat + 75000 ≤ s.clk.now then
      s.modFab fun f => { f with tst := .holdover } else s)

/-- Fabric time of the next SYNC pulse. -/
def nextPulse (t : Dword) : Nat := (t.toNat / 1000000 + 1) * 1000000

/-- Time from a message that names the next pulse: the count is free within the millisecond before it (log 36). -/
def State.setTime (s : State) (t : Dword) : State :=
  let (bs, s) := s.drawBytes 8
  s.modFab fun f => { f with time := t - BitVec.ofNat 64 (leNat bs % 1000000), tst := .holdover }

/-- What a TIME message does. A module that takes pulses is in HOLDOVER until the first pulse after it, which sets its count
to the message's, and each millisecond since adds to that (11 R259). -/
def State.takeTime (s : State) (t : Dword) : State :=
  let first := !s.fab.pulseSeen
  let s := s.modFab fun f => { f with timeMsg := some t, timeSeen := true, lastPulse := if first then s.now else f.lastPulse }
  if s.fab.freeMode then s
  else if s.drivesSync then s.modFab fun f => { f with tst := .locked }
  else if s.pulseInput ∧ s.fab.tst ≠ .unset then s
  else s.setTime t

/-- `TIME_RECEIVED`: the master's message, passed on to the dimensions above; one from a fenced source is dropped (11 R250). -/
def execTimeReceived (port : BitVec 5) (p : Pkt) (s : State) : Out :=
  .next (
    let s := s.taken port.toNat p
    if s.retired p.epoch then s.countStale
    else if (s.tab p.epoch).fenced p.src.toNat then s
    else
      let s := (s.portsAbove (s.nextAbove port.toNat)).foldl (fun s k => s.copyTo p k) s
      s.crcOk p fun s =>
        if leAt p.payload 8 2 = s.fab.master.toNat ∧ s.fab.master ≠ s.fab.node then s.takeTime (BitVec.ofNat 64 (leAt p.payload 0 8)) else s)

/-- `TIME_MESSAGE_SEND`: once per second the master floods the time of the next pulse. -/
def execTimeMessageSend (s : State) : Out :=
  .next (
    let early : Bool := match s.fab.timeSent with
      | some t => decide (s.clk.now < t + 25000000)
      | none => false
    if s.fab.master ≠ s.fab.node ∨ s.fab.freeMode ∨ !s.fab.nodeSet ∨ early then s
    else
      let t := nextPulse s.fab.time
      let p := Pkt.sealed { blankPkt tTime s.fab.node with
        epoch := s.curEpoch, src := s.fab.node, session := s.trk.session, length := 16,
        payload := leBytes 8 t ++ leBytes 2 s.fab.node.toNat ++ leBytes 6 0 }
      let s := (s.portsAbove 0).foldl (fun s k => s.copyTo p k) s
      s.modFab fun f =>
        { f with timeSent := some s.clk.now, timeSeen := true, timeMsg := some (BitVec.ofNat 64 t),
                 lastPulse := if f.pulseSeen then f.lastPulse else s.now,
                 tst := if f.timeSeen then f.tst else if s.drivesSync then .locked else .holdover })

/-- `SYNC_TRIGGER_PULSE` (19 R416): a fabric time that is a multiple of 1 ms plus `FAB_SYNC_OFF` falls in this
tick. -/
def execSyncTriggerPulse (s : State) : Out :=
  .next (
    let r := ((s.fab.time.toNat : Int) - s.ret.syncOff.toInt + 39) % 1000000
    if s.ret.syncMode = 2 ∧ r < 40 then s.modPins fun p => { p with pulses := p.pulses + 1 } else s)

end Sys2Proof.Machine
end

