-- ==== Sys2Proof/Machine/CmdFabric.lean ====
section
/-! DEFINITION. The fabric commands (14 R322, Table 14.7): tables, the flip, ports, fabric time, barrier
groups. -/

namespace Sys2Proof.Machine

/-! ### Table versions (11 R247, R249, R250, R251) -/

def VerSt.code (v : VerSt) : Nat :=
  match v with
  | .writable => 0
  | .ready => 1
  | .active => 2
  | .retiring => 3

/-- Sizes of the parts of 11 Table 11.3, by their codes. -/
def partSize (k : Nat) : Nat :=
  match k with
  | 0 => 512
  | 1 => 512
  | 2 => 14336
  | 3 => 8192
  | 4 => 524288
  | 5 => 16384
  | 6 => 10240
  | _ => 0

/-- Bytes written into a part of a version. -/
def Table.write (t : Table) (k off : Nat) (bs : List Byte) : Table :=
  match k with
  | 0 => { t with present := memWrite t.present off bs }
  | 1 => { t with fence := memWrite t.fence off bs }
  | 2 => { t with dead := memWrite t.dead off bs }
  | 3 => { t with mcast := memWrite t.mcast off bs }
  | 4 => { t with members := memWrite t.members off bs }
  | 5 => { t with cin := memWrite t.cin off bs }
  | 6 => { t with csrc := memWrite t.csrc off bs }
  | _ => t

def State.modTab (s : State) (e : BitVec 1) (f : Table → Table) : State :=
  s.modFab fun x => if e = 0 then { x with tab0 := f x.tab0 } else { x with tab1 := f x.tab1 }

/-- A packet's `VER` field. -/
def verOf (c : Packet) : BitVec 1 := BitVec.ofNat 1 (c.at_ 16 1)

/-- The inactive version. -/
def State.spare (s : State) : BitVec 1 := ~~~s.curEpoch

/-- The long command in progress on a version: its commit, or a flip armed to it (14 R316). -/
def State.verBusy (s : State) (e : BitVec 1) : Option Half :=
  s.busy fun c => c.opcode = opCommit && verOf c.pkt = e || c.opcode = opFlipArm && e = s.spare

/-- Run a command that changes a version, which must be WRITABLE. -/
def State.onVersion (s : State) (e : BitVec 1) (f : Unit → Run) : Run :=
  s.unlessBusy (s.verBusy e) fun _ => if s.ver e ≠ .writable then s.wrong (s.ver e).code else f ()

def tableFaults (c : Packet) (s : State) : List (Nat × Half × Half) :=
  let size := partSize (c.at_ 17 1)
  let off := c.at_ 20 4
  let n := c.at_ 32 4
  (if size ≤ off then [(20, sBadParam, 20)] else []) ++
    (if s.admits 0 (c.at_ 24 8) n then [] else [(24, sBadParam, 24)]) ++
    if size < off + n then [(32, sBadParam, 32)] else []

/-- `TABLE_WRITE`. -/
def execTableWrite (c : Packet) (s : State) : Out :=
  .next (s.command c 0x0401 (tableFaults c) fun _ s =>
    s.onVersion (verOf c) fun _ =>
      let (bs, bad, s) := s.sharedRead (c.at_ 24 8) (c.at_ 32 4)
      if bad then s.refuse sMemoryError 0
      else .reply okRep (s.modTab (verOf c) fun t => t.write (c.at_ 17 1) (c.at_ 20 4) bs))

/-- `TABLE_COMMIT`: its checks end with `TABLE_COMMIT_COMPLETE`. -/
def execTableCommit (c : Packet) (s : State) : Out :=
  .next (s.command c opCommit (fun _ => []) fun at_ s =>
    s.onVersion (verOf c) fun _ => s.startLong c opCommit at_ false id)

/-- The node that a circuit enters by a port: none by a port to an attached node. -/
def State.enters (s : State) (t : Table) (port : Nat) : Bool :=
  (port < 28 || !s.ret.auxMode) && t.fenced (peerNodeOf s.self port)

/-- Positions of port directions in use so far, and the first entry at fault: part code and offset. -/
structure CommitScan where
  out   : List (Nat × Nat)
  fault : Option (Nat × Nat)
deriving DecidableEq, Repr

/-- Reserve positions of an outgoing port direction for the entry at an offset of a part: at most 224 of them,
and none into a fenced node. -/
def CommitScan.take (k : CommitScan) (part off port : Nat) (qs : List Nat) (bad : Bool) : CommitScan :=
  let out := qs.foldl (fun l q => if l.contains (port, q) then l else (port, q) :: l) k.out
  let full := decide (224 < (out.filter fun x => x.1 = port).length)
  { out := out, fault := k.fault.orElse fun _ => if bad || full then some (part, off) else none }

/-- Entry q of an inbound port. -/
def CommitScan.cin (s : State) (t : Table) (k : CommitScan) (port q : Nat) : CommitScan :=
  let e := t.cinOf port q
  if !e.getLsbD 15 then k
  else
    let crowded := decide (224 ≤ ((List.range q).filter fun j => (t.cinOf port j).getLsbD 15).length)
    let off := 2 * (256 * port + q)
    if e.getLsbD 14 then { k with fault := k.fault.orElse fun _ => if crowded then some (5, off) else none }
    else
      let out := (e.extractLsb' 9 5).toNat
      k.take 5 off out [(e.extractLsb' 1 8).toNat] (crowded || s.enters t out)

/-- A circuit that starts here. -/
def CommitScan.csrc (s : State) (t : Table) (k : CommitScan) (n : Nat) : CommitScan :=
  let e := t.csrcOf n
  if !e.getLsbD 63 then k
  else
    let out := (e.extractLsb' 34 5).toNat
    k.take 6 (40 * n) out ((List.range 256).filter (t.csrcPos n)) (t.fenced (e.extractLsb' 48 12).toNat || s.enters t out)

/-- The checks of R250 and R251 over a version: the first entry at fault, part code and byte offset. -/
def State.commitFault (s : State) (t : Table) : Option (Nat × Nat) :=
  let k := (List.range 8192).foldl (fun k n => CommitScan.cin s t k (n / 256) (n % 256)) ⟨[], none⟩
  ((List.range 256).foldl (CommitScan.csrc s t) k).fault

/-- `TABLE_COMMIT_COMPLETE`. -/
def execTableCommitComplete (ver : BitVec 1) (s : State) : Out :=
  .next (
    match s.cmds.long.find? fun c => c.opcode = opCommit && verOf c.pkt = ver with
    | none => s
    | some c =>
      match s.commitFault (s.tab ver) with
      | some (k, off) => s.complete c sBadParam 0xFFFE (BitVec.ofNat 32 k) (BitVec.ofNat 32 off) 0
      | none => (s.modFab fun f => setVer f (ver = 1) .ready).complete c sOk 0 0 0 0)

/-- A group that is not configured (log 55). -/
def noGroup (c : Packet) (s : State) : List (Nat × Half × Half) :=
  if (s.getBar (c.at_ 16 1)).valid then [] else [(16, sNotPermitted, BitVec.ofNat 16 (c.at_ 16 1))]

/-- The lowest release of a group whose T is not fixed. -/
def Barrier.lowest (b : Barrier) : Word := if b.fixed then b.next + 1 else b.next

/-- `FLIP_ARM`. -/
def execFlipArm (c : Packet) (s : State) : Out :=
  .next (s.command c opFlipArm (noGroup c) fun at_ s =>
    let e := s.spare
    s.unlessBusy (s.verBusy e) fun _ =>
      if s.ver e ≠ .ready then s.wrong (s.ver e).code
      else if s.now < s.fab.retire then s.wrong (min 0xFFFF (s.fab.retire - s.now).toNat)
      else
        let n : Word := if c.at_ 20 4 = 0 then (s.getBar (c.at_ 16 1)).lowest else BitVec.ofNat 32 (c.at_ 20 4)
        s.startLong c opFlipArm at_ false fun s =>
          s.modFab fun f => { f with armed := some (BitVec.ofNat 8 (c.at_ 16 1), n) })

/-- `FENCE`. -/
def execFence (c : Packet) (s : State) : Out :=
  .next (s.command c 0x0404 (fun _ => []) fun _ s =>
    s.onVersion (verOf c) fun _ =>
      let n := c.at_ 18 2 % 4096
      .reply okRep (s.modTab (verOf c) fun t =>
        let b := memByte t.fence (n / 8)
        let m : Byte := 1 <<< (n % 8)
        { t with fence := memWrite t.fence (n / 8) [if c.at_ 18 2 / 2 ^ 15 = 1 then b ||| m else b &&& ~~~m] }))

/-! ### Status (11 Table 11.7, 10 Table 10.5) -/

/-- `FAB_EPOCH` [31:0]. -/
def Fabric.epochWord (f : Fabric) : Nat :=
  (if f.epoch then 1 else 0) + f.ver0.code * 2 + f.ver1.code * 8 + (if f.armed.isSome then 32 else 0)

def TimeSt.code (t : TimeSt) : Nat :=
  match t with
  | .unset => 0
  | .locked => 1
  | .holdover => 2
  | .free => 3

/-- `PORT_STATE`. -/
def Port.state64 (p : Port) : Nat := p.stateWord.toNat + (p.peerPort.toNat / 16) * 2 ^ 32 + if p.attached then 2 ^ 33 else 0

/-- `FABRIC_STATUS`. -/
def execFabricStatus (c : Packet) (s : State) : Out :=
  .next (s.simple c 0x0405 fun s =>
    let bs := (List.range 32).flatMap fun k =>
      let p := s.getPort k
      leBytes 8 p.state64 ++ leBytes 4 p.delay.toNat ++ leBytes 4 0
    (⟨sOk, 0, BitVec.ofNat 32 s.fab.epochWord, BitVec.ofNat 32 (s.fab.tst.code + s.fab.lastErr.toNat * 2 ^ 16), 0⟩,
      s.toHost (BitVec.ofNat 64 (c.at_ 16 8)) bs))

/-! ### Ports (10 R221, R225, R227, 19 R421) -/

/-- An auxiliary port is enabled while their claim is free: it is taken in the retained mode. -/
def State.auxTaken (s : State) (port : Nat) : State :=
  if 28 ≤ port ∧ s.holder rankAux = 0 then s.setClaim rankAux s.auxHolder else s

/-- Write `PORT_CTRL` and `PORT_THR`; a port that changes its enable opens or goes idle. -/
def State.portWrite (s : State) (k : Nat) (on allow : Bool) (thr : Word) : State :=
  let was := (s.getPort k).enabled
  let s := s.modPort k fun p => { p with enabled := on, allow1 := allow, thr := thr }
  let s := if on && !was then (s.auxTaken k).openPort k
    else if !on && was then
      let s := s.cutPacket k
      let s := s.modPort k fun p => { p.goDown s.clk.now with st := .disabled }
      if 28 ≤ k then s.auxSettle else s
    else s
  s.saveSettings

/-- The settings of a PORT_SET packet. -/
def State.portSetting (s : State) (c : Packet) : State :=
  s.portWrite (c.at_ 16 1) (c.at_ 17 1 % 2 = 1) (c.at_ 17 1 / 2 % 2 = 1) (BitVec.ofNat 32 (s.expertVal c 0x0406 20 4 4096))

/-- A command packet whose flag, a bit of one of its bytes, is the one of its row. -/
def onForm (c : Packet) (off bit : Nat) (v : Bool) (s t : State) : State :=
  if (c.at_ off 1 / 2 ^ bit % 2 = 1) = v then t else s

/-- `PORT_SET` with `RETEST` = 0. -/
def execPortSet (c : Packet) (s : State) : Out :=
  .next (onForm c 17 2 false s (s.simple c 0x0406 fun s => (okRep, s.portSetting c)))

/-- A retest begins on a port that is UP. -/
def Port.retested (p : Port) (now : Nat) : Port :=
  if p.st = .up then { p with st := .narrowing, target := 0xF, retest := true, since := now } else p

/-- `PORT_RETEST`: PORT_SET with `RETEST` = 1. -/
def execPortRetest (c : Packet) (s : State) : Out :=
  .next (onForm c 17 2 true s (s.command c 0x0406 (fun _ => []) fun _ s =>
    let k := c.at_ 16 1
    if (s.getPort k).st = .narrowing then s.wrong PortSt.narrowing.code
    else .reply okRep ((s.portSetting c).modPort k fun p => p.retested s.clk.now)))

/-- `AUX_MODE`. -/
def execAuxMode (c : Packet) (s : State) : Out :=
  .next (s.command c 0x0407 (fun _ => []) fun _ s =>
    let attach := c.at_ 16 1 = 1
    let mine := holderId (if attach then featAttach else featDouble) 0
    let held := s.holder rankAux
    if held = mine then .reply okRep s
    else if held ≠ 0 then s.refuse sResourceHeld held
    else
      let s : State := { s with ret := { s.ret with auxMode := attach } }
      .reply okRep ([28, 29, 30, 31].foldl State.openPort (s.setClaim rankAux mine)).saveSettings)

/-- `RESEND`. -/
def execResend (c : Packet) (s : State) : Out :=
  .next (s.command c 0x0408 (fun _ => []) fun _ s =>
    .first okRep s fun s => s.modTrk fun t => { t with resendT := BitVec.ofNat 16 (c.at_ 16 2) })

/-! ### Fabric time (11 R258, R259, 19 R416, R421) -/

/-- The feature of a SYNC mode. -/
def syncFeat (m : BitVec 2) : Option Byte :=
  match m.toNat with
  | 1 => some featPulse
  | 2 => some featTrigger
  | 3 => some featPace
  | _ => none

/-- The SYNC mode of a TIME_CFG. -/
def syncModeOf (c : Packet) : BitVec 2 :=
  if c.at_ 18 1 % 2 = 1 then 1
  else match c.at_ 18 1 / 2 % 4 with
    | 1 => 2
    | 2 => 3
    | _ => 0

/-- The claims of a SYNC mode, after those of the old one fall free. -/
def State.syncClaims (s : State) (new : BitVec 2) : State :=
  if new = s.ret.syncMode then s
  else
    let s := match syncFeat s.ret.syncMode with
      | some f => s.releaseFeat f
      | none => s
    let s := match syncFeat new with
      | some f => s.setClaim rankSync (holderId f 0)
      | none => s
    let s := if new = 2 then s.takeComp (holderId featTrigger 0) else s
    s.modPins fun p => { p with syncOut := false }

/-- The state of fabric time under new roles (11 R259). -/
def State.timeState (s : State) : TimeSt :=
  if s.fab.freeMode then .free
  else if !s.fab.timeSeen then .unset
  else if s.drivesSync then .locked
  else if s.pulseInput ∧ s.fab.tst = TimeSt.locked ∧ s.clk.now < s.fab.lastPulse.toNat + 75000 then .locked
  else .holdover

/-- `TIME_CFG`. -/
def execTimeCfg (c : Packet) (s : State) : Out :=
  .next (s.command c 0x0409 (fun _ => if c.at_ 18 1 % 2 = 1 ∧ c.at_ 18 1 / 2 % 4 ≠ 0 then [(18, sBadParam, 18)] else []) fun _ s =>
    let new := syncModeOf c
    let change := decide (new ≠ s.ret.syncMode)
    let pin := if change && decide (s.ret.syncMode = 0) then [rankSync] else []
    match s.firstHeld pin (change && decide (new = 2)) [] with
    | some h => s.refuse sResourceHeld h
    | none =>
      let s := s.syncClaims new
      let s : State := { s with ret := { s.ret with syncMode := new, syncOff := BitVec.ofNat 16 (c.at_ 20 2) } }
      let s := s.modFab fun f => { f with master := BitVec.ofNat 12 (c.at_ 16 2), freeMode := c.at_ 16 2 / 2 ^ 15 = 1 }
      .reply okRep (s.modFab fun f => { f with tst := s.timeState }).saveSettings)

/-! ### Barrier groups (12 R271) -/

/-- The members of a 512-byte bitmap. -/
def bitmapNodes (bs : List Byte) : List NodeId :=
  ((List.range 4096).filter fun n => (bs.getD (n / 8) 0).getLsbD (n % 8)).map (BitVec.ofNat 12)

/-- The node of a COORD field is in a bitmap. -/
def inBitmap (bs : List Byte) (n : Nat) : Bool := n < 4096 && (bs.getD (n / 8) 0).getLsbD (n % 8)

def barrierFaults (c : Packet) (s : State) : List (Nat × Half × Half) :=
  let a := c.at_ 24 8
  let r := s.hbmRead a 512
  s.noPart (c.at_ 17 1) 17 ++
    (if s.admits 0 a 512 && !r.2.1 && !inBitmap r.1 (c.at_ 18 2) then [(18, sBadParam, 18)] else []) ++
    if s.admits 0 a 512 then [] else [(24, sBadParam, 24)]

/-- The state of a pipeline of p that uses the group. -/
def State.groupUser (s : State) (p g : Nat) : Option PipeSt :=
  let q := s.getPart p
  if q.uses g then some q.pipe else none

/-- The configuration of BARRIER_CFG over what the group keeps. -/
def Barrier.configured (b : Barrier) (owner : BitVec 6) (coord : NodeId) (lead : BitVec 15) (pace : Bool) (members : List NodeId) : Barrier :=
  let b := if b.valid ∧ b.owner = owner then b else { b.freed with next := 1, releases := 0 }
  { b with
    valid := true, owner := owner, coord := coord, lead := lead, pace := pace, members := members,
    arrivals := if b.fixed then b.arrivals else if b.coord = coord then b.arrivals.filter fun a => members.contains a.node else [],
    early := if b.coord = coord then b.early.filter fun a => members.contains a.node else [] }

/-- A module that has arrived at the release still open arrives again at a new coordinator; a coordinator may now
have every arrival. -/
def State.rearrive (s : State) (g : Nat) (old : NodeId) : State :=
  let b := s.getBar g
  match b.fixed, b.ownNode with
  | false, some a => if b.coord ≠ old then s.sendArrival g a else s.fixRelease g
  | false, none => (s.fixRelease g).tryArrive g
  | true, _ => s

/-- `BARRIER_CFG`. -/
def execBarrierCfg (c : Packet) (s : State) : Out :=
  .next (s.command c 0x040A (barrierFaults c) fun _ s =>
    let g := c.at_ 16 1
    let owner : BitVec 6 := BitVec.ofNat 6 (c.at_ 17 1)
    let b := s.getBar g
    match (if b.valid ∧ b.owner ≠ owner then s.groupUser b.owner.toNat g else none) with
    | some st => s.wrong st.code
    | none =>
      let (bs, bad, s) := s.sharedRead (c.at_ 24 8) 512
      if bad then s.refuse sMemoryError 0
      else
        let lead := BitVec.ofNat 15 (s.expertVal c 0x040A 20 2 250)
        .first okRep (s.setBar g (b.configured owner (BitVec.ofNat 12 (c.at_ 18 2)) lead (c.at_ 22 1 % 2 = 1) (bitmapNodes bs)))
          fun s => s.rearrive g b.coord)

/-- `BARRIER_FREE`. -/
def execBarrierFree (c : Packet) (s : State) : Out :=
  .next (s.command c 0x040B (fun _ => []) fun _ s =>
    let g := c.at_ 16 1
    match s.part.find? fun x => x.2.pipe.beyondLoaded && x.2.uses g with
    | some x => s.wrong x.2.pipe.code
    | none => .reply okRep (s.modBar g Barrier.freed))

end Sys2Proof.Machine
end

