-- ==== Sys2Proof/Machine/CmdPipe.lean ====
section
/-! DEFINITION. The pipeline commands (14 R321, 07 R149 to R158, 01 R24 to R27). -/

namespace Sys2Proof.Machine

/-- The long command of an opcode and partition that has begun. -/
def State.longOf (s : State) (op : Half) (p : Nat) : Option LongCmd :=
  s.cmds.long.find? fun c => c.opcode = op && c.part.toNat = p && c.st = .accepted

/-! ### LOAD and UNLOAD -/

/-- The address field of a load lies in the partition's windows (18 Table 18.7). -/
def imageFaults (c : Packet) (s : State) : List (Nat × Half × Half) :=
  if s.admits c.part (c.at_ 24 8) 256 then [] else [(24, sBadParam, 24)]

/-- `LOAD`. -/
def execLoad (c : Packet) (s : State) : Out :=
  .next (s.command c opLoad (imageFaults c) fun at_ s =>
    s.unlessBusy (s.busy (onPipe c.part)) fun _ =>
      let q := s.getPart c.part
      if q.pipe ≠ .none then s.wrong q.pipe.code else s.startLong c opLoad at_ false id)

/-- A fault position as results 0 to 2. -/
def State.failImage (s : State) (c : LongCmd) (st d : Half) (f : ImgFault) : State :=
  s.complete c st d (BitVec.ofNat 32 f.1) (BitVec.ofNat 32 (f.1 / 2 ^ 32)) (BitVec.ofNat 32 f.2)

/-- What a partition keeps of an image. -/
def Part.withImage (q : Part) (im : Image) : Part :=
  { q with pipeId := im.pipeId, stages := im.stages.map (·.stage), groups := im.groups, stepGroup := im.stepGroup }

/-- `LOAD_COMPLETE`. -/
def execLoadComplete (p : BitVec 6) (s : State) : Out :=
  .next (
    let k := p.toNat
    match s.longOf opLoad k with
    | none => s
    | some c =>
      if s.frameHeld then s else
      let a := c.pkt.at_ 24 8
      match s.readImage k a with
      | (.bad f, s) => s.failImage c sBadParam 0xFFFE f
      | (.memory f, s) => s.failImage c sMemoryError 0 f
      | (.ok im _, s) =>
        (s.modPart k fun q => { q.withImage im with pipe := .loaded, image := BitVec.ofNat 48 a, releases := 0, energyHeld := none,
                                                    restores := 0, restored := none, captures := [] }).complete
          c sOk 0 im.pipeId (BitVec.ofNat 32 im.stages.length) 0)

/-- `UNLOAD`. -/
def execUnload (c : Packet) (s : State) : Out :=
  .next (s.command c 0x0302 (fun _ => []) fun _ s =>
    s.unlessBusy (s.busy (onPipe c.part)) fun _ =>
      let q := s.getPart c.part
      if q.pipe ≠ .loaded then s.wrong q.pipe.code
      else .reply okRep (s.setPart c.part { q with pipe := .none, image := 0, pipeId := 0, stages := [], groups := [], stepGroup := 0 }))

/-! ### BIND -/

/-- Claims that an image needs, in ascending resource id. -/
def Image.claims (im : Image) : List Nat :=
  let ids := (List.range 256)
  (ids.filter fun i => im.stages.any fun g => g.stage.island.toNat = i && g.stage.ch3).map rankCh3 ++
    (ids.filter fun i => im.stages.any fun g => g.stage.island.toNat = i && g.stage.staging).map rankStaging

/-- The islands of an image, in stage order. -/
def Image.islands (im : Image) : List Nat := im.stages.map fun g => g.stage.island.toNat

/-- The link slot that order 4 of 07 Table 7.3 names: one held by a circuit of another pipeline, else the lowest slot of
the first or last link of a circuit whose source or destination port another pipeline's circuit has (07 R160, log 87). -/
def State.circuitClash (s : State) (p : Nat) (im : Image) : Option (Nat × Nat × Nat) :=
  let others := s.circ.filter fun c => c.partition.toNat ≠ p
  let held := others.flatMap (·.holds)
  let low (c : Circuit) (l : Option (Nat × Nat)) : Option (Nat × Nat × Nat) :=
    l.bind fun l => ((List.range 8).find? fun k => c.slots.getLsbD k).map fun k => (l.1, l.2, k)
  firstSome [
    (im.circuits.flatMap (·.holds)).find? held.contains,
    im.circuits.findSome? fun c =>
      let ls := routeLinks c.src.toNat c.route
      if others.any fun b => b.src = c.src && b.srcPort = c.srcPort then low c ls.head?
      else if others.any fun b => b.dst = c.dst && b.dstPort = c.dstPort then low c ls.getLast? else none]

/-- Checks 2 to 6 of 07 Table 7.3. -/
def State.bindFault (s : State) (p : Nat) (im : Image) : Option (Half × Half) :=
  match im.islands.find? fun i => !s.present i with
  | some i => some (sNoResource, BitVec.ofNat 16 i)
  | none =>
    match im.islands.find? fun i => s.islSt i ≠ stOff && s.islSt i ≠ stGated with
    | some i => some (sNoResource, BitVec.ofNat 16 i)
    | none =>
      match s.circuitClash p im with
      | some (i, d, k) => some (sNoResource, BitVec.ofNat 16 (i * 32 + d * 8 + k))
      | none =>
        match im.groups.find? fun g => !((s.getBar g).valid && (s.getBar g).owner.toNat = p) with
        | some g => some (sNotPermitted, BitVec.ofNat 16 g)
        | none =>
          match im.claims.find? fun r => s.holder r ≠ 0 && s.holder r ≠ holderId featPipe p with
          | some r => some (sResourceHeld, s.holder r)
          | none => none

/-- Take the claims of an image for partition p, and no others. -/
def State.claimFor (s : State) (p : Nat) (im : Image) : State :=
  (s.release fun h => h = holderId featPipe p).setClaims im.claims (holderId featPipe p)

/-- The bind begins: the image is read and checked, and only one that passes takes its claims and wakes its groups; the
bytes checked are kept for the writes (07 R155, 01 R26). -/
def State.bindBegins (s : State) (p : Nat) : State :=
  match s.readImage p (s.getPart p).image.toNat with
  | (.ok im img, t) =>
    match t.bindFault p im with
    | some _ => s
    | none =>
      let gs := (im.islands.map groupOf).dedup
      (gs.foldl State.wakeGroup (t.claimFor p im)).modPart p fun q => { q with binding := some (img, gs) }
  | _ => s

/-- `BIND`. The image is judged as it stands; one that fails 07 R150 fails at the completion. -/
def execBind (c : Packet) (s : State) : Out :=
  .next (s.command c opBind (fun _ => []) fun at_ s =>
    s.unlessBusy (s.busy (onPipe c.part)) fun _ =>
      let q := s.getPart c.part
      if q.pipe ≠ .loaded then s.wrong 0
      else
        let begin_ (s : State) : State := s.bindBegins c.part
        match (s.readImage c.part q.image.toNat).1 with
        | .ok im _ =>
          match s.bindFault c.part im with
          | some (st, d) => s.refuse st d
          | none => s.startLong c opBind at_ true begin_
        | _ => s.startLong c opBind at_ true begin_)

/-- Records that the firmware has not yet copied go out before the ring is cleared (01 R27). -/
def State.flushLog (s : State) (i : Nat) : State :=
  let v := s.getIsl i
  v.excPending.foldl (fun s r => s.excPut v.partition.toNat (r.bytes i)) s

/-- Values of n bytes each, by index. -/
def words (w : Nat) (bs : List Byte) (off n size : Nat) : SMap (BitVec w) :=
  (List.range n).map fun k => (k, BitVec.ofNat w (leAt bs (off + size * k) size))

/-- An island as a bind leaves it: cleared, filled where it last served another partition, and written from
the image (01 R27, 07 R155). -/
def Island.bound (v : Island) (p : Nat) (im : Image) (g : ImgStage) (img : List Byte) : Island :=
  let d := (img.drop g.descOff).take 1664
  let r := (img.drop g.regsOff).take 384
  let keep := v.lastServed.isNone || v.lastServed = some (BitVec.ofNat 6 p)
  let n : Island :=
    { Island.reset with
      st := stBound, pipeline := im.pipeId, partition := BitVec.ofNat 6 p, lastServed := some (BitVec.ofNat 6 p),
      sp := if keep then v.sp else [], spErr := if keep then v.spErr else [], spHard := v.spHard, imemHard := v.imemHard,
      arr := v.arr.map fun a => (a.1, { Array.reset with accHard := a.2.accHard }),
      logLost := v.logLost, straitDrop := v.straitDrop,
      imem := words 256 img g.imemOff g.bundles 32, pd := words 64 d 0 16 8, fd := words 128 d 128 32 16, dd := words 512 d 640 16 64,
      x := (words 64 r 0 32 8).filter fun e => e.1 ≠ 0, h := words 16 r 256 16 2, sem := words 16 r 288 32 2,
      stepReg := BitVec.ofNat 32 (leAt r 352 4), drainKey := BitVec.ofNat 128 (leAt r 360 16),
      waitLimit := BitVec.ofNat 32 (leAt r 376 4), seqPc := g.stage.entry }
  g.pre.foldl (fun n e => n.spWrite e.2.1 ((img.drop e.1).take e.2.2)) n

/-- Place the stages, the circuits and, after a restore, the captured registers (16 R371). -/
def State.place (s : State) (p : Nat) (im : Image) (img : List Byte) : State :=
  let q := s.getPart p
  let s := im.stages.foldl (fun s g =>
    let i := g.stage.island.toNat
    let s := s.flushLog i
    let v := (s.getIsl i).bound p im g img
    let cap := smGet [] q.captures i
    s.setIsl i (if q.restored.isSome ∧ cap ≠ [] then v.uncapture cap else v)) s
  let islands := im.islands
  { s with circ := s.circ ++ im.circuits, bundle := s.bundle.filter fun b => !islands.contains b.1,
           beats := s.beats.filter fun b => !islands.contains b.island.toNat }

/-- The module counter, or the partition's (17 R381). -/
def State.energyOf (s : State) (p : Nat) : Nat := if s.pwr.perPart then (s.getPart p).energy else s.pwr.energy

/-- Take back a bind that fails or is superseded: the claims fall free, and nothing else has changed (07 R155). -/
def State.bindUndone (s : State) (p : Nat) : State :=
  (s.release fun h => h = holderId featPipe p).modPart p fun q => { q with binding := none }

/-- The islands of a pipeline are unbound: the groups count their 1 ms from this tick (01 R23). -/
def State.unbindGroups (s : State) (p : Nat) : State :=
  ((s.getPart p).stages.map fun x => groupOf x.island.toNat).dedup.foldl
    (fun s g => s.setGrp g { s.getGrp g with unbound := s.clk.now }) s

/-- A bind whose image has been read and checked places it, once its groups are awake (07 R155). -/
def State.bindPlaces (s : State) (k : Nat) (c : LongCmd) (im : Image) (img : List Byte) : State :=
  match s.bindFault k im with
  | some (st, d) => (s.bindUndone k).complete c st d 0 0 0
  | none =>
    let gs := (im.islands.map groupOf).dedup
    if gs.any fun g => (s.getGrp g).gate ≠ .clocked then gs.foldl State.wakeGroup s
    else
      let s := (s.getPart k).windows.foldl (fun s w =>
        if w.2.valid then s.backInvAll (s.directoryIn w.2.base.toNat w.2.size.toNat) else s) s
      let s := s.place k im img
      (s.modPart k fun q => { q.withImage im with pipe := .bound, binding := none, releases := 0, energyAt := s.energyOf k,
                                                  energyHeld := none }).complete c sOk 0 0 0 0

/-- `BIND_COMPLETE`: the bytes that the bind has checked are written once the groups are awake; a bind that has not
passed its checks is judged by the image as it stands. -/
def execBindComplete (p : BitVec 6) (s : State) : Out :=
  .next (
    let k := p.toNat
    match s.longOf opBind k with
    | none => s
    | some c =>
      match (s.getPart k).binding with
      | some (img, _) =>
        match parseImage img k fun _ => true with
        | .ok im => s.bindPlaces k c im img
        | .error f => (s.bindUndone k).failImage c sBadParam 0xFFFE f
      | none =>
        match s.readImage k (s.getPart k).image.toNat with
        | (.bad f, s) => s.failImage c sBadParam 0xFFFE f
        | (.memory f, s) => s.failImage c sMemoryError 0 f
        | (.ok im img, t) =>
          match t.bindFault k im with
          | some (st, d) => t.complete c st d 0 0 0
          | none =>
            let s := s.bindBegins k
            s.bindPlaces k c im img)

/-! ### START, RESUME, PAUSE -/

/-- The group of a START or RESUME. -/
def State.startGroup (s : State) (c : Packet) (op : Nat) : Nat :=
  s.expertVal c op 16 1 (s.getPart c.part).stepGroup.toNat % 256

/-- A group that the partition does not own, with the group as detail. A partition without a pipeline has no
`STEP_GROUP` to take (log 53). -/
def groupFaults (c : Packet) (op : Nat) (s : State) : List (Nat × Half × Half) :=
  let g := s.startGroup c op
  let given := c.expert || s.cmds.defaults.any fun d => d.1.toNat = op && d.2.1 = 16
  if (s.getPart c.part).pipe = .none ∧ ¬ given then []
  else if (s.getBar g).valid ∧ (s.getBar g).owner.toNat = c.part then [] else [(16, sNotPermitted, BitVec.ofNat 16 g)]

/-- The group has members other than this module, and fabric time is UNSET. -/
def State.timeless (s : State) (g : Nat) : Bool :=
  s.fab.tst = TimeSt.unset && (s.getBar g).members.any fun m => m ≠ s.fab.node

/-- A START or RESUME of a pipeline in state `from_`. -/
def State.startCmd (s : State) (c : Packet) (op : Half) (from_ : PipeSt) : State :=
  s.command c op (groupFaults c op.toNat) fun at_ s =>
    s.unlessBusy (s.busy (onPipe c.part)) fun _ =>
      let q := s.getPart c.part
      let g := s.startGroup c op.toNat
      if q.pipe ≠ from_ then s.wrong q.pipe.code
      else if s.timeless g then s.wrong 0x0100
      else s.startLong c op at_ true fun s =>
        (s.setPart c.part { q with starting := true, startGrp := some (BitVec.ofNat 8 g) }).tryArrive g

/-- `START`. -/
def execStart (c : Packet) (s : State) : Out := .next (s.startCmd c opStart .bound)

/-- `RESUME`. -/
def execResume (c : Packet) (s : State) : Out := .next (s.startCmd c opResume .paused)

/-- The lowest `STEP_GROUP` release whose time is not fixed (07 R157). -/
def State.lowestOpen (s : State) (p : Nat) : Word :=
  let q := s.getPart p
  q.releases + if (s.getBar q.stepGroup.toNat).fixed then 2 else 1

/-- `PAUSE`. -/
def execPause (c : Packet) (s : State) : Out :=
  .next (s.command c opPause (fun _ => []) fun at_ s =>
    s.unlessBusy (s.busy (onPipe c.part)) fun _ =>
      let q := s.getPart c.part
      let low := s.lowestOpen c.part
      let n : Word := if c.at_ 16 4 = 0 then low else BitVec.ofNat 32 (c.at_ 16 4)
      if q.pipe ≠ .running then s.wrong q.pipe.code
      else if n < low then .reply ⟨sWrongState, low.setWidth 16, low, 0, 0⟩ s
      else s.startLong c opPause at_ true fun s => s.setPart c.part { q with pipe := .pauseArmed, pauseAt := some n })

/-! ### DRAIN -/

/-- Commands that a drain supersedes complete with the state that ended them (14 R316). -/
def State.superseded (s : State) (p : Nat) : State :=
  s.completeAll (fun c => c.part.toNat = p && [opBind, opStart, opResume, opPause].contains c.opcode) sWrongState 7

/-- A drain abandons every channel of an island: no record is written any more, and its tracker entries are freed
without resend; reads already issued land nowhere (09 R201, R203). -/
def State.abandon (s : State) (i : Nat) : State :=
  (s.modIsl i fun v =>
    { v.pauseChans with
      stopped := true, waiting := none, midBundle := false,
      chan := v.pauseChans.chan.map fun c => (c.1, { c.2 with
        st := 0, queue := [], refused := [], recOut := none, pieces := [], sub := 0, runOff := none, allRead := false, notified := false,
        tracked := 0, inFlight := 0 }) }).modTrk fun t =>
    { t with entries := t.entries.filter fun e => e.1 / 128 ≠ i }

/-- Issue stops on every island in one cycle; what has been issued runs on. -/
def State.drainBegins (s : State) (p : Nat) : State :=
  let s := s.superseded p
  let s := if (s.getPart p).pipe = .loaded then s.bindUndone p else s
  let q := s.getPart p
  let s := s.setPart p { q with pipe := .draining, pauseAt := none, starting := false, startGrp := none, startT := none }
  if q.pipe = .loaded then s else q.stages.foldl (fun s x => s.abandon x.island.toNat) s

/-- `PIPELINE_DRAIN`: DRAIN, also of a pipeline whose bind is in progress. -/
def execPipelineDrain (c : Packet) (s : State) : Out :=
  .next (s.command c opDrain (fun _ => []) fun at_ s =>
    let q := s.getPart c.part
    let binding := (s.busy fun x => x.part.toNat = c.part && x.opcode = opBind).isSome
    if q.pipe.quiet ∧ ¬ binding ∨ q.pipe = .draining then s.wrong q.pipe.code
    else s.startLong c opDrain at_ false fun s => s.drainBegins c.part)

/-- The operations an island has issued have run to their end, and the accesses its channels had issued have landed
(07 R158). -/
def Island.still (v : Island) : Bool :=
  v.quiet && v.sched.isEmpty && v.inFlight.isEmpty && v.bankQ.all fun q => q.2.isEmpty

/-- An island returns to GATED; its exception log and the partition it last served stay (log 54). -/
def Island.unbound (v : Island) : Island :=
  { v with st := stGated, stopped := true, waiting := none, sched := [], ops := [] }

/-- `PIPELINE_DRAIN_COMPLETE`. -/
def execPipelineDrainComplete (p : BitVec 6) (s : State) : Out :=
  .next (
    let k := p.toNat
    match s.longOf opDrain k with
    | none => s
    | some c =>
      let q := s.getPart k
      let islands := (q.stages.map fun x => x.island.toNat).filter fun i => stBound ≤ s.islSt i && (s.getIsl i).partition.toNat = k
      let s := islands.foldl (fun s i => if s.islSt i = stRunning ∨ s.islSt i = stFaulted then s else s.runOut i) s
      if islands.any fun i => !(s.getIsl i).still then s
      else
        let late := (islands.filter fun i => !(s.getIsl i).ended).length
        let s := islands.foldl (fun s i => s.modIsl i Island.unbound) s
        let s := s.bindUndone k
        let s := if islands.isEmpty then s else s.unbindGroups k
        let s := s.modPart k fun q =>
          { q with pipe := .loaded, energyHeld := if islands.isEmpty then q.energyHeld else some (s.energyOf k - q.energyAt),
                   restored := if islands.isEmpty then q.restored else none, captures := if islands.isEmpty then q.captures else [] }
        let s := (q.stepGroup.toNat :: q.groups).foldl (fun s g => s.modBar g fun b =>
          if b.owner.toNat = k then { b with arrived := [] } else b) s
        ({ s with circ := s.circ.filter fun x => x.partition.toNat ≠ k } : State).complete c sOk 0 (BitVec.ofNat 32 late) 0 0)

/-! ### STATUS and EXC_QUEUE -/

/-- `ISL_STATE` (05 Table 5.14). -/
def State.islWord (s : State) (i : Nat) : Nat :=
  let v := s.getIsl i
  if s.present i then v.pipeline.toNat * 2 ^ 32 + v.partition.toNat * 2 ^ 16 + v.st.toNat else 0

/-- Energy of a pipeline in pJ (17 R381). -/
def State.pipeEnergy (s : State) (p : Nat) : Nat :=
  let q := s.getPart p
  match q.energyHeld with
  | some e => e
  | none => if q.pipe.beyondLoaded then s.energyOf p - q.energyAt else 0

/-- `STATUS`. -/
def execStatus (c : Packet) (s : State) : Out :=
  .next (s.simple c 0x0308 fun s =>
    let q := s.getPart c.part
    let bs := leBytes 8 q.pipe.code ++ leBytes 8 (s.pipeEnergy c.part / 1000000) ++ (List.range 256).flatMap fun i => leBytes 8 (s.islWord i)
    let bad := (q.stages.filter fun x => s.islSt x.island.toNat = stFaulted && (s.getIsl x.island.toNat).partition.toNat = c.part).length
    (⟨sOk, 0, BitVec.ofNat 32 q.pipe.code, BitVec.ofNat 32 bad, q.releases⟩, s.toHost (BitVec.ofNat 64 (c.at_ 16 8)) bs))

/-- `EXC_QUEUE`. -/
def execExcQueue (c : Packet) (s : State) : Out :=
  .next (s.command c 0x0309 (fun _ => if 1 ≤ c.at_ 16 1 ∧ c.at_ 16 1 < 6 then [(16, sBadParam, 16)] else []) fun _ s =>
    let n := c.at_ 16 1
    let q : ExcQueue := ⟨n, BitVec.ofNat 64 (c.at_ 24 8), BitVec.ofNat 64 (c.at_ 32 8), BitVec.ofNat 64 (c.at_ 40 8), 0, 0, 0⟩
    .reply okRep (s.modPart c.part fun p => { p with exc := if n = 0 then none else some q }))

end Sys2Proof.Machine
end

