-- ==== Sys2Proof/Machine/CmdSnap.lean ====
section
/-! DEFINITION. The snapshot commands (14 R323, Table 14.8, 16 R355 to R373). -/

namespace Sys2Proof.Machine

/-! ### The engine as an object (14 R316, R317, 19 R422) -/

/-- The opcode that the snapshot engine is busy with; a cut under `CUT_EVERY` counts as SNAP_CUT. -/
def State.engineBusy (s : State) : Option Half :=
  match s.busy fun c => c.opcode = opCut || c.opcode = opRestore || c.opcode = opVerify with
  | some op => some op
  | none => if s.snap.cut.isSome then some opCut else none

/-- Who holds a resource for SNAP_ENABLE: its claim, or the LOADED pipeline whose image uses it. -/
def State.heldFor (s : State) (r : Nat) : Half :=
  if s.holder r ≠ 0 then s.holder r
  else
    match s.part.find? fun x => x.2.pipe = .loaded && x.2.stages.any fun g =>
        g.ch3 && rankCh3 g.island.toNat = r || g.staging && rankStaging g.island.toNat = r with
    | some x => holderId featPipe x.1
    | none => 0

/-- The resources of the engine on every present island, in ascending id. -/
def State.engineRanks (s : State) : List Nat :=
  let is := (List.range 256).filter s.present
  is.map rankCh3 ++ is.map rankStaging

/-- The first resource held against SNAP_ENABLE. -/
def State.engineHeld (s : State) : Option Half :=
  if s.freeComp.isNone then some (s.holder (rankComp 2))
  else (s.engineRanks.find? fun r => s.heldFor r ≠ 0).map s.heldFor

/-- `SNAP_ENABLE` with `ENABLE` = 1. -/
def execSnapEnable (c : Packet) (s : State) : Out :=
  .next (onForm c 16 0 true s (s.command c 0x0501 (fun _ => []) fun _ s =>
    s.unlessBusy s.engineBusy fun _ =>
      if s.snap.enabled then .reply okRep s
      else
        match s.engineHeld with
        | some h => s.refuse sResourceHeld h
        | none =>
          let s := (s.takeComp (holderId featSched 0)).setClaims s.engineRanks (holderId featSnap 0)
          .reply okRep (s.modSnap fun x => { x with enabled := true })))

/-- SNAP_ENABLE with `ENABLE` = 0. -/
def execSnapDisable (c : Packet) (s : State) : Out :=
  .next (onForm c 16 0 false s (s.command c 0x0501 (fun _ => []) fun _ s =>
    s.unlessBusy s.engineBusy fun _ =>
      .reply okRep (((s.releaseFeat featSched).releaseFeat featSnap).modSnap fun x => { x with enabled := false })))

/-! ### SNAP_POLICY (16 R355) -/

/-- The range of n pages at an address lies in HBM and in windows of partition p. -/
def State.pagesOk (s : State) (p a n : Nat) : Bool := s.admits p a (n * pageSize)

/-- The page ranges of an entry, with the offset of the address in the entry. -/
def entryRanges (a a1 n : Nat) (dbuf : Bool) : List (Nat × Nat × Nat) := (0, a, n) :: if dbuf then [(16, a1, n)] else []

def rangesMeet (x y : Nat × Nat × Nat) : Bool := overlaps x.2.1 (x.2.2 * pageSize) y.2.1 (y.2.2 * pageSize)

/-- Fault of the policy header, by byte offset. -/
def policyHeaderFault (bs : List Byte) : Option Nat :=
  let at_ (o n : Nat) : Nat := leAt bs o n
  let area (o : Nat) : Option Nat := (failAt (at_ o 6 % pageSize ≠ 0) o).orElse fun _ => failAt (at_ (o + 6) 2 ≠ 0) (o + 6)
  let loss : Bool := match regionOf (at_ 40 6) 64 with
    | .reserved => true
    | _ => at_ 40 6 % 64 ≠ 0
  firstSome [failAt (at_ 4 4 ≠ 0) 4, area 8, area 16, area 24, failAt loss 40, failAt (at_ 46 2 / 4096 % 8 ≠ 0) 46,
    failAt (at_ 48 16 ≠ 0) 48]

/-- Ranges of the entries so far, how many are double-buffered, and the first fault. -/
structure EntryScan where
  ranges : List (Nat × Nat × Nat)
  dbufs  : Nat
  fault  : Option Nat
deriving DecidableEq, Repr

/-- Entry k of a table of partition p. -/
def EntryScan.next (s : State) (p : Nat) (bs : List Byte) (z : EntryScan) (k : Nat) : EntryScan :=
  let o := 64 + 32 * k
  let at_ (i n : Nat) : Nat := leAt bs (o + i) n
  let n := at_ 8 4
  let sized := decide (1 ≤ n ∧ n ≤ 2 ^ 20)
  let dbuf := at_ 6 1 / 4 % 2 = 1
  let method := at_ 6 1 % 4
  let rs := entryRanges (at_ 0 6) (at_ 16 6) n dbuf
  let bad (r : Nat × Nat × Nat) : Bool :=
    r.2.1 % pageSize ≠ 0 || sized && (!s.pagesOk p r.2.1 n || z.ranges.any (rangesMeet r))
  let dbufs := z.dbufs + if dbuf then 1 else 0
  let f := firstSome [failAt (bad (0, at_ 0 6, n)) 0,
    failAt (at_ 6 1 / 8 ≠ 0 || method = 0 || dbuf && (method ≠ 1 || 16 < dbufs)) 6, failAt (at_ 7 1 ≠ 0) 7, failAt (!sized) 8,
    failAt (at_ 12 4 ≠ 0) 12,
    failAt (if dbuf then bad (16, at_ 16 6, n) || sized && rangesMeet (0, at_ 0 6, n) (16, at_ 16 6, n) else at_ 16 6 ≠ 0) 16,
    failAt (at_ 22 10 ≠ 0) 22]
  { ranges := rs ++ z.ranges, dbufs := dbufs, fault := z.fault.orElse fun _ => f.map (o + ·) }

/-- The first fault of a policy table of n entries. -/
def State.policyFault (s : State) (p : Nat) (bs : List Byte) (n : Nat) : Option Nat :=
  (policyHeaderFault bs).orElse fun _ => ((List.range n).foldl (EntryScan.next s p bs) ⟨[], 0, none⟩).fault

def Policy.parse (bs : List Byte) (n : Nat) : Policy :=
  let at_ (o k : Nat) : Nat := leAt bs o k
  { cutEvery := BitVec.ofNat 32 (at_ 0 4), partnerArea := BitVec.ofNat 48 (at_ 8 6), parityArea := BitVec.ofNat 48 (at_ 16 6),
    preArea := BitVec.ofNat 48 (at_ 24 6), prePages := at_ 32 4, parityPages := at_ 36 4, lossAddr := BitVec.ofNat 48 (at_ 40 6),
    replica := if at_ 46 2 / 2 ^ 15 = 1 then some (BitVec.ofNat 12 (at_ 46 2)) else none,
    entries := (List.range n).map fun k =>
      let o := 64 + 32 * k
      ⟨at_ o 6, at_ (o + 16) 6, at_ (o + 8) 4, at_ (o + 6) 1 / 4 % 2 = 1, at_ (o + 6) 1 % 2 = 1, at_ (o + 6) 1 / 2 % 2 = 1⟩ }

/-- `SNAP_POLICY`. -/
def execSnapPolicy (c : Packet) (s : State) : Out :=
  let n := c.at_ 16 2
  let a := c.at_ 24 8
  let size := 64 + 32 * n
  .next (s.command c 0x0502 (fun s => if s.admits c.part a size then [] else [(24, sBadParam, 24)]) fun _ s =>
    let (bs, bad, s) := s.sharedRead a size
    if bad then s.refuse sMemoryError 0
    else
      match s.policyFault c.part bs n with
      | some off => .reply ⟨sBadParam, 24, BitVec.ofNat 32 off, 0, 0⟩ s
      | none =>
        s.unlessBusy s.engineBusy fun _ =>
          if !s.snap.enabled then s.wrong 0
          else .reply okRep ((s.modPart c.part fun q => { q with policy := some (Policy.parse bs n) }).modSnap fun x => { x with fullDue := 3 }))

/-! ### SNAP_PARTNERS (16 R366) -/

/-- The eight nodes of the `STRIPE` field. -/
def stripeOf (c : Packet) : List Nat := (List.range 8).map fun k => c.at_ (24 + 2 * k) 2

def partnerFaults (c : Packet) (s : State) : List (Nat × Half × Half) :=
  s.noPart (c.at_ 16 1) 16 ++ (if c.at_ 18 2 < 4096 then [] else [(18, sBadParam, 18)]) ++
    ((List.range 8).filter fun k => 4096 ≤ c.at_ (24 + 2 * k) 2).map fun k => (24 + 2 * k, sBadParam, BitVec.ofNat 16 (24 + 2 * k))

/-- `SNAP_PARTNERS`, with the feed tags that the named modules answered; `none` for one that cannot be
reached. -/
def execSnapPartners (c : Packet) (tags : List (NodeId × Option Half)) (s : State) : Out :=
  .next (s.command c 0x0503 (partnerFaults c) fun _ s =>
    s.unlessBusy s.engineBusy fun _ =>
      let p := c.at_ 16 1
      let partner : NodeId := BitVec.ofNat 12 (c.at_ 18 2)
      let stripe : List NodeId := (stripeOf c).map (BitVec.ofNat 12)
      let reached (n : NodeId) : Bool := n = s.fab.node || tags.any fun x => x.1 = n && x.2.isSome
      if !(partner :: stripe).all reached then s.refuse sTimeout 0
      else
        let known := tags.filterMap fun x => x.2.map fun v => (x.1, v)
        let q := { s.getPart p with partner := some partner, stripe := stripe, tags := known }
        match s.firstShared q with
        | some n =>
          if c.at_ 17 1 % 2 = 0 then s.refuse sFeedShared (n.zeroExtend 16)
          else .reply okRep ((s.setPart p q).modSnap fun x => { x with fullDue := 3, sharedTag := true })
        | none => .reply okRep ((s.setPart p q).modSnap fun x => { x with fullDue := 3, sharedTag := false }))

/-! ### Cuts (16 R357, R360, R367) -/

/-- `SNAP_CUT` (log 56). -/
def execSnapCut (c : Packet) (s : State) : Out :=
  .next (s.command c opCut (fun _ => []) fun at_ s =>
    s.unlessBusy ((s.busy (onPipe c.part)).orElse fun _ => s.engineBusy) fun _ =>
      let q := s.getPart c.part
      let low := s.lowestOpen c.part
      let n : Word := if c.at_ 16 4 = 0 then low else BitVec.ofNat 32 (c.at_ 16 4)
      if q.pipe.quiet then s.wrong q.pipe.code
      else if !s.snap.enabled || q.policy.isNone then s.wrong 0
      else if n < low then s.wrong (low.toNat % 65536)
      else s.startLong c opCut at_ true fun s => s.modSnap fun x => { x with armed := some (BitVec.ofNat 6 c.part, n, true) })

/-- Islands that have yet to latch their capture set. -/
def State.latching (s : State) (p : Nat) : Bool :=
  s.bar.any fun b => b.2.owner.toNat = p && b.2.pending.any fun x => x.cut && x.edge.isSome && !x.waiting.isEmpty

/-- A cut ends: the generation is complete unless a copy failed. -/
def Snap.ended (x : Snap) (c : Cut) : Snap :=
  let g := x.genNo % 2
  let x := { x with cut := none, guarded := [], cost := BitVec.ofNat 32 (min (2 ^ 32 - 1) (c.touchMax + c.arrHold)) }
  if c.failed.isEmpty then
    { x with gen := x.gen ||| bit2 g, older := x.last, last := c.release, lastStep := c.stepNo, rel := smSet x.rel g c.release,
             steps := smSet x.steps g c.stepNo, fullDue := x.fullDue &&& ~~~bit2 g }
  else { x with fullDue := x.fullDue ||| bit2 g }

/-- `SNAP_COPY_COMPLETE`: the last copy of the cut is acknowledged. -/
def execSnapCopyComplete (s : State) : Out :=
  .next (
    match s.snap.cut with
    | none => s
    | some c =>
      let p := c.part.toNat
      if !c.edge || s.copying || s.latching p then s
      else
        let lost := c.failed.length + c.inexact
        let s := s.modSnap fun x => x.ended c
        let s := s.toPartner p 0 (snapHeader s.snap) .snapshot
        let s := if !c.byCmd then s
          else (s.cmds.long.filter fun x => x.opcode = opCut && x.part = c.part).foldl
            (fun s x => s.complete x (if lost = 0 then sOk else sPartial) 0 (BitVec.ofNat 32 lost) 0 0) s
        s.tryArrive (s.getPart p).stepGroup.toNat)

/-! ### RESTORE and VERIFY (16 R369 to R372) -/

/-- `RESTORE`. -/
def execRestore (c : Packet) (s : State) : Out :=
  .next (s.command c opRestore (fun _ => []) fun at_ s =>
    s.unlessBusy ((s.busy (onPipe c.part)).orElse fun _ => s.engineBusy) fun _ =>
      let q := s.getPart c.part
      if q.pipe ≠ .loaded then s.wrong q.pipe.code
      else s.startLong c opRestore at_ true fun s => s.modSnap fun x => { x with restoring := some (BitVec.ofNat 6 c.part) })

/-- Bytes restored into HBM; a capture set, which goes to an island's staging area, is kept for the BIND. -/
def State.putRestored (s : State) (x : DevAddr × List Byte) : State :=
  match regionOf x.1.toNat x.2.length with
  | .hbm a => (s.storeShared a x.2).1
  | _ => s

def captureOf (x : DevAddr × List Byte) : Option (Nat × List Byte) :=
  match regionOf x.1.toNat x.2.length with
  | .sp i off => if off = stagingOff ∧ x.2.length = 2048 then some (i, x.2) else none
  | _ => none

/-- `RESTORE_COMPLETE`, with what the sources gave; `none` where no generation is left on them. -/
def execRestoreComplete (p : BitVec 6) (got : Option Restored) (s : State) : Out :=
  .next (
    let k := p.toNat
    match s.cmds.long.find? fun c => c.opcode = opRestore && c.part = p && c.st = .accepted with
    | none => s
    | some c =>
      let source := c.pkt.at_ 16 1
      let q := s.getPart k
      let end_ (s : State) : State := s.modSnap fun x => { x with restoring := none }
      match (if source ≠ 2 ∧ 2 ≤ q.restores then none else got) with
      | none => if source = 2 then s else (end_ s).complete c sNoResource (BitVec.ofNat 16 source) 0 0 0
      | some r =>
        let s := end_ (r.data.foldl State.putRestored s)
        if r.missing ≠ 0 then s.complete c sVerifyFailed 0 r.step (BitVec.ofNat 32 r.missing) (r.failed.zeroExtend 32)
        else
          let caps := (r.data.filterMap captureOf).foldl (fun m x => smSet m x.1 x.2) []
          let ring := r.ring.foldl (fun m x => smSet m x.1 x.2) []
          (s.modPart k fun q => { q with restores := q.restores + (if source = 2 then 0 else 1), restored := some r.release,
                                         captures := caps, lossSaved := ring }).complete c sOk 0 r.step 0 0)

/-- The step of the restored capture sets: that of the lowest-numbered island. -/
def Part.restoredStep (q : Part) : Word :=
  match q.captures with
  | [] => 0
  | x :: _ => BitVec.ofNat 32 (leAt x.2 8 4)

/-- `VERIFY`. -/
def execVerify (c : Packet) (s : State) : Out :=
  .next (s.command c opVerify (fun _ => []) fun at_ s =>
    s.unlessBusy ((s.busy (onPipe c.part)).orElse fun _ => s.engineBusy) fun _ =>
      let q := s.getPart c.part
      let replay := decide (c.at_ 16 1 = 0)
      if q.restored.isNone || !(q.pipe = .bound || !replay && q.pipe = .loaded) then s.wrong q.pipe.code
      else if !replay && (q.policy.bind (·.replica)).isNone then s.wrong 0
      else s.startLong c opVerify at_ true fun s =>
        if replay then s.modPart c.part fun q => { q with verifyArmed := true } else s)

/-- The bytes of an entry's tensor at the restored release. -/
def State.tensor (s : State) (e : PolicyEntry) (n : Word) : List Byte :=
  memRead s.mem.hbm (if e.dbuf ∧ n.toNat % 2 = 1 then e.addr1 else e.addr) (e.pages * pageSize)

/-- The digest list of R370: each restored tensor in policy order, then each capture set. -/
def State.digests (s : State) (q : Part) (y : Policy) : List (BitVec 512) :=
  (y.entries.map fun e => Config.sha3 (s.tensor e (q.restored.getD 0))) ++ q.captures.map fun x => Config.sha3 x.2

/-- `REPLICA_HASH_COMPARE_DONE`: the replica's list has arrived. -/
def execReplicaHashCompareDone (p : BitVec 6) (other : List (BitVec 512)) (s : State) : Out :=
  .next (
    let q := s.getPart p.toNat
    match s.cmds.long.find? fun c => c.opcode = opVerify && c.part = p && c.st = .accepted && c.pkt.at_ 16 1 = 1, q.policy with
    | some c, some y =>
      let own := s.digests q y
      if own = other then s.complete c sOk 0 q.restoredStep 0 0
      else
        let bytes (l : List (BitVec 512)) : List Byte := l.flatMap (bvBytes 64)
        let n := 16 * min own.length other.length
        s.complete c sVerifyFailed 0 q.restoredStep (BitVec.ofNat 32 (firstDiff (bytes own) (bytes other) n)) 0
    | _, _ => s)

/-! ### SNAP_STATUS (16 Table 16.5) -/

def State.snapState (s : State) : Nat :=
  let x := s.snap
  (if x.enabled then 1 else 0) + (if x.cut.isSome then 2 else 0) + (if x.restoring.isSome then 4 else 0) +
    (if s.part.any (·.2.verifyArmed) then 8 else 0) + x.gen.toNat * 16 + (if x.noStripe then 64 else 0) +
    if x.sharedTag then 128 else 0

/-- The eight registers of the snapshot block. -/
def State.snapBytes (s : State) : List Byte :=
  let x := s.snap
  [s.snapState, x.feed.toNat, x.last.toNat + x.older.toNat * 2 ^ 32, x.touchN.toNat + x.touchT.toNat * 2 ^ 32,
    x.heldN.toNat + x.heldT.toNat * 2 ^ 32, x.skipped.toNat, x.cost.toNat, x.fails.toNat].flatMap (leBytes 8)

/-- `SNAP_STATUS`. -/
def execSnapStatus (c : Packet) (s : State) : Out :=
  .next (s.simple c 0x0507 fun s =>
    let x := s.snap
    (⟨sOk, 0, x.last, x.lastStep, (if x.cut.isSome then 1 else 0) ||| (if x.restoring.isSome then 2 else 0)⟩,
      s.toHost (BitVec.ofNat 64 (c.at_ 16 8)) s.snapBytes))

end Sys2Proof.Machine
end

