-- ==== Sys2Proof/Machine/CmdPower.lean ====
section
/-! DEFINITION. The power and thermal commands and DEEP_IDLE (14 R324, Table 14.9, 01 R28, R29, 17 R379 to R394). -/

namespace Sys2Proof.Machine

/-- `POWER_STATUS`. -/
def execPowerStatus (c : Packet) (s : State) : Out :=
  .next (s.simple c 0x0601 fun s =>
    (⟨sOk, 0, BitVec.ofNat 32 s.pwr.est, BitVec.ofNat 32 (s.pwr.level.toNat + if s.emergency then 8 else 0),
      BitVec.ofNat 32 s.pwr.cap⟩, s))

/-- `HOST_CAP`: 0, or 400 to 2,200 W. -/
def execHostCap (c : Packet) (s : State) : Out :=
  .next (s.command c 0x0602 (fun _ => if 1 ≤ c.at_ 16 2 ∧ c.at_ 16 2 < 400 then [(16, sBadParam, 16)] else []) fun _ s =>
    let old := s.pwr.cap
    .reply okRep ((s.modPwr fun p => { p with hostCap := BitVec.ofNat 16 (c.at_ 16 2) }).saveSettings.capChanged old))

/-- `LEVEL_LIMIT`. -/
def execLevelLimit (c : Packet) (s : State) : Out :=
  .next (s.simple c 0x0603 fun s =>
    (okRep, ((s.modPwr fun p => { p with limit := BitVec.ofNat 3 (c.at_ 16 1) }).saveSettings.decideLevel 0)))

/-! ### DEEP_IDLE -/

def opDeepIdle : Half := 0x0604

/-- Commands that use the data plane (14 R314). -/
def planeOp (op : Half) : Bool := [opBind, opStart, opResume, opMemClear, opCut, opRestore, opVerify].contains op

/-- The module enters DEEP_IDLE: every port on one lane, the host link in L1. -/
def State.enterIdle (s : State) : State :=
  let s := (s.modPwr fun p => { p with deepIdle := true, leaving := none }).modHost fun h => { h with linkL1 := h.linkUp }
  { s with port := s.port.map fun (p : Nat × Port) => (p.1, p.2.idled) }

/-- `DEEP_IDLE` with `ENTER` = 1 (log 57). -/
def execDeepIdleEnter (c : Packet) (s : State) : Out :=
  .next (onForm c 16 0 true s (s.command c opDeepIdle (fun _ => []) fun _ s =>
    match s.pipeWhere PipeSt.beyondLoaded with
    | some (_, q) => s.wrong q.pipe.code
    | none =>
      s.unlessBusy (s.busy fun x => x.opcode = opDeepIdle || planeOp x.opcode) fun _ =>
        .reply okRep (if s.pwr.deepIdle then s else s.enterIdle)))

/-- DEEP_IDLE with `ENTER` = 0; outside that state it ends at once (log 57). -/
def execDeepIdleExit (c : Packet) (s : State) : Out :=
  .next (onForm c 16 0 false s (s.command c opDeepIdle (fun _ => []) fun at_ s =>
    s.startLong c opDeepIdle at_ false fun s =>
      if s.pwr.deepIdle then s.leaveIdle else s.completeAll (fun x => x.opcode = opDeepIdle && x.pkt = c) sOk 0))

/-- A port returns to the lanes it ran on, but for those that have failed. -/
def State.wakePort (s : State) (k : Nat) : State :=
  let p := s.getPort k
  if p.st ≠ .up then s
  else
    let s := s.setPort k { p with active := p.target, width := laneCount p.target }
    if p.target &&& p.failed = 0 then s else s.narrow k

/-- A deferred command begins. -/
def State.beginDeferred (s : State) (c : LongCmd) : State :=
  let p := c.part.toNat
  let s : State := { s with cmds := { s.cmds with long := s.cmds.long.map fun x => if x = c then { x with st := .accepted } else x } }
  let d := { c with st := LongSt.accepted }
  if c.opcode = opBind then
    match (s.readImage p (s.getPart p).image.toNat).1 with
    | .ok im _ =>
      match s.bindFault p im with
      | some (st, k) => s.complete d st k 0 0 0
      | none => s.bindBegins p
    | _ => s.bindBegins p
  else if c.opcode = opMemClear then s.clearBegins
  else if c.opcode = opRestore then s.modSnap fun x => { x with restoring := some c.part }
  else if c.opcode = opVerify ∧ c.pkt.at_ 16 1 = 0 then s.modPart p fun q => { q with verifyArmed := true }
  else s

/-- `DEEP_IDLE_EXIT_COMPLETE`: 4 ms later. -/
def execDeepIdleExitComplete (s : State) : Out :=
  .next (
    match s.pwr.leaving with
    | none => s
    | some t =>
      if s.clk.now < t + 100000 then s
      else
        let s := ((s.modPwr fun p => { p with deepIdle := false, leaving := none }).modHost fun h => { h with linkL1 := false }).modMem
          fun m => { m with frameFrom := ceilDiv s.clk.now 80 * 80 }
        let s := (List.range 32).foldl State.wakePort s
        let s := s.completeAll (fun c => c.opcode = opDeepIdle) sOk 0
        (s.cmds.long.filter fun c => c.st = .deferred && planeOp c.opcode).foldl State.beginDeferred s)

/-! ### Energy -/

/-- `ENERGY`: µJ of the partition, or of the module. -/
def execEnergy (c : Packet) (s : State) : Out :=
  .next (s.simple c 0x0605 fun s =>
    let e : Dword := BitVec.ofNat 64 ((if c.part = 0 then s.pwr.energy else s.energyOf c.part) / 1000000)
    (⟨sOk, 0, Word.lo e, Word.hi e, 0⟩, s))

/-- `ENERGY_MODE`. -/
def execEnergyMode (c : Packet) (s : State) : Out :=
  .next (s.simple c 0x0606 fun s => (okRep, (s.modPwr fun p => { p with perPart := decide (c.at_ 16 1 = 0) }).saveSettings))

/-- `ESTIMATOR`. -/
def execEstimator (c : Packet) (s : State) : Out :=
  .next (s.simple c 0x0607 fun s => (okRep, (s.modPwr fun p => { p with calibrated := decide (c.at_ 16 1 = 1) }).saveSettings))

end Sys2Proof.Machine
end

