-- ==== Sys2Proof/Machine/CmdFirmware.lean ====
section
/-! DEFINITION. Staging, activation, hand-off and the trial window (14 R325, Table 14.10, 15 R345 to R352). -/

namespace Sys2Proof.Machine

/-! ### The slots as an object (14 R316, 18 R401) -/

/-- A PLDM update is in progress. -/
def UpdSt.busy (u : UpdSt) : Bool := !(u = .idle || u = .failed)

/-- The command in progress on the firmware slots; 0xFF05 stands for update mode. -/
def State.slotsBusy (s : State) : Option Half :=
  if s.mgmt.upd.busy then some 0xFF05 else s.busy fun c => c.opcode = opFwStage || c.opcode = opFwActivate || c.opcode = opFwRollback

/-- `SLOT` of FW_STAGE: B if true. -/
def State.stageSlot (s : State) (c : Packet) : Bool := s.expertVal c 0x0701 16 1 (if s.fw.active then 0 else 1) = 1

def stageFaults (c : Packet) (s : State) : List (Nat × Half × Half) :=
  let n := c.at_ 20 4
  (if s.stageSlot c = s.fw.active then [(16, sBadParam, 16)] else []) ++
    if n = 0 ∨ s.admits 0 (c.at_ 24 8) n then [] else [(24, sBadParam, 24)]

/-- `FW_STAGE`. -/
def execFwStage (c : Packet) (s : State) : Out :=
  .next (s.command c opFwStage (stageFaults c) fun at_ s =>
    s.unlessBusy s.slotsBusy fun _ =>
      s.startLong c opFwStage at_ false id)

/-- The result of R336 and R346 over a slot. -/
def Firmware.stageFault (f : Firmware) (b : Bool) : Option SlotFault := (f.slotFault b).orElse fun _ => f.pathFault b

/-- `FW_STAGE_COMPLETE`: core 7 has written and verified the slot. -/
def execFwStageComplete (s : State) : Out :=
  .next (
    match s.cmds.long.find? fun c => c.opcode = opFwStage with
    | none => s
    | some c =>
      if s.frameHeld then s else
      let b := s.stageSlot c.pkt
      let (bs, bad, s) := s.sharedRead (c.pkt.at_ 24 8) (c.pkt.at_ 20 4)
      let fw := { (s.fw.setSlot b (if bad then [] else memWrite [] 0 bs)) with staged := false }
      if bad then ({ s with fw := fw } : State).complete c sMemoryError 0 0 0 0
      else
        match fw.stageFault b with
        | some (d, r) => ({ s with fw := fw } : State).complete c sVerifyFailed d r 0 0
        | none => ({ s with fw := { fw with staged := true } } : State).complete c sOk 0 0 0 0)

/-! ### Activation (15 R347 to R350) -/

/-- A command that step 2 of R347 waits for. -/
def State.unsettled (s : State) : Bool := s.cmds.long.any fun c => stillOps.contains c.opcode

/-- Step 2 ends once nothing it waits for is in progress: UPDATING. -/
def State.quiesced (s : State) : State :=
  match s.fw.act with
  | some a =>
    if a.phase = .quiesce ∧ ¬ s.unsettled then
      (s.modFw fun f => { f with act := some { a with phase := .load } }).modHost fun h => { h with dev := 2 }
    else s
  | none => s

/-- An activation begins: held while an emergency is active. -/
def State.beginActivation (s : State) (byCmd : Bool) (at_ : Nat) : State :=
  let held := s.emergency
  (s.modFw fun f => { f with act := some ⟨if held then .hold else .quiesce, byCmd, at_, none, held⟩ }).quiesced

/-- The activation ends; the command, or the PLDM update, gets its result. -/
def State.endActivation (s : State) (status detail : Half) (r0 : Word) : State :=
  match s.fw.act with
  | none => s
  | some a =>
    let s := (s.modFw fun f => { f with act := none }).modHost fun h => { h with dev := if h.dev = 2 then 1 else h.dev }
    if a.byCmd then
      (s.cmds.long.filter fun c => c.opcode = opFwActivate || c.opcode = opFwRollback).foldl
        (fun s c => s.complete c status detail r0 0 0) s
    else s.modMgmt fun m => { m with upd := if status = sOk then .idle else .failed, updIdle := 0 }

/-- FW_ACTIVATE or FW_ROLLBACK as accepted. -/
def State.startFw (s : State) (c : Packet) (op : Half) (at_ : Nat) (begin_ : State → State) : Run :=
  match s.startLong c op at_ false begin_ with
  | .long r l f => if c.at_ 16 1 % 2 = 0 ∧ s.emergency then .long (rep sDeferred 2) { l with st := .deferred } f else .long r l f
  | r => r

/-- The next start boots the inactive slot; the command ends at once. -/
def State.armStart (s : State) (op : Half) (fault : Option SlotFault) : State :=
  (s.cmds.long.filter fun c => c.opcode = op).foldl (fun s c =>
    match fault with
    | some (d, r) => s.complete c sVerifyFailed d r 0 0
    | none => (s.modFw fun f => { f with atStart := true }).complete c sOk 0 0 0 0) s

/-- `FW_ACTIVATE` (log 58). -/
def execFwActivate (c : Packet) (s : State) : Out :=
  .next (s.command c opFwActivate (fun _ => []) fun at_ s =>
    s.unlessBusy s.slotsBusy fun _ =>
      if !s.fw.staged then s.wrong 0
      else s.startFw c opFwActivate at_ fun s =>
        if c.at_ 16 1 % 2 = 1 then s.armStart opFwActivate none else s.beginActivation true at_)

/-- `FW_ROLLBACK` (15 R352): one for the next start needs a verified slot and no hand-off path. -/
def execFwRollback (c : Packet) (s : State) : Out :=
  .next (s.command c opFwRollback (fun _ => []) fun at_ s =>
    s.unlessBusy s.slotsBusy fun _ =>
      s.startFw c opFwRollback at_ fun s =>
        if c.at_ 16 1 % 2 = 1 then s.armStart opFwRollback (s.fw.slotFault !s.fw.active) else s.beginActivation true at_)

/-- 1 s and 60 s in ticks. -/
def second : Nat := 25000000

/-- `ACTIVATION_CONTINUE`: no emergency for 1 s. -/
def execActivationContinue (s : State) : Out :=
  .next (
    match s.fw.act with
    | none => s
    | some a =>
      if s.emergency ∨ !(a.calmAt.any fun t => t + second ≤ s.clk.now) then s
      else match a.phase with
        | .hold =>
          if a.since + minute ≤ s.clk.now then s
          else (s.modFw fun f => { f with act := some { a with phase := .quiesce } }).quiesced
        | .calm => s.modFw fun f => { f with act := some { a with phase := .hand 6 } }
        | _ => s)

/-- The hand-offs have begun. -/
def Activation.begun (a : Activation) : Bool :=
  match a.phase with
  | .hand _ | .calm => true
  | _ => false

/-- `ACTIVATION_HOLD_EXPIRY`: 60 s after its fetch an activation that was held has not begun to hand off. -/
def execActivationHoldExpiry (s : State) : Out :=
  .next (
    match s.fw.act with
    | none => s
    | some a =>
      if a.begun ∨ !a.held ∨ s.clk.now < a.since + minute then s
      else
        let s := if a.byCmd then s else s.logFault .activationHeld srcMgmt 0 0
        s.endActivation sEmergency 0 0)

/-- `ACTIVATION_LOAD_DONE`: core 7 has re-verified the slot and loaded the inactive sides. -/
def execActivationLoadDone (s : State) : Out :=
  .next (
    match s.fw.act with
    | none => s
    | some a =>
      if a.phase ≠ .load then s
      else match s.fw.stageFault !s.fw.active with
        | some (d, r) => s.endActivation sVerifyFailed d r
        | none => s.modFw fun f => { f with act := some { a with phase := .hand 0 } })

/-- The order of the hand-offs (15 R347): the codes of Table 15.1. -/
def handOrder : List Nat := [6, 5, 4, 3, 1, 0, 2]

/-- Fault injection is cleared (10 R232). -/
def State.clearInjection (s : State) : State :=
  let s := s.port.foldl (fun s p => p.2.fi.foldl (fun s f => s.releaseHeld p.1 f.1 fun _ => true) s) s
  let s : State := { s with port := s.port.map fun (p : Nat × Port) => (p.1, { p.2 with fi := [] }) }
  (s.modFab fun f => { f with fiKey := 0 }).dropClaims featFi

/-- The running sides change over for a component. -/
def State.flipSide (s : State) (k : Nat) : State := s.modFw fun f => { f with sides := smSet f.sides k (!smGet false f.sides k) }

/-- The security floor of an image that raises it (15 R337). -/
def Firmware.raised (f : Firmware) (svn : Byte) : Firmware := { f with floor := max f.floor svn.toNat }

/-- The new image is active: its trial begins. -/
def State.switched (s : State) : State :=
  let b := !s.fw.active
  let m := s.fw.slot b
  let s := s.modFw fun f =>
    let f := if manRaise m then f.raised (manSvn m) else f
    { f with active := b, staged := false, trial := true, trialAt := s.clk.now, version := manVersion m, svn := manSvn m,
             running := slotComps m, raise := false }
  s.endActivation sOk 0 0

/-- Components handed off so far go back, in reverse order. -/
def State.handBack (s : State) (n : Nat) : State := (handOrder.take n).reverse.foldl State.flipSide s

/-- `HAND_OFF_DONE`. -/
def execHandOffDone (r : HandOff) (s : State) : Out :=
  .next (
    match s.fw.act with
    | none => s
    | some a =>
      match a.phase with
      | .hand n =>
        let k := handOrder.getD n 0
        match r with
        | .accepted =>
          let s := s.flipSide k
          let s := if k = 3 then s.clearInjection else s
          if n = 6 then s.switched
          else
            let phase := if n = 5 ∧ s.emergency then .calm else .hand (n + 1)
            s.modFw fun f => { f with act := some { a with phase := phase } }
        | .refused => (s.handBack n).endActivation sVerifyFailed 7 (BitVec.ofNat 32 k)
        | .exporterLost => (s.handBack n).endActivation sInternal 0 0
      | _ => s)

/-- `TRIAL_WINDOW_CLOSE`: 60 s after it opened. -/
def execTrialWindowClose (s : State) : Out :=
  .next (
    if s.fw.trial ∧ s.fw.trialAt + minute ≤ s.clk.now then
      s.modFw fun f => { (if f.raise then f.raised f.svn else f) with trial := false, raise := false }
    else s)

/-- `FW_STATUS`. -/
def execFwStatus (c : Packet) (s : State) : Out :=
  .next (s.simple c 0x0704 fun s =>
    let held := s.fw.act.any fun a => a.phase = .hold
    (⟨sOk, 0, manVersion (s.fw.slot false), manVersion (s.fw.slot true),
      BitVec.ofNat 32 ((if s.fw.active then 1 else 0) + (if s.fw.staged then 2 else 0) + if held then 4 else 0)⟩, s))

end Sys2Proof.Machine
end

