-- ==== Sys2Proof/Machine/CmdDiag.lean ====
section
/-! DEFINITION. Diagnostics, fault injection and the claim commands (14 R326, R327, Tables 14.11, 14.12, 10 R228 to
R233). -/

namespace Sys2Proof.Machine

/-- `DIAG_MODE` with `ENTER` = 1. -/
def execDiagModeEnter (c : Packet) (s : State) : Out :=
  .next (onForm c 16 0 true s (s.simple c 0x0801 fun s => (okRep, { s with cmds := { s.cmds with diag := true } })))

/-- DIAG_MODE with `ENTER` = 0: all injection is cleared (10 R232). -/
def execDiagModeLeave (c : Packet) (s : State) : Out :=
  .next (onForm c 16 0 false s (s.simple c 0x0801 fun s =>
    (okRep, { s.clearInjection with cmds := { s.clearInjection.cmds with diag := false } })))

/-! ### FI_SET (10 R228 to R231) -/

def fiReserved : Dword := 0xFF000000F00000E0

/-- The first field of FI_SET at fault: `FI_CTRL` at 24, or the times of a timed set at 32 (log 59). -/
def fiFaults (c : Packet) : List (Nat × Half × Half) :=
  let ctrl : Dword := BitVec.ofNat 64 (c.at_ 24 8)
  let sel := c.at_ 24 1 % 4
  let action := c.at_ 24 1 / 4 % 4
  let timed := c.at_ 24 1 / 16 % 2 = 1
  let start := c.at_ 32 4
  let stop := c.at_ 36 4
  (if ctrl &&& fiReserved ≠ 0 ∨ action = 3 ∧ c.at_ 17 1 = 6 ∨ action = 3 ∧ sel ≠ 0 ∧ c.at_ 25 1 = 0 ∨ timed ∧ sel ≠ 1
    then [(24, sBadParam, 24)] else []) ++
    if timed ∧ (start = 0 ∨ stop ≤ start) then [(32, sBadParam, 32)] else []

/-- The set of an FI_SET packet written at a tick; one that acts counts its packets from 0. -/
def FiSet.written (f : FiSet) (c : Packet) (now : Nat) : FiSet :=
  let timed := c.at_ 24 1 / 16 % 2 = 1
  { f with ctrl := BitVec.ofNat 64 (c.at_ 24 8), param := BitVec.ofNat 64 (c.at_ 32 8), pattern := BitVec.ofNat 64 (c.at_ 40 8),
           n := 0, startAt := if timed then some (now + c.at_ 32 4) else none, stopAt := if timed then some (now + c.at_ 36 4) else none }

/-- `FI_SET`. -/
def execFiSet (c : Packet) (s : State) : Out :=
  .next (s.command c 0x0802 (fun _ => fiFaults c) fun _ s =>
    let port := c.at_ 16 1
    let vc := c.at_ 17 1
    let timed := c.at_ 24 1 / 16 % 2 = 1
    let need := timed && !s.holdsFeat featFi
    if !s.cmds.diag then s.wrong 0
    else match s.firstHeld [] need [] with
      | some h => s.refuse sResourceHeld h
      | none =>
        let s := if need then s.takeComp (holderId featFi 0) else s
        let s := s.modPort port fun x => { x with fi := smMod FiSet.reset x.fi vc fun f => f.written c s.clk.now }
        let s := if c.at_ 24 1 % 4 = 0 then (s.releaseHeld port vc fun _ => true) else s
        .reply okRep (if s.fiIdle then s.dropClaims featFi else s))

/-- `FI_KEY`. -/
def execFiKey (c : Packet) (s : State) : Out :=
  .next (s.command c 0x0803 (fun _ => []) fun _ s =>
    if !s.cmds.diag then s.wrong 0 else .reply okRep (s.modFab fun f => { f with fiKey := BitVec.ofNat 128 (c.at_ 16 16) }))

/-- `ERR_CLEAR`: the counters and the worst-location log of 08 R182. -/
def execErrClear (c : Packet) (s : State) : Out :=
  .next (s.simple c 0x0804 fun s =>
    (okRep, s.modMem fun m => { m with scrubs := 0, scrubbed := [], wlog := [], chCorr := [], chUe := [], spCorr := [], accCorr := [],
                                       imCorr := [], parity := [], islUe := [] }))

/-! ### The fault log (18 R406) -/

/-- The records still held: what only the archive keeps, then the ring. -/
def FaultLog.held (l : FaultLog) : List LogRec :=
  match l.ring with
  | [] => l.archive
  | r :: _ => l.archive.filter (fun x => x.seq < r.seq) ++ l.ring

/-- Up to n held records from number `first` on. -/
def FaultLog.from_ (l : FaultLog) (first n : Nat) : List LogRec :=
  (l.held.filter fun r => first ≤ r.seq.toNat).take n

/-- The oldest record still held. -/
def FaultLog.oldest (l : FaultLog) : Word :=
  match l.held with
  | [] => l.seq
  | r :: _ => r.seq

/-- `LOG_READ`. -/
def execLogRead (c : Packet) (s : State) : Out :=
  .next (s.simple c 0x0805 fun s =>
    let buf : Dword := BitVec.ofNat 64 (c.at_ 16 8)
    let rs := s.flog.from_ (c.at_ 24 4) (c.at_ 28 4)
    (⟨sOk, 0, BitVec.ofNat 32 (if buf = 0 then 0 else rs.length), s.flog.oldest, 0⟩, s.toHost buf (rs.flatMap LogRec.bytes)))

/-! ### Claims (19 R418, R419) -/

/-- `CLAIM_QUERY`. -/
def execClaimQuery (c : Packet) (s : State) : Out :=
  .next (s.command c 0x0901 (fun _ => if (rankOfId (c.at_ 16 2)).isNone then [(16, sBadParam, 16)] else []) fun _ s =>
    match rankOfId (c.at_ 16 2) with
    | none => s.refuse sBadParam 16
    | some r => .reply ⟨sOk, 0, (s.holder r).zeroExtend 32, (s.claimAt r).time, 0⟩ s)

/-- `CLAIM_TABLE`. -/
def execClaimTable (c : Packet) (s : State) : Out :=
  .next (s.simple c 0x0902 fun s =>
    let bs := (List.range claimCount).flatMap fun r =>
      leBytes 2 (s.holder r).toNat ++ leBytes 2 0 ++ leBytes 4 (s.claimAt r).time.toNat
    let buf : Dword := BitVec.ofNat 64 (c.at_ 16 8)
    (⟨sOk, 0, BitVec.ofNat 32 (if buf = 0 then 0 else claimCount), 0, 0⟩, s.toHost buf bs))

end Sys2Proof.Machine
end

