-- ==== Sys2Proof/Machine/Mgmt.lean ====
section
/-! DEFINITION. The management port: MCTP, PLDM monitoring and control, firmware update over PLDM, SPDM (chapter 18). -/

namespace Sys2Proof.Machine

/-! ### The port (18 R396 to R398) -/

def State.send (s : State) (x : MgmtOut) : State := s.modMgmt fun m => { m with log := m.log ++ [x] }
def State.answer (s : State) (c : MgmtCode) (data : List Byte) : State := s.send (.answer c data)

/-- The lighthouse has power: something answers. -/
def State.onPort (s : State) (f : State → State) : State := if s.clk.lit then f s else s

/-- A PLDM request: the management agent answers it, or the lighthouse where it may in its place. -/
def State.pldm (s : State) (light : Bool) (f : State → State) : State :=
  s.onPort fun s => if s.serving || light then f s else s.answer .notReady []

/-- `I3C_BROADCAST_CCC`. -/
def execI3cBroadcastCcc (s : State) : Out :=
  .next (s.onPort fun s => if s.mgmt.i3c then s
    else (s.modMgmt fun m => { m with i3c := true, dynAddr := none }).modPins fun p => { p with alert := false })

/-- `DYNAMIC_ADDRESS_ASSIGN`: ENTDAA or SETDASA, in I3C mode. -/
def execDynamicAddressAssign (addr : BitVec 7) (s : State) : Out :=
  .next (s.onPort fun s => if s.mgmt.i3c then s.modMgmt fun m => { m with dynAddr := some addr } else s)

/-! ### MCTP control (18 Table 18.1) -/

/-- `SET_ENDPOINT_ID`. -/
def execSetEndpointId (eid : Byte) (s : State) : Out :=
  .next (s.onPort fun s => (s.modMgmt fun m => { m with eid := eid }).answer .ok [eid])

/-- `GET_ENDPOINT_ID`. -/
def execGetEndpointId (s : State) : Out := .next (s.onPort fun s => s.answer .ok [s.mgmt.eid])

/-- Supported MCTP message types. -/
def mctpTypes : List Byte := [0x00, 0x01, 0x05]

/-- An answer whose values the spec does not state: n free bytes (log 60). -/
def State.answerFree (s : State) (n : Nat) : State :=
  let (bs, s) := s.drawBytes n
  s.answer .ok bs

/-- `GET_MCTP_VERSION_SUPPORT`: of the base (0xFF) or of a supported type. -/
def execGetMctpVersionSupport (type : Byte) (s : State) : Out :=
  .next (s.onPort fun s => if type = 0xFF ∨ mctpTypes.contains type then s.answerFree 4 else s.answer .invalidData [])

/-- `GET_MESSAGE_TYPE_SUPPORT`. -/
def execGetMessageTypeSupport (s : State) : Out := .next (s.onPort fun s => s.answer .ok mctpTypes)

/-- `UNSUPPORTED_MANAGEMENT_MESSAGE`: an MCTP message is discarded, a PLDM or SPDM one refused. -/
def execUnsupportedManagementMessage (m : MgmtOther) (s : State) : Out :=
  .next (
    match m with
    | .mctp _ => s
    | .pldm _ _ => s.pldm false fun s => s.answer .unsupportedCmd []
    | .spdm _ _ => s.onPort fun s => s.answer (if s.serving then .spdmUnsupported else .spdmBusy) [])

/-! ### PLDM base -/

/-- `GET_TID`: no command sets it; a free byte. -/
def execGetTid (s : State) : Out := .next (s.pldm false fun s => s.answerFree 1)

/-- Supported PLDM types. -/
def pldmTypes : List Byte := [0, 2, 5, 63]

/-- `GET_PLDM_VERSION`. -/
def execGetPldmVersion (type : Byte) (s : State) : Out :=
  .next (s.pldm false fun s => if pldmTypes.contains type then s.answerFree 4 else s.answer .invalidData [])

/-- `GET_PLDM_TYPES`: a bit mask of 8 bytes. -/
def execGetPldmTypes (s : State) : Out := .next (s.pldm false fun s => s.answer .ok (leBytes 8 0x8000000000000025))

/-- `GET_PLDM_COMMANDS`: a bit mask of 32 bytes; only the OEM codes are stated. -/
def execGetPldmCommands (type : Byte) (s : State) : Out :=
  .next (s.pldm false fun s =>
    if type = 63 then s.answer .ok (leBytes 32 6)
    else if pldmTypes.contains type then s.answerFree 32 else s.answer .invalidData [])

/-! ### Sensors and effecters (18 Table 18.2, R399, R400) -/

/-- Rows of Table 18.2: 0 numeric sensor, 1 state sensor, 2 numeric effecter, 3 state effecter; id; lowest and highest
value or state. -/
def pdrRows : List (Nat × Nat × Nat × Nat) :=
  [(0, 1, 0, 0xFFFF), (0, 2, 0, 0xFFFF), (0, 3, 0, 0xFFFF), (0, 4, 0, 0xFFFF), (0, 5, 0, 0xFFFF), (0, 6, 0, 0xFFFFFFFF),
   (1, 7, 1, 6), (1, 8, 1, 4), (2, 1, 0, 2200), (2, 2, 0, 65535), (3, 3, 1, 3)]

/-- `GET_PDR`: the records in the order of Table 18.2, handles 1 to 11, 0 for the first (log 60). -/
def execGetPdr (handle : Word) (s : State) : Out :=
  .next (s.pldm false fun s =>
    match pdrRows[handle.toNat - 1]? with
    | some (k, id, lo, hi) => s.answer .ok (leBytes 1 k ++ leBytes 2 id ++ leBytes 4 lo ++ leBytes 4 hi)
    | none => s.answer .invalidData [])

/-- Reading of a numeric sensor. -/
def State.sensor (s : State) (id : Nat) : Option (List Byte) :=
  let signed (x : Int) : List Byte := leBytes 2 (BitVec.ofInt 16 x).toNat
  match id with
  | 1 => some (signed (hottest s.pwr 0 128).1)
  | 2 => some (signed (hottest s.pwr 128 160).1)
  | 3 => some (leBytes 2 s.pwr.measured.toNat)
  | 4 => some (leBytes 2 (s.pwr.mean / 4000000))
  | 5 => some (leBytes 2 s.pwr.volt.toNat)
  | 6 => some (leBytes 4 (s.pwr.energy / 1000000000000000))
  | _ => none

/-- An answer of values, or ERROR_INVALID_DATA. -/
def State.answerSome (s : State) (x : Option (List Byte)) : State :=
  match x with
  | some bs => s.answer .ok bs
  | none => s.answer .invalidData []

/-- `GET_NUMERIC_SENSOR_READING`. -/
def execGetNumericSensorReading (id : Half) (s : State) : Out :=
  .next (s.pldm (id = 1 || id = 2) fun s => s.answerSome (s.sensor id.toNat))

/-- `GET_STATE_SENSOR_READINGS`. -/
def execGetStateSensorReadings (id : Half) (s : State) : Out :=
  .next (s.pldm false fun s => s.answerSome (
    if id = 7 then some (leBytes 1 (s.pwr.level.toNat + 1)) else if id = 8 then some (leBytes 1 (s.host.dev.toNat + 1)) else none))

/-- `SET_MANAGEMENT_CAP`. -/
def execSetManagementCap (v : Half) (s : State) : Out :=
  .next (s.pldm false fun s =>
    if v ≠ 0 ∧ (v < 400 ∨ 2200 < v) then s.answer .invalidData []
    else
      let old := s.pwr.cap
      ((s.modPwr fun p => { p with mgmtCap := v }).saveSettings.capChanged old).answer .ok [])

/-- `SET_FEED_TAG`. -/
def execSetFeedTag (v : Half) (s : State) : Out :=
  .next (s.pldm false fun s => (s.modSnap fun x => { x with feed := v }).saveSettings.answer .ok [])

/-- `GET_NUMERIC_EFFECTER_VALUE`. -/
def execGetNumericEffecterValue (id : Half) (s : State) : Out :=
  .next (s.pldm false fun s => s.answerSome (
    if id = 1 then some (leBytes 2 s.pwr.mgmtCap.toNat) else if id = 2 then some (leBytes 2 s.snap.feed.toNat) else none))

/-- Effecter 3, values 1 and 2: a warm start at once. -/
def State.mgmtStart (s : State) (keep : Bool) : State :=
  s.onPort fun s =>
    if s.pwr.tripped ∨ s.pins.latched then s.answer .notReady [] else (s.answer .ok []).beginStart .warm keep false false

/-- `WARM_START_MEMORY_KEPT`. -/
def execWarmStartMemoryKept (s : State) : Out := .next (s.mgmtStart true)

/-- `WARM_START_MEMORY_FILLED`. -/
def execWarmStartMemoryFilled (s : State) : Out := .next (s.mgmtStart false)

/-- `RESTART_AFTER_TRIP`: effecter 3, value 3. -/
def execRestartAfterTrip (s : State) : Out :=
  .next (s.onPort fun s =>
    if !s.pwr.tripped then s.answer .invalidData []
    else
      let (t, done) := s.clearTrip
      t.answer (if done then .ok else .notReady) [])

/-- The 32 bytes of a record (14 Table 14.2). -/
def Record.bytes (r : Record) : List Byte :=
  leBytes 4 r.tag.toNat ++ leBytes 2 r.opcode.toNat ++ leBytes 2 r.status.toNat ++ leBytes 2 r.detail.toNat ++ leBytes 1 r.kind.toNat ++
    leBytes 1 r.ring.toNat ++ leBytes 8 r.time.toNat ++ leBytes 4 r.result0.toNat ++ leBytes 4 r.result1.toNat ++ leBytes 4 r.result2.toNat

/-- `POLL_FOR_PLATFORM_EVENT_MESSAGE`: the oldest event; MGMT_ALERT_N falls with the last. -/
def execPollForPlatformEventMessage (s : State) : Out :=
  .next (s.pldm false fun s =>
    match s.mgmt.events with
    | [] => s.answer .ok []
    | r :: t =>
      let s := s.modMgmt fun m => { m with events := t }
      (if t.isEmpty then s.modPins fun p => { p with alert := false } else s).answer .ok r.bytes)

/-- `GET_FAULT_LOG`: up to 16 records. -/
def execGetFaultLog (first : Word) (count : Byte) (s : State) : Out :=
  .next (s.pldm false fun s => s.answer .ok ((s.flog.from_ first.toNat (min 16 count.toNat)).flatMap LogRec.bytes))

/-- `GET_ENERGY`: µJ of a partition, or of the module at 0xFF. -/
def execGetEnergy (sel : Byte) (s : State) : Out :=
  .next (s.pldm false fun s => s.answerSome (
    if sel = 0xFF then some (leBytes 8 (s.pwr.energy / 1000000))
    else if sel.toNat < 64 then some (leBytes 8 ((s.getPart sel.toNat).energy / 1000000)) else none))

/-! ### Firmware update over PLDM (18 R401) -/

/-- The update subset: answered by the ROM in recovery mode. -/
def State.updatePort (s : State) (f : State → State) : State := s.pldm (s.fw.recovery && s.powered) f

/-- `REQUEST_UPDATE`. -/
def execRequestUpdate (s : State) : Out :=
  .next (s.updatePort fun s =>
    if (s.fw.recovery || s.host.dev = 1) && s.slotsBusy.isNone then
      (s.modMgmt fun m => { m with upd := .learn, updBytes := 0, updIdle := s.clk.now }).answer .ok []
    else s.answer .retryRequest [])

/-- Receiving. -/
def UpdSt.receiving (u : UpdSt) : Bool := u = .learn || u = .download

/-- `FIRMWARE_DATA_RECEIVED`: the next piece of at most 1,024 bytes; the first one erases the slot. -/
def execFirmwareDataReceived (off : Word) (bytes : List Byte) (s : State) : Out :=
  .next (s.onPort fun s =>
    let m := s.mgmt
    if !m.upd.receiving || off.toNat ≠ m.updBytes || 1024 < bytes.length || slotSize < off.toNat + bytes.length then s
    else
      let b := !s.fw.active
      let s := if m.upd = .learn then s.modFw fun f => { (f.setSlot b []) with staged := false } else s
      let s := s.modFw fun f => f.setSlot b (memWrite (f.slot b) off.toNat bytes)
      s.modMgmt fun m => { m with upd := .download, updBytes := m.updBytes + bytes.length, updIdle := s.clk.now })

/-- `UPDATE_VERIFY_COMPLETE`: the result of R336 and R346. -/
def execUpdateVerifyComplete (s : State) : Out :=
  .next (s.onPort fun s =>
    if s.mgmt.upd ≠ .download then s
    else match s.fw.stageFault !s.fw.active with
      | some (d, _) => (s.modMgmt fun m => { m with upd := .failed, updIdle := 0 }).send (.verified (0x90 + d.setWidth 8))
      | none => ((s.modFw fun f => { f with staged := true }).modMgmt fun m => { m with upd := .apply, updIdle := s.clk.now }).send (.verified 0))

/-- An update ends before its activation: no image is left staged. -/
def State.dropUpdate (s : State) : State :=
  (s.modFw fun f => { f with staged := false }).modMgmt fun m => { m with upd := .idle, updBytes := 0, updIdle := 0 }

/-- `FD_T1_TIMEOUT`: idle for 120 s. -/
def execFdT1Timeout (s : State) : Out :=
  .next (if (s.mgmt.upd.receiving || s.mgmt.upd = .apply) && decide (s.mgmt.updIdle + 2 * minute ≤ s.clk.now) then s.dropUpdate else s)

/-- `CANCEL_UPDATE`. -/
def execCancelUpdate (s : State) : Out :=
  .next (s.updatePort fun s =>
    if s.mgmt.upd.receiving || s.mgmt.upd = .apply then s.dropUpdate.answer .ok [] else s.answer .wrongState [])

/-- `ACTIVATE_FIRMWARE`: live if self-contained activation is asked for, else at the next start; in recovery mode always
the latter. -/
def execActivateFirmware (selfContained : Bool) (s : State) : Out :=
  .next (s.updatePort fun s =>
    if s.mgmt.upd ≠ .apply then s.answer .wrongState []
    else
      let s := s.answer .ok []
      if selfContained && !s.fw.recovery then
        (s.modMgmt fun m => { m with upd := .activate }).beginActivation false s.clk.now
      else (s.modFw fun f => { f with atStart := true }).modMgmt fun m => { m with upd := .idle, updIdle := 0 })

/-- `GET_STATUS`. -/
def execGetStatus (s : State) : Out := .next (s.updatePort fun s => s.send (.update s.mgmt.upd))

/-! ### SPDM (18 R402 to R405) -/

/-- An SPDM request: Busy where the lighthouse answers. -/
def State.spdm (s : State) (f : State → State) : State :=
  s.onPort fun s => if s.serving then f s else s.answer .spdmBusy []

def State.conn (s : State) (ep : Byte) : Option SpdmConn := s.mgmt.conns.find? (·.ep = ep)
def State.putConn (s : State) (c : SpdmConn) : State :=
  s.modMgmt fun m => { m with conns := m.conns.filter (·.ep ≠ c.ep) ++ [c] }
def State.dropConn (s : State) (ep : Byte) : State := s.modMgmt fun m => { m with conns := m.conns.filter (·.ep ≠ ep) }

/-- A request in a stage of its requester's connection. -/
def State.inStage (s : State) (ep : Byte) (g : SpdmStage) (f : State → SpdmConn → State) : State :=
  s.spdm fun s =>
    match s.conn ep with
    | some c => if c.stage = g then f s c else s.answer .spdmUnexpected []
    | none => s.answer .spdmUnexpected []

/-- DataTransferSize and MaxSPDMmsgSize. -/
def spdmTransfer : Nat := 4096
def spdmMax : Nat := 16384

/-- A response, or LargeResponse with its bytes kept for CHUNK_GET. -/
def State.respondSpdm (s : State) (c : SpdmConn) (data : List Byte) : State :=
  if data.length ≤ spdmTransfer then s.answer .ok data
  else (s.putConn { c with outbox := data, outSeq := 0 }).answer .spdmLarge []

/-- `GET_VERSION`: a new connection, unless four others are kept. Version 1.3 only. -/
def execGetVersion (ep : Byte) (s : State) : Out :=
  .next (s.spdm fun s =>
    if (s.conn ep).isNone ∧ 4 ≤ s.mgmt.conns.length then s.answer .spdmBusy []
    else (s.putConn ⟨ep, .version, [], 0, [], 0⟩).answer .ok [1, 3])

/-- `GET_CAPABILITIES`: CERT_CAP, CHAL_CAP, CHUNK_CAP, MEAS_CAP, CTExponent, the two sizes. -/
def execGetCapabilities (ep : Byte) (s : State) : Out :=
  .next (s.inStage ep .version fun s c =>
    (s.putConn { c with stage := .capabilities }).answer .ok ([1, 1, 1, 2, 16] ++ leBytes 4 spdmTransfer ++ leBytes 4 spdmMax))

/-- The offer admits the selections of Table 18.3. -/
def offerAccepted (o : SpdmOffer) : Bool := o.measSpec.getLsbD 0 && o.baseHash.getLsbD 5 && o.extAsym.contains (0x00, 0xD087)

/-- `NEGOTIATE_ALGORITHMS`. -/
def execNegotiateAlgorithms (ep : Byte) (offer : SpdmOffer) (s : State) : Out :=
  .next (s.inStage ep .capabilities fun s c =>
    if offerAccepted offer then
      (s.putConn { c with stage := .negotiated }).answer .ok
        (leBytes 1 1 ++ leBytes 4 (2 ^ 5) ++ leBytes 4 (2 ^ 6) ++ leBytes 4 0 ++ leBytes 1 0 ++ leBytes 2 0xD087)
    else (s.dropConn ep).answer .spdmUnsupported [])

/-- `GET_DIGESTS`: the digest of the chain in slot 0. -/
def execGetDigests (ep : Byte) (s : State) : Out :=
  .next (s.inStage ep .negotiated fun s c => s.respondSpdm c ([1] ++ bvBytes 64 (Config.sha3 Config.certChain)))

/-- `GET_CERTIFICATE`: a part of the chain in slot 0, with its length and what remains. -/
def execGetCertificate (ep slot : Byte) (off len : Half) (s : State) : Out :=
  .next (s.inStage ep .negotiated fun s c =>
    if slot ≠ 0 ∨ Config.certChain.length < off.toNat then s.answer .spdmInvalid []
    else
      let rest := Config.certChain.drop off.toNat
      let part := rest.take len.toNat
      s.respondSpdm c (leBytes 2 part.length ++ leBytes 2 (rest.length - part.length) ++ part))

/-- A signature of the device identity key; each is its own (log 11). -/
def State.sign (s : State) (msg : List Byte) : List Byte × State :=
  ((Config.mldsaSign s.free msg).take 4627, { s with free := s.free + 1 })

/-- `CHALLENGE`: chain digest, a free nonce of the device, the signature. -/
def execChallenge (ep slot : Byte) (nonce : BitVec 256) (s : State) : Out :=
  .next (s.inStage ep .negotiated fun s c =>
    if slot ≠ 0 then s.answer .spdmInvalid []
    else
      let (own, s) := s.drawBytes 32
      let body := bvBytes 64 (Config.sha3 Config.certChain) ++ own
      let (sig, s) := s.sign (bvBytes 32 nonce ++ body)
      s.respondSpdm c (body ++ sig))

/-- Block k of Table 18.4. -/
def State.measurement (s : State) (k : Nat) : List Byte :=
  let m := s.fw.slot s.fw.active
  let digest (id : Nat) : List Byte := match s.fw.running.find? (·.id.toNat = id) with
    | some c => bvBytes 64 c.digest
    | none => []
  match k with
  | 1 => bvBytes 64 Config.romDigest
  | 2 => bvBytes 64 (Config.sha3 (memRead m 0 (sigOff m + 4627)))
  | 11 => leBytes 4 s.fw.version.toNat ++ leBytes 1 (if s.fw.active then 1 else 0)
  | 12 => [s.fw.svn] ++ leBytes 1 s.fw.floor
  | 13 => leBytes 3 s.idGrade ++ leBytes 4 idKey.toNat ++ s.harvest ++ leBytes 8 s.id.serial.toNat
  | 14 => bvBytes 64 (Config.settingsDigest s.fw.settingsCount.toNat)
  | k => digest (k - 3)

/-- Blocks that an index asks for: one, all at 0xFF, none at 0. -/
def measBlocks (index : Nat) : Option (List Nat) :=
  if index = 0 then some []
  else if index = 0xFF then some ((List.range 14).map (· + 1))
  else if index ≤ 14 then some [index] else none

/-- `GET_MEASUREMENTS`: Busy while UPDATING. -/
def execGetMeasurements (ep index : Byte) (sign : Bool) (nonce : BitVec 256) (s : State) : Out :=
  .next (s.inStage ep .negotiated fun s c =>
    if s.host.dev = 2 then s.answer .spdmBusy []
    else match measBlocks index.toNat with
      | none => s.answer .spdmInvalid []
      | some ks =>
        let head : List Byte := if index = 0 then [14] else leBytes 1 ks.length
        let body := head ++ ks.flatMap fun k => leBytes 1 k ++ leBytes 2 (s.measurement k).length ++ s.measurement k
        if !sign then s.respondSpdm c body
        else
          let (own, s) := s.drawBytes 32
          let (sig, s) := s.sign (bvBytes 32 nonce ++ own ++ body)
          s.respondSpdm c (body ++ own ++ sig))

/-- `CHUNK_SEND`: the next part of a large request; with the last one the request is at hand. -/
def execChunkSend (ep : Byte) (last : Bool) (seq : Half) (bytes : List Byte) (s : State) : Out :=
  .next (s.spdm fun s =>
    match s.conn ep with
    | none => s.answer .spdmUnexpected []
    | some c =>
      let all := c.inbox ++ bytes
      if seq ≠ c.inSeq ∨ spdmTransfer < bytes.length ∨ spdmMax < all.length then
        (s.putConn { c with inbox := [], inSeq := 0 }).answer .spdmInvalid []
      else if last then (s.putConn { c with inbox := [], inSeq := 0 }).answer .ok (leBytes 2 seq.toNat)
      else (s.putConn { c with inbox := all, inSeq := seq + 1 }).answer .ok (leBytes 2 seq.toNat))

/-- `CHUNK_GET`: the next part of a large response. -/
def execChunkGet (ep : Byte) (seq : Half) (s : State) : Out :=
  .next (s.spdm fun s =>
    match s.conn ep with
    | none => s.answer .spdmUnexpected []
    | some c =>
      if c.outbox.isEmpty ∨ seq ≠ c.outSeq then s.answer .spdmInvalid []
      else
        (s.putConn { c with outbox := c.outbox.drop spdmTransfer, outSeq := seq + 1 }).answer .ok
          (leBytes 2 seq.toNat ++ c.outbox.take spdmTransfer))

end Sys2Proof.Machine
end

