-- ==== Sys2Proof/Machine/RegRead.lean ====
section
/-! DEFINITION. What every register of the device and of BAR0 reads as (00 R8, R10, 05 R128, 07 R168, 08 R182, 09 R209, R210,
10 R227, R229, 11 R260, 12 R276, 13 R288 to R293, 16 R373, 17 R395, 18 R407, 19 R417): a 64-bit word at a multiple of 8, `none`
where the address is reserved. -/

namespace Sys2Proof.Machine

/-- The 8 bytes at an offset of a register image. -/
def imageWord (bs : List Byte) (o : Nat) : Dword := BitVec.ofNat 64 (leAt bs o 8)

/-- Four 16-bit registers of one word, the lowest first. -/
def halves (f : Nat → Half) (k : Nat) : Dword := f (k + 3) ++ f (k + 2) ++ f (k + 1) ++ f k

/-- The word at the first offset that a list of registers names. -/
def regAt (l : List (Nat × Dword)) (o : Nat) : Option Dword := (l.find? fun r => r.1 = o).map (·.2)

/-! ### Islands (05 Tables 5.13, 4.2, 09 Table 9.9) -/

/-- `ISL_ID`, numbered as in 00 Table 0.5. -/
def State.islId (s : State) (i : Nat) : Dword :=
  BitVec.ofNat 64 ((if s.present i then 2 ^ 31 else 0) + (i / 16 % 8) * 2 ^ 16 + (i % 16) * 2 ^ 12 + (i / 128) * 2 ^ 8 + i)

/-- A slot-anchor table entry as it reads. -/
def SlotAnchor.word (e : SlotAnchor) : Word :=
  e.tag ++ BitVec.ofBool e.nextClamped ++ BitVec.ofBool e.clamped ++ BitVec.ofBool e.termLost ++ BitVec.ofBool e.parity ++
    (0 : BitVec 4) ++ e.next ++ e.anchor

/-- Slot s of array a. -/
def Island.anchorWord (v : Island) (a s : Nat) : Word := (smGet .reset (v.getArr a).slots s).word

/-- The island register block at an offset. -/
def State.islandReg (s : State) (i o : Nat) : Option Dword :=
  let v := s.getIsl i
  if 0x100 ≤ o ∧ o < 0x200 then some (smGet 0 v.x ((o - 0x100) / 8))
  else if 0x200 ≤ o ∧ o < 0x220 then some (halves (smGet 0x8000 v.h) ((o - 0x200) / 2))
  else if 0x240 ≤ o ∧ o < 0x280 then some (halves (smGet 0 v.sem) ((o - 0x240) / 2))
  else if 0x280 ≤ o ∧ o < 0x2A0 then
    some (match v.loops.reverse[(o - 0x280) / 8]? with
      | some l => BitVec.ofNat 64 l.word
      | none => 0)
  else if 0x300 ≤ o ∧ o < 0x380 then some (smGet 0 v.pd ((o - 0x300) / 8))
  else if 0x400 ≤ o ∧ o < 0x600 then some ((smGet 0 v.fd ((o - 0x400) / 16)).extractLsb' (8 * (o % 16)) 64)
  else if 0x800 ≤ o ∧ o < 0xC00 then some ((smGet 0 v.dd ((o - 0x800) / 64)).extractLsb' (8 * (o % 64)) 64)
  else if 0x1000 ≤ o ∧ o < 0x2000 then
    let a := (o - 0x1000) / 0x200
    some (v.anchorWord a (o % 0x200 / 4 + 1) ++ v.anchorWord a (o % 0x200 / 4))
  else if 0x2000 ≤ o ∧ o < 0x3000 then some (imageWord ((smGet ExcRec.reset v.excLog ((o - 0x2000) / 32)).bytes i) (o % 32))
  else regAt [(0x0, s.islId i), (0x8, BitVec.ofNat 64 (s.islWord i)), (0x10, v.seqPc.zeroExtend 64), (0x18, BitVec.ofNat 64 v.seqCycle),
    (0x20, v.fault), (0x28, v.waitLimit.zeroExtend 64), (0x30, v.stepReg.zeroExtend 64), (0x40, v.drainKey.extractLsb' 0 64),
    (0x48, v.drainKey.extractLsb' 64 64), (0x80, BitVec.ofNat 64 (v.logTail.toNat * 2 ^ 32 + v.logHead.toNat)),
    (0x88, v.logLost.zeroExtend 64), (0x90, v.straitDrop.zeroExtend 64), (0x3000, v.cntBeats), (0x3008, v.cntWait)] o

/-- The control block of an island: instruction memory, then registers (00 R7). -/
def State.controlWord (s : State) (i o : Nat) : Option Dword :=
  if !s.present i then none
  else if o < 0x40000 then some ((smGet 0 (s.getIsl i).imem (o / 32)).extractLsb' (8 * (o % 32)) 64)
  else if 0x80000 ≤ o then s.islandReg i (o - 0x80000)
  else none

/-- The DMA block of an island. -/
def State.dmaReg (s : State) (i o : Nat) : Option Dword :=
  if s.present i ∧ o < 0x400 ∧ o % 0x100 < 0xC0 ∧ o % 0x100 ≠ 0x38 then
    some (imageWord ((s.getIsl i).getChan (o / 0x100)).regs (o % 0x100))
  else none

/-! ### Memory errors and the tracker (08 Tables 8.5, 8.6, 09 Table 9.10) -/

/-- A worst-location entry; one not in use reads 0. -/
def WlogEntry.bytes (e : WlogEntry) : List Byte :=
  bvBytes 6 e.line ++ [e.symbol, if e.ue then 1 else 0] ++ bvBytes 4 e.count ++ leBytes 4 0 ++ bvBytes 8 e.first ++ bvBytes 8 e.last

def Mem.reg (m : Mem) (o : Nat) : Option Dword :=
  let k := o % 0x1000 / 16
  if 0x1000 ≤ o ∧ o < 0x1000 + 16 * 256 then
    some (if o % 16 = 0 then (0 : Half) ++ smGet (0 : Half) m.chUe k ++ smGet (0 : Word) m.chCorr k else smGet 0 m.chLast k)
  else if 0x2000 ≤ o ∧ o < 0x2800 then
    some (match m.wlog[(o - 0x2000) / 32]? with
      | some e => imageWord e.bytes (o % 32)
      | none => 0)
  else if 0x3000 ≤ o ∧ o < 0x4000 then
    some (if o % 16 = 0 then smGet (0 : Word) m.accCorr k ++ smGet (0 : Word) m.spCorr k
      else (0 : Half) ++ smGet (0 : Half) m.islUe k ++ smGet (0 : Half) m.parity k ++ smGet (0 : Half) m.imCorr k)
  else regAt [(0x0, BitVec.ofNat 64 (m.staged.toNat * 2 + m.mode.toNat)), (0x8, BitVec.ofNat 64 m.valid.toNat),
    (0x10, m.scrubs.zeroExtend 64), (0x18, BitVec.ofNat 64 m.wlog.length)] o

def Tracker.reg (t : Tracker) (o : Nat) : Option Dword :=
  regAt [(0x0, t.resendT.zeroExtend 64), (0x8, t.session.zeroExtend 64), (0x10, BitVec.ofNat 64 (min 0xFFFF t.used)),
    (0x18, t.resends.zeroExtend 64), (0x20, t.dups.zeroExtend 64), (0x28, t.late.zeroExtend 64), (0x30, t.unreach.zeroExtend 64),
    (0x38, t.fenced.zeroExtend 64)] o

/-! ### Barriers (07 Table 7.9, 12 Tables 12.4, 12.5) -/

def Barrier.skewReg (b : Barrier) (o : Nat) : Option Dword :=
  regAt [(0x0, b.skewLast), (0x8, b.skewWaitMax.zeroExtend 64), (0x10, b.releases), (0x18, b.skewLate.zeroExtend 64)] o

/-- `BAR_CFG`. -/
def Barrier.cfgWord (b : Barrier) : Dword :=
  BitVec.ofBool b.valid ++ BitVec.ofBool b.pace ++ b.owner ++ b.coord ++ BitVec.ofNat 12 (b.members.length - 1) ++
    (0 : BitVec 17) ++ b.lead

def Barrier.reg (b : Barrier) (o : Nat) : Option Dword :=
  regAt [(0x0, b.cfgWord),
    (0x8, BitVec.ofNat 64 (b.arrivals.length * 2 ^ 33 + (if b.fixed then 2 ^ 32 else 0) + b.next.toNat)), (0x10, b.t),
    (0x18, (0 : Half) ++ b.paces ++ b.ignored ++ b.late)] o

/-- 64 bits of the member bitmap. -/
def Barrier.bitmapWord (b : Barrier) (o : Nat) : Dword :=
  b.members.foldl (fun w n => if n.toNat / 64 = o / 8 then w ||| ((1 : Dword) <<< (n.toNat % 64)) else w) 0

/-! ### Ports and fabric (10 Tables 10.5, 10.6, 11 Table 11.7) -/

def FiSet.reg (f : FiSet) (o : Nat) : Option Dword :=
  regAt [(0x0, f.ctrl), (0x8, f.param), (0x10, f.pattern), (0x18, f.count.zeroExtend 64)] o

def Port.reg (p : Port) (o : Nat) : Option Dword :=
  if 0x40 ≤ o ∧ o < 0x60 then
    let l := (o - 0x40) / 8
    some ((0 : Half) ++ smGet (0 : Half) p.laneLock l ++ smGet (0 : Word) p.laneErr l)
  else if 0x80 ≤ o ∧ o < 0xB8 then
    let v := (o - 0x80) / 8
    some (smGet (0 : Word) p.pktRx v ++ smGet (0 : Word) p.pktTx v)
  else if 0x200 ≤ o ∧ o < 0x2E0 then (smGet FiSet.reset p.fi ((o - 0x200) / 0x20)).reg (o % 0x20)
  else regAt [(0x0, BitVec.ofNat 64 p.state64), (0x8, BitVec.ofNat 64 (p.allow1.toNat * 2 + p.enabled.toNat)),
    (0x10, p.thr.zeroExtend 64), (0x18, p.flitsRx ++ p.flitsTx), (0x20, p.corrSyms ++ p.corrFlits), (0x28, p.dropGap ++ p.dropUnc),
    (0x30, p.voidIn ++ p.voidOut), (0x38, (0 : Half) ++ p.miswires ++ p.trainings ++ p.narrowings)] o

/-- `FAB_RKEY` as 128 bits (11 R241). -/
def State.rkeyBits (s : State) : BitVec 128 := s.rkey.w3 ++ s.rkey.w2 ++ s.rkey.w1 ++ s.rkey.w0

def State.fabReg (s : State) (o : Nat) : Option Dword :=
  let f := s.fab
  regAt [(0x0, BitVec.ofNat 64 (f.node.toNat + if f.nodeSet then 4096 else 0)), (0x8, f.flips ++ BitVec.ofNat 32 f.epochWord),
    (0x10, f.retire), (0x18, f.time), (0x20, f.pulsesBad ++ f.lastErr ++ BitVec.ofNat 16 f.tst.code), (0x28, s.ret.syncOff.zeroExtend 64),
    (0x30, s.rkeyBits.extractLsb' 0 64), (0x38, s.rkeyBits.extractLsb' 64 64), (0x40, f.detours.zeroExtend 64),
    (0x48, f.stale.zeroExtend 64), (0x50, f.expired.zeroExtend 64), (0x58, f.crcBad.zeroExtend 64), (0x60, f.fenceDrop.zeroExtend 64),
    (0x68, f.circDrop.zeroExtend 64), (0x70, f.badHdr.zeroExtend 64), (0x78, BitVec.ofNat 64 f.avoid.length)] o

/-! ### Snapshots, windows, power and pins (16 Table 16.5, 18 Table 18.6, 17 Table 17.9, 19 Table 19.6) -/

def State.snapReg (s : State) (o : Nat) : Option Dword := if o < 0x40 then some (imageWord s.snapBytes o) else none

/-- A window register. -/
def Window.bits (w : Window) : BitVec 128 :=
  (0 : Half) ++ w.size ++ BitVec.ofBool w.valid ++ BitVec.ofBool w.cache ++ w.host ++ (0 : BitVec 12) ++ w.base

/-- Window w of partition p at 0x100 p + 0x10 w. -/
def State.windowReg (s : State) (o : Nat) : Option Dword :=
  if o < 0x4000 then
    some ((smGet Window.reset (s.getPart (o / 0x100)).windows (o % 0x100 / 16)).bits.extractLsb' (8 * (o % 16)) 64)
  else none

/-- `PWR_STATE`. -/
def State.pwrWord (s : State) : Nat :=
  let p := s.pwr
  p.level.toNat + (if s.emergency then 8 else 0) + p.causes.toNat * 16 + p.capUnmet.toNat * 2 ^ 7 + p.decided.toNat * 2 ^ 8 +
    p.decision.toNat * 2 ^ 11 + p.calibrated.toNat * 2 ^ 12 + p.perPart.toNat * 2 ^ 13

/-- `TEMP_HOT`. -/
def Power.hotReg (p : Power) : Dword :=
  let a := hottest p 0 128
  let b := hottest p 128 160
  BitVec.ofNat 64 (p.floorOn.toNat * 2 ^ 48 + b.2 * 2 ^ 40 + (BitVec.ofInt 16 b.1).toNat * 2 ^ 24 + a.2 * 2 ^ 16 + (BitVec.ofInt 16 a.1).toNat)

def State.pwrReg (s : State) (o : Nat) : Option Dword :=
  let p := s.pwr
  if 0x100 ≤ o ∧ o < 0x300 then some (BitVec.ofNat 64 (s.energyOf ((o - 0x100) / 8) / 1000000))
  else if 0x300 ≤ o ∧ o < 0x480 then some ((smGet 0 s.id.weights ((o - 0x300) / 8)).zeroExtend 64)
  else if 0x480 ≤ o ∧ o < 0x4B8 then some ((smGet 0 s.id.statics ((o - 0x480) / 8)).zeroExtend 64)
  else if 0x500 ≤ o ∧ o < 0x640 then some (halves (smGet 0 p.temp) ((o - 0x500) / 2))
  else regAt [(0x0, BitVec.ofNat 64 s.pwrWord),
    (0x8, p.volt ++ p.measured ++ BitVec.ofNat 16 p.mean ++ BitVec.ofNat 16 p.est),
    (0x10, BitVec.ofNat 64 (p.limit.toNat * 2 ^ 48 + p.cap * 2 ^ 32 + p.hostCap.toNat * 2 ^ 16 + p.mgmtCap.toNat)),
    (0x18, p.gain.zeroExtend 64), (0x20, (0 : Half) ++ p.emergMs ++ p.emergN), (0x28, (0 : Word) ++ p.deferN ++ p.levelN),
    (0x40, BitVec.ofNat 64 (p.energy / 1000000)), (0x640, p.hotReg), (0x648, p.tripLog)] o

/-- `PIN_STATE`. -/
def State.pinWord (s : State) : Nat :=
  let p := s.pins
  p.perst.toNat + p.pwrbrk.toNat * 2 + p.thermtrip.toNat * 4 + p.refclk.toNat * 8 + p.inState.toNat * 16 + s.mgmt.i3c.toNat * 64

/-- The pin block, with the claim table from 0x1000 on. -/
def State.pinReg (s : State) (o : Nat) : Option Dword :=
  let p := s.pins
  if 0x1000 ≤ o ∧ o < 0x1000 + 8 * claimCount then
    let c := s.claimAt ((o - 0x1000) / 8)
    some (c.time ++ (0 : Half) ++ c.holder)
  else regAt [(0x0, BitVec.ofNat 64 s.pinWord), (0x8, (0 : Word) ++ p.inputA ++ p.inputV),
    (0x10, p.filtSmbus ++ p.filtSync ++ p.filtPwrbrk ++ p.filtPerst), (0x18, p.faultAt.extractLsb' 0 48 ++ p.faults),
    (0x20, s.ret.syncMode.zeroExtend 64)] o

/-! ### The address map (00 Table 0.6) -/

/-- The word at a device address, a multiple of 8; `none` where the map names no register (00 R8). -/
def State.devReg (s : State) (a : Nat) : Option Dword :=
  let in_ (base size : Nat) : Bool := decide (base ≤ a) && decide (a < base + size)
  if in_ 0x200000000000 0x10000000 then s.controlWord ((a - 0x200000000000) / 0x100000) (a % 0x100000)
  else if in_ 0x300000020000 0x10000 then s.mem.reg (a - 0x300000020000)
  else if in_ 0x300000030000 0x10000 then s.trk.reg (a - 0x300000030000)
  else if in_ 0x300000040000 0x2000 then (s.getBar (a % 0x2000 / 0x20)).skewReg (a % 0x20)
  else if in_ 0x300000042000 0x2000 then (s.getBar (a % 0x2000 / 0x20)).reg (a % 0x20)
  else if in_ 0x300000050000 0x8000 then (s.getPort (a % 0x8000 / 0x400)).reg (a % 0x400)
  else if a = 0x30000005F000 then some (s.fab.fiKey.extractLsb' 0 64)
  else if a = 0x30000005F008 then some (s.fab.fiKey.extractLsb' 64 64)
  else if in_ 0x300000060000 0x10000 then s.fabReg (a - 0x300000060000)
  else if in_ 0x300000080000 0x10000 then s.snapReg (a - 0x300000080000)
  else if in_ 0x300000090000 0x10000 then s.windowReg (a - 0x300000090000)
  else if in_ 0x3000000A0000 0x10000 then s.pwrReg (a - 0x3000000A0000)
  else if in_ 0x3000000B0000 0x10000 then s.pinReg (a - 0x3000000B0000)
  else if in_ 0x3000000C0000 0x20000 then some ((s.getBar ((a - 0x3000000C0000) / 0x200)).bitmapWord (a % 0x200))
  else if in_ 0x300000100000 0x100000 then s.dmaReg ((a - 0x300000100000) / 0x1000) (a % 0x1000)
  else none

/-- What a read of a device address returns: the word there, or an error to its requester (00 R8). -/
def State.devRead (s : State) (a : Nat) : State :=
  match s.devReg (a / 8 * 8) with
  | some v => s.out (.regRead v)
  | none => s.out (.regError (.dev (BitVec.ofNat 48 a)))

/-! ### BAR0 (13 R288 to R293) -/

def RingSt.code (t : RingSt) : Nat :=
  match t with
  | .disabled => 0 | .enabled => 1 | .broken => 2 | .stopping => 3

def CqSt.code (t : CqSt) : Nat :=
  match t with
  | .disabled => 0 | .enabled => 1 | .busy => 2

def CmdRing.reg (c : CmdRing) (o : Nat) : Dword :=
  (regAt [(0x0, c.base), (0x8, c.piAddr), (0x10, c.ciAddr), (0x18, c.ctrl),
    (0x20, BitVec.ofNat 64 (c.ci.toNat * 2 ^ 32 + c.reason.toNat * 2 ^ 8 + c.st.code))] o).getD 0

def CompRing.reg (q : CompRing) (o : Nat) : Dword :=
  (regAt [(0x0, q.base), (0x8, q.piAddr), (0x10, q.ciAddr), (0x18, q.ctrl),
    (0x20, BitVec.ofNat 64 (q.pi.toNat * 2 ^ 32 + q.reason.toNat * 2 ^ 8 + q.st.code))] o).getD 0

/-- The status window. -/
def State.statusReg (s : State) (o : Nat) : Dword :=
  let h := s.host
  (regAt [(0x0, BitVec.ofNat 64 s.stWord), (0x8, s.now), (0x10, h.stCtrl.zeroExtend 64), (0x18, h.wakesPoll ++ h.wakesInv),
    (0x20, h.barDiscard.zeroExtend 64), (0x28, h.poisoned ++ h.refused), (0x30, BitVec.ofNat 32 h.directory.length ++ h.biCount)] o).getD 0

/-- The word at an offset of BAR0, a multiple of 8: reserved offsets read 0. The identity window reads so from link-up on, in a
start as well (13 R289). -/
def State.barReg (s : State) (o : Nat) : Dword :=
  if o < 0x80 then imageWord s.identity o
  else if 0x1000 ≤ o ∧ o < 0x2000 then s.statusReg (o - 0x1000)
  else if 0x2000 ≤ o ∧ o < 0x2400 then (s.getCr (o % 0x400 / 0x40)).reg (o % 0x40)
  else if 0x3000 ≤ o ∧ o < 0x3400 then (s.getQr (o % 0x400 / 0x40)).reg (o % 0x40)
  else if 0x10000 ≤ o ∧ o < 0x20000 then s.host.compAt o
  else if 0x20000 ≤ o ∧ o < 0x20100 then (smGet msixReset s.host.msix (o % 0x100 / 16)).extractLsb' (8 * (o % 16)) 64
  else if o = 0x21000 then s.host.pba.zeroExtend 64
  else 0

end Sys2Proof.Machine
end

