-- ==== Sys2Proof/Machine/Regs.lean ====
section
/-! DEFINITION. Writes to device registers (00 R10, R11, 05 R128, 09 R209) and the reads that clear (00 R10). -/

namespace Sys2Proof.Machine

/-! ### Island registers (05 Table 5.13) -/

/-- Replace 64-bit word k of a wide register, keeping the bits of `mask` only. -/
def wordAt {w : Nat} (old mask : BitVec w) (k : Nat) (v : Dword) : BitVec w :=
  ((old &&& ~~~(((0xFFFFFFFFFFFFFFFF : BitVec w)) <<< (64 * k))) ||| ((v.setWidth w) <<< (64 * k))) &&& mask

/-- Defined bits of a feed descriptor (05 Table 5.2). -/
def fdMask : BitVec 128 := 0x83FF1F1F3FFFFF3FFFFFFFFFF83FFFFF

/-- Defined bits of a drain descriptor (05 Table 5.9): five address words among them. -/
def ddMask : BitVec 512 :=
  let a : BitVec 32 := 0xC0FFFFFF
  (0 : BitVec 160) ++ (0xFFFFFFFF : BitVec 32) ++ (0xFFFFFFFFFFFFFFFF : BitVec 64) ++ (0xFFFFFFFF : BitVec 32) ++ a ++ a ++ a ++ a ++
    (0x0000FFFF : BitVec 32) ++ a ++ (0xFFFF7F7F : BitVec 32)

/-- Write level k of the loop stack; `none` where an active level would stand above an inactive one. -/
def loopWrite (l : List LoopLevel) (k : Nat) (v : Dword) : Option (List LoopLevel) :=
  let up := l.reverse
  if v.msb then
    if up.length < k then none
    else some (up.take k ++ [LoopLevel.mk (v.extractLsb' 32 13) (v.extractLsb' 16 13) ((v.extractLsb' 0 16).zeroExtend 64)] ++ up.drop (k + 1)).reverse
  else if k + 1 < up.length then none
  else some (up.take k).reverse

/-- A register that the island's state guards, at its offset; `none` where no such register stands or the
write would leave a gap in the loop stack. -/
def Island.regWrite (v : Island) (o : Nat) (x : Dword) : Option Island :=
  if o = 0x10 then some { v with seqPc := x.extractLsb' 0 13 }
  else if o = 0x30 then some { v with stepReg := x.extractLsb' 0 32 }
  else if o = 0x40 ∨ o = 0x48 then some { v with drainKey := wordAt v.drainKey (BitVec.allOnes 128) ((o - 0x40) / 8) x }
  else if 0x100 ≤ o ∧ o < 0x200 ∧ o % 8 = 0 then some (v.setX (BitVec.ofNat 5 ((o - 0x100) / 8)) x)
  else if 0x200 ≤ o ∧ o < 0x220 ∧ o % 2 = 0 then some { v with h := smSet v.h ((o - 0x200) / 2) (x.extractLsb' 0 16 &&& 0x83FF) }
  else if 0x240 ≤ o ∧ o < 0x280 ∧ o % 2 = 0 then some { v with sem := smSet v.sem ((o - 0x240) / 2) (x.extractLsb' 0 16) }
  else if 0x280 ≤ o ∧ o < 0x2A0 ∧ o % 8 = 0 then (loopWrite v.loops ((o - 0x280) / 8) x).map fun l => { v with loops := l }
  else if 0x300 ≤ o ∧ o < 0x380 ∧ o % 8 = 0 then some { v with pd := smSet v.pd ((o - 0x300) / 8) (x &&& 0xFFFFFFFFFFC) }
  else if 0x400 ≤ o ∧ o < 0x600 ∧ o % 8 = 0 then
    let k := (o - 0x400) / 16
    some { v with fd := smSet v.fd k (wordAt (smGet 0 v.fd k) fdMask (o / 8 % 2) x) }
  else if 0x800 ≤ o ∧ o < 0xC00 ∧ o % 8 = 0 then
    let k := (o - 0x800) / 64
    some { v with dd := smSet v.dd k (wordAt (smGet 0 v.dd k) ddMask (o / 8 % 8) x) }
  else none

/-- Offsets of the registers that the island's state guards. -/
def guardedReg (o : Nat) : Bool :=
  o = 0x10 || o = 0x30 || o = 0x40 || o = 0x48 || decide (0x100 ≤ o ∧ o < 0x200 ∧ o % 8 = 0) ||
    decide (0x200 ≤ o ∧ o < 0x220 ∧ o % 2 = 0) || decide (0x240 ≤ o ∧ o < 0x280 ∧ o % 2 = 0) ||
    decide (0x280 ≤ o ∧ o < 0x2A0 ∧ o % 8 = 0) || decide (0x300 ≤ o ∧ o < 0x380 ∧ o % 8 = 0) ||
    decide (0x400 ≤ o ∧ o < 0x600 ∧ o % 8 = 0) || decide (0x800 ≤ o ∧ o < 0xC00 ∧ o % 8 = 0)

/-- A discarded register write is written to the fault log (05 R128, 09 R209). -/
def State.regDiscard (s : State) (i : Nat) : State := s.logFault .registerDiscard srcLighthouse 0 (BitVec.ofNat 32 i)

/-- The island is BOUND or PAUSED. -/
def State.regsOpen (s : State) (i : Nat) : Bool := s.islSt i = stBound || s.islSt i = stPaused

/-- A write to a register of a present island; the read-only ones ignore it. -/
def State.writeIsland (s : State) (i o : Nat) (x : Dword) : State :=
  if o = 0x28 then s.modIsl i fun v => { v with waitLimit := x.extractLsb' 0 32 }
  else if o = 0x84 then s.modIsl i fun v => { v with logTail := x.extractLsb' 0 7 }
  else if !guardedReg o then s
  else if !s.regsOpen i then s.regDiscard i
  else match (s.getIsl i).regWrite o x with
    | some v => s.setIsl i v
    | none => s.regDiscard i

/-! ### DMA channel registers (09 Table 9.9) -/

/-- Entry k of the start queue is written: the other entries stay where they are. -/
def queueWrite (q : List (Option (BitVec 5 × BitVec 22))) (k : Nat) (x : Dword) : List (Option (BitVec 5 × BitVec 22)) :=
  trimQueue ((q ++ List.replicate (8 - q.length) none).set k
    (if x.msb then some (x.extractLsb' 22 5, x.extractLsb' 0 22) else none))

def Chan.regWrite (c : Chan) (o : Nat) (x : Dword) : Chan :=
  if o = 0x08 then { c with desc := x.extractLsb' 0 22 }
  else if o = 0x10 then { c with pos := x.extractLsb' 0 60, runOff := none }
  else if o = 0x18 then { c with sem := x.extractLsb' 0 5 }
  else if o = 0x20 then { c with err := x.extractLsb' 0 32 }
  else if o < 0x80 then { c with runOff := none, dcopy := wordAt c.dcopy (BitVec.allOnes 512) ((o - 0x40) / 8) x }
  else { c with queue := queueWrite c.queue ((o - 0x80) / 8) x }

def chanReg (o : Nat) : Bool := o = 0x08 || o = 0x10 || o = 0x18 || o = 0x20 || decide (0x40 ≤ o ∧ o < 0xC0 ∧ o % 8 = 0)

/-- A write to a register of a channel of a present island. -/
def State.writeChan (s : State) (i ch o : Nat) (x : Dword) : State :=
  if !chanReg o then s
  else
    let c := (s.getIsl i).getChan ch
    if s.regsOpen i && (c.state = 0 || c.state = 3) then s.modChan i ch fun c => c.regWrite o x else s.regDiscard i

/-- A requester gets an error for an access to a reserved address (00 R8). -/
def State.regRefused (s : State) (a : Nat) : State := s.out (.regError (.dev (BitVec.ofNat 48 a)))

/-- A register begins at a device address: at a multiple of 8, or at that of its own size among the narrower ones of 05 Table
5.13 and 17 Table 17.9. -/
def regStart (a : Nat) : Bool :=
  let o := a % 0x100000 - 0x80000
  let inIsl := decide (0x200000000000 ≤ a) && decide (a < 0x200010000000)
  a % 8 = 0 || (inIsl && (o = 0x84 || decide (0x1000 ≤ o ∧ o < 0x2000 ∧ o % 4 = 0) ||
    (o % 2 = 0 && (decide (0x200 ≤ o ∧ o < 0x220) || decide (0x240 ≤ o ∧ o < 0x280))))) ||
  (decide (0x3000000A0500 ≤ a) && decide (a < 0x3000000A0640) && a % 2 = 0)

/-- A write to a device address. Blocks other than an island's have no register that it may write (09 R210, 10 R227,
11 R260): it is ignored there, and at an address where no register begins its requester gets an error (00 R8). -/
def State.writeDev (s : State) (a : Nat) (x : Dword) : State :=
  if !regStart a || (s.devReg (a / 8 * 8)).isNone then s.regRefused a
  else if 0x200000000000 ≤ a ∧ a < 0x200010000000 then
    let o := a % 0x100000
    if 0x80000 ≤ o then s.writeIsland ((a - 0x200000000000) / 0x100000) (o - 0x80000) x else s
  else if 0x300000100000 ≤ a ∧ a < 0x300000200000 then
    s.writeChan ((a - 0x300000100000) / 0x1000) (a % 0x1000 / 0x100) (a % 0x100) x
  else s

/-- `REGISTER_WRITE`. -/
def execRegisterWrite (a : RegAddr) (v : Dword) (s : State) : Out :=
  .next (match a with
    | .bar off => s.writeBar off.toNat v
    | .dev addr => s.writeDev addr.toNat v)

/-! ### Reads that clear -/

/-- The read returns a value and clears it. -/
def readOut (v : Dword) (s : State) : Out := .next (s.out (.regRead v))

/-- Address of a register of island i. -/
def islandAddr (i o : Nat) : Nat := 0x200000000000 + 0x100000 * i + 0x80000 + o

/-- `LOG_LOST`; the block of an absent island is reserved (00 R8). -/
def execLogLostRead (i : BitVec 8) (s : State) : Out :=
  if s.present i.toNat then
    readOut ((s.getIsl i.toNat).logLost.zeroExtend 64) (s.modIsl i.toNat fun v => { v with logLost := 0 })
  else .next (s.regRefused (islandAddr i.toNat 0x88))

/-- `STRAIT_DROP`. -/
def execStraitDropRead (i : BitVec 8) (s : State) : Out :=
  if s.present i.toNat then
    readOut ((s.getIsl i.toNat).straitDrop.zeroExtend 64) (s.modIsl i.toNat fun v => { v with straitDrop := 0 })
  else .next (s.regRefused (islandAddr i.toNat 0x90))

/-- `BSKEW_WAIT_MAX` (07 Table 7.9). -/
def execBskewWaitMaxRead (g : Byte) (s : State) : Out :=
  readOut ((s.getBar g.toNat).skewWaitMax.zeroExtend 64) (s.modBar g.toNat fun b => { b with skewWaitMax := 0 })
def execBskewLateRead (g : Byte) (s : State) : Out :=
  readOut ((s.getBar g.toNat).skewLate.zeroExtend 64) (s.modBar g.toNat fun b => { b with skewLate := 0 })
def execTrkResendsRead (s : State) : Out := readOut (s.trk.resends.zeroExtend 64) (s.modTrk fun t => { t with resends := 0 })
def execTrkDupsRead (s : State) : Out := readOut (s.trk.dups.zeroExtend 64) (s.modTrk fun t => { t with dups := 0 })
def execTrkLateRead (s : State) : Out := readOut (s.trk.late.zeroExtend 64) (s.modTrk fun t => { t with late := 0 })
def execTrkUnreachRead (s : State) : Out := readOut (s.trk.unreach.zeroExtend 64) (s.modTrk fun t => { t with unreach := 0 })
def execTrkFencedRead (s : State) : Out := readOut (s.trk.fenced.zeroExtend 64) (s.modTrk fun t => { t with fenced := 0 })
def execPortCorrRead (port : BitVec 5) (s : State) : Out :=
  let x := s.getPort port.toNat
  readOut (x.corrSyms ++ x.corrFlits) (s.modPort port.toNat fun x => { x with corrFlits := 0, corrSyms := 0 })
def execPortDropRead (port : BitVec 5) (s : State) : Out :=
  let x := s.getPort port.toNat
  readOut (x.dropGap ++ x.dropUnc) (s.modPort port.toNat fun x => { x with dropUnc := 0, dropGap := 0 })
def execPortVoidRead (port : BitVec 5) (s : State) : Out :=
  let x := s.getPort port.toNat
  readOut (x.voidIn ++ x.voidOut) (s.modPort port.toNat fun x => { x with voidOut := 0, voidIn := 0 })
def execPortEventsRead (port : BitVec 5) (s : State) : Out :=
  let x := s.getPort port.toNat
  readOut ((0 : Half) ++ x.miswires ++ x.trainings ++ x.narrowings)
    (s.modPort port.toNat fun x => { x with narrowings := 0, trainings := 0, miswires := 0 })
def execLaneErrRead (port : BitVec 5) (lane : BitVec 2) (s : State) : Out :=
  let x := s.getPort port.toNat
  readOut ((0 : Half) ++ smGet (0 : Half) x.laneLock lane.toNat ++ smGet (0 : Word) x.laneErr lane.toNat)
    (s.modPort port.toNat fun x => { x with laneErr := smSet x.laneErr lane.toNat 0, laneLock := smSet x.laneLock lane.toNat 0 })
/-- `FI_COUNT`; virtual channel 7 has none, and its address is reserved (00 R8). -/
def execFiCountRead (port : BitVec 5) (vc : BitVec 3) (s : State) : Out :=
  let f := smGet FiSet.reset (s.getPort port.toNat).fi vc.toNat
  if vc = 7 then .next (s.regRefused (0x300000050000 + 0x400 * port.toNat + 0x2F8))
  else readOut (f.count.zeroExtend 64) (s.modPort port.toNat fun x => { x with fi := smSet x.fi vc.toNat { f with count := 0 } })
def execFabDetoursRead (s : State) : Out := readOut (s.fab.detours.zeroExtend 64) (s.modFab fun f => { f with detours := 0 })
def execFabStaleRead (s : State) : Out := readOut (s.fab.stale.zeroExtend 64) (s.modFab fun f => { f with stale := 0 })
def execFabExpiredRead (s : State) : Out := readOut (s.fab.expired.zeroExtend 64) (s.modFab fun f => { f with expired := 0 })
def execFabCrcbadRead (s : State) : Out := readOut (s.fab.crcBad.zeroExtend 64) (s.modFab fun f => { f with crcBad := 0 })
def execFabFencedropRead (s : State) : Out := readOut (s.fab.fenceDrop.zeroExtend 64) (s.modFab fun f => { f with fenceDrop := 0 })
def execFabCircdropRead (s : State) : Out := readOut (s.fab.circDrop.zeroExtend 64) (s.modFab fun f => { f with circDrop := 0 })
def execFabBadhdrRead (s : State) : Out := readOut (s.fab.badHdr.zeroExtend 64) (s.modFab fun f => { f with badHdr := 0 })
/-- `BAR_COUNT` (12 Table 12.5). -/
def execBarCountRead (g : Byte) (s : State) : Out :=
  let b := s.getBar g.toNat
  readOut ((0 : Half) ++ b.paces ++ b.ignored ++ b.late) (s.modBar g.toNat fun b => { b with late := 0, ignored := 0, paces := 0 })
def execStWakesRead (s : State) : Out :=
  readOut (s.host.wakesPoll ++ s.host.wakesInv) (s.modHost fun h => { h with wakesInv := 0, wakesPoll := 0 })
def execStBarDiscardRead (s : State) : Out := readOut (s.host.barDiscard.zeroExtend 64) (s.modHost fun h => { h with barDiscard := 0 })
def execStHostRefusedRead (s : State) : Out :=
  readOut (s.host.poisoned ++ s.host.refused) (s.modHost fun h => { h with refused := 0, poisoned := 0 })
/-- `ST_BI`: the directory lines in use are read without clearing. -/
def execStBiRead (s : State) : Out :=
  readOut (BitVec.ofNat 32 s.host.directory.length ++ s.host.biCount) (s.modHost fun h => { h with biCount := 0 })
def execSnapTouchRead (s : State) : Out :=
  readOut (s.snap.touchT ++ s.snap.touchN) (s.modSnap fun x => { x with touchN := 0, touchT := 0 })
def execSnapHeldRead (s : State) : Out := readOut (s.snap.heldT ++ s.snap.heldN) (s.modSnap fun x => { x with heldN := 0, heldT := 0 })
def execSnapSkippedRead (s : State) : Out := readOut (s.snap.skipped.zeroExtend 64) (s.modSnap fun x => { x with skipped := 0 })
def execSnapFailsRead (s : State) : Out := readOut (s.snap.fails.zeroExtend 64) (s.modSnap fun x => { x with fails := 0 })
def execPwrEmergRead (s : State) : Out :=
  readOut ((0 : Half) ++ s.pwr.emergMs ++ s.pwr.emergN) (s.modPwr fun p => { p with emergN := 0, emergMs := 0 })
def execPwrLevelsRead (s : State) : Out :=
  readOut ((0 : Word) ++ s.pwr.deferN ++ s.pwr.levelN) (s.modPwr fun p => { p with levelN := 0, deferN := 0 })
/-- `PIN_FILTERED` (19 Table 19.6). -/
def execPinFilteredRead (s : State) : Out :=
  readOut (s.pins.filtSmbus ++ s.pins.filtSync ++ s.pins.filtPwrbrk ++ s.pins.filtPerst)
    (s.modPins fun p => { p with filtPerst := 0, filtPwrbrk := 0, filtSync := 0, filtSmbus := 0 })

end Sys2Proof.Machine
end

