-- ==== Sys2Proof/Machine/Special.lean ====
section
/-! DEFINITION. Lane functions of the vector unit: `VOPF`, `VOPI`, `VCVT`, the compensated pairs and
the special functions of level VM2 (06 R131, R136, R137, R139, R140, R147). -/

namespace Sys2Proof.Machine

/-! ### `VOPF`, `VOPI` (06 Table 6.2) -/

def boolWord (b : Bool) : Word := if b then 1 else 0

/-- The result of FN as an FP32 value, or a lane that the `B` bit leaves alone. -/
def vopfLane (fn : VopfFn) (bf : Bool) (a b c : Word) : Word :=
  let x := F32.ofBits a
  let y := F32.ofBits b
  let fl (r : F32) : Word := (if bf then r.toBf else r).toBits
  match fn with
  | .add => fl (x.add y)
  | .sub => fl (x.sub y)
  | .mul => fl (x.mul y)
  | .fma => fl (x.fma y (.ofBits c))
  | .min => fl (x.min y)
  | .max => fl (x.max y)
  | .abs => fl x.abs
  | .neg => fl x.neg
  | .cmplt => boolWord (x.lt y)
  | .cmpeq => boolWord (x.eq y)
  | .sel => if c ≠ 0 then a else b
  | .scale => fl (x.scale (max (-1000) (min 1000 b.toInt)))

def vopiLane (fn : VopiFn) (a b c : Word) : Word :=
  let sh := (b.extractLsb' 0 5).toNat
  match fn with
  | .add => a + b
  | .sub => a - b
  | .mul => a * b
  | .and => a &&& b
  | .or => a ||| b
  | .xor => a ^^^ b
  | .sll => a <<< sh
  | .srl => a >>> sh
  | .sra => a.sshiftRight sh
  | .min => if a.toInt ≤ b.toInt then a else b
  | .max => if a.toInt ≤ b.toInt then b else a
  | .cmplt => boolWord (decide (a.toInt < b.toInt))
  | .cmpltu => boolWord (decide (a.toNat < b.toNat))
  | .cmpeq => boolWord (decide (a = b))
  | .sel => if c ≠ 0 then a else b

/-! ### `VCVT` (06 R147) -/

def nanWord : Word := 0x7FC00000

/-- Stochastic BF16 of a lane with draw r (04 R87). -/
def bf16Stoch (a r : Word) : Word :=
  match F32.ofBits a with
  | .fin _ x => BitVec.ofNat 32 ((drainValue x (outFmt 1) rndStoch r).1.code (outFmt 1) * 2 ^ 16)
  | v => v.toBits

def vcvtLane (fn : VcvtFn) (a r : Word) : Word :=
  match fn with
  | .bf16Rne => (F32.ofBits a).toBf.toBits
  | .bf16Stoch => bf16Stoch a r
  | .bf16Rtz => if (F32.ofBits a).isNan then nanWord else a &&& 0xFFFF0000
  | .fp16Rne =>
    match F32.ofBits a with
    | .nan => 0x7E00
    | .inf n => if n then 0xFC00 else 0x7C00
    | .fin n x =>
      match roundTo lay16 n x with
      | .fin n y => BitVec.ofNat 32 (lay16.code n y)
      | .inf n => if n then 0xFC00 else 0x7C00
      | .nan => 0x7E00
  | .toInt =>
    match F32.ofBits a with
    | .nan => 0
    | .inf n => if n then 0x80000000 else 0x7FFFFFFF
    | .fin _ x => BitVec.ofInt 32 (max (-(2 ^ 31 : Nat)) (min ((2 ^ 31 : Nat) - 1 : Int) (x.rneAt 0)))
  | .fromInt => (rn false ⟨a.toInt, 0⟩).toBits

/-! ### Compensated pairs (06 R136, R137) -/

/-- One `VKADD` lane: the new s and e. -/
def vkaddLane (s e a : Word) : Word × Word :=
  let x := F32.ofBits s
  let y := F32.ofBits a
  let z := F32.ofBits e
  if x.isNan || y.isNan || z.isNan then (nanWord, nanWord)
  else
    let s2 := x.add y
    match s2 with
    | .inf _ => (s2.toBits, 0)
    | _ => (s2.toBits, (z.add (twoSumErr x y s2)).toBits)

/-- One combination of the tree of `VRED` KSUM. -/
def ksumPair (a b : Word × Word) : Word × Word :=
  let x := F32.ofBits a.1
  let y := F32.ofBits b.1
  let s2 := x.add y
  (s2.toBits, (((F32.ofBits a.2).add (.ofBits b.2)).add (twoSumErr x y s2)).toBits)

/-- The fixed tree: lane l < 2^k combines with lane l + 2^k, k from n − 1 down to 0. -/
def redTree (f : α → α → α) : Nat → List α → List α
  | 0, l => l
  | n + 1, l => redTree f n (List.zipWith f (l.take (2 ^ n)) (l.drop (2 ^ n)))

/-- Lane 0 holds the result, every other lane +0. -/
def lane0 (w : Word) : List Word := w :: List.replicate 255 0

/-! ### Special functions (06 R139, R140, Tables 6.5, 6.6) -/

def cst (w : Word) : F32 := .ofBits w
def cL2E : F32 := cst 0x3FB8AA3B
def cLn2Hi : F32 := cst 0x3F317200
def cLn2Lo : F32 := cst 0x35BFBE8E
def cGS : F32 := cst 0x3F4C422A
def cGK : F32 := cst 0x3D372713
def fOne : F32 := cst 0x3F800000
def fTwo : F32 := cst 0x40000000
def fHalf : F32 := cst 0x3F000000
def fThreeHalves : F32 := cst 0x3FC00000
def fZero : F32 := .fin false ⟨0, 0⟩
/-- An integer as FP32, exact for the n and k of R139. -/
def fInt (n : Int) : F32 := rn false ⟨n, 0⟩

/-- C6 down to C0 of Table 6.5. -/
def expCoefs : List Word :=
  [0x3AB60B61, 0x3C088889, 0x3D2AAAAB, 0x3E2AAAAB, 0x3F000000, 0x3F800000, 0x3F800000]

/-- rne_int(rn(x × log2 e)) of a finite x. -/
def expN (x : F32) : Int :=
  match x.mul cL2E with
  | .fin _ y => y.rneAt 0
  | .inf true => -1000
  | _ => 1000

def vexp (x : F32) : F32 :=
  let n := expN x
  let nn := fInt (-n)
  let r := nn.fma cLn2Lo (nn.fma cLn2Hi x)
  (expCoefs.foldl (fun p c => p.fma r (cst c)) (cst 0x39500D01)).scale n

/-- One Newton step of the reciprocal. -/
def recipStep (x y : F32) : F32 := y.fma (x.neg.fma y fOne) y

def vrecip (x : F32) : F32 :=
  let y := F32.ofBits (0x7EF311C3 - x.abs.toBits)
  let y := if x.isNeg then y.neg else y
  recipStep x (recipStep x (recipStep x y))

def rsqrtStep (h y : F32) : F32 := y.mul (h.neg.fma (y.mul y) fThreeHalves)

def vrsqrt (x : F32) : F32 :=
  let y := F32.ofBits (0x5F3759DF - (x.toBits >>> 1))
  let h := fHalf.mul x
  rsqrtStep h (rsqrtStep h (rsqrtStep h y))

/-- The logarithm of a normal positive x, its exponent lowered by `less`. -/
def vlog (x : F32) (less : Int) : F32 :=
  let b := x.toBits
  let k : Int := (b.toNat / 2 ^ 23 % 256 : Nat) - 127 - less
  let m := F32.ofBits ((b &&& 0x807FFFFF) ||| 0x3F800000)
  let big := !m.lt fThreeHalves
  let m := if big then m.mul fHalf else m
  let k := if big then k + 1 else k
  let f := m.sub fOne
  let s := f.mul (vrecip (fTwo.add f))
  let z := s.mul s
  let q := z.fma (cst 0x3E638E39) (cst 0x3E924925)
  let q := q.fma z (cst 0x3ECCCCCD)
  let q := q.fma z (cst 0x3F2AAAAB)
  let y := s.fma fTwo ((s.mul z).mul q)
  (fInt k).fma cLn2Hi ((fInt k).fma cLn2Lo y)

def withSign (neg : Bool) (x : F32) : F32 := if neg then x.neg else x

def vtanh (x : F32) : F32 :=
  let t := vexp ((cst 0xC0000000).mul x.abs)
  withSign x.isNeg ((fOne.sub t).mul (vrecip (fOne.add t)))

def tanhFull (x : F32) : F32 :=
  match x with
  | .nan => .nan
  | .inf n => withSign n fOne
  | .fin n v =>
    if v.m = 0 || v.abs.lt ⟨1, -12⟩ then x
    else if !v.abs.lt ⟨9, 0⟩ then withSign n fOne
    else vtanh x

def vgelu (x : F32) : F32 :=
  let u := cGK.fma ((x.mul x).mul x) x
  let h := fHalf.mul x
  h.fma (tanhFull (cGS.mul u)) h

/-- A subnormal value. -/
def isSub (v : Dyad) : Bool := v.m ≠ 0 && v.abs.lt ⟨1, -126⟩

def vsfLane (fn : VsfFn) (a : Word) : Word :=
  let x := F32.ofBits a
  let r : F32 :=
    match fn, x with
    | _, .nan => .nan
    | .exp, .inf n => if n then fZero else .inf false
    | .exp, .fin _ v =>
      if v.m = 0 then fOne
      else if 128 < expN x then .inf false
      else if expN x < -151 then fZero
      else vexp x
    | .log, .inf n => if n then .nan else .inf false
    | .log, .fin n v =>
      if v.m = 0 then .inf true
      else if n then .nan
      else if isSub v then vlog (x.scale 24) 24
      else vlog x 0
    | .rsqrt, .inf n => if n then .nan else fZero
    | .rsqrt, .fin n v =>
      if v.m = 0 then .inf n
      else if n then .nan
      else if isSub v then (vrsqrt (x.scale 24)).scale 12
      else vrsqrt x
    | .recip, .inf n => .fin n ⟨0, 0⟩
    | .recip, .fin n v =>
      if v.m = 0 then .inf n
      else if isSub v then (vrecip (x.scale 24)).scale 24
      else if !v.abs.lt ⟨1, 126⟩ then (vrecip (x.scale (-24))).scale (-24)
      else vrecip x
    | .tanh, x => tanhFull x
    | .gelu, .inf n => if n then fZero else .inf false
    | .gelu, .fin _ v => if v.m = 0 then x else vgelu x
  r.toBits

end Sys2Proof.Machine
end

