-- ==== Sys2Proof/Machine/Vector.lean ====
section
/-! DEFINITION. The vector slot (06 R130 to R147, Tables 6.1 to 6.4). -/

namespace Sys2Proof.Machine

/-- A vector result, seen by what issues in or after cycle t + n. -/
def State.vresult (s : State) (i op t n : Nat) (a : Act) : State :=
  s.modIsl i fun v => (v.push (t + n) 0 op a).count 3 1

/-- Free lanes (log 10). -/
def State.drawLanes (s : State) : List Word × State :=
  let (bs, s) := s.drawBytes 1024
  (splitWords 256 bs, s)

/-- Scratchpad offset of a `VLD` or `VST` (06 R132). -/
def vecOffset (v : Island) (xa : BitVec 5) (imm : BitVec 11) : Nat := offsetOf (v.getX xa) 64 imm

def vecAccess (t off n : Nat) : List (Nat × Nat) := (granules off n).map fun b => (t + 1, b)

/-- `VLD` (06 R133). An offset that is no multiple of 64 breaks the rule of R132, which states no
result: the lanes are free (log 22). -/
def execVld (w : Site) (type : BitVec 3) (port : BitVec 2) (vd xa : BitVec 5) (imm : BitVec 11) (s : State) : Out :=
  if 4 < type.toNat then .refused (.illFormed "VLD")
  else .next (s.slot w 6 fun s i t op =>
    if type = 4 then s.modIsl i fun v => (v.push (t + 1) 1 op (.vldBeat port vd 8 [])).count 3 1
    else
      let off := vecOffset (s.getIsl i) xa imm
      let n := vecBytes type.toNat
      s.access i 6 t off n (vecAccess t off n) fun s =>
        if off % 64 = 0 then s.modIsl i fun v => (v.push (t + 1) 1 op (.vldRead type vd off)).count 3 1
        else
          let (l, s) := s.drawLanes
          s.vresult i op t 4 (.setV vd l))

/-- `VST` (06 R133). At an offset that is no multiple of 64 the bytes of the lines it spans are free
(log 22). -/
def execVst (w : Site) (type : BitVec 3) (port : BitVec 2) (vs xa : BitVec 5) (imm : BitVec 11) (s : State) : Out :=
  if 4 < type.toNat then .refused (.illFormed "VST")
  else .next (s.slot w 6 fun s i t op =>
    let v := s.getIsl i
    let bytes := vstBytes type.toNat (v.getV vs)
    if type = 4 then
      s.modIsl i fun v => ((List.range 8).foldl (fun v k =>
        v.push (t + 1 + k) 2 op (.vstBeat port (takePad 128 (bytes.drop (128 * k))))) v).count 3 1
    else
      let off := vecOffset v xa imm
      let n := vecBytes type.toNat
      s.access i 6 t off n (vecAccess t off n) fun s =>
        if off % 64 = 0 then s.modIsl i fun v => (v.push (t + 1) 2 op (.stWrite off bytes)).count 3 1
        else
          let (bs, s) := s.drawBytes n
          s.modIsl i fun v => (v.push (t + 1) 2 op (.stWrite off bs)).count 3 1)

/-- Lane by lane over three registers. -/
def mapLanes (f : Word → Word → Word → Word) (a b c : List Word) : List Word :=
  (a.zip (b.zip c)).map fun x => f x.1 x.2.1 x.2.2

/-- `VOPF` (06 R131, Table 6.2). -/
def execVopf (w : Site) (fn : VopfFn) (b : Bool) (vd va vb vc : BitVec 5) (s : State) : Out :=
  .next (s.slot w 6 fun s i t op =>
    let v := s.getIsl i
    s.vresult i op t 4 (.setV vd (mapLanes (vopfLane fn b) (v.getV va) (v.getV vb) (v.getV vc))))

/-- `VOPI` (06 R131, Table 6.2). -/
def execVopi (w : Site) (fn : VopiFn) (vd va vb vc : BitVec 5) (s : State) : Out :=
  .next (s.slot w 6 fun s i t op =>
    let v := s.getIsl i
    s.vresult i op t 2 (.setV vd (mapLanes (vopiLane fn) (v.getV va) (v.getV vb) (v.getV vc))))

/-- `VCVT` (06 R147): the draws of a stochastic conversion come from VB. -/
def execVcvt (w : Site) (fn : VcvtFn) (vd va vb : BitVec 5) (s : State) : Out :=
  .next (s.slot w 6 fun s i t op =>
    let v := s.getIsl i
    s.vresult i op t 3 (.setV vd (List.zipWith (vcvtLane fn) (v.getV va) (v.getV vb))))

/-- `VBCAST` (06 Table 6.1): bits [31:0] of XA in every lane. -/
def execVbcast (w : Site) (vd xa : BitVec 5) (s : State) : Out :=
  .next (s.slot w 6 fun s i t op =>
    s.vresult i op t 2 (.setV vd (List.replicate 256 (Word.lo ((s.getIsl i).getX xa)))))

/-- `VKADD` (06 R136): VD holds s, VD + 1 holds e. -/
def execVkadd (w : Site) (vd va : BitVec 5) (s : State) : Out :=
  if vd = 31 then .refused (.illFormed "VKADD")
  else .next (s.slot w 6 fun s i t op =>
    let v := s.getIsl i
    let r := ((v.getV vd).zip ((v.getV (vd + 1)).zip (v.getV va))).map fun x => vkaddLane x.1 x.2.1 x.2.2
    (s.vresult i op t 5 (.setV vd (r.map (·.1)))).modIsl i fun v => v.push (t + 5) 0 op (.setV (vd + 1) (r.map (·.2))))

/-- Lanes of the register after r; there is none after V31, and its lanes are free (log 23). -/
def State.lanesAfter (s : State) (i : Nat) (r : BitVec 5) : List Word × State :=
  if r = 31 then s.drawLanes else ((s.getIsl i).getV (r + 1), s)

/-- Lane 0 of a reduction in the tree of R137. -/
def reduceLanes (f : Word → Word → Word) (l : List Word) : Word := (redTree f 8 l).headD 0

/-- `VRED` (06 R137). -/
def execVred (w : Site) (fn : VredFn) (vd va : BitVec 5) (s : State) : Out :=
  .next (s.slot w 6 fun s i t op =>
    let l := (s.getIsl i).getV va
    match fn with
    | .ksum =>
      let (e, s) := s.lanesAfter i va
      let r := (redTree ksumPair 8 (l.zip e)).headD (0, 0)
      let s := s.vresult i op t 14 (.setV vd (lane0 r.1))
      if vd = 31 then s else s.modIsl i fun v => v.push (t + 14) 0 op (.setV (vd + 1) (lane0 r.2))
    | .fmax => s.vresult i op t 14 (.setV vd (lane0 (reduceLanes (w32 F32.max) l)))
    | .fmin => s.vresult i op t 14 (.setV vd (lane0 (reduceLanes (w32 F32.min) l)))
    | .isum => s.vresult i op t 14 (.setV vd (lane0 (reduceLanes (· + ·) l))))

/-- Cycles of `VSF` (06 Table 6.4). -/
def vsfLatency (fn : VsfFn) : Nat :=
  match fn with
  | .rsqrt | .recip => 16
  | .exp => 20
  | .log => 24
  | .tanh => 28
  | .gelu => 34

/-- `VSF` (06 R139, R140). -/
def execVsf (w : Site) (fn : VsfFn) (vd va : BitVec 5) (s : State) : Out :=
  .next (s.slot w 6 fun s i t op =>
    s.vresult i op t (vsfLatency fn) (.setV vd (((s.getIsl i).getV va).map (vsfLane fn))))

/-- Lane value of a draw (06 R144). -/
def randLane (uniform : Bool) (d : Word) : Word :=
  if uniform then (rn false ⟨d.toNat / 256, -24⟩).toBits else d

/-- `VRAND` (06 R144): quarter Q of VD. -/
def execVrand (w : Site) (q : BitVec 2) (uniform : Bool) (vd xk xs xe : BitVec 5) (s : State) : Out :=
  if xk = 31 then .refused (.illFormed "VRAND")
  else .next (s.slot w 6 fun s i t op =>
    let v := s.getIsl i
    let key := Quad.ofKey (v.getX (xk + 1) ++ v.getX xk)
    let e0 := (v.getX xe &&& ~~~(3 : Dword)) + BitVec.ofNat 64 (64 * q.toNat)
    let l := (List.range 64).map fun j =>
      randLane uniform (elementDraw key (Word.lo (v.getX xs)) v.stepReg (e0 + BitVec.ofNat 64 j))
    (s.vresult i op t 14 (.setVQuarter vd q l)).modIsl i fun v => v.count 3 16)

end Sys2Proof.Machine
end

