-- ==== Sys2Proof/Machine/Dispatch.lean ====
section
/-! DEFINITION. The dispatch of a command to its meaning. -/

namespace Sys2Proof.Machine

/-- The effect of a command on everything but the queue. -/
def exec (i : Instr) (s : State) : Host.Outcome State Fault Refusal :=
  match i with
  | .alu w f xd xa xb => Sys2Proof.Machine.execAlu w f xd xa xb s
  | .addi w xd xa imm => Sys2Proof.Machine.execAddi w xd xa imm s
  | .lih w xd h imm => Sys2Proof.Machine.execLih w xd h imm s
  | .ld w xd xa imm => Sys2Proof.Machine.execLd w xd xa imm s
  | .st w xs xa imm => Sys2Proof.Machine.execSt w xs xa imm s
  | .hmax w hd xa xb acc => Sys2Proof.Machine.execHmax w hd xa xb acc s
  | .hset w hd rec => Sys2Proof.Machine.execHset w hd rec s
  | .stepOp w op xa imm => Sys2Proof.Machine.execStepOp w op xa imm s
  | .loop w src count xa last => Sys2Proof.Machine.execLoop w src count xa last s
  | .jmp w target => Sys2Proof.Machine.execJmp w target s
  | .bcc w c xa xb target => Sys2Proof.Machine.execBcc w c xa xb target s
  | .wait w sem count => Sys2Proof.Machine.execWait w sem count s
  | .waitSatisfied isl => Sys2Proof.Machine.execWaitSatisfied isl s
  | .waitTimeout isl => Sys2Proof.Machine.execWaitTimeout isl s
  | .barrive w group sem => Sys2Proof.Machine.execBarrive w group sem s
  | .barriveArrival isl => Sys2Proof.Machine.execBarriveArrival isl s
  | .delay w n => Sys2Proof.Machine.execDelay w n s
  | .endRun w => Sys2Proof.Machine.execEndRun w s
  | .pass w slotB arrays pd xk stt sw slotAdd => Sys2Proof.Machine.execPass w slotB arrays pd xk stt sw slotAdd s
  | .seed w slotB array slotBase rowsM1 start xa => Sys2Proof.Machine.execSeed w slotB array slotBase rowsM1 start xa s
  | .anch w slotB arrays src xs => Sys2Proof.Machine.execAnch w slotB arrays src xs s
  | .loadw w arrays fd xa => Sys2Proof.Machine.execLoadw w arrays fd xa s
  | .drain w arrays dd slotAdd xd => Sys2Proof.Machine.execDrain w arrays dd slotAdd xd s
  | .dstart w ch xa sem => Sys2Proof.Machine.execDstart w ch xa sem s
  | .dpause w ch => Sys2Proof.Machine.execDpause w ch s
  | .dresume w ch => Sys2Proof.Machine.execDresume w ch s
  | .vld w type port vd xa imm => Sys2Proof.Machine.execVld w type port vd xa imm s
  | .vst w type port vs xa imm => Sys2Proof.Machine.execVst w type port vs xa imm s
  | .vopf w fn b vd va vb vc => Sys2Proof.Machine.execVopf w fn b vd va vb vc s
  | .vopi w fn vd va vb vc => Sys2Proof.Machine.execVopi w fn vd va vb vc s
  | .vcvt w fn vd va vb => Sys2Proof.Machine.execVcvt w fn vd va vb s
  | .vbcast w vd xa => Sys2Proof.Machine.execVbcast w vd xa s
  | .vkadd w vd va => Sys2Proof.Machine.execVkadd w vd va s
  | .vred w fn vd va => Sys2Proof.Machine.execVred w fn vd va s
  | .vsf w fn vd va => Sys2Proof.Machine.execVsf w fn vd va s
  | .vrand w q uniform vd xk xs xe => Sys2Proof.Machine.execVrand w q uniform vd xk xs xe s
  | .groupPowerGatingEntry g => Sys2Proof.Machine.execGroupPowerGatingEntry g s
  | .groupWakeComplete g => Sys2Proof.Machine.execGroupWakeComplete g s
  | .bankOpenCycleAccess isl bank => Sys2Proof.Machine.execBankOpenCycleAccess isl bank s
  | .straitBeatDepart isl port cycle => Sys2Proof.Machine.execStraitBeatDepart isl port cycle s
  | .straitBeatArrive isl port => Sys2Proof.Machine.execStraitBeatArrive isl port s
  | .dmaDescriptorTakeUp isl ch => Sys2Proof.Machine.execDmaDescriptorTakeUp isl ch s
  | .memoryPortAccept isl => Sys2Proof.Machine.execMemoryPortAccept isl s
  | .hbmIslandAccessComplete isl => Sys2Proof.Machine.execHbmIslandAccessComplete isl s
  | .hbmSharedAccess g => Sys2Proof.Machine.execHbmSharedAccess g s
  | .dmaCompletion isl ch => Sys2Proof.Machine.execDmaCompletion isl ch s
  | .trackerResendTimeout e => Sys2Proof.Machine.execTrackerResendTimeout e s
  | .packetForward port discard p => Sys2Proof.Machine.execPacketForward port discard p s
  | .packetQueueExpiry port vc => Sys2Proof.Machine.execPacketQueueExpiry port vc s
  | .packetAtQueueHead port vc => Sys2Proof.Machine.execPacketAtQueueHead port vc s
  | .reorderHoldExpiry port vc => Sys2Proof.Machine.execReorderHoldExpiry port vc s
  | .writeReceived p => Sys2Proof.Machine.execWriteReceived p s
  | .readReqReceived p => Sys2Proof.Machine.execReadReqReceived p s
  | .notifyReceived p => Sys2Proof.Machine.execNotifyReceived p s
  | .mcastWriteReceived port p => Sys2Proof.Machine.execMcastWriteReceived port p s
  | .ackReceived p => Sys2Proof.Machine.execAckReceived p s
  | .nackReceived p => Sys2Proof.Machine.execNackReceived p s
  | .readRespReceived p => Sys2Proof.Machine.execReadRespReceived p s
  | .detourReceived p => Sys2Proof.Machine.execDetourReceived p s
  | .circuitLostReceived p => Sys2Proof.Machine.execCircuitLostReceived p s
  | .circuitPositionReceive port d => Sys2Proof.Machine.execCircuitPositionReceive port d s
  | .timeReceived port p => Sys2Proof.Machine.execTimeReceived port p s
  | .arriveReceived p => Sys2Proof.Machine.execArriveReceived p s
  | .releaseReceived p => Sys2Proof.Machine.execReleaseReceived p s
  | .paceReceived p => Sys2Proof.Machine.execPaceReceived p s
  | .releaseEdge group => Sys2Proof.Machine.execReleaseEdge group s
  | .islandRelease group isl => Sys2Proof.Machine.execIslandRelease group isl s
  | .epochFlip => Sys2Proof.Machine.execEpochFlip s
  | .epochRetire => Sys2Proof.Machine.execEpochRetire s
  | .flitReceive port coded => Sys2Proof.Machine.execFlitReceive port coded s
  | .laneLossOfLock port lane => Sys2Proof.Machine.execLaneLossOfLock port lane s
  | .laneErrorWindow port => Sys2Proof.Machine.execLaneErrorWindow port s
  | .narrowingHandshakeEnd port lanes => Sys2Proof.Machine.execNarrowingHandshakeEnd port lanes s
  | .trainingStepDone port info => Sys2Proof.Machine.execTrainingStepDone port info s
  | .trainingStepTimeout port => Sys2Proof.Machine.execTrainingStepTimeout port s
  | .trainingRetry port => Sys2Proof.Machine.execTrainingRetry port s
  | .peerExchange port node peerPort attached doubled => Sys2Proof.Machine.execPeerExchange port node peerPort attached doubled s
  | .miswiredRetry port => Sys2Proof.Machine.execMiswiredRetry port s
  | .fiSchedulerFire => Sys2Proof.Machine.execFiSchedulerFire s
  | .syncPulse widthNs arrival => Sys2Proof.Machine.execSyncPulse widthNs arrival s
  | .timeMessageSend => Sys2Proof.Machine.execTimeMessageSend s
  | .syncHoldover => Sys2Proof.Machine.execSyncHoldover s
  | .syncTriggerPulse => Sys2Proof.Machine.execSyncTriggerPulse s
  | .patrolScrub g => Sys2Proof.Machine.execPatrolScrub g s
  | .scrubRewrite g => Sys2Proof.Machine.execScrubRewrite g s
  | .refreshSlot g => Sys2Proof.Machine.execRefreshSlot g s
  | .exceptionLogCopy isl ci => Sys2Proof.Machine.execExceptionLogCopy isl ci s
  | .faultLogArchive => Sys2Proof.Machine.execFaultLogArchive s
  | .indexLineInvalidation r => Sys2Proof.Machine.execIndexLineInvalidation r s
  | .indexPoll rs => Sys2Proof.Machine.execIndexPoll rs s
  | .completionCoalesceTimeout ring => Sys2Proof.Machine.execCompletionCoalesceTimeout ring s
  | .perstAssert cause => Sys2Proof.Machine.execPerstAssert cause s
  | .refclkLoss => Sys2Proof.Machine.execRefclkLoss s
  | .perstHeldLog => Sys2Proof.Machine.execPerstHeldLog s
  | .wakeReleaseTimeout => Sys2Proof.Machine.execWakeReleaseTimeout s
  | .smbusClockLowTimeout => Sys2Proof.Machine.execSmbusClockLowTimeout s
  | .cxlMemRead hpa cacheable => Sys2Proof.Machine.execCxlMemRead hpa cacheable s
  | .cxlMemWrite hpa bytes poison => Sys2Proof.Machine.execCxlMemWrite hpa bytes poison s
  | .commandRingEnable ring v => Sys2Proof.Machine.execCommandRingEnable ring v s
  | .commandRingDisable ring v => Sys2Proof.Machine.execCommandRingDisable ring v s
  | .completionRingEnable ring v => Sys2Proof.Machine.execCompletionRingEnable ring v s
  | .completionRingDisable ring v => Sys2Proof.Machine.execCompletionRingDisable ring v s
  | .stCtrlWrite v => Sys2Proof.Machine.execStCtrlWrite v s
  | .registerWrite a v => Sys2Proof.Machine.execRegisterWrite a v s
  | .undefinedOpcode opcode c => Sys2Proof.Machine.execUndefinedOpcode opcode c s
  | .commandTimeout ring tag => Sys2Proof.Machine.execCommandTimeout ring tag s
  | .identify c => Sys2Proof.Machine.execIdentify c s
  | .setNode c => Sys2Proof.Machine.execSetNode c s
  | .deviceStatus c => Sys2Proof.Machine.execDeviceStatus c s
  | .setDefault c => Sys2Proof.Machine.execSetDefault c s
  | .memoryMode c => Sys2Proof.Machine.execMemoryMode c s
  | .memoryClear c => Sys2Proof.Machine.execMemoryClear c s
  | .memoryClearComplete => Sys2Proof.Machine.execMemoryClearComplete s
  | .reset c => Sys2Proof.Machine.execReset c s
  | .partCreate c => Sys2Proof.Machine.execPartCreate c s
  | .partDestroy c => Sys2Proof.Machine.execPartDestroy c s
  | .windowSet c => Sys2Proof.Machine.execWindowSet c s
  | .windowClear c => Sys2Proof.Machine.execWindowClear c s
  | .partStatus c => Sys2Proof.Machine.execPartStatus c s
  | .load c => Sys2Proof.Machine.execLoad c s
  | .loadComplete p => Sys2Proof.Machine.execLoadComplete p s
  | .unload c => Sys2Proof.Machine.execUnload c s
  | .bind c => Sys2Proof.Machine.execBind c s
  | .bindComplete p => Sys2Proof.Machine.execBindComplete p s
  | .start c => Sys2Proof.Machine.execStart c s
  | .pause c => Sys2Proof.Machine.execPause c s
  | .resume c => Sys2Proof.Machine.execResume c s
  | .pipelineDrain c => Sys2Proof.Machine.execPipelineDrain c s
  | .pipelineDrainComplete p => Sys2Proof.Machine.execPipelineDrainComplete p s
  | .status c => Sys2Proof.Machine.execStatus c s
  | .excQueue c => Sys2Proof.Machine.execExcQueue c s
  | .tableWrite c => Sys2Proof.Machine.execTableWrite c s
  | .tableCommit c => Sys2Proof.Machine.execTableCommit c s
  | .tableCommitComplete ver => Sys2Proof.Machine.execTableCommitComplete ver s
  | .flipArm c => Sys2Proof.Machine.execFlipArm c s
  | .fence c => Sys2Proof.Machine.execFence c s
  | .fabricStatus c => Sys2Proof.Machine.execFabricStatus c s
  | .portSet c => Sys2Proof.Machine.execPortSet c s
  | .portRetest c => Sys2Proof.Machine.execPortRetest c s
  | .auxMode c => Sys2Proof.Machine.execAuxMode c s
  | .resend c => Sys2Proof.Machine.execResend c s
  | .timeCfg c => Sys2Proof.Machine.execTimeCfg c s
  | .barrierCfg c => Sys2Proof.Machine.execBarrierCfg c s
  | .barrierFree c => Sys2Proof.Machine.execBarrierFree c s
  | .snapEnable c => Sys2Proof.Machine.execSnapEnable c s
  | .snapDisable c => Sys2Proof.Machine.execSnapDisable c s
  | .snapPolicy c => Sys2Proof.Machine.execSnapPolicy c s
  | .snapPartners c tags => Sys2Proof.Machine.execSnapPartners c tags s
  | .snapCut c => Sys2Proof.Machine.execSnapCut c s
  | .snapCopyComplete => Sys2Proof.Machine.execSnapCopyComplete s
  | .restore c => Sys2Proof.Machine.execRestore c s
  | .restoreComplete p got => Sys2Proof.Machine.execRestoreComplete p got s
  | .verify c => Sys2Proof.Machine.execVerify c s
  | .snapStatus c => Sys2Proof.Machine.execSnapStatus c s
  | .powerStatus c => Sys2Proof.Machine.execPowerStatus c s
  | .hostCap c => Sys2Proof.Machine.execHostCap c s
  | .levelLimit c => Sys2Proof.Machine.execLevelLimit c s
  | .deepIdleEnter c => Sys2Proof.Machine.execDeepIdleEnter c s
  | .deepIdleExit c => Sys2Proof.Machine.execDeepIdleExit c s
  | .deepIdleExitComplete => Sys2Proof.Machine.execDeepIdleExitComplete s
  | .energy c => Sys2Proof.Machine.execEnergy c s
  | .energyMode c => Sys2Proof.Machine.execEnergyMode c s
  | .estimator c => Sys2Proof.Machine.execEstimator c s
  | .fwStage c => Sys2Proof.Machine.execFwStage c s
  | .fwStageComplete => Sys2Proof.Machine.execFwStageComplete s
  | .fwActivate c => Sys2Proof.Machine.execFwActivate c s
  | .fwRollback c => Sys2Proof.Machine.execFwRollback c s
  | .activationContinue => Sys2Proof.Machine.execActivationContinue s
  | .activationHoldExpiry => Sys2Proof.Machine.execActivationHoldExpiry s
  | .trialWindowClose => Sys2Proof.Machine.execTrialWindowClose s
  | .fwStatus c => Sys2Proof.Machine.execFwStatus c s
  | .diagModeEnter c => Sys2Proof.Machine.execDiagModeEnter c s
  | .diagModeLeave c => Sys2Proof.Machine.execDiagModeLeave c s
  | .fiSet c => Sys2Proof.Machine.execFiSet c s
  | .fiKey c => Sys2Proof.Machine.execFiKey c s
  | .errClear c => Sys2Proof.Machine.execErrClear c s
  | .logRead c => Sys2Proof.Machine.execLogRead c s
  | .claimQuery c => Sys2Proof.Machine.execClaimQuery c s
  | .claimTable c => Sys2Proof.Machine.execClaimTable c s
  | .powerEstimateWindow cores => Sys2Proof.Machine.execPowerEstimateWindow cores s
  | .levelChoice => Sys2Proof.Machine.execLevelChoice s
  | .capGraceExpiry => Sys2Proof.Machine.execCapGraceExpiry s
  | .vcoreRampReached => Sys2Proof.Machine.execVcoreRampReached s
  | .inputPowerSample mA10 mV10 => Sys2Proof.Machine.execInputPowerSample mA10 mV10 s
  | .gainUpdate => Sys2Proof.Machine.execGainUpdate s
  | .sensorSample readings => Sys2Proof.Machine.execSensorSample readings s
  | .pwrbrkAssert => Sys2Proof.Machine.execPwrbrkAssert s
  | .pwrbrkDeassert => Sys2Proof.Machine.execPwrbrkDeassert s
  | .pwrbrkHeldLog => Sys2Proof.Machine.execPwrbrkHeldLog s
  | .thermalTrip sensor => Sys2Proof.Machine.execThermalTrip sensor s
  | .inputVoltageSample mV10 => Sys2Proof.Machine.execInputVoltageSample mV10 s
  | .inputFaultClear => Sys2Proof.Machine.execInputFaultClear s
  | .lighthousePowerUp => Sys2Proof.Machine.execLighthousePowerUp s
  | .watchdogExpiry pc => Sys2Proof.Machine.execWatchdogExpiry pc s
  | .componentHeartbeatMiss c => Sys2Proof.Machine.execComponentHeartbeatMiss c s
  | .componentFault c f => Sys2Proof.Machine.execComponentFault c f s
  | .logLostRead isl => Sys2Proof.Machine.execLogLostRead isl s
  | .straitDropRead isl => Sys2Proof.Machine.execStraitDropRead isl s
  | .bskewWaitMaxRead g => Sys2Proof.Machine.execBskewWaitMaxRead g s
  | .bskewLateRead g => Sys2Proof.Machine.execBskewLateRead g s
  | .trkResendsRead => Sys2Proof.Machine.execTrkResendsRead s
  | .trkDupsRead => Sys2Proof.Machine.execTrkDupsRead s
  | .trkLateRead => Sys2Proof.Machine.execTrkLateRead s
  | .trkUnreachRead => Sys2Proof.Machine.execTrkUnreachRead s
  | .trkFencedRead => Sys2Proof.Machine.execTrkFencedRead s
  | .portCorrRead port => Sys2Proof.Machine.execPortCorrRead port s
  | .portDropRead port => Sys2Proof.Machine.execPortDropRead port s
  | .portVoidRead port => Sys2Proof.Machine.execPortVoidRead port s
  | .portEventsRead port => Sys2Proof.Machine.execPortEventsRead port s
  | .laneErrRead port lane => Sys2Proof.Machine.execLaneErrRead port lane s
  | .fiCountRead port vc => Sys2Proof.Machine.execFiCountRead port vc s
  | .fabDetoursRead => Sys2Proof.Machine.execFabDetoursRead s
  | .fabStaleRead => Sys2Proof.Machine.execFabStaleRead s
  | .fabExpiredRead => Sys2Proof.Machine.execFabExpiredRead s
  | .fabCrcbadRead => Sys2Proof.Machine.execFabCrcbadRead s
  | .fabFencedropRead => Sys2Proof.Machine.execFabFencedropRead s
  | .fabCircdropRead => Sys2Proof.Machine.execFabCircdropRead s
  | .fabBadhdrRead => Sys2Proof.Machine.execFabBadhdrRead s
  | .barCountRead g => Sys2Proof.Machine.execBarCountRead g s
  | .stWakesRead => Sys2Proof.Machine.execStWakesRead s
  | .stBarDiscardRead => Sys2Proof.Machine.execStBarDiscardRead s
  | .stHostRefusedRead => Sys2Proof.Machine.execStHostRefusedRead s
  | .stBiRead => Sys2Proof.Machine.execStBiRead s
  | .snapTouchRead => Sys2Proof.Machine.execSnapTouchRead s
  | .snapHeldRead => Sys2Proof.Machine.execSnapHeldRead s
  | .snapSkippedRead => Sys2Proof.Machine.execSnapSkippedRead s
  | .snapFailsRead => Sys2Proof.Machine.execSnapFailsRead s
  | .pwrEmergRead => Sys2Proof.Machine.execPwrEmergRead s
  | .pwrLevelsRead => Sys2Proof.Machine.execPwrLevelsRead s
  | .pinFilteredRead => Sys2Proof.Machine.execPinFilteredRead s
  | .i3cBroadcastCcc => Sys2Proof.Machine.execI3cBroadcastCcc s
  | .dynamicAddressAssign addr => Sys2Proof.Machine.execDynamicAddressAssign addr s
  | .setEndpointId eid => Sys2Proof.Machine.execSetEndpointId eid s
  | .getEndpointId => Sys2Proof.Machine.execGetEndpointId s
  | .getMctpVersionSupport type => Sys2Proof.Machine.execGetMctpVersionSupport type s
  | .getMessageTypeSupport => Sys2Proof.Machine.execGetMessageTypeSupport s
  | .unsupportedManagementMessage m => Sys2Proof.Machine.execUnsupportedManagementMessage m s
  | .getTid => Sys2Proof.Machine.execGetTid s
  | .getPldmVersion type => Sys2Proof.Machine.execGetPldmVersion type s
  | .getPldmTypes => Sys2Proof.Machine.execGetPldmTypes s
  | .getPldmCommands type => Sys2Proof.Machine.execGetPldmCommands type s
  | .getPdr handle => Sys2Proof.Machine.execGetPdr handle s
  | .getNumericSensorReading id => Sys2Proof.Machine.execGetNumericSensorReading id s
  | .getStateSensorReadings id => Sys2Proof.Machine.execGetStateSensorReadings id s
  | .setManagementCap v => Sys2Proof.Machine.execSetManagementCap v s
  | .setFeedTag v => Sys2Proof.Machine.execSetFeedTag v s
  | .getNumericEffecterValue id => Sys2Proof.Machine.execGetNumericEffecterValue id s
  | .warmStartMemoryKept => Sys2Proof.Machine.execWarmStartMemoryKept s
  | .warmStartMemoryFilled => Sys2Proof.Machine.execWarmStartMemoryFilled s
  | .restartAfterTrip => Sys2Proof.Machine.execRestartAfterTrip s
  | .pollForPlatformEventMessage => Sys2Proof.Machine.execPollForPlatformEventMessage s
  | .getFaultLog first count => Sys2Proof.Machine.execGetFaultLog first count s
  | .getEnergy sel => Sys2Proof.Machine.execGetEnergy sel s
  | .requestUpdate => Sys2Proof.Machine.execRequestUpdate s
  | .firmwareDataReceived off bytes => Sys2Proof.Machine.execFirmwareDataReceived off bytes s
  | .fdT1Timeout => Sys2Proof.Machine.execFdT1Timeout s
  | .activateFirmware selfContained => Sys2Proof.Machine.execActivateFirmware selfContained s
  | .getStatus => Sys2Proof.Machine.execGetStatus s
  | .getVersion ep => Sys2Proof.Machine.execGetVersion ep s
  | .getCapabilities ep => Sys2Proof.Machine.execGetCapabilities ep s
  | .negotiateAlgorithms ep offer => Sys2Proof.Machine.execNegotiateAlgorithms ep offer s
  | .getDigests ep => Sys2Proof.Machine.execGetDigests ep s
  | .getCertificate ep slot off len => Sys2Proof.Machine.execGetCertificate ep slot off len s
  | .challenge ep slot nonce => Sys2Proof.Machine.execChallenge ep slot nonce s
  | .getMeasurements ep index sign nonce => Sys2Proof.Machine.execGetMeasurements ep index sign nonce s
  | .chunkSend ep last seq bytes => Sys2Proof.Machine.execChunkSend ep last seq bytes s
  | .chunkGet ep seq => Sys2Proof.Machine.execChunkGet ep seq s
  | .powerGatingEntryDone g => Sys2Proof.Machine.execPowerGatingEntryDone g s
  | .circuitPositionSend port pos => Sys2Proof.Machine.execCircuitPositionSend port pos s
  | .lighthousePowerLoss => Sys2Proof.Machine.execLighthousePowerLoss s
  | .stackSupplyFault stack => Sys2Proof.Machine.execStackSupplyFault stack s
  | .selfRefreshExitUncommanded stack => Sys2Proof.Machine.execSelfRefreshExitUncommanded stack s
  | .cxlLinkUp l => Sys2Proof.Machine.execCxlLinkUp l s
  | .startStepDone ok => Sys2Proof.Machine.execStartStepDone ok s
  | .activationLoadDone => Sys2Proof.Machine.execActivationLoadDone s
  | .handOffDone r => Sys2Proof.Machine.execHandOffDone r s
  | .replicaHashCompareDone p other => Sys2Proof.Machine.execReplicaHashCompareDone p other s
  | .updateVerifyComplete => Sys2Proof.Machine.execUpdateVerifyComplete s
  | .cancelUpdate => Sys2Proof.Machine.execCancelUpdate s

end Sys2Proof.Machine
end

