-- ==== Sys2Proof/Machine/Encoding.lean ====
section
/-! DEFINITION. The words of the slots of a bundle: which instruction a 32-bit slot word holds (05 R112, R114 to R117,
Tables 5.3 to 5.7, 06 R132, Tables 6.1 and 6.2, R147), and the word of each instruction. -/

namespace Sys2Proof.Machine

/-- A field of a slot word as a bit vector. -/
def slotField (n lo w : Nat) : BitVec w := BitVec.ofNat w (n / 2 ^ lo)

def aluOps : List AluOp := [.add, .sub, .and, .or, .xor, .sll, .srl, .sra, .mul, .min, .max, .slt]
def condCodes : List Cond := [.eq, .ne, .lt, .ge, .ltu, .geu]
def vopfFns : List VopfFn := [.add, .sub, .mul, .fma, .min, .max, .abs, .neg, .cmplt, .cmpeq, .sel, .scale]
def vopiFns : List VopiFn :=
  [.add, .sub, .mul, .and, .or, .xor, .sll, .srl, .sra, .min, .max, .cmplt, .cmpltu, .cmpeq, .sel]
def vcvtFns : List VcvtFn := [.bf16Rne, .bf16Stoch, .bf16Rtz, .fp16Rne, .toInt, .fromInt]
def vredFns : List VredFn := [.ksum, .fmax, .fmin, .isum]
def vsfFns : List VsfFn := [.exp, .log, .rsqrt, .recip, .tanh, .gelu]

/-- Slot 0 (05 Table 5.4). -/
def scalarInstr (s : Site) (op n : Nat) : Option Instr :=
  let a : BitVec 5 := slotField n 21 5
  let b : BitVec 5 := slotField n 16 5
  match op with
  | 1 => aluOps[field n 0 11]?.map fun f => .alu s f a b (slotField n 11 5)
  | 2 => some (.addi s a b (slotField n 0 16))
  | 3 => some (.lih s a (slotField n 16 2) (slotField n 0 16))
  | 4 => some (.ld s a b (slotField n 0 16))
  | 5 => some (.st s a b (slotField n 0 16))
  | 6 => some (.hmax s (slotField n 22 4) b (slotField n 11 5) (bitAt n 10))
  | 7 => some (.hset s (slotField n 22 4) (slotField n 0 16))
  | 8 => some (.stepOp s (bitAt n 25) b (slotField n 0 16))
  | _ => none

/-- Slot 1 (05 Table 5.5). -/
def branchInstr (s : Site) (op n : Nat) : Option Instr :=
  match op with
  | 1 => some (.loop s (bitAt n 25) (if bitAt n 25 then 0 else slotField n 13 12)
      (if bitAt n 25 then slotField n 13 5 else 0) (slotField n 0 13))
  | 2 => some (.jmp s (slotField n 0 13))
  | 3 => condCodes[field n 23 3]?.map fun c => .bcc s c (slotField n 18 5) (slotField n 13 5) (slotField n 0 13)
  | 4 => some (.wait s (slotField n 21 5) (slotField n 5 16))
  | 5 => some (.barrive s (slotField n 18 8) (slotField n 13 5))
  | 6 => some (.delay s (slotField n 0 16))
  | 7 => some (.endRun s)
  | _ => none

/-- Slots 2 and 3 (05 Table 5.6). -/
def arrayInstr (s : Site) (b : Bool) (op n : Nat) : Option Instr :=
  match op with
  | 1 => some (.pass s b (slotField n 18 8) (slotField n 14 4) (slotField n 9 5) (bitAt n 8) (bitAt n 7) (slotField n 0 7))
  | 2 => some (.seed s b (slotField n 23 3) (slotField n 16 7) (slotField n 9 7) (bitAt n 8) (slotField n 3 5))
  | 3 => some (.anch s b (slotField n 18 8)
      (if bitAt n 17 then .imm (slotField n 0 10) else .hwm (slotField n 8 4) (slotField n 4 4) (slotField n 0 4))
      (slotField n 12 5))
  | _ => none

/-- Slot 6 (06 Table 6.1). -/
def vectorInstr (s : Site) (op n : Nat) : Option Instr :=
  let d : BitVec 5 := slotField n 21 5
  let a : BitVec 5 := slotField n 16 5
  let b : BitVec 5 := slotField n 11 5
  let c : BitVec 5 := slotField n 6 5
  match op with
  | 1 => some (.vld s (slotField n 13 3) (slotField n 11 2) d a (slotField n 0 11))
  | 2 => some (.vst s (slotField n 13 3) (slotField n 11 2) d a (slotField n 0 11))
  | 3 => vopfFns[field n 0 5]?.map fun f => .vopf s f (bitAt n 5) d a b c
  | 4 => vopiFns[field n 0 5]?.map fun f => .vopi s f d a b c
  | 5 => vcvtFns[field n 0 6]?.map fun f => .vcvt s f d a b
  | 6 => some (.vbcast s d a)
  | 7 => some (.vkadd s d a)
  | 8 => vredFns[field n 0 6]?.map fun f => .vred s f d a
  | 9 => vsfFns[field n 0 6]?.map fun f => .vsf s f d a
  | 10 => if field n 0 4 < 2 then some (.vrand s (slotField n 4 2) (field n 0 4 = 1) d a b c) else none
  | _ => none

/-- The instruction in slot k of a bundle; none for a no-operation and for a reserved code (05 R112, Table 5.3). -/
def slotInstr (k : Nat) (s : Site) (n : Nat) : Option Instr :=
  let op := field n 26 6
  match k with
  | 0 => scalarInstr s op n
  | 1 => branchInstr s op n
  | 2 => arrayInstr s false op n
  | 3 => arrayInstr s true op n
  | 4 => if op = 1 then some (.loadw s (slotField n 18 8) (slotField n 13 5) (slotField n 8 5)) else none
  | 5 => if op = 1 then some (.drain s (slotField n 18 8) (slotField n 14 4) (slotField n 7 7) (slotField n 2 5)) else none
  | 6 => vectorInstr s op n
  | 7 =>
    match op with
    | 1 => some (.dstart s (slotField n 24 2) (slotField n 19 5) (slotField n 14 5))
    | 2 => some (.dpause s (slotField n 24 2))
    | 3 => some (.dresume s (slotField n 24 2))
    | _ => none
  | _ => none

/-! ### The word of an instruction -/

/-- A slot word from its opcode and its fields with their low bits. -/
def packSlot (op : Nat) (fs : List (Nat × Nat)) : Nat := op * 2 ^ 26 + (fs.map fun f => f.2 * 2 ^ f.1).sum

/-- Place of a code in its list. -/
def codeOf [BEq α] (l : List α) (a : α) : Nat := l.idxOf a

/-- Slot and word of a slot instruction (05 Tables 5.4 to 5.7, 06 Table 6.1). -/
def slotWord (c : Instr) : Option (Nat × Nat) :=
  match c with
  | .alu _ f xd xa xb => some (0, packSlot 1 [(21, xd.toNat), (16, xa.toNat), (11, xb.toNat), (0, codeOf aluOps f)])
  | .addi _ xd xa imm => some (0, packSlot 2 [(21, xd.toNat), (16, xa.toNat), (0, imm.toNat)])
  | .lih _ xd h imm => some (0, packSlot 3 [(21, xd.toNat), (16, h.toNat), (0, imm.toNat)])
  | .ld _ xd xa imm => some (0, packSlot 4 [(21, xd.toNat), (16, xa.toNat), (0, imm.toNat)])
  | .st _ xs xa imm => some (0, packSlot 5 [(21, xs.toNat), (16, xa.toNat), (0, imm.toNat)])
  | .hmax _ hd xa xb acc => some (0, packSlot 6 [(22, hd.toNat), (16, xa.toNat), (11, xb.toNat), (10, acc.toNat)])
  | .hset _ hd r => some (0, packSlot 7 [(22, hd.toNat), (0, r.toNat)])
  | .stepOp _ op xa imm => some (0, packSlot 8 [(25, op.toNat), (16, xa.toNat), (0, imm.toNat)])
  | .loop _ src count xa last =>
    some (1, packSlot 1 [(25, src.toNat), (13, if src then xa.toNat else count.toNat), (0, last.toNat)])
  | .jmp _ t => some (1, packSlot 2 [(0, t.toNat)])
  | .bcc _ c xa xb t => some (1, packSlot 3 [(23, codeOf condCodes c), (18, xa.toNat), (13, xb.toNat), (0, t.toNat)])
  | .wait _ sem n => some (1, packSlot 4 [(21, sem.toNat), (5, n.toNat)])
  | .barrive _ g sem => some (1, packSlot 5 [(18, g.toNat), (13, sem.toNat)])
  | .delay _ n => some (1, packSlot 6 [(0, n.toNat)])
  | .endRun _ => some (1, packSlot 7 [])
  | .pass _ b arrays pd xk st sw add =>
    some (if b then 3 else 2, packSlot 1 [(18, arrays.toNat), (14, pd.toNat), (9, xk.toNat), (8, st.toNat), (7, sw.toNat), (0, add.toNat)])
  | .seed _ b array base rows st xa =>
    some (if b then 3 else 2, packSlot 2 [(23, array.toNat), (16, base.toNat), (9, rows.toNat), (8, st.toNat), (3, xa.toNat)])
  | .anch _ b arrays src xs =>
    some (if b then 3 else 2, packSlot 3 ([(18, arrays.toNat), (12, xs.toNat)] ++
      match src with
      | .imm a => [(17, 1), (0, a.toNat)]
      | .hwm hw ha adj => [(8, hw.toNat), (4, ha.toNat), (0, adj.toNat)]))
  | .loadw _ arrays fd xa => some (4, packSlot 1 [(18, arrays.toNat), (13, fd.toNat), (8, xa.toNat)])
  | .drain _ arrays dd add xd => some (5, packSlot 1 [(18, arrays.toNat), (14, dd.toNat), (7, add.toNat), (2, xd.toNat)])
  | .vld _ type port vd xa imm => some (6, packSlot 1 [(21, vd.toNat), (16, xa.toNat), (13, type.toNat), (11, port.toNat), (0, imm.toNat)])
  | .vst _ type port vs xa imm => some (6, packSlot 2 [(21, vs.toNat), (16, xa.toNat), (13, type.toNat), (11, port.toNat), (0, imm.toNat)])
  | .vopf _ f b vd va vb vc =>
    some (6, packSlot 3 [(21, vd.toNat), (16, va.toNat), (11, vb.toNat), (6, vc.toNat), (5, b.toNat), (0, codeOf vopfFns f)])
  | .vopi _ f vd va vb vc => some (6, packSlot 4 [(21, vd.toNat), (16, va.toNat), (11, vb.toNat), (6, vc.toNat), (0, codeOf vopiFns f)])
  | .vcvt _ f vd va vb => some (6, packSlot 5 [(21, vd.toNat), (16, va.toNat), (11, vb.toNat), (0, codeOf vcvtFns f)])
  | .vbcast _ vd xa => some (6, packSlot 6 [(21, vd.toNat), (16, xa.toNat)])
  | .vkadd _ vd va => some (6, packSlot 7 [(21, vd.toNat), (16, va.toNat)])
  | .vred _ f vd va => some (6, packSlot 8 [(21, vd.toNat), (16, va.toNat), (0, codeOf vredFns f)])
  | .vsf _ f vd va => some (6, packSlot 9 [(21, vd.toNat), (16, va.toNat), (0, codeOf vsfFns f)])
  | .vrand _ q u vd xk xs xe =>
    some (6, packSlot 10 [(21, vd.toNat), (16, xk.toNat), (11, xs.toNat), (6, xe.toNat), (4, q.toNat), (0, u.toNat)])
  | .dstart _ ch xa sem => some (7, packSlot 1 [(24, ch.toNat), (19, xa.toNat), (14, sem.toNat)])
  | .dpause _ ch => some (7, packSlot 2 [(24, ch.toNat)])
  | .dresume _ ch => some (7, packSlot 3 [(24, ch.toNat)])
  | _ => none

end Sys2Proof.Machine
end

