-- ==== Sys2Proof/Machine/Tick.lean ====
section
/-! DEFINITION. What the tick at hand still does when no command waits (log 24): memory slots pass, the islands take its
cycles, what waits inside the module goes on, ports send their flits, and the counts advance to the next tick. -/

namespace Sys2Proof.Machine

/-- The counts of one tick of 40 ns: lighthouse time (00 R12), fabric time with its rate, in ns for each
millisecond (11 R258), and the frame count (07 R160). -/
def State.countTick (s : State) : State :=
  let now := s.clk.now + 1
  let ns : Int := if now % 25000 = 0 then 40 + s.fab.rate else 40
  ({ s with clk := { s.clk with now := now, frame := s.clk.frame + s.tickCycles,
                                frac := (s.clk.frac + s.tickFrac) % 3360, split := none } }).modFab
    fun f => { f with time := f.time + BitVec.ofInt 64 ns }

/-! ### The pass program (05 R113) -/

/-- The slots of a bundle that hold an instruction, in the order in which they take effect: a wait holds the other slots
of its bundle (log 72), and else they go by their numbers (log 68). -/
def bundleSlots (b : BitVec 256) : List (Nat × Nat) :=
  let ws := ((List.range 8).map fun k => (k, (b.extractLsb' (32 * k) 32).toNat)).filter fun w => w.2 ≠ 0
  let holds (w : Nat × Nat) : Bool := w.1 = 1 && (field w.2 26 6 = 4 || field w.2 26 6 = 5)
  ws.filter holds ++ ws.filter fun w => !holds w

/-- Issue slot words of island i as instructions of the bundle at hand; `cont` is false for the one that opens it. -/
def State.runSlots (s : State) (i : BitVec 8) (cont : Bool) : List (Nat × Nat) → State
  | [] => s
  | (k, n) :: t =>
    if (s.getIsl i.toNat).waiting.isSome then s.modIsl i.toNat fun v => { v with midBundle := true }
    else
      match (slotInstr k ⟨i, cont, 0⟩ n).map fun c => exec c s with
      | some (.next s) => s.runSlots i true t
      | _ => s.runSlots i cont t

/-- Island i issues the next bundle of its instruction memory, or the slots of a bundle that its wait held back. -/
def State.issueBundle (s : State) (i : BitVec 8) (b : BitVec 256) (mid : Bool) : State :=
  let ws := bundleSlots b
  if mid then (s.modIsl i.toNat fun v => { v with midBundle := false }).runSlots i true (ws.drop 1)
  else if ws.isEmpty then (s.issue ⟨i, false, 0⟩).1
  else s.runSlots i false ws

/-- Island i issues the bundles of its program whose cycles lie before `target`. A bundle address that no bind has
written brings nothing (log 24). -/
def State.runProgram (s : State) (i : BitVec 8) (target : Nat) : Nat → State
  | 0 => s
  | fuel + 1 =>
    let v := s.getIsl i.toNat
    let at_ := if v.midBundle then v.curPc else v.seqPc
    if !s.canIssue i.toNat || (!v.midBundle && (v.ended || decide (target ≤ v.nextIssue))) then s
    else
      match v.imem.find? (·.1 = at_.toNat) with
      | none => s
      | some b => (s.issueBundle i b.2 v.midBundle).runProgram i target fuel

/-- The cycle an island reaches by the tick's end. One that waits, has ended or has stopped takes every cycle; any other
stops at the cycle before its next bundle (log 24). -/
def Island.reach (v : Island) (target : Nat) : Nat :=
  if v.waiting.isSome || v.ended || v.stopped then target else min target (v.nextIssue - 1)

/-- A wait whose semaphore has reached its count ends (05 R120). -/
def State.endReady (s : State) (i : Nat) : State :=
  let v := s.getIsl i
  match v.waiting with
  | some w => if s.islSt i = stRunning ∧ !v.stopped ∧ w.arrived ∧ w.count ≤ v.getSem w.sem then s.endWait i w else s
  | none => s

/-- One frame cycle of island i: what falls due, a wait that ends, its channels and banks, the bundle of the cycle. -/
def State.cycleStep (s : State) (i c : Nat) : State :=
  let on := s.cycling i
  let t := c - (s.getIsl i).origin
  let s := if on then (s.advance i ((s.getIsl i).reach t)).endReady i else s
  let s := if (s.getIsl i).async then s.asyncCycle i c else s
  if on then s.runProgram (BitVec.ofNat 8 i) (t + 1) 2 else s

/-- The cycles of a tick of an island whose channels rest and whose program is not in its instruction memory; `SEQ_CYCLE`
counts while it is RUNNING or FAULTED (05 Table 5.13). -/
def State.tickIsland (s : State) (i : Nat) : State :=
  if s.cycling i then
    let s := s.endReady i
    s.advance i ((s.getIsl i).reach (s.clk.frame + s.tickCycles - (s.getIsl i).origin))
  else s

/-- Islands that go cycle by cycle: channels are at work, or a program runs, or an increment may end a wait. -/
def State.hot (s : State) : List Nat :=
  let busy := s.isl.any fun v => v.2.async
  (s.isl.filter fun v => v.2.async || (s.cycling v.1 && (!v.2.imem.isEmpty || (busy && v.2.waiting.isSome)))).map (·.1)

/-- The islands take the cycles of the tick at hand. -/
def State.tickIslands (s : State) : State :=
  let hot := s.hot
  let rest := (s.isl.map (·.1)).filter fun i => !hot.contains i
  let s := (List.range s.tickCycles).foldl (fun s k => hot.foldl (fun s i => s.cycleStep i (s.clk.frame + k)) s) s
  rest.foldl State.tickIsland s

/-- Shared-class requests of a channel whose slots lie in the tick at hand; `fuel` bounds them. -/
def State.sharedTick (s : State) (g : Nat) : Nat → State
  | 0 => s
  | fuel + 1 =>
    let slot := s.sharedSlot g
    if s.frameHeld ∨ (smGet [] s.mem.sharedQ g).isEmpty ∨ 50 * s.clk.now + 50 ≤ slot then s
    else (s.serveShared g slot).sharedTick g fuel

/-- The memory slots of the tick at hand (08 R171 to R175). -/
def State.tickSlots (s : State) : State :=
  let s := s.serveTo (50 * s.clk.now + 50)
  (s.mem.sharedQ.map fun q => (q.1, q.2.length)).foldl (fun s q => s.sharedTick q.1 q.2) s

/-- One lighthouse tick; none without the lighthouse's supply. -/
def State.tick (s : State) : State :=
  if !s.clk.lit then s
  else
    let s := s.tickSlots.tickIslands.settleEntries
    let s := ((s.drainWaitQ s.trk.waitQ.length).drainMcastQ s.trk.mcastQ.length).snapPump s.snap.queue.length
    let s := (s.port.map (·.1)).foldl State.tickFlits s
    s.ringsSettled.countTick.quiesced

end Sys2Proof.Machine
end

