-- ==== Sys2Proof/Safety.lean ====
section
/-! DEFINITION. The terms that statements use: a safe step, a slot instruction that issues, a command packet
that the interpreter takes up, and how a record answers it. -/

namespace Sys2Proof.Machine

/-- A step that answers a next state. -/
def StepSafe (s : State) : Prop := ∃ t, step s = .next t

/-- Island i of r with one more operation, that of slot number idx of the bundle at hand; its number is what
`nextOp` was. -/
def State.opened (r : State) (i : Nat) (idx : BitVec 3) : State :=
  let v := r.getIsl i
  r.setIsl i { v with nextOp := v.nextOp + 1, ops := smSet v.ops v.nextOp (some (.other v.curPc idx)) }

/-- Island i of r with an event of its newest operation scheduled for cycle `due`; `prio` is 0 for a landing, 1
for a read, 2 for a write (05 R104). -/
def State.scheduled (r : State) (i due prio : Nat) (a : Act) : State :=
  r.modIsl i fun u => u.push due prio (u.nextOp - 1) a

/-- Every extent an operation reads or writes lies in the scratchpad, below the staging range while the snapshot engine
holds it (05 R105). -/
def State.WithinScratchpad (s : State) (i : Nat) (ext : List (Nat × Nat)) : Prop :=
  ∀ e ∈ ext, e.2 ≠ 0 → e.1 + e.2 ≤ (if s.stagingHeld i then stagingOff else spSize)

/-- What 03 R425, 04 R80, R94, R96 and 05 R124 ask of a pass that injects in cycle `inj`: its slots exist, and on each
of its arrays the shadow tile is loaded where it swaps, the previous pass has injected its rows, no seed writes any more,
the tile is of the pass's kind, no drained row is written before its read, and a pass that adds finds slots of its mode
and, where the mode has one, its anchor. -/
def PassMayIssue (v : Island) (o : PassOp) (swap : Bool) (inj : Nat) : Prop :=
  o.slot + o.rows ≤ 128 ∧ ∀ a ∈ o.arrays, let x := v.getArr a
    (swap = true → x.loadEnd ≤ inj) ∧ (∀ j, x.passInj = some j → j + x.passRows ≤ inj) ∧ x.seedEnd ≤ inj ∧
    tileModeBad o.mode o.ec (x.tileRec (x.usedBuf swap)) = false ∧
    (∀ m < o.rows, smGet 0 x.readOf (o.slot + m) ≤ inj + (m + 1) * o.p + o.p + 128) ∧
    (o.start = false → ∀ m < o.rows, (x.issued (o.slot + m)).1 ≠ 0xF ∧ (x.issued (o.slot + m)).1.toNat = o.mode ∧
      (modeEcAnchor o.mode = true → (x.issued (o.slot + m)).2 = BitVec.ofInt 10 (o.ec + 46)))

/-- What 04 R80, R94, R96 and R97 ask of a seed: its slots exist, every foot write of its array is done, no drained row
is written before its read, and a row that adds meets its own mode and anchor. -/
def SeedMayIssue (v : Island) (o : SeedOp) : Prop := let x := v.getArr o.array
  o.slot + o.rows ≤ 128 ∧ (x.footEnd = 0 ∨ x.footEnd < o.cycle) ∧
    (∀ m < o.rows, smGet 0 x.readOf (o.slot + m) ≤ o.cycle + 4 * m + 15) ∧
    (o.start = false → ∀ m < o.rows, seedModeBad v o x (o.slot + m) = false)

/-- What 04 R94 and 05 R104 ask of a drain that reads a row every w cycles: its rows exist, each array's previous drain
has ended, each row is read after the last foot write issued to it, and its HWM and status writes find their banks free. -/
def DrainMayIssue (v : Island) (o : DrainOp) (d : DrainDesc) : Prop :=
  o.slot + o.rows ≤ 128 ∧ bankCheck v.banks (drainBanks o d) = none ∧ ∀ a ∈ o.arrays,
    (v.getArr a).drainEnd ≤ o.cycle ∧ ∀ m < o.rows, smGet 0 (v.getArr a).footOf (o.slot + m) ≤ o.cycle + m * d.w

/-- What 05 R124 asks of a load issued in cycle t: the tile that the last swap left is free when the first plane is
written, and the array's previous load has ended. -/
def LoadMayIssue (v : Island) (arrays : List Nat) (t : Nat) : Prop :=
  ∀ a ∈ arrays, (∀ j, (v.getArr a).swapInj = some j → j + 256 ≤ t + 4) ∧ (v.getArr a).loadEnd ≤ t

/-- The island's registers, semaphores, branch state and scratchpad are as before. -/
def Island.SameRegs (u v : Island) : Prop :=
  u.x = v.x ∧ u.h = v.h ∧ u.v = v.v ∧ u.sem = v.sem ∧ u.stepReg = v.stepReg ∧ u.drainKey = v.drainKey ∧ u.seqPc = v.seqPc ∧
    u.loops = v.loops ∧ u.sp = v.sp ∧ u.imem = v.imem ∧ u.chan = v.chan ∧ u.fault = v.fault

/-- Nothing outside island i has changed but error counters and the fault log. -/
def State.SameBut (t r : State) (i : Nat) : Prop :=
  (∀ j, j ≠ i → t.getIsl j = r.getIsl j) ∧ t.mem.hbm = r.mem.hbm ∧ t.fab = r.fab ∧ t.port = r.port ∧ t.trk = r.trk ∧
    t.bar = r.bar ∧ t.part = r.part ∧ t.host = r.host ∧ t.pwr = r.pwr ∧ t.clk = r.clk ∧ t.pending = r.pending

/-- The interpreter takes the packet up and starts it now: its ring is active and its completion ring has room,
nothing of the ring waits under `FENCE_BEFORE`, the packet lies whole in the ring, and its own fence does not hold it
(13 R298, R299, 14 R315). -/
def Fetched (s : State) (c : Packet) : Prop :=
  let r := c.ring.toNat
  let q := s.getCr r
  q.active = true ∧ s.serving = true ∧ s.cqRoom r = true ∧ (s.cmds.fenced.find? (·.pkt.ring = c.ring)) = none ∧
    c.poison = false ∧ c.length.toNat ≠ 0 ∧ c.length.toNat ≤ q.slots ∧ c.length.toNat ≤ (q.piRead - q.ci).toNat ∧
    (c.fence && s.owing r) = false

/-- The state in which a packet taken up runs: its slots have been read, and its ring was served last. -/
def State.served (s : State) (c : Packet) : State :=
  (s.readSlots c.ring.toNat c.length.toNat).modHost fun h => { h with lastServed := c.ring }

/-- The packet passes the checks of 14 R308; `extra` are the checks of its own row. -/
def Passes (s : State) (c : Packet) (op : Half) (extra : List (Nat × Half × Half)) : Prop :=
  ∃ o, opSpec op.toNat = some o ∧ s.checkCmd c o extra = none

/-- The packet is taken up, runs at once, and passes its checks. -/
def Takes (s : State) (c : Packet) (op : Half) (extra : List (Nat × Half × Half)) : Prop :=
  Fetched s c ∧ Passes (s.served c) c op extra

/-- The packet's record, and its slots of the ring given back. -/
def State.answered (s : State) (c : Packet) (op st detail : Half) (r0 r1 r2 : Word) : State :=
  (s.record c op 0 st detail r0 r1 r2).advanceCi c.ring.toNat c.length.toNat

/-- A command that answers OK, without details or results, and leaves t. -/
def State.okay (t : State) (c : Packet) (op : Half) : State := t.answered c op sOk 0 0 0 0

/-- A command that the state of its object refuses (14 R308, step 7): nothing but its record. -/
def State.turnedAway (u : State) (c : Packet) (op detail : Half) : State := u.answered c op sWrongState detail 0 0 0

/-- A long command as the interpreter holds it from its acceptance on (14 R310, R312). -/
def acceptedCmd (s : State) (c : Packet) (op : Half) (o : OpSpec) (st : LongSt) : LongCmd :=
  ⟨c, op, BitVec.ofNat 6 c.part, st, deadline c o s.clk.now, s.clk.now, (s.getCr c.ring.toNat).cq⟩

/-- s with a long command accepted and its ACCEPTED reply written. -/
def State.accepting (s : State) (c : Packet) (op : Half) (o : OpSpec) : State :=
  ({ s with cmds := { s.cmds with long := s.cmds.long ++ [acceptedCmd s c op o .accepted] } } : State).record c op 0 sAccepted 0 0 0 0

/-- A further long command has room (14 R313), and no update holds it back (15 R347). -/
def Roomy (u : State) (c : Packet) : Prop := u.host.dev ≠ 2 ∧ u.fullFor c.part = none

/-- u with a long command accepted: its ACCEPTED reply is written, and what it begins has begun. -/
def State.begun (u : State) (c : Packet) (op : Half) (f : State → State) : State :=
  (f (u.accepting c op ((opSpec op.toNat).getD ⟨1, false, 0, []⟩))).advanceCi c.ring.toNat c.length.toNat

/-- The command rows with their opcodes; where one opcode has two rows, whether the packet is of the row. `tags` is
what SNAP_PARTNERS is told. -/
def commandsOf (c : Packet) (tags : List (NodeId × Option Half)) : List (Half × Instr × Bool) :=
  ([(0x0101, .identify c, true), (0x0102, .setNode c, true), (0x0103, .deviceStatus c, true),
   (0x0104, .setDefault c, true), (0x0105, .memoryMode c, true), (0x0106, .memoryClear c, true),
   (0x0107, .reset c, true), (0x0201, .partCreate c, true), (0x0202, .partDestroy c, true),
   (0x0203, .windowSet c, true), (0x0204, .windowClear c, true), (0x0205, .partStatus c, true),
   (0x0301, .load c, true), (0x0302, .unload c, true), (0x0303, .bind c, true), (0x0304, .start c, true),
   (0x0305, .pause c, true), (0x0306, .resume c, true), (0x0307, .pipelineDrain c, true), (0x0308, .status c, true),
   (0x0309, .excQueue c, true), (0x0401, .tableWrite c, true), (0x0402, .tableCommit c, true),
   (0x0403, .flipArm c, true), (0x0404, .fence c, true)] : List (Half × Instr × Bool)) ++
  ([(0x0405, .fabricStatus c, true), (0x0406, .portRetest c, decide ((c.at_ 17 1 / 2 ^ 2 % 2 = 1) = true)),
   (0x0406, .portSet c, decide ((c.at_ 17 1 / 2 ^ 2 % 2 = 1) = false)), (0x0407, .auxMode c, true),
   (0x0408, .resend c, true), (0x0409, .timeCfg c, true), (0x040A, .barrierCfg c, true),
   (0x040B, .barrierFree c, true), (0x0501, .snapDisable c, decide ((c.at_ 16 1 / 2 ^ 0 % 2 = 1) = false)),
   (0x0501, .snapEnable c, decide ((c.at_ 16 1 / 2 ^ 0 % 2 = 1) = true)), (0x0502, .snapPolicy c, true),
   (0x0503, .snapPartners c tags, true), (0x0504, .snapCut c, true), (0x0505, .restore c, true),
   (0x0506, .verify c, true), (0x0507, .snapStatus c, true), (0x0601, .powerStatus c, true),
   (0x0602, .hostCap c, true), (0x0603, .levelLimit c, true),
   (0x0604, .deepIdleEnter c, decide ((c.at_ 16 1 / 2 ^ 0 % 2 = 1) = true)),
   (0x0604, .deepIdleExit c, decide ((c.at_ 16 1 / 2 ^ 0 % 2 = 1) = false)), (0x0605, .energy c, true),
   (0x0606, .energyMode c, true), (0x0607, .estimator c, true)] : List (Half × Instr × Bool)) ++
  ([(0x0701, .fwStage c, true), (0x0702, .fwActivate c, true), (0x0703, .fwRollback c, true),
   (0x0704, .fwStatus c, true), (0x0801, .diagModeEnter c, decide ((c.at_ 16 1 / 2 ^ 0 % 2 = 1) = true)),
   (0x0801, .diagModeLeave c, decide ((c.at_ 16 1 / 2 ^ 0 % 2 = 1) = false)), (0x0802, .fiSet c, true),
   (0x0803, .fiKey c, true), (0x0804, .errClear c, true), (0x0805, .logRead c, true),
   (0x0901, .claimQuery c, true), (0x0902, .claimTable c, true)] : List (Half × Instr × Bool))

end Sys2Proof.Machine
end

