-- ==== Sys2Proof/WellFormed.lean ====
section
/-! DEFINITION. Well-formed commands: the operands that a loaded image can hold (05 R112, R115, R116,
06 R132). Every other command has all its operands' ranges in its types. -/

namespace Sys2Proof

/-- The image load admits the instruction's operands. -/
def Instr.wf : Instr → Bool
  | .loop _ src count _ _ => src || count != 0
  | .wait _ _ count => count != 0
  | .delay _ n => n != 0
  | .pass _ _ arrays _ _ _ _ _ => arrays != 0
  | .anch _ _ arrays _ _ => arrays != 0
  | .loadw _ arrays _ _ => arrays != 0
  | .drain _ arrays _ _ _ => arrays != 0
  | .vld _ type _ _ _ _ => decide (type.toNat ≤ 4)
  | .vst _ type _ _ _ _ => decide (type.toNat ≤ 4)
  | .vkadd _ vd _ => vd != 31
  | .vrand _ _ _ _ xk _ _ => xk != 31
  | _ => true

end Sys2Proof
end

