-- ==== Sys2Proof/Certificates/Slice0/Obligations.lean ====
section
/-! DEFINITION. The statements for the provers. -/

set_option linter.unusedVariables false

open Sys2Proof Sys2Proof.Machine

/-- One step takes the command at the front of the queue and runs it on the state that keeps the rest of the
queue. The queue is the model's interface (log 24). -/
def Obligations.StepRunsTheFrontCommand : Prop :=
  ∀ (s : State) (c : Instr) (rest : List Instr), s.pending = c :: rest → step s = exec c { s with pending := rest }

/-- That a step with nothing waiting is one lighthouse tick is the model's choice (log 24); the tick itself is 00
R12's. -/
def Obligations.EmptyQueueTicksTheLighthouseCounter : Prop :=
  (∀ s : State, s.pending = [] → s.clk.lit = true → ∃ t, step s = .next t ∧ t.clk.now = s.clk.now + 1 ∧ t.clk.lit = true ∧ t.pending = []) ∧
    ∀ s : State, s.pending = [] → s.clk.lit = false → step s = .next s

/-- No command stops the model but a slot instruction whose operands no loaded image can hold (05 R112), which is
refused by name. -/
def Obligations.EveryWellFormedCommandAnswersANextState : Prop :=
  ∀ (i : Instr) (s : State),
    (i.wf = true → ∃ t, exec i s = .next t) ∧ (i.wf = false → ∃ m, exec i s = .refused (.illFormed m))

/-- How a slot that opens a bundle issues (05 R113, R121): for an island with nothing scheduled and no
instruction-memory error at its program counter. -/
def Obligations.ABundleIssuesAtTheNextIssueCycle : Prop :=
  ∀ (s : State) (i : BitVec 8), s.canIssue i.toNat = true → (s.getIsl i.toNat).ended = false → (s.getIsl i.toNat).sched = [] →
    (s.getIsl i.toNat).imemErr = [] → (s.getIsl i.toNat).imemHard = [] →
    ∃ r, s.issue ⟨i, false, 0⟩ = (r, some (s.getIsl i.toNat).nextIssue) ∧
      (r.getIsl i.toNat).curPc = (s.getIsl i.toNat).seqPc ∧ (r.getIsl i.toNat).curCycle = (s.getIsl i.toNat).nextIssue ∧
      (r.getIsl i.toNat).nextIssue = (s.getIsl i.toNat).nextIssue + 1 ∧
      (r.getIsl i.toNat).seqPc = (nextBundle (s.getIsl i.toNat).seqPc (s.getIsl i.toNat).loops).1 ∧
      (r.getIsl i.toNat).loops = (nextBundle (s.getIsl i.toNat).seqPc (s.getIsl i.toNat).loops).2 ∧
      (r.getIsl i.toNat).x = (s.getIsl i.toNat).x ∧ (r.getIsl i.toNat).sp = (s.getIsl i.toNat).sp

/-- Only a RUNNING island that has neither stopped nor waits issues instructions (05 R120, R126, R127); the
command then has no effect (log 24). -/
def Obligations.AStoppedIslandIssuesNothing : Prop :=
  ∀ (s : State) (w : Site), s.canIssue w.island.toNat = false → (w.cont = false ∨ s.canContinue w.island.toNat = false) →
    (∀ f xd xa xb, exec (.alu w f xd xa xb) s = .next s) ∧ (∀ xd xa imm, exec (.ld w xd xa imm) s = .next s) ∧
    (∀ xs xa imm, exec (.st w xs xa imm) s = .next s) ∧ (∀ t, exec (.jmp w t) s = .next s) ∧ exec (.endRun w) s = .next s ∧
    (∀ ch xa sem, exec (.dstart w ch xa sem) s = .next s) ∧ (∀ fn b vd va vb vc, exec (.vopf w fn b vd va vb vc) s = .next s)

/-- The scalar results of 05 R114 with the latency of Table 5.8, and the frame: nothing of r changes but the
issuing island's operation table and schedule. -/
def Obligations.ScalarResultsLandInTheNextCycle : Prop :=
  ∀ (s r : State) (w : Site) (c : Nat), s.issue w = (r, some c) →
    let i := w.island.toNat
    let v := r.getIsl i
    (∀ f xd xa xb, exec (.alu w f xd xa xb) s =
      .next ((r.opened i 0).scheduled i (c + 1) 0 (.setX xd (aluOp f (v.getX xa) (v.getX xb))))) ∧
    (∀ xd xa imm, exec (.addi w xd xa imm) s =
      .next ((r.opened i 0).scheduled i (c + 1) 0 (.setX xd (v.getX xa + imm.signExtend 64)))) ∧
    (∀ xd h imm, exec (.lih w xd h imm) s = .next ((r.opened i 0).scheduled i (c + 1) 0 (.setXPart xd h imm))) ∧
    (∀ hd rec, exec (.hset w hd rec) s = .next ((r.opened i 0).scheduled i (c + 1) 0 (.setH hd rec))) ∧
    (∀ o xa imm, exec (.stepOp w o xa imm) s =
      .next ((r.opened i 0).scheduled i (c + 1) 0
        (.setStep (if o then v.stepReg + imm.zeroExtend 32 else (v.getX xa).extractLsb' 0 32))))

/-- 05 R114 with Table 5.8: the result of an ALU operation is seen by what issues in the next cycle; X0 reads 0. -/
def Obligations.AnAluResultIsReadFromTheNextCycle : Prop :=
  ∀ (s r : State) (w : Site) (c : Nat) (f : AluOp) (xd xa xb : BitVec 5), s.issue w = (r, some c) →
    (r.getIsl w.island.toNat).sched = [] →
    ∃ t, exec (.alu w f xd xa xb) s = .next t ∧
      let u := (t.advance w.island.toNat (c + 1)).getIsl w.island.toNat
      let v := r.getIsl w.island.toNat
      u.getX xd = (if xd = 0 then 0 else aluOp f (v.getX xa) (v.getX xb)) ∧ ∀ x, x ≠ xd → u.getX x = v.getX x

/-- 05 R114, Table 5.8 and R104 for an access that is in range and conflicts with none; the claimed banks are
those of its 128-byte granules. -/
def Obligations.ScalarMemorySlotsScheduleTheirAccesses : Prop :=
  ∀ (s r : State) (w : Site) (c : Nat), s.issue w = (r, some c) →
    let i := w.island.toNat
    let v := r.getIsl i
    let q := r.opened i 0
    let claim (acc : List (Nat × Nat)) : State := q.modIsl i fun u => ({ u with banks := acc ++ u.banks } : Island).count 1 acc.length
    (∀ xd xa (imm : Half), let off := offsetOf (v.getX xa) 8 imm
      let acc := (granules off 8).map fun b => (c + 1, b)
      q.spOutside i off 8 = none → bankCheck v.banks acc = none →
      exec (.ld w xd xa imm) s = .next ((claim acc).modIsl i fun u => u.push (c + 1) 1 v.nextOp (.ldRead xd off))) ∧
    (∀ xs xa (imm : Half), let off := offsetOf (v.getX xa) 8 imm
      let acc := (granules off 8).map fun b => (c + 1, b)
      q.spOutside i off 8 = none → bankCheck v.banks acc = none →
      exec (.st w xs xa imm) s =
        .next ((claim acc).modIsl i fun u => u.push (c + 1) 2 v.nextOp (.stWrite off (leBytes 8 (v.getX xs).toNat)))) ∧
    (∀ hd xa xb acc, (v.getX xb).toNat = 0 → exec (.hmax w hd xa xb acc) s =
      .next (q.modIsl i fun u => u.push (c + 2) 0 v.nextOp (.setH hd (if acc then v.getH hd else 0x8000)))) ∧
    (∀ hd xa xb acc, let off := (v.getX xa).toNat
      let n := (v.getX xb).toNat
      let bs := (List.range (min (ceilDiv n 64) 0x10000)).flatMap fun k =>
          (granules (off + 128 * k) (min 128 (2 * n - 128 * k))).map fun b => (c + 1 + k, b)
      n ≠ 0 → q.spOutside i off (2 * n) = none → bankCheck v.banks bs = none → exec (.hmax w hd xa xb acc) s =
        .next ((claim bs).modIsl i fun u => u.push (c + 1) 1 v.nextOp (.hmaxRead hd off n (if acc then v.getH hd else 0x8000))))

/-- The branch slot (05 R115, R120 to R122, Table 5.5). -/
def Obligations.TheBranchSlotSetsTheNextBundle : Prop :=
  ∀ (s r : State) (w : Site) (c : Nat), s.issue w = (r, some c) →
    let i := w.island.toNat
    let v := r.getIsl i
    let q := r.opened i 1
    (∀ src count xa last, let n : Dword := if src then v.getX xa else count.zeroExtend 64
      (src = true ∨ count ≠ 0) → v.curPc < last → n ≠ 0 → v.loopsWas.length < 4 → exec (.loop w src count xa last) s =
        .next (q.modIsl i fun u => { u with seqPc := v.curPc + 1, loops := ⟨v.curPc + 1, last, n⟩ :: v.loopsWas })) ∧
    (∀ count xa last, v.curPc < last → v.getX xa = 0 → exec (.loop w true count xa last) s =
        .next (q.modIsl i fun u => { u with seqPc := last + 1, loops := v.loopsWas })) ∧
    (∀ target, exec (.jmp w target) s =
      .next (q.modIsl i fun u => { u with seqPc := target, loops := popOutside v.loopsWas target })) ∧
    (∀ k xa xb target, exec (.bcc w k xa xb target) s =
      .next (q.modIsl i fun u =>
        if condHolds k (v.getX xa) (v.getX xb) then
          { u with seqPc := target, loops := popOutside v.loopsWas target, nextIssue := c + 3 }
        else { u with nextIssue := c + 3 })) ∧
    (∀ sem count, count ≠ 0 → exec (.wait w sem count) s =
      .next (q.modIsl i fun u => if count ≤ v.getSem sem then u.setSem sem (v.getSem sem - count)
        else { u with waiting := some ⟨sem, count, q.clk.now, c, none, true⟩ })) ∧
    (∀ group sem, exec (.barrive w group sem) s =
      .next (q.modIsl i fun u => { u with waiting := some ⟨sem, 1, q.clk.now, c, some group, false⟩ })) ∧
    (∀ n, n ≠ 0 → exec (.delay w n) s = .next (q.modIsl i fun u => { u with nextIssue := c + 1 + n.toNat })) ∧
    exec (.endRun w) s = .next (q.modIsl i fun u => { u with ended := true })

/-- How a wait ends (05 R120), times out, and how BARRIVE signals its group (05 R122). -/
def Obligations.WaitsEndOrTimeOut : Prop :=
  (∀ (s : State) (i : BitVec 8) (w : Waiting), let v := s.getIsl i.toNat
    s.islSt i.toNat = stRunning → v.stopped = false → v.waiting = some w → w.arrived = true → w.count ≤ v.getSem w.sem →
    ∃ t, exec (.waitSatisfied i) s = .next t ∧ (t.getIsl i.toNat).waiting = none ∧
      (t.getIsl i.toNat).getSem w.sem = v.getSem w.sem - w.count ∧
      (t.getIsl i.toNat).nextIssue = max w.cycle v.seqCycle + 1 ∧ (t.getIsl i.toNat).x = v.x ∧ (t.getIsl i.toNat).sp = v.sp ∧
      t.mem = s.mem) ∧
  (∀ (s : State) (i : BitVec 8) (w : Waiting), let v := s.getIsl i.toNat
    s.islSt i.toNat = stRunning → v.waiting = some w → v.waitLimit ≠ 0 → w.since + v.waitLimit.toNat ≤ s.clk.now →
    ¬ (w.arrived = true ∧ w.count ≤ v.getSem w.sem) →
    exec (.waitTimeout i) s = .next (s.islandFault i.toNat ⟨0x13, false, v.curPc, 1, 0, w.sem.toNat, v.seqCycle⟩)) ∧
  (∀ (s : State) (i : BitVec 8) (w : Waiting) (g : Byte), let v := s.getIsl i.toNat
    s.islSt i.toNat = stRunning → v.stopped = false → v.waiting = some w → w.group = some g → w.arrived = false →
    (v.quiet = true → exec (.barriveArrival i) s =
      .next (((s.setIsl i.toNat { v with waiting := some { w with arrived := true }, barSem := smSet v.barSem g.toNat w.sem }).modBar
        g.toNat fun b => { b with arrived := b.arrived.insert i.toNat, lastIsl := i }).tryArrive g.toNat)) ∧
    (v.quiet = false → exec (.barriveArrival i) s = .next s))

/-- The array operations start (03 R58, 04 R81, R93, R96, 05 R106, R116, R117) where 03 R425, 04 R80, R94, R96 and
05 R124 allow it (`PassMayIssue`, `SeedMayIssue`, `DrainMayIssue`, `LoadMayIssue`) and their extents lie in
the scratchpad. -/
def Obligations.ArrayOperationsStartAfterTheirChecks : Prop :=
  ∀ (s r : State) (w : Site) (c : Nat), s.issue w = (r, some c) →
    let i := w.island.toNat
    let v := r.getIsl i
    let n := v.nextOp
    (∀ b arrays pd xk st sw a, arrays ≠ 0 →
      let swap := sw || (PassDesc.parse (smGet 0 v.pd pd.toNat)).swap
      let o := passOf v i c arrays pd xk st swap a (ctlSlot b)
      let f := FeedDesc.parse o.fd
      PassMayIssue v o swap (c + 4) → r.WithinScratchpad i (passReads i o) → fmtCheck i (bvBytes 32 o.fmt) = none →
      ecwFault f (FmtDesc.parse (bvBytes 32 o.fmt)) = false → v.spUe f.fmtOff 32 = false →
      ∃ t, exec (.pass w b arrays pd xk st sw a) s = .next t ∧ let u := t.getIsl i
        smGet none u.ops n = some (.pass o) ∧ ⟨c + 4, 1, n, .inject⟩ ∈ u.sched ∧
        (∀ m < o.rows, ⟨c + m * o.p, 1, n, .row m⟩ ∈ u.sched) ∧ (∀ e ∈ v.sched, e ∈ u.sched) ∧
        (∀ k ∈ o.arrays, (u.getArr k).active = ((v.getArr k).active ^^ swap) ∧ (u.getArr k).passInj = some (c + 4) ∧
          (u.getArr k).acc = (v.getArr k).acc ∧ (u.getArr k).slots = (v.getArr k).slots) ∧
        (∀ k, k ∉ o.arrays → u.getArr k = v.getArr k) ∧ u.SameRegs v ∧ t.SameBut r i) ∧
    (∀ b array slotBase rowsM1 start xa,
      let o : SeedOp := ⟨c, array.toNat, slotBase.toNat, rowsM1.toNat + 1, start, (v.getX xa).toNat, v.curPc, ctlSlot b⟩
      SeedMayIssue v o → r.WithinScratchpad i [(o.src, 2048 * o.rows)] →
      ∃ t, exec (.seed w b array slotBase rowsM1 start xa) s = .next t ∧ let u := t.getIsl i
        smGet none u.ops n = some (.seed o) ∧ (∀ m < o.rows, ⟨c + 4 * m, 1, n, .seedRead m⟩ ∈ u.sched) ∧
        (∀ e ∈ v.sched, e ∈ u.sched) ∧ (u.getArr o.array).acc = (v.getArr o.array).acc ∧
        (∀ k, k ≠ o.array → u.getArr k = v.getArr k) ∧ u.SameRegs v ∧ t.SameBut r i) ∧
    (∀ b arrays src xs, arrays ≠ 0 →
      let first := ((v.getX xs).extractLsb' 0 7).toNat
      let count := ((v.getX xs).extractLsb' 8 7).toNat + 1
      first + count ≤ 128 →
      exec (.anch w b arrays src xs) s = .next ((r.opened i (ctlSlot b)).scheduled i (c + 1) 0
        (.setNext arrays first count (anchorOf v src).1 (anchorOf v src).2))) ∧
    (∀ arrays fd xa, arrays ≠ 0 →
      let as := maskArrays arrays
      let f := FeedDesc.parse (smGet 0 v.fd fd.toNat)
      let bytes := v.spRead f.fmtOff 32
      let d := FmtDesc.parse bytes
      let base := (v.getX xa).toNat
      let sBase := scaleBase i d (v.getX (BitVec.ofNat 5 f.scaleX))
      LoadMayIssue v as c → loadDescBad i f bytes = false →
      r.WithinScratchpad i (((List.range as.length).zip as).flatMap fun ra =>
        loadExtents i f d (base + ra.1 * f.array) sBase ra.1) →
      v.spUe f.fmtOff 32 = false → (tableBytes d ≠ 0 → v.spUe (offsetIn i d.tableAddr) (tableBytes d) = false) →
      (fmtIsRounding d.format = false → codebookFault d (tableOf v i d) = none) →
      ∃ t, exec (.loadw w arrays fd xa) s = .next t ∧ let u := t.getIsl i
        (∃ o, smGet none u.ops n = some (.load o) ∧ o.cycle = c ∧ o.arrays = (as.map fun k => (k, !(v.getArr k).active))) ∧
        ⟨c, 1, n, .loadBlock 0 []⟩ ∈ u.sched ∧ (∀ e ∈ v.sched, e ∈ u.sched) ∧
        (∀ k ∈ as, (u.getArr k).loadEnd = c + 8 * d.planes + 4 ∧ (u.getArr k).active = (v.getArr k).active ∧
          (u.getArr k).buf0 = (v.getArr k).buf0 ∧ (u.getArr k).buf1 = (v.getArr k).buf1 ∧ (u.getArr k).acc = (v.getArr k).acc) ∧
        (∀ k, k ∉ as → u.getArr k = v.getArr k) ∧ u.SameRegs v ∧ t.SameBut r i) ∧
    (∀ arrays dd a xd, arrays ≠ 0 →
      let bits := smGet 0 v.dd dd.toNat
      let d := DrainDesc.parse bits
      let o : DrainOp :=
        { cycle := c, arrays := maskArrays arrays, dd := bits, slot := d.slot + a.toNat, rows := d.rows,
          off := (v.getX xd).toNat, key := v.drainKey, stepReg := v.stepReg, seq := v.drainSeq, kinds := 0,
          first := none, tileHwm := none, rowHwm := [], bundle := v.curPc, slotIdx := 5 }
      DrainMayIssue v o d → r.WithinScratchpad i (drainExtents o d) →
      ∃ t, exec (.drain w arrays dd a xd) s = .next t ∧ let u := t.getIsl i
        smGet none u.ops n = some (.drain o) ∧ (∀ m < o.rows, ⟨c + m * d.w, 1, n, .drainRow m⟩ ∈ u.sched) ∧
        ⟨c + o.rows * d.w + 14, 2, n, .drainEnd⟩ ∈ u.sched ∧ (∀ e ∈ v.sched, e ∈ u.sched) ∧ u.drainSeq = v.drainSeq + 1 ∧
        (∀ k ∈ o.arrays, (u.getArr k).drainEnd = c + o.rows * d.w + 15 ∧ (u.getArr k).acc = (v.getArr k).acc) ∧
        (∀ k, k ∉ o.arrays → u.getArr k = v.getArr k) ∧ u.SameRegs v ∧ t.SameBut r i)

/-- The vector unit's results and latencies (06 R131 to R147, Table 6.4); X and H registers and all else of r
stand. -/
def Obligations.VectorResultsLandAfterTheirLatency : Prop :=
  ∀ (s r : State) (w : Site) (c : Nat), s.issue w = (r, some c) →
    let i := w.island.toNat
    let v := r.getIsl i
    let n := v.nextOp
    let q := r.opened i 6
    let land (due : Nat) (a : Act) : State := q.modIsl i fun u => (u.push due 0 n a).count 3 1
    (∀ fn b vd va vb vc, exec (.vopf w fn b vd va vb vc) s =
      .next (land (c + 4) (.setV vd (mapLanes (vopfLane fn b) (v.getV va) (v.getV vb) (v.getV vc))))) ∧
    (∀ fn vd va vb vc, exec (.vopi w fn vd va vb vc) s =
      .next (land (c + 2) (.setV vd (mapLanes (vopiLane fn) (v.getV va) (v.getV vb) (v.getV vc))))) ∧
    (∀ fn vd va vb, exec (.vcvt w fn vd va vb) s =
      .next (land (c + 3) (.setV vd (List.zipWith (vcvtLane fn) (v.getV va) (v.getV vb))))) ∧
    (∀ vd xa, exec (.vbcast w vd xa) s = .next (land (c + 2) (.setV vd (List.replicate 256 (Word.lo (v.getX xa)))))) ∧
    (∀ vd va, vd ≠ 31 → let l := ((v.getV vd).zip ((v.getV (vd + 1)).zip (v.getV va))).map fun x => vkaddLane x.1 x.2.1 x.2.2
      exec (.vkadd w vd va) s =
        .next ((land (c + 5) (.setV vd (l.map (·.1)))).modIsl i fun u => u.push (c + 5) 0 n (.setV (vd + 1) (l.map (·.2))))) ∧
    (∀ vd va, exec (.vred w .fmax vd va) s = .next (land (c + 14) (.setV vd (lane0 (reduceLanes (w32 F32.max) (v.getV va)))))) ∧
    (∀ vd va, exec (.vred w .fmin vd va) s = .next (land (c + 14) (.setV vd (lane0 (reduceLanes (w32 F32.min) (v.getV va)))))) ∧
    (∀ vd va, exec (.vred w .isum vd va) s = .next (land (c + 14) (.setV vd (lane0 (reduceLanes (· + ·) (v.getV va)))))) ∧
    (∀ vd va, va ≠ 31 → vd ≠ 31 → let x := (redTree ksumPair 8 ((v.getV va).zip (v.getV (va + 1)))).headD (0, 0)
      exec (.vred w .ksum vd va) s =
        .next ((land (c + 14) (.setV vd (lane0 x.1))).modIsl i fun u => u.push (c + 14) 0 n (.setV (vd + 1) (lane0 x.2)))) ∧
    (∀ fn vd va, exec (.vsf w fn vd va) s = .next (land (c + vsfLatency fn) (.setV vd ((v.getV va).map (vsfLane fn))))) ∧
    (∀ k uni vd xk xs xe, xk ≠ 31 →
      let key := Quad.ofKey (v.getX (xk + 1) ++ v.getX xk)
      let e0 := (v.getX xe &&& ~~~(3 : Dword)) + BitVec.ofNat 64 (64 * k.toNat)
      exec (.vrand w k uni vd xk xs xe) s = .next ((land (c + 14) (.setVQuarter vd k ((List.range 64).map fun j =>
        randLane uni (elementDraw key (Word.lo (v.getX xs)) v.stepReg (e0 + BitVec.ofNat 64 j))))).modIsl i fun u => u.count 3 16)) ∧
    (∀ type port vd xa imm, let off := vecOffset v xa imm
      let acc := vecAccess c off (vecBytes type.toNat)
      type.toNat < 4 → off % 64 = 0 → q.spOutside i off (vecBytes type.toNat) = none → bankCheck v.banks acc = none →
      exec (.vld w type port vd xa imm) s =
        .next ((q.modIsl i fun u => ({ u with banks := acc ++ u.banks } : Island).count 1 acc.length).modIsl i fun u =>
          (u.push (c + 1) 1 n (.vldRead type vd off)).count 3 1)) ∧
    (∀ port vd xa imm, exec (.vld w 4 port vd xa imm) s =
      .next (q.modIsl i fun u => (u.push (c + 1) 1 n (.vldBeat port vd 8 [])).count 3 1)) ∧
    (∀ type port vs xa imm, let off := vecOffset v xa imm
      let acc := vecAccess c off (vecBytes type.toNat)
      type.toNat < 4 → off % 64 = 0 → q.spOutside i off (vecBytes type.toNat) = none → bankCheck v.banks acc = none →
      exec (.vst w type port vs xa imm) s =
        .next ((q.modIsl i fun u => ({ u with banks := acc ++ u.banks } : Island).count 1 acc.length).modIsl i fun u =>
          (u.push (c + 1) 2 n (.stWrite off (vstBytes type.toNat (v.getV vs)))).count 3 1)) ∧
    (∀ port vs xa imm, exec (.vst w 4 port vs xa imm) s =
      .next (q.modIsl i fun u => ((List.range 8).foldl (fun u k =>
        u.push (c + 1 + k) 2 n (.vstBeat port (takePad 128 ((vstBytes 4 (v.getV vs)).drop (128 * k))))) u).count 3 1))

/-- The DMA slot (05 R110, R117, 09 R188, R201). -/
def Obligations.DmaSlotsQueueAndPause : Prop :=
  ∀ (s r : State) (w : Site) (c : Nat), s.issue w = (r, some c) →
    let i := w.island.toNat
    let v := r.getIsl i
    let n := v.nextOp
    (∀ ch xa sem, (v.getX xa).toNat < (if r.stagingHeld i then stagingOff else spSize) → (v.getChan ch.toNat).starts.length < 8 →
      ∃ t, exec (.dstart w ch xa sem) s = .next t ∧ let u := t.getIsl i
        (u.getChan ch.toNat).starts = (v.getChan ch.toNat).starts ++ [(sem, BitVec.ofNat 22 (v.getX xa).toNat)] ∧
        (u.getChan ch.toNat).st = (v.getChan ch.toNat).st ∧ (u.getChan ch.toNat).dcopy = (v.getChan ch.toNat).dcopy ∧
        (∀ k, k ≠ ch.toNat → u.getChan k = v.getChan k) ∧ u.x = v.x ∧ u.sp = v.sp ∧ u.sched = v.sched ∧ t.SameBut r i) ∧
    (∀ ch xa sem, (v.getX xa).toNat < (if r.stagingHeld i then stagingOff else spSize) → 8 ≤ (v.getChan ch.toNat).starts.length →
      exec (.dstart w ch xa sem) s =
        .next ((r.opened i 7).scheduled i (c + 1) 2 (.dmaRefuse ch sem (BitVec.ofNat 22 (v.getX xa).toNat)))) ∧
    (∀ ch, exec (.dpause w ch) s = .next ((r.opened i 7).scheduled i (c + 1) 0 (.dmaPause ch true))) ∧
    (∀ ch, exec (.dresume w ch) s = .next ((r.opened i 7).scheduled i (c + 1) 0 (.dmaPause ch false))) ∧
    (v.sched = [] → ∀ ch on, let u := (((r.opened i 7).scheduled i (c + 1) 0 (.dmaPause ch on)).advance i (c + 1)).getIsl i
      (u.getChan ch.toNat).paused = on ∧ ∀ k, k ≠ ch.toNat → (u.getChan k).paused = (v.getChan k).paused)

/-- The gating controller (01 R22 to R25). -/
def Obligations.GatingGroupsEnterAndLeavePowerGating : Prop :=
  (∀ (s : State) (g : BitVec 4), (s.getGrp g.toNat).gate = .clocked → s.groupFree g.toNat = true →
    (s.getGrp g.toNat).unbound + 25001 ≤ s.clk.now →
    exec (.groupPowerGatingEntry g) s = .next (s.setGrp g.toNat ⟨.entering s.clk.now, (s.getGrp g.toNat).unbound, false⟩)) ∧
  (∀ (s : State) (g : BitVec 4) (v : Nat), (s.getGrp g.toNat).gate = .entering v → v + 5 ≤ s.clk.now →
    ∃ t, exec (.powerGatingEntryDone g) s = .next t ∧
      t.getGrp g.toNat = ⟨if (s.getGrp g.toNat).wakeReq then .waking s.clk.now else .off, (s.getGrp g.toNat).unbound, false⟩ ∧
      (∀ j, j / 16 = g.toNat → s.present j = true → t.getIsl j = { s.getIsl j with st := stOff }) ∧
      (∀ j, j / 16 ≠ g.toNat → t.getIsl j = s.getIsl j) ∧ t.mem = s.mem ∧ t.fab = s.fab ∧ t.part = s.part) ∧
  (∀ (s : State) (g : BitVec 4) (v : Nat), (s.getGrp g.toNat).gate = .waking v → v + 50 ≤ s.clk.now →
    ∃ t, exec (.groupWakeComplete g) s = .next t ∧ (t.getGrp g.toNat).gate = .clocked ∧
      (∀ j, j / 16 = g.toNat → s.present j = true → (t.getIsl j).st = stGated ∧ (t.getIsl j).sp = (s.getIsl j).sp ∧
        (t.getIsl j).spErr = (s.getIsl j).spErr ∧ (t.getIsl j).imem = (s.getIsl j).imem ∧
        (t.getIsl j).imemErr = (s.getIsl j).imemErr ∧ (t.getIsl j).arr = []) ∧
      (∀ j, j / 16 ≠ g.toNat → t.getIsl j = s.getIsl j) ∧ t.mem = s.mem ∧ t.fab = s.fab ∧ t.part = s.part)

/-- A strait beat's departure and arrival (07 R160, R161, 05 R109). -/
def Obligations.AStraitBeatDepartsInItsSlotAndArrives : Prop :=
  (∀ (v : Island) (k : Circuit) (p cycle : Nat) (b : Nat × List Byte) (rest : List (Nat × List Byte)),
    v.tx p = b :: rest → v.departs k p = some cycle →
    b.1 < cycle ∧ k.slots.getLsbD (cycle % 8) = true ∧
      (v.lastDep.find? (·.1 = p) = none → ∀ u, b.1 < u → u < cycle → k.slots.getLsbD (u % 8) = false)) ∧
  (∀ (s : State) (i : BitVec 8) (p : BitVec 2) (cycle : Nat) (k : Circuit) (b : Nat × List Byte) (rest : List (Nat × List Byte)),
    s.circuitFrom i.toNat p.toNat = some k → (s.getIsl i.toNat).tx p.toNat = b :: rest → cycle < s.clk.frame + s.tickCycles →
    ((s.getIsl i.toNat).departs k p.toNat = some cycle →
      ∃ t, exec (.straitBeatDepart i p cycle) s = .next t ∧ (t.getIsl i.toNat).tx p.toNat = rest ∧
        t.beats = s.beats ++ [⟨k.dst, BitVec.ofNat 2 k.dstPort, cycle + k.latency, b.2⟩] ∧
        (t.getIsl i.toNat).SameRegs (s.getIsl i.toNat) ∧ t.SameBut s i.toNat) ∧
    ((s.getIsl i.toNat).departs k p.toNat ≠ some cycle → exec (.straitBeatDepart i p cycle) s = .next s)) ∧
  (∀ (s : State) (i : BitVec 8) (p : BitVec 2) (f : BeatFlight) (rest : List BeatFlight),
    takeFirst (fun f : BeatFlight => f.island = i && f.port = p) s.beats = some (f, rest) →
    f.arrives < s.clk.frame + s.tickCycles →
    (s.islSt i.toNat = stRunning → ((s.getIsl i.toNat).rx p.toNat).length < 64 →
      exec (.straitBeatArrive i p) s = .next (({ s with beats := rest } : State).modIsl i.toNat fun v =>
        { v with rxq := smSet v.rxq p.toNat (v.rx p.toNat ++ [(f.arrives, f.beat)]) })) ∧
    (s.islSt i.toNat ≠ stRunning →
      exec (.straitBeatArrive i p) s = .next (({ s with beats := rest } : State).modIsl i.toNat fun v =>
        { v with straitDrop := dropCount v.straitDrop p.toNat })))

/-- The DMA transfer from take-up to record (05 R103, 08 R172 to R174, 09 R188, R193 to R195, R200). -/
def Obligations.DmaMovesBytesThroughBanksAndHbm : Prop :=
  (∀ (s : State) (i bank c : Nat), s.islSt i = stRunning → (s.getIsl i).starting = false → (s.getIsl i).origin ≤ c →
    (s.bankFrom i bank c - (s.getIsl i).origin) % 8 = 7 ∧ c ≤ s.bankFrom i bank c ∧
      smGet 0 (s.getIsl i).bankAt bank ≤ s.bankFrom i bank c) ∧
  (∀ (s : State) (i : BitVec 8) (ch : BitVec 2) (sem : BitVec 5) (desc : BitVec 22) (rest : List (BitVec 5 × BitVec 22))
      (h : CqHeader × Region),
    let v := s.getIsl i.toNat
    let x := v.getChan ch.toNat
    let bs := v.spRead desc.toNat 64
    let hd := (Desc.parse bs).cqOff
    x.starts = (sem, desc) :: rest → x.st = 0 → x.paused = false → x.recOut = none → stBound ≤ s.islSt i.toNat →
    smGet [] v.bankQ (bankOf desc.toNat) = [] →
    s.bankFrom i.toNat (bankOf desc.toNat) (max x.since (s.reached i.toNat)) < s.tickEnd i.toNat →
    desc.toNat % 64 = 0 → v.spUe desc.toNat 64 = false → hd % 32 = 0 → v.spUe hd 32 = false →
    s.cqHeader i.toNat (v.spRead hd 32) = some h → s.descCheck i.toNat bs = none →
    ∃ t, exec (.dmaDescriptorTakeUp i ch) s = .next t ∧ let u := t.getIsl i.toNat
      (u.getChan ch.toNat).st = 1 ∧ (u.getChan ch.toNat).desc = desc ∧ (u.getChan ch.toNat).sem = sem ∧
      (u.getChan ch.toNat).dcopy = BitVec.ofNat 512 (leNat bs) ∧ (u.getChan ch.toNat).starts = rest ∧
      (∀ k, k ≠ ch.toNat → u.getChan k = v.getChan k) ∧ u.x = v.x ∧ u.sp = v.sp ∧ u.sem = v.sem ∧ t.SameBut s i.toNat) ∧
  (∀ (s : State) (j : BitVec 8) (bank : BitVec 4) (r : BankReq) (rest : List BankReq) (c : Nat),
    smGet [] (s.getIsl j.toNat).bankQ bank.toNat = r :: rest → s.bankHeadAt j.toNat bank.toNat = some c → c < s.tickEnd j.toNat →
    exec (.bankOpenCycleAccess j bank) s = .next ((s.serveHead j.toNat bank.toNat c).kick r.island.toNat c) ∧
    (s.cycling j.toNat = false → let t := s.serveHead j.toNat bank.toNat c
      smGet [] (t.getIsl j.toNat).bankQ bank.toNat = rest ∧
      (r.writes = [] → (t.getIsl j.toNat).sp = (s.getIsl j.toNat).sp ∧
        ((s.getIsl j.toNat).spUe r.off r.len = false →
          ((t.getIsl r.island.toNat).getChan r.ch.toNat).pieces =
            (((s.getIsl r.island.toNat).getChan r.ch.toNat).landed (r.pieces.headD 0) ((s.getIsl j.toNat).spRead r.off r.len)).pieces)) ∧
      (∀ off bs, r.writes = [(off, bs)] → (t.getIsl j.toNat).sp = memWrite (s.getIsl j.toNat).sp off bs) ∧
      (t.getIsl j.toNat).x = (s.getIsl j.toNat).x ∧ t.mem.hbm = s.mem.hbm)) ∧
  (∀ (s : State) (i : BitVec 8), stBound ≤ s.islSt i.toNat → s.frameHeld = false →
    let c := max (s.getIsl i.toNat).portAt (s.reached i.toNat)
    c < s.tickEnd i.toNat → exec (.memoryPortAccept i) s = .next ((s.portCycle i.toNat c).kick i.toNat c)) ∧
  (∀ (s : State) (i ch c slot : Nat) (p : Piece) (a : Nat), let q := s.openRun i ch
    let g := (hbmMap q.mem.mode a).1
    q.portOffer i ch = some (.read p a) → q.offerRefused i (.read p a) = none → slotCount q.mem.mode i g ≠ 0 →
    q.recent i g (q.unitsOf c) < slotCount q.mem.mode i g → q.slotFor i g (q.unitsOf c) = some slot →
    (s.portTake i ch c).2 = true ∧
      (((s.portTake i ch c).1).getIsl i).inFlight = (q.getIsl i).inFlight ++
        [⟨BitVec.ofNat 8 i, BitVec.ofNat 2 ch, p.id, true, a, p.len, [], slot, q.unitsOf c + 84 * tickUnits, false, false, false⟩] ∧
      q.useOf g slot = some (.island i) ∧ q.unitsOf c + tickUnits ≤ slot * slotUnits) ∧
  (∀ (s : State) (i : BitVec 8) (r : HbmReq) (rest : List HbmReq),
    takeFirst (fun r : HbmReq => r.served && decide (r.due < tickUnits * (s.clk.now + 1))) (s.getIsl i.toNat).inFlight = some (r, rest) →
    exec (.hbmIslandAccessComplete i) s =
      .next (((s.modIsl i.toNat fun v => { v with inFlight := rest }).hbmDone r).kick i.toNat (s.cycleAt r.due))) ∧
  (∀ (s : State) (g : Byte) (r : HbmReq) (rest : List HbmReq), smGet [] s.mem.sharedQ g.toNat = r :: rest →
    s.frameHeld = false → s.sharedSlot g.toNat < 50 * s.clk.now + 50 →
    exec (.hbmSharedAccess g) s = .next (s.serveShared g.toNat (s.sharedSlot g.toNat))) ∧
  (∀ (s : State) (i : BitVec 8) (ch : BitVec 2) (c off : Nat) (h : CqHeader),
    let v := s.getIsl i.toNat
    let x := v.getChan ch.toNat
    let hd := x.desc_.cqOff
    let w := 32 * (h.pi.toNat % 2 ^ h.log2)
    x.recOut = none → x.refused = [] → x.st = 4 → s.completeAt i.toNat ch.toNat = some c → c < s.tickEnd i.toNat →
    hd % 32 = 0 → v.spUe hd 32 = false → s.cqHeader i.toNat (v.spRead hd 32) = some (h, .sp i.toNat off) →
    (h.pi - h.ci).toNat ≠ 2 ^ h.log2 → s.cycling i.toNat = false →
    ∃ t k, exec (.dmaCompletion i ch) s = .next t ∧ let u := t.getIsl i.toNat
      (u.getChan ch.toNat).st = 0 ∧ (u.getChan ch.toNat).dcopy = 0 ∧
      u.sp = memWrite (memWrite v.sp (off + w) (dmaRecord (x.err.extractLsb' 0 16) (x.err.extractLsb' 16 16) ch x.sem x.desc
        x.elements k)) (hd + 12) (leBytes 4 (h.pi + 1).toNat) ∧
      (v.getSem x.sem ≠ 0xFFFF → u.getSem x.sem = v.getSem x.sem + 1) ∧ u.x = v.x ∧ t.mem.hbm = s.mem.hbm)

/-- Patrol scrub and refresh (08 R171, R177, R178, R180). -/
def Obligations.ScrubAndRefreshServeTheirSlots : Prop :=
  (∀ (s : State) (g slot : Nat), s.scrubSlot g = some slot → s.useOf g slot = some .scrub ∧ slot / 50 = s.clk.now) ∧
  (∀ (s : State) (g : Byte) (slot : Nat), s.scrubSlot g.toNat = some slot → s.dueSlots slot = [] →
    smGet none s.mem.rewrite g.toNat = none →
    let n := smGet 0 s.mem.walk g.toNat
    let line := hbmUnmap s.mem.mode g.toNat (64 * n)
    ∃ t, exec (.patrolScrub g) s = .next t ∧ smGet 0 t.mem.walk g.toNat = (if n + 1 = channelLines then 0 else n + 1) ∧
      smGet none t.mem.rewrite g.toNat = (match s.mem.errOf line with
        | some (.symbol _) => some line
        | _ => none) ∧ smGet 0 t.mem.scrubAt g.toNat = slot + 1 ∧ t.mem.hbm = s.mem.hbm ∧ t.isl = s.isl ∧ t.part = s.part) ∧
  (∀ (s : State) (g : Byte) (slot line : Nat), s.scrubSlot g.toNat = some slot → s.dueSlots slot = [] →
    smGet none s.mem.rewrite g.toNat = some line →
    exec (.scrubRewrite g) s = .next (s.modMem fun m => { m with
      rewrite := smSet m.rewrite g.toNat none, scrubAt := smSet m.scrubAt g.toNat (slot + 1),
      lineErr := smSet m.lineErr line (match smGet none m.lineErr line with
        | some (.symbol _) => none
        | e => e) })) ∧
  (∀ (s : State) (g : Byte), s.scrubSlot g.toNat = none →
    exec (.patrolScrub g) s = .next s ∧ exec (.scrubRewrite g) s = .next s) ∧
  (∀ (s : State) (g : Nat), s.frameRuns = false → s.scrubSlot g = none) ∧
  ∀ (s : State) (g : Byte), exec (.refreshSlot g) s = .next s

/-- HBM holds what was written (08 R187): a read after a write to the same place gives the bytes written, and the
write leaves every other byte alone; an unlisted byte reads 0. -/
def Obligations.HbmReadsWhatWasWritten : Prop :=
  ∀ (s : State) (a : Nat) (bs : List Byte),
    (∀ (k : Nat) (h : k < bs.length), memByte (s.hbmWriteLine a bs).1.mem.hbm (a + k) = bs[k]) ∧
    (∀ x, x < a ∨ a + bs.length ≤ x → memByte (s.hbmWriteLine a bs).1.mem.hbm x = memByte s.mem.hbm x) ∧
    (Memory.wf s.mem.hbm = true → Memory.wf (s.hbmWriteLine a bs).1.mem.hbm = true) ∧
    (s.hbmWriteLine a bs).1.isl = s.isl ∧ (s.hbmWriteLine a bs).1.part = s.part ∧ (s.hbmWriteLine a bs).1.fab = s.fab

/-- The tracker (09 R208, 11 R241 to R246, R257). A timer acts once its last tick is over, as the arrivals of that
tick come first (09 R208). -/
def Obligations.TrackerEntriesResendAndResolve : Prop :=
  (∀ (s : State) (e : EntryId) (x : TrkEntry), s.trk.get e = some x → x.expiry < s.clk.now → x.nack = none →
    exec (.trackerResendTimeout e) s = .next (
      if x.series = 1 then
        if x.tries < 8 ∧ s.clean s.curEpoch x.pkt.mid.toNat x.pkt.dst.toNat = true then s.resend e x 1 (x.tries + 1) x.pkt.mid.toNat
        else s.resend e x 2 1 (s.midFor x.pkt.dst.toNat x.pkt.seq 2 e.draw)
      else if x.tries < 8 then s.resend e x 2 (x.tries + 1) x.pkt.mid.toNat
      else (s.endEntry e x (.error sTimeout (x.pkt.dst.zeroExtend 16))).unreachable x.pkt.dst)) ∧
  (∀ (s : State) (n : Byte) (m : McastEntry), smGet none s.trk.mcast n.toNat = some m → m.expiry < s.clk.now →
    exec (.trackerResendTimeout (.mcast n)) s = .next (s.mcastTimeout n.toNat m)) ∧
  (∀ (s : State) (e : EntryId) (x : TrkEntry), s.trk.get e = some x → s.clk.now ≤ x.expiry →
    exec (.trackerResendTimeout e) s = .next s) ∧
  (∀ (s : State) (p : Pkt) (x : TrkEntry), p.crc = p.check → s.entryOf p = some x →
    exec (.ackReceived p) s = .next (s.endEntry p.entryId x (.ok [])) ∧
    exec (.readRespReceived p) s = .next (s.endEntry p.entryId x (.ok p.payload)) ∧
    (x.nack = none → exec (.nackReceived p) s =
      .next (s.modTrk fun t => t.put p.entryId (some { x with nack := some (p.aux, p.arg.extractLsb' 0 16) })))) ∧
  (∀ (s : State) (k : Nat) (x : TrkEntry) (st d : Half), k < 32768 → s.trk.entries = [(k, some x)] → s.trk.control = [] →
    s.trk.mcast = [] → x.nack = some (st, d) →
    s.settleEntries = s.endEntry (.island (BitVec.ofNat 8 (k / 128)) (BitVec.ofNat 7 k)) x (.error st d)) ∧
  (∀ (s : State) (e : EntryId) (x : TrkEntry) (r : TrkEnd), (s.endEntry e x r).trk.get e = none) ∧
  (∀ (s : State) (p : Pkt) (n : Nat) (m : McastEntry), p.crc = p.check → s.entryOf p = none → s.mcastOf p = some (n, m) →
    m.members.contains p.src = true → exec (.ackReceived p) s = .next (s.mcastMark n m p.src .delivered)) ∧
  (∀ (s : State) (p : Pkt), p.crc = p.check → s.entryOf p = none → s.mcastOf p = none →
    ∀ i ∈ [Instr.ackReceived p, .nackReceived p, .readRespReceived p],
      exec i s = .next (s.modTrk fun t => { t with late := bump t.late })) ∧
  (∀ (s : State) (p : Pkt) (x : TrkEntry), p.crc = p.check →
    let u := s.modFab fun f => { f with avoid := avoidLink f.avoid (p.arg.extractLsb' 0 12) (p.arg.extractLsb' 12 5) }
    s.entryOf p = some x → x.nack = none → exec (.detourReceived p) s = .next (
      if x.series = 1 then u.resend p.entryId x 2 1 (u.midFor x.pkt.dst.toNat x.pkt.seq 2 p.entryId.draw)
      else (u.endEntry p.entryId x (.error sTimeout (x.pkt.dst.zeroExtend 16))).unreachable x.pkt.dst))

/-- A packet that fails its check at the destination is dropped without a response and counted (11 R238). -/
def Obligations.PacketsWithABadCrcAreDroppedAndCounted : Prop :=
  ∀ (s : State) (p : Pkt), p.crc ≠ p.check → ∀ i ∈ [Instr.writeReceived p, .readReqReceived p, .notifyReceived p, .ackReceived p,
    .nackReceived p, .readRespReceived p, .detourReceived p, .circuitLostReceived p, .arriveReceived p, .releaseReceived p, .paceReceived p],
    exec i s = .next (s.modFab fun f => { f with crcBad := bump f.crcBad })

/-- What a destination does with requests (09 R206, R207, 11 R245, R256, R257). That a packet to HBM waits while
the frame is suspended is the model's choice (log 62). -/
def Obligations.DestinationsAnswerRequests : Prop :=
  (∀ (s : State) (p : Pkt) (k : SeqState), p.crc = p.check → p.payload ≠ [] → s.frameHeld = false →
    judgeSeq (smGet none s.trk.sources (8 * p.src.toNat + p.srcAtt.toNat)) p.session p.seq = (.accept, k) →
    let u := s.modTrk fun t => { t with sources := smSet t.sources (8 * p.src.toNat + p.srcAtt.toNat) (some k) }
    (∀ j off, s.remoteRegion p.partition.toNat p.addr.toNat p.payload.length = .ok (.sp j off) →
      exec (.writeReceived p) s = .next (((u.bankTouch j off p.payload.length).modIsl j fun v => v.spWrite off p.payload).ack p)) ∧
    (∀ a, s.remoteRegion p.partition.toNat p.addr.toNat p.payload.length = .ok (.hbm a) →
      let x := (u.countLines p.partition.toNat (linesOf a p.payload.length).length).storeShared a p.payload
      exec (.writeReceived p) s = .next (if x.2 then x.1.nack p sMemoryError 16 else x.1.ack p)) ∧
    (∀ st, s.remoteRegion p.partition.toNat p.addr.toNat p.payload.length = .error st →
      exec (.writeReceived p) s = .next (s.nack p st 16)) ∧
    (∀ j off, s.remoteRegion p.partition.toNat p.addr.toNat 1 = .ok (.sp j off) →
      exec (.notifyReceived p) s = .next ((u.semInc j p.rsem).ack p))) ∧
  (∀ (s : State) (p : Pkt) (k : SeqState), p.crc = p.check → s.frameHeld = false →
    judgeSeq (smGet none s.trk.sources (8 * p.src.toNat + p.srcAtt.toNat)) p.session p.seq = (.duplicate, k) →
    ∀ i ∈ [Instr.writeReceived p, .notifyReceived p],
      exec i s = .next ((s.modTrk fun t => { t with dups := bump t.dups }).ack p)) ∧
  (∀ (s : State) (p : Pkt), let n := (p.arg.extractLsb' 0 13).toNat
    p.crc = p.check → s.frameHeld = false →
    (n = 0 ∨ 4096 < n → exec (.readReqReceived p) s = .next (s.nack p sBadParam 8)) ∧
    (n ≠ 0 → n ≤ 4096 →
      (∀ st, s.remoteRegion p.partition.toNat p.addr.toNat n = .error st → exec (.readReqReceived p) s = .next (s.nack p st 8)) ∧
      (∀ a, s.remoteRegion p.partition.toNat p.addr.toNat n = .ok (.hbm a) →
        let x := (s.countLines p.partition.toNat (linesOf a n).length).sharedRead a n
        exec (.readReqReceived p) s =
          .next (if x.2.1 then x.2.2.nack p sMemoryError 8 else x.2.2.respond p tReadResp 0 0 x.1)) ∧
      (∀ j off, s.remoteRegion p.partition.toNat p.addr.toNat n = .ok (.sp j off) → (s.getIsl j).spUe off n = false →
        exec (.readReqReceived p) s =
          .next (((s.bankTouch j off n).noteSp j off n).respond p tReadResp 0 0 ((s.getIsl j).spRead off n))))) ∧
  (∀ (s : State) (port : BitVec 5) (p : Pkt), s.frameHeld = false → s.retired p.epoch = false →
    (s.tab p.epoch).fenced p.src.toNat = false →
    (p.dst = s.fab.node ∧ p.src ≠ s.fab.node → exec (.mcastWriteReceived port p) s = .next (s.mcastDeliver p)) ∧
    (¬ (p.dst = s.fab.node ∧ p.src ≠ s.fab.node) → let e := (s.tab p.epoch).mcastOf p.aux.toNat
      let u := (s.taken port.toNat p).mcastForward (some port.toNat) p
      (e.getLsbD 63 = false → exec (.mcastWriteReceived port p) s = .next (s.taken port.toNat p)) ∧
      (e.getLsbD 63 = true → e.getLsbD 62 = false → exec (.mcastWriteReceived port p) s = .next u) ∧
      (e.getLsbD 63 = true → e.getLsbD 62 = true → exec (.mcastWriteReceived port p) s = .next (u.mcastDeliver p)))) ∧
  (∀ (s : State) (p : Pkt) (a : Nat), p.crc = p.check → s.frameHeld = true →
    (regionOf p.addr.toNat p.payload.length = .hbm a → exec (.writeReceived p) s = .next s) ∧
    (regionOf p.addr.toNat (p.arg.extractLsb' 0 13).toNat = .hbm a → exec (.readReqReceived p) s = .next s))

/-- The switch and its transmit queues, and fault injection (10 R216, R229 to R231, 11 R237 to R240, R248, R250).
That packets leave while the lanes have room in the tick is the model's (log 90). -/
def Obligations.SwitchesQueueSendAndExpirePackets : Prop :=
  (∀ (s : State) (port : BitVec 5) (discard : Bool) (p : Pkt), let u := s.modPort port.toNat fun x =>
      { x with pktRx := smSet x.pktRx p.vc (smGet 0 x.pktRx p.vc + 1),
               freedBlk := smSet x.freedBlk p.vc (smGet 0 x.freedBlk p.vc + BitVec.ofNat 10 p.blocks) }
    (p.reserved = true → exec (.packetForward port discard p) s = .next (u.modFab fun f => { f with badHdr := bump f.badHdr })) ∧
    (p.reserved = false → s.retired p.epoch = true →
      exec (.packetForward port discard p) s = .next (u.modFab fun f => { f with stale := bump f.stale })) ∧
    (p.reserved = false → s.retired p.epoch = false →
      ((s.tab p.epoch).fenced p.src.toNat = true → exec (.packetForward port discard p) s = .next u) ∧
      ((s.tab p.epoch).fenced p.src.toNat = false →
        (∀ q, u.routePkt p = .here q → exec (.packetForward port discard p) s = .next (if discard then
          u.modPort port.toNat fun x => { x with voidIn := bump x.voidIn } else { u with sent := u.sent ++ [.local_ q] })) ∧
        (∀ o q, u.routePkt p = .out o q → exec (.packetForward port discard p) s = .next (u.enqueue o q discard)) ∧
        ((∀ q, u.routePkt p ≠ .here q) → exec (.packetForward port discard p) s = .next (u.switch p discard 4))))) ∧
  (∀ (s : State) (port : BitVec 5) (vc : BitVec 3) (q : Queued) (rest : List Queued), let x := s.getPort port.toNat
    smGet [] x.txq vc.toNat = q :: rest → x.up = true →
    (vc = 6 ∨ (smGet 0 x.sentBlk vc.toNat - smGet 0 x.credits vc.toNat).toNat + q.pkt.blocks ≤ 512) →
    x.outBlks.length < 15 * (40 / flitNs x.width) →
    exec (.packetAtQueueHead port vc) s = .next ((s.setQueue port.toNat vc.toNat rest).depart port.toNat vc.toNat q) ∧
    (x.getFi vc.toNat = FiSet.reset → (rest.all fun y => y.seen) = true →
      ∃ t, exec (.packetAtQueueHead port vc) s = .next t ∧ t.sent = s.sent ++ [.packet port vc q.pkt q.discard] ∧
        smGet [] (t.getPort port.toNat).txq vc.toNat = rest ∧ (t.getPort port.toNat).outBlks = x.outBlks ++ q.lay ∧
        smGet 0 (t.getPort port.toNat).sentBlk vc.toNat = smGet 0 x.sentBlk vc.toNat + BitVec.ofNat 10 q.pkt.blocks ∧
        t.mem = s.mem ∧ t.isl = s.isl ∧ t.fab = s.fab ∧ t.trk = s.trk)) ∧
  (∀ (s : State) (port : BitVec 5) (vc : BitVec 3), let l := smGet [] (s.getPort port.toNat).txq vc.toNat
    (∀ q rest, takeFirst (fun q : Queued => decide (q.since + 500 ≤ s.clk.now)) l = some (q, rest) →
      exec (.packetQueueExpiry port vc) s =
        .next ((s.setQueue port.toNat vc.toNat rest).modFab fun f => { f with expired := bump f.expired })) ∧
    (takeFirst (fun q : Queued => decide (q.since + 500 ≤ s.clk.now)) l = none →
      exec (.packetQueueExpiry port vc) s = .next (if vc = 6 then s.expireCircuit port.toNat else s))) ∧
  (∀ (s : State) (port : BitVec 5) (vc : BitVec 3), let f := (s.getPort port.toNat).getFi vc.toNat
    let old (h : HeldPkt) : Bool := decide (h.since + ceilDiv (256 * flitNs (s.getPort port.toNat).width) 40 ≤ s.clk.now)
    f.held ≠ [] → exec (.reorderHoldExpiry port vc) s =
      .next ((s.modFi port.toNat vc.toNat fun f => { f with held := f.held.filter fun h => !old h }).setQueue port.toNat vc.toNat
        ((f.held.filter old).map (·.q) ++ smGet [] (s.getPort port.toNat).txq vc.toNat))) ∧
  (∀ (s : State),
    let u : State := { s with port := s.port.map fun (p : Nat × Port) => (p.1, { p.2 with fi := p.2.fi.map fun f => (f.1, f.2.fire s.clk.now) }) }
    let v := u.port.foldl (fun s p => p.2.fi.foldl (fun s f => if f.2.sel = 0 then s.releaseHeld p.1 f.1 fun _ => true else s) s) u
    exec .fiSchedulerFire s = .next (if v.fiIdle then v.dropClaims featFi else v)) ∧
  (∀ (f : FiSet) (now t : Nat), t ≤ now →
    (f.startAt = some t → f.stopAt = none → f.fire now = { f with startAt := none, n := 0 }) ∧
    (f.stopAt = some t → f.fire now = { f with stopAt := none, startAt := none, n := (f.fire now).n, ctrl := f.ctrl &&& ~~~3 }))

/-- Circuits at a switch (11 R248 to R254). The send clauses take an injection set of VC 6 at rest, or a packet
already judged. -/
def Obligations.CircuitsCarryPositions : Prop :=
  (∀ (s : State) (port : BitVec 5) (d : CircuitData), let e := (s.tab d.epoch).cinOf port.toNat d.pos.toNat
    let ps := d.parts.filter fun c => !(s.tab d.epoch).fenced c.pkt.src.toNat
    let u := s.modPort port.toNat fun x =>
      { x with pktRx := smSet x.pktRx 6 (smGet 0 x.pktRx 6 + BitVec.ofNat 32 (ps.filter partEnds).length) }
    let out := (e.extractLsb' 9 5).toNat
    let pos := (e.extractLsb' 1 8).toNat
    let past (c : CircPart) : Bool := decide (10 ≤ c.pkt.hops.toNat)
    let on := (ps.filter fun c => !past c).map fun c => { c with pkt := { c.pkt with hops := c.pkt.hops + 1 } }
    ((s.getPort port.toNat).up = false → exec (.circuitPositionReceive port d) s = .next s) ∧
    ((s.getPort port.toNat).up = true → s.retired d.epoch = true →
      exec (.circuitPositionReceive port d) s = .next (s.modFab fun f => { f with stale := bump f.stale })) ∧
    ((s.getPort port.toNat).up = true → s.retired d.epoch = false →
      (e.getLsbD 15 = false → exec (.circuitPositionReceive port d) s = .next (u.modFab fun f => { f with circDrop := bump f.circDrop })) ∧
      (e.getLsbD 15 = true → e.getLsbD 14 = true → (∀ c ∈ ps, c.first = 0 ∧ partEnds c = true ∧ c.pkt.dstAtt = 0) →
        ∃ t, exec (.circuitPositionReceive port d) s = .next t ∧ t.sent = s.sent ++ ps.map (fun c => .local_ c.pkt) ∧
          t.mem = s.mem ∧ t.isl = s.isl ∧ t.fab = s.fab) ∧
      (e.getLsbD 15 = true → e.getLsbD 14 = false → (s.getPort out).up = true →
        ∃ t, exec (.circuitPositionReceive port d) s = .next t ∧
          smGet [] (t.getPort out).circOut pos = smGet [] (s.getPort out).circOut pos ++ [⟨d.epoch, on, s.clk.now⟩] ∧
          t.fab = { s.fab with expired := (ps.filter past).foldl (fun n _ => bump n) s.fab.expired } ∧
          t.mem = s.mem ∧ t.isl = s.isl ∧ t.sent = s.sent) ∧
      (e.getLsbD 15 = true → e.getLsbD 14 = false → (s.getPort out).up = false → (ps.filter past) = [] →
        exec (.circuitPositionReceive port d) s =
          .next (on.foldl (fun s c => s.circuitLost out c.pkt) (u.modFab fun f => { f with circDrop := bump f.circDrop }))))) ∧
  (∀ (s : State) (port : Nat) (p : Pkt), let key := p.src.toNat * 256 + p.aux.toNat
    (s.fab.lostSent.contains key = true → s.circuitLost port p = s) ∧
    (s.fab.lostSent.contains key = false → p.src = s.fab.node →
      s.circuitLost port p = s.modFab fun f => { f with lostSent := key :: f.lostSent, fallback := f.fallback.insert p.aux.toNat })) ∧
  (∀ (s : State) (p : Pkt), p.crc = p.check → p.aux.toNat < 256 →
    exec (.circuitLostReceived p) s = .next (s.modFab fun f => { f with fallback := f.fallback.insert p.aux.toNat })) ∧
  (∀ (s : State) (pos : Byte) (t : Nat), s.slotTime pos = some t →
    t % 4096 = 16 * pos.toNat ∧ s.fab.time.toNat ≤ t ∧ t < s.fab.time.toNat + 40) ∧
  (∀ (s : State) (port : BitVec 5) (pos : Byte), s.slotTime pos = none → exec (.circuitPositionSend port pos) s = .next s) ∧
  (∀ (s : State) (port : BitVec 5) (pos : Byte) (at_ : Nat), let x := s.getPort port.toNat
    let sent (t : State) (e : BitVec 1) (ps : List CircPart) : Prop :=
      (∃ fl, t.sent = s.sent ++ fl ++ [.circuit port ⟨pos, e, ps⟩] ∧ fl.length = 16 / flitNs x.width) ∧
        smGet 0 (t.getPort port.toNat).circAt pos.toNat = at_ / 4096 + 1 ∧ t.mem = s.mem ∧ t.isl = s.isl
    s.slotTime pos = some at_ →
    (smGet 0 x.circAt pos.toNat = at_ / 4096 + 1 → exec (.circuitPositionSend port pos) s = .next s) ∧
    (smGet 0 x.circAt pos.toNat ≠ at_ / 4096 + 1 →
      (∀ y rest, smGet [] x.circOut pos.toNat = y :: rest → s.retired y.epoch = false → y.parts ≠ [] → x.up = true → (x.getFi 6).on = false →
        ∃ t, exec (.circuitPositionSend port pos) s = .next t ∧ sent t y.epoch y.parts ∧
          smGet [] (t.getPort port.toNat).circOut pos.toNat = rest) ∧
      (smGet [] x.circOut pos.toNat = [] → (s.tab (s.epochAt at_)).circuitAt port.toNat pos.toNat = none →
        ∃ t, exec (.circuitPositionSend port pos) s = .next t ∧ t.sent = s.sent ∧ t.fab = s.fab ∧
          smGet 0 (t.getPort port.toNat).circAt pos.toNat = at_ / 4096 + 1) ∧
      (∀ k q rest, smGet [] x.circOut pos.toNat = [] → (s.tab (s.epochAt at_)).circuitAt port.toNat pos.toNat = some k →
        smGet [] s.fab.circQ k = q :: rest → q.seen = true → x.up = true →
        let done := smGet 0 s.fab.circPart k
        (rest = [] → q.pkt.blocks - done ≤ circBlocks x.width →
          ∃ t, exec (.circuitPositionSend port pos) s = .next t ∧
            sent t (s.epochAt at_) [⟨q.sent, done, q.pkt.blocks - done⟩] ∧ smGet [] t.fab.circQ k = [] ∧ smGet 0 t.fab.circPart k = 0) ∧
        (circBlocks x.width < q.pkt.blocks - done →
          ∃ t, exec (.circuitPositionSend port pos) s = .next t ∧
            sent t (s.epochAt at_) [⟨q.sent, done, circBlocks x.width⟩] ∧ smGet [] t.fab.circQ k = q :: rest ∧
            smGet 0 t.fab.circPart k = done + circBlocks x.width))))

/-- The epoch flip (11 R249, R254). What happens to packets that wait for a circuit is the model's (log 41). -/
def Obligations.TheEpochFlipsAtItsTime : Prop :=
  (∀ (s : State), s.fab.flipAt = none → exec .epochFlip s = .next s) ∧
  (∀ (s : State) (t : Dword), s.fab.flipAt = some t → s.fab.time.toNat + 40 ≤ t.toNat → exec .epochFlip s = .next s) ∧
  (∀ (s : State) (t : Dword), s.fab.flipAt = some t → t.toNat < s.fab.time.toNat + 40 →
    exec .epochFlip s = .next ((s.cmds.long.filter fun c => c.opcode = opFlipArm).foldl
      (fun s c => s.complete c sOk 0 (Word.lo t) (Word.hi t) 0)
      ((s.modFab fun f =>
        { (setVer (setVer f f.epoch .retiring) (!f.epoch) .active).recircuit (if f.epoch then f.tab0 else f.tab1) with
          epoch := !f.epoch, armed := none, flipAt := none, flips := bump f.flips,
          retire := s.now + 10000, avoid := [], fallback := [], lostSent := [] }).modTrk fun x => { x with told := [] }))) ∧
  (∀ (s : State), let v := if s.fab.epoch then s.fab.ver0 else s.fab.ver1
    (v = .retiring → s.fab.retire ≤ s.now → exec .epochRetire s = .next (s.modFab fun f => setVer f (!s.fab.epoch) .writable)) ∧
    (v ≠ .retiring ∨ s.now < s.fab.retire → exec .epochRetire s = .next s))

/-- What a BARRIER packet does on the module it reaches (12 R271, R273, R275, R282). -/
def Obligations.BarrierPacketsReachTheirGroup : Prop :=
  ∀ (s : State) (p : Pkt) (k : SeqState), p.crc = p.check →
    judgeSeq (smGet none s.trk.sources (8 * p.src.toNat + p.srcAtt.toNat)) p.session p.seq = (.accept, k) →
    let u := (s.modTrk fun t => { t with sources := smSet t.sources (8 * p.src.toNat + p.srcAtt.toNat) (some k) }).ack p
    let m := BarMsg.parse p.payload
    let b := u.getBar m.group
    let ignored := u.modBar m.group fun b => { b with ignored := satAdd 16 b.ignored 1 }
    (m.kind = 1 → b.valid = true → b.coord = s.fab.node → b.members.contains p.src = true →
      exec (.arriveReceived p) s = .next (u.applyArrival m.group m.n { m.who with node := p.src })) ∧
    (m.kind = 1 → b.valid = false ∨ b.coord ≠ s.fab.node ∨ b.members.contains p.src = false →
      exec (.arriveReceived p) s = .next ignored) ∧
    (m.kind = 2 → b.valid = true → b.coord = p.src → m.n = b.next → b.fixed = false →
      exec (.releaseReceived p) s = .next (u.recordRelease m.group m.n m.time m.who m.apply m.level)) ∧
    (m.kind = 2 → b.valid = false ∨ b.coord ≠ p.src → exec (.releaseReceived p) s = .next ignored) ∧
    (m.kind = 2 → b.valid = true → b.coord = p.src → m.n ≠ b.next ∨ b.fixed = true → exec (.releaseReceived p) s = .next u) ∧
    (m.kind = 3 → b.valid = true →
      exec (.paceReceived p) s = .next (u.modBar m.group fun b => { b with paces := satAdd 16 b.paces 1 })) ∧
    (m.kind = 3 → b.valid = false → exec (.paceReceived p) s = .next ignored) ∧
    (m.kind ≠ 1 → exec (.arriveReceived p) s = .next u) ∧ (m.kind ≠ 2 → exec (.releaseReceived p) s = .next u) ∧
    (m.kind ≠ 3 → exec (.paceReceived p) s = .next u)

/-- When a release is fixed, and at which T (12 R273). -/
def Obligations.TheLastArrivalFixesTheRelease : Prop :=
  (∀ (s : State) (g : Nat) (n : Word) (a : Arrival), let b := s.getBar g
    b.valid = true → b.coord = s.fab.node → b.fixed = false → n = b.next → b.arrivals.any (·.node = a.node) = true →
    b.members.all (fun m => b.arrivals.any (·.node = m)) = false → s.applyArrival g n a = s.setBar g b) ∧
  (∀ (s : State) (g : Nat) (n : Word) (a : Arrival), let b := s.getBar g
    b.fixed = false → n = b.next → b.arrivals.any (·.node = a.node) = false →
    b.members.all (fun m => (b.arrivals ++ [a]).any (·.node = m)) = false →
    s.applyArrival g n a = s.setBar g { b with arrivals := b.arrivals ++ [a] }) ∧
  (∀ (s : State) (g : Nat) (n : Word) (a : Arrival), let b := s.getBar g
    b.valid = true → b.coord = s.fab.node → b.fixed = false → n = b.next → b.arrivals.any (·.node = a.node) = false →
    b.members ≠ [] → b.members.all (fun m => (b.arrivals ++ [a]).any (·.node = m)) = true →
    let c := (s.applyArrival g n a).getBar g
    c.fixed = true ∧ c.t = s.fab.time + BitVec.ofNat 64 (b.lead.toNat * 40) ∧ c.releases = b.releases ∧ c.next = b.next) ∧
  (∀ (s : State) (g : Nat) (n : Word) (a : Arrival), let b := s.getBar g
    b.fixed = true → n = b.next + 1 → b.early.any (·.node = a.node) = false →
    s.applyArrival g n a = s.setBar g { b with early := b.early ++ [a] })

/-- The tide ramp: every island acts at its own cycle E + d_i (07 R157, R164 to R166, 05 R122, 16 R358). -/
def Obligations.AReleaseStartsIslandsAtTheirRampCycles : Prop :=
  (∀ (s : State) (g : Byte) (i : BitVec 8) (pd : Pending) (e : Nat), (s.getBar g.toNat).pending = some pd → pd.edge = some e →
    pd.waiting.contains i.toNat = false ∨ s.clk.frame + s.tickCycles ≤ e + rampCycles pd.ramp.toNat i.toNat →
    exec (.islandRelease g i) s = .next s) ∧
  (∀ (s : State) (g : Byte) (i : BitVec 8) (pd : Pending) (e : Nat), let b := s.getBar g.toNat
    let p := b.owner.toNat
    let rest := pd.waiting.filter (· ≠ i.toNat)
    b.pending = some pd → pd.edge = some e → pd.waiting.contains i.toNat = true →
    e + rampCycles pd.ramp.toNat i.toNat < s.clk.frame + s.tickCycles →
    let u := s.setBar g.toNat { b with pending := if rest.isEmpty then none else some { pd with waiting := rest } }
    let c := if pd.cut = true ∧ s.snap.cut.any (fun c => c.part.toNat = p) = true then u.latch p i.toNat (s.getPart p).releases else u
    (pd.pause = false →
      (s.islSt i.toNat ≠ stRunning → exec (.islandRelease g i) s = .next u) ∧
      (∀ w, s.islSt i.toNat = stRunning → pd.start = true → (c.getIsl i.toNat).waiting = some w →
        exec (.islandRelease g i) s = .next (c.semInc i.toNat w.sem)) ∧
      (s.islSt i.toNat = stRunning → pd.start = true → (c.getIsl i.toNat).waiting = none →
        exec (.islandRelease g i) s = .next (c.setIsl i.toNat { c.getIsl i.toNat with starting := false })) ∧
      (∀ x, s.islSt i.toNat = stRunning → pd.start = false → (c.getIsl i.toNat).barSem.find? (·.1 = g.toNat) = some x →
        exec (.islandRelease g i) s = .next (c.semInc i.toNat x.2))) ∧
    (pd.pause = true → (c.getPart p).pipe = .pauseArmed → s.islSt i.toNat = stRunning →
      let w := c.setIsl i.toNat { (c.getIsl i.toNat).pauseAll with st := stPaused }
      (rest ≠ [] → exec (.islandRelease g i) s = .next w) ∧
      (rest = [] → exec (.islandRelease g i) s = .next ((w.cmds.long.filter fun c => c.part.toNat = p && c.opcode = opPause).foldl
        (fun s x => s.complete x sOk 0 (c.getPart p).releases 0 0)
        (w.setPart p { c.getPart p with pipe := .paused, pauseAt := none }))))) ∧
  (∀ (s : State) (g : Byte) (pd : Pending), (s.getBar g.toNat).pending = some pd →
    pd.edge.isSome = true ∨ s.clk.frame + s.tickCycles ≤ s.edgeCycle pd.local_ → exec (.releaseEdge g) s = .next s) ∧
  (∀ (s : State) (g : Byte) (i : BitVec 8), (s.getBar g.toNat).pending = none →
    exec (.releaseEdge g) s = .next s ∧ exec (.islandRelease g i) s = .next s)

/-- What E does on a module (07 R164 to R166, 12 R274). -/
def Obligations.TheReleaseEdgeAdvancesTheGroup : Prop :=
  ∀ (s : State) (g : Byte) (pd : Pending), let b := s.getBar g.toNat
    let p := b.owner.toNat
    let q := s.getPart p
    let level := (if s.groupUsed g.toNat then s.levelPoint (if pd.apply then pd.level.toNat else 0) else s).pwr.level
    b.pending = some pd → pd.edge = none → s.edgeCycle pd.local_ < s.clk.frame + s.tickCycles →
    ∃ t, exec (.releaseEdge g) s = .next t ∧
      (t.getBar g.toNat).next = b.next + 1 ∧ (t.getBar g.toNat).releases = b.releases + 1 ∧
      (t.getBar g.toNat).arrivals = b.early ∧ (t.getBar g.toNat).early = [] ∧ (t.getBar g.toNat).ownTime = none ∧
      (t.getBar g.toNat).fixed = false ∧
      (pd.start = true → q.starting = true → (t.getPart p).pipe = .running ∧ (t.getPart p).starting = false ∧
        (∀ x ∈ q.stages, (t.getIsl x.island.toNat).st = stRunning) ∧
        (q.stages ≠ [] → (t.getBar g.toNat).pending = some { pd with
          edge := some (s.edgeCycle pd.local_), ramp := level, waiting := q.stages.map (·.island.toNat) })) ∧
      (pd.start = false → q.pipe = .running ∨ q.pipe = .pauseArmed ∨ q.pipe = .faulted → q.uses g.toNat = true → q.stepGroup = g →
        (t.getPart p).releases = q.releases + 1)

/-- Training (10 R222, R223, R225, R226). -/
def Obligations.PortsTrainInSteps : Prop :=
  ∀ (s : State) (k : BitVec 5), let p := s.getPort k.toNat
    (∀ info, p.st = .training →
      let failed := p.failed ||| ~~~info.lanes
      let set := p.allowed (chooseLanes failed)
      let q : Port :=
        if p.trainStep = 1 then { p with trainStep := 2, since := s.clk.now }
        else if p.trainStep = 2 then { p with trainStep := if p.cold then 3 else 4, since := s.clk.now }
        else if p.trainStep = 3 then { p with trainStep := 4, trained := true, since := s.clk.now }
        else if p.trainStep = 4 then
          if p.cold = false ∧ failed ≠ p.failed then { p with trainStep := 3, cold := true, since := s.clk.now }
          else if set = 0 then p.goDown s.clk.now
          else { p with trainStep := 5, failed := failed, active := set, width := laneCount set, delay := info.delay,
                        since := s.clk.now }
        else p
      exec (.trainingStepDone k info) s = .next { s.setPort k.toNat q with sent := s.sent ++
        (if s.fab.nodeSet = true ∧ q.st = .training ∧ q.trainStep = 5 then
          [.exchange k s.fab.node (decide (28 ≤ k.toNat) && !s.ret.auxMode)] else []) }) ∧
    (p.st = .training → p.since + trainLimit p.trainStep ≤ s.clk.now → ¬ (p.trainStep = 4 ∧ p.cold = false) →
      exec (.trainingStepTimeout k) s = .next (s.setPort k.toNat (p.goDown s.clk.now))) ∧
    (p.st = .training → p.since + 25000 ≤ s.clk.now → p.trainStep = 4 → p.cold = false →
      exec (.trainingStepTimeout k) s = .next (s.setPort k.toNat { p with trainStep := 3, cold := true, since := s.clk.now })) ∧
    (s.clk.now < p.since + trainLimit p.trainStep → exec (.trainingStepTimeout k) s = .next s) ∧
    (∀ info, p.st ≠ .training → exec (.trainingStepDone k info) s = .next s ∧ exec (.trainingStepTimeout k) s = .next s) ∧
    (∀ node pp att dbl, p.st = .training → p.trainStep = 5 →
      let u := s.setPort k.toNat { p with peerNode := node, peerPort := pp, attached := att, doubled := dbl }
      (s.fab.nodeSet = false → exec (.peerExchange k node pp att dbl) s = .next (u.modPort k.toNat fun p => { p with st := .held })) ∧
      (s.fab.nodeSet = true →
        let w := u.modPort k.toNat fun p =>
          if u.wired k.toNat then { p with st := .up, credits := [], sentBlk := [], freedBlk := [], fseqIn := 0, fseqOut := 0,
                                           sinceIdle := 0, txNs := 0, circNs := 0, partial_ := none, cutting := false,
                                           laneWin := [], winAt := s.clk.now + 25000, since := s.clk.now }
          else { p with st := .miswired, miswires := satAdd 16 p.miswires 1, since := s.clk.now }
        exec (.peerExchange k node pp att dbl) s = .next (if s.pwr.deepIdle then w.modPort k.toNat Port.idled else w))) ∧
    (∀ node pp att dbl, p.st ≠ .training ∨ p.trainStep ≠ 5 → exec (.peerExchange k node pp att dbl) s = .next s) ∧
    (let again := s.modPort k.toNat fun p =>
        if p.enabled then ({ p.goDown s.clk.now with
            st := .training, trainStep := 1, cold := !p.trained, failed := if p.failed = 0xF then 0 else p.failed, trainings := satAdd 16 p.trainings 1 } : Port)
        else { p.goDown s.clk.now with st := .disabled };
      (p.st = .down → p.since + 25000000 ≤ s.clk.now → exec (.trainingRetry k) s = .next again) ∧
      (p.st = .miswired → p.since + 1500000000 ≤ s.clk.now → exec (.miswiredRetry k) s = .next again) ∧
      (p.st ≠ .down ∨ s.clk.now < p.since + 25000000 → exec (.trainingRetry k) s = .next s) ∧
      (p.st ≠ .miswired ∨ s.clk.now < p.since + 1500000000 → exec (.miswiredRetry k) s = .next s))

/-- Dropped flits and narrowing (10 R217, R224, R225). -/
def Obligations.PortsNarrowAndDropBadFlits : Prop :=
  (∀ (s : State) (k : BitVec 5) (coded : List Byte), let p := s.getPort k.toNat
    let u := (s.modPort k.toNat fun x => { x with flitsRx := x.flitsRx + 1 }).modPwr fun y =>
      { y with acts := smSet y.acts 6 (smGet 0 y.acts 6 + p.width) }
    let drop := (u.modPort k.toNat fun x => { x with dropUnc := bump x.dropUnc }).flitLost k.toNat
    (∀ flit fixed, p.st = .up → flitDecode coded = some (flit, fixed) →
      exec (.flitReceive k coded) s = .next (u.goodFlit k.toNat flit fixed)) ∧
    (p.st = .up → flitDecode coded = none → exec (.flitReceive k coded) s = .next drop) ∧
    (p.st = .narrowing → exec (.flitReceive k coded) s = .next drop) ∧
    (p.st ≠ .up → p.st ≠ .narrowing → exec (.flitReceive k coded) s = .next s)) ∧
  (∀ (s : State) (k : Nat),
    ((s.flitLost k).getPort k).partial_ = none ∧
    (∀ bs, (s.getPort k).partial_ = some bs → bs.length < 32 → (s.flitLost k).sent = s.sent)) ∧
  (∀ (s : State) (k : Nat) (bs : List Byte), (s.getPort k).partial_ = some bs → 32 ≤ bs.length →
    (s.flitLost k).sent = s.sent ++ [.assembled (BitVec.ofNat 5 k) (Pkt.ofWire (takePad (16 * blocksNeeded bs) bs)) true]) ∧
  (∀ (s : State) (k : BitVec 5) (lane : BitVec 2),
    exec (.laneLossOfLock k lane) s = .next ((s.modPort k.toNat fun p =>
      { p with laneLock := smMod (0 : Half) p.laneLock lane.toNat fun n => satAdd 16 n 1 }).failLanes k.toNat (1 <<< lane.toNat))) ∧
  (∀ (s : State) (k : BitVec 5), let p := s.getPort k.toNat
    let bad : BitVec 4 := (List.range 4).foldl (fun m l => if p.thr ≠ 0 ∧ p.thr ≤ smGet 0 p.laneWin l then m ||| (1 <<< l) else m) 0
    (p.winAt ≤ s.clk.now → exec (.laneErrorWindow k) s =
      .next ((s.setPort k.toNat { p with laneWin := [], winAt := s.clk.now + 25000 }).failLanes k.toNat bad)) ∧
    (s.clk.now < p.winAt → exec (.laneErrorWindow k) s = .next s)) ∧
  (∀ (s : State) (k : Nat) (lanes : BitVec 4), let p := s.getPort k
    let failed := p.failed ||| lanes
    let set := p.allowed (chooseLanes failed)
    p.st = .up → s.pwr.deepIdle = false → p.active &&& lanes ≠ 0 →
    (set ≠ 0 → ((s.failLanes k lanes).getPort k) = { p with
      st := .narrowing, failed := failed, target := set, since := s.clk.now, narrowings := satAdd 16 p.narrowings 1 }) ∧
    (set = 0 → s.failLanes k lanes =
      (s.setPort k (({ p with failed := failed } : Port).goDown s.clk.now)).widthChanged k)) ∧
  (∀ (s : State) (k : BitVec 5) (lanes : BitVec 4), let p := s.getPort k.toNat
    let failed := if p.retest then ~~~lanes else p.failed
    let set := p.allowed (if p.retest = true ∨ s.fab.node ≤ p.peerNode then chooseLanes (failed ||| ~~~lanes) else lanes)
    let u := s.setPort k.toNat { p with st := .up, failed := failed, active := set, width := laneCount set, retest := false }
    (p.st ≠ .narrowing ∨ s.clk.now < p.since + 1250 → exec (.narrowingHandshakeEnd k lanes) s = .next s) ∧
    (p.st = .narrowing → p.since + 1250 ≤ s.clk.now → set ≠ 0 →
      exec (.narrowingHandshakeEnd k lanes) s =
        .next ((if laneCount set = p.width then u else u.widthChanged k.toNat).settlePort k.toNat)) ∧
    (s.pwr.deepIdle = false → s.settlePort k.toNat = s) ∧
    (s.pwr.deepIdle = true → s.settlePort k.toNat = s.modPort k.toNat Port.idled) ∧
    (p.st = .narrowing → p.since + 1250 ≤ s.clk.now → set = 0 →
      exec (.narrowingHandshakeEnd k lanes) s =
        .next ((s.setPort k.toNat (({ p with failed := failed } : Port).goDown s.clk.now)).widthChanged k.toNat)))

/-- 00 R10, access type RC, for each register that has it. -/
def Obligations.ReadsThatClearAnswerAndClear : Prop :=
  ∀ (s : State),
    let out (u : State) (v : Dword) : Out := .next (u.out (.regRead v))
    let h := s.host
    let n := s.snap
    let p := s.pwr
    let f := s.fab
    let t := s.trk
    exec .trkResendsRead s = out (s.modTrk fun t => { t with resends := 0 }) (t.resends.zeroExtend 64) ∧
    exec .trkDupsRead s = out (s.modTrk fun t => { t with dups := 0 }) (t.dups.zeroExtend 64) ∧
    exec .trkLateRead s = out (s.modTrk fun t => { t with late := 0 }) (t.late.zeroExtend 64) ∧
    exec .trkUnreachRead s = out (s.modTrk fun t => { t with unreach := 0 }) (t.unreach.zeroExtend 64) ∧
    exec .trkFencedRead s = out (s.modTrk fun t => { t with fenced := 0 }) (t.fenced.zeroExtend 64) ∧
    exec .fabDetoursRead s = out (s.modFab fun f => { f with detours := 0 }) (f.detours.zeroExtend 64) ∧
    exec .fabStaleRead s = out (s.modFab fun f => { f with stale := 0 }) (f.stale.zeroExtend 64) ∧
    exec .fabExpiredRead s = out (s.modFab fun f => { f with expired := 0 }) (f.expired.zeroExtend 64) ∧
    exec .fabCrcbadRead s = out (s.modFab fun f => { f with crcBad := 0 }) (f.crcBad.zeroExtend 64) ∧
    exec .fabFencedropRead s = out (s.modFab fun f => { f with fenceDrop := 0 }) (f.fenceDrop.zeroExtend 64) ∧
    exec .fabCircdropRead s = out (s.modFab fun f => { f with circDrop := 0 }) (f.circDrop.zeroExtend 64) ∧
    exec .fabBadhdrRead s = out (s.modFab fun f => { f with badHdr := 0 }) (f.badHdr.zeroExtend 64) ∧
    exec .stWakesRead s = out (s.modHost fun h => { h with wakesInv := 0, wakesPoll := 0 }) (h.wakesPoll ++ h.wakesInv) ∧
    exec .stBarDiscardRead s = out (s.modHost fun h => { h with barDiscard := 0 }) (h.barDiscard.zeroExtend 64) ∧
    exec .stHostRefusedRead s = out (s.modHost fun h => { h with refused := 0, poisoned := 0 }) (h.poisoned ++ h.refused) ∧
    exec .stBiRead s = out (s.modHost fun h => { h with biCount := 0 }) (BitVec.ofNat 32 h.directory.length ++ h.biCount) ∧
    exec .snapTouchRead s = out (s.modSnap fun x => { x with touchN := 0, touchT := 0 }) (n.touchT ++ n.touchN) ∧
    exec .snapHeldRead s = out (s.modSnap fun x => { x with heldN := 0, heldT := 0 }) (n.heldT ++ n.heldN) ∧
    exec .snapSkippedRead s = out (s.modSnap fun x => { x with skipped := 0 }) (n.skipped.zeroExtend 64) ∧
    exec .snapFailsRead s = out (s.modSnap fun x => { x with fails := 0 }) (n.fails.zeroExtend 64) ∧
    exec .pwrEmergRead s = out (s.modPwr fun p => { p with emergN := 0, emergMs := 0 }) ((0 : Half) ++ p.emergMs ++ p.emergN) ∧
    exec .pwrLevelsRead s = out (s.modPwr fun p => { p with levelN := 0, deferN := 0 }) ((0 : Word) ++ p.deferN ++ p.levelN) ∧
    exec .pinFilteredRead s = out (s.modPins fun p => { p with filtPerst := 0, filtPwrbrk := 0, filtSync := 0, filtSmbus := 0 })
      (s.pins.filtSmbus ++ s.pins.filtSync ++ s.pins.filtPwrbrk ++ s.pins.filtPerst) ∧
    (∀ (i : BitVec 8), let v := s.getIsl i.toNat
      let addr (o : Nat) : DevAddr := BitVec.ofNat 48 (0x200000000000 + 0x100000 * i.toNat + 0x80000 + o)
      (s.present i.toNat = true →
        exec (.logLostRead i) s = out (s.setIsl i.toNat { v with logLost := 0 }) (v.logLost.zeroExtend 64) ∧
        exec (.straitDropRead i) s = out (s.setIsl i.toNat { v with straitDrop := 0 }) (v.straitDrop.zeroExtend 64)) ∧
      (s.present i.toNat = false → exec (.logLostRead i) s = .next (s.out (.regError (.dev (addr 0x88)))) ∧
        exec (.straitDropRead i) s = .next (s.out (.regError (.dev (addr 0x90)))))) ∧
    (∀ (g : Byte), let b := s.getBar g.toNat
      exec (.bskewWaitMaxRead g) s = out (s.setBar g.toNat { b with skewWaitMax := 0 }) (b.skewWaitMax.zeroExtend 64) ∧
      exec (.bskewLateRead g) s = out (s.setBar g.toNat { b with skewLate := 0 }) (b.skewLate.zeroExtend 64) ∧
      exec (.barCountRead g) s = out (s.setBar g.toNat { b with late := 0, ignored := 0, paces := 0 })
        ((0 : Half) ++ b.paces ++ b.ignored ++ b.late)) ∧
    (∀ (k : BitVec 5), let x := s.getPort k.toNat
      exec (.portCorrRead k) s = out (s.setPort k.toNat { x with corrFlits := 0, corrSyms := 0 }) (x.corrSyms ++ x.corrFlits) ∧
      exec (.portDropRead k) s = out (s.setPort k.toNat { x with dropUnc := 0, dropGap := 0 }) (x.dropGap ++ x.dropUnc) ∧
      exec (.portVoidRead k) s = out (s.setPort k.toNat { x with voidOut := 0, voidIn := 0 }) (x.voidIn ++ x.voidOut) ∧
      exec (.portEventsRead k) s = out (s.setPort k.toNat { x with narrowings := 0, trainings := 0, miswires := 0 })
        ((0 : Half) ++ x.miswires ++ x.trainings ++ x.narrowings) ∧
      (∀ (l : BitVec 2), exec (.laneErrRead k l) s = out (s.setPort k.toNat
          { x with laneErr := smSet x.laneErr l.toNat 0, laneLock := smSet x.laneLock l.toNat 0 })
        ((0 : Half) ++ smGet (0 : Half) x.laneLock l.toNat ++ smGet (0 : Word) x.laneErr l.toNat)) ∧
      (∀ (vc : BitVec 3), let q := smGet FiSet.reset x.fi vc.toNat
        (vc ≠ 7 → exec (.fiCountRead k vc) s =
          out (s.setPort k.toNat { x with fi := smSet x.fi vc.toNat { q with count := 0 } }) (q.count.zeroExtend 64)) ∧
        (vc = 7 → exec (.fiCountRead k vc) s =
          .next (s.out (.regError (.dev (BitVec.ofNat 48 (0x300000050000 + 0x400 * k.toNat + 0x2F8))))))))

/-- Register writes: the address map (00 R8, R10), the island's and channels' registers (05 R128, 09 R209),
ST_CTRL (13 Table 13.4), a misaligned BAR write (13 R288). -/
def Obligations.DeviceRegisterWritesAreGuarded : Prop :=
  (∀ (s : State) (i : Nat) (k : Nat) (v : Dword), i < 256 → k < 32 → s.present i = true →
    let a : DevAddr := BitVec.ofNat _ (0x200000000000 + 0x100000 * i + 0x80000 + 0x100 + 8 * k)
    (s.islSt i = stBound ∨ s.islSt i = stPaused →
      exec (.registerWrite (.dev a) v) s = .next (s.setIsl i ((s.getIsl i).setX (BitVec.ofNat 5 k) v))) ∧
    (s.islSt i ≠ stBound → s.islSt i ≠ stPaused →
      exec (.registerWrite (.dev a) v) s = .next (s.logFault .registerDiscard srcLighthouse 0 (BitVec.ofNat 32 i)))) ∧
  (∀ (s : State) (i ch k : Nat) (v : Dword), i < 256 → ch < 4 → k < 8 → s.present i = true →
    let c := (s.getIsl i).getChan ch
    let desc : DevAddr := BitVec.ofNat _ (0x300000100000 + 0x1000 * i + 0x100 * ch + 0x08)
    let entry : DevAddr := BitVec.ofNat _ (0x300000100000 + 0x1000 * i + 0x100 * ch + 0x80 + 8 * k)
    let open_ : Prop := (s.islSt i = stBound ∨ s.islSt i = stPaused) ∧ (c.state = 0 ∨ c.state = 3)
    (open_ → exec (.registerWrite (.dev desc) v) s = .next (s.modChan i ch fun c => { c with desc := v.extractLsb' 0 22 }) ∧
      exec (.registerWrite (.dev entry) v) s = .next (s.modChan i ch fun c => { c with
        queue := trimQueue ((c.queue ++ List.replicate (8 - c.queue.length) none).set k
          (if v.msb then some (v.extractLsb' 22 5, v.extractLsb' 0 22) else none)) })) ∧
    (¬ open_ → ∀ a, a = desc ∨ a = entry →
      exec (.registerWrite (.dev a) v) s = .next (s.logFault .registerDiscard srcLighthouse 0 (BitVec.ofNat 32 i)))) ∧
  (∀ (s : State) (i : Nat) (v : Dword), i < 256 → s.present i = true →
    exec (.registerWrite (.dev (BitVec.ofNat _ (0x200000000000 + 0x100000 * i + 0x80000 + 0x28))) v) s =
      .next (s.setIsl i { s.getIsl i with waitLimit := v.extractLsb' 0 32 }) ∧
    exec (.registerWrite (.dev (BitVec.ofNat _ (0x200000000000 + 0x100000 * i + 0x80000 + 0x84))) v) s =
      .next (s.setIsl i { s.getIsl i with logTail := v.extractLsb' 0 7 })) ∧
  (∀ (s : State) (a : DevAddr) (v : Dword), s.devReg (a.toNat / 8 * 8) = none →
    exec (.registerWrite (.dev a) v) s = .next (s.out (.regError (.dev a)))) ∧
  (∀ (s : State) (a : DevAddr) (v w : Dword), a.toNat % 8 = 0 → s.devReg a.toNat = some w → 0x300000000000 ≤ a.toNat →
    a.toNat < 0x300000100000 ∨ 0x300000200000 ≤ a.toNat → exec (.registerWrite (.dev a) v) s = .next s) ∧
  (∀ (s : State) (off v), off.toNat % 8 ≠ 0 →
    exec (.registerWrite (.bar off) v) s =
      .next (s.linkWoken.modHost fun h => { h with barDiscard := satAdd 32 h.barDiscard 1 })) ∧
  (∀ (s : State) (v : Dword), ∃ t, exec (.stCtrlWrite v) s = .next t ∧ t.host.stCtrl = v.extractLsb' 0 4 ∧
    t.fw.settingsCount = s.fw.settingsCount + 1 ∧ t.isl = s.isl ∧ t.mem = s.mem ∧ t.part = s.part)

/-- Enabling and disabling rings (13 R292 to R295, R297, Table 13.7); the BUSY view of a refused disable is log
46. -/
def Obligations.RingsEnableRefuseAndStop : Prop :=
  ∀ (s : State) (ring : BitVec 4) (v : Dword), let r := ring.toNat
    let u := s.linkWoken
    let c := u.getCr r
    let q := u.getQr r
    let discarded := u.modHost fun h => { h with barDiscard := satAdd 32 h.barDiscard 1 }
    (v.getLsbD 0 = true → c.st = .disabled → u.crReason r v = 0 →
      exec (.commandRingEnable ring v) s =
        .next ((u.setCr r { c with ctrl := v &&& 0x0F3F1F01, reason := 0, st := .enabled, ci := 0, piRead := 0, fetched := 0 }).holdLine false r c.piAddr)) ∧
    (v.getLsbD 0 = true → c.st = .disabled → u.crReason r v ≠ 0 →
      exec (.commandRingEnable ring v) s = .next (u.setCr r { c with ctrl := v &&& 0x0F3F1F01, reason := u.crReason r v })) ∧
    (v.getLsbD 0 = true → c.st ≠ .disabled → exec (.commandRingEnable ring v) s = .next discarded) ∧
    (v.getLsbD 0 = false →
      (c.st = .disabled → exec (.commandRingDisable ring v) s = .next (u.setCr r { c with ctrl := v &&& 0x0F3F1F01 })) ∧
      (c.st = .broken → exec (.commandRingDisable ring v) s =
        .next (((u.setCr r { c with st := .disabled, ctrl := c.ctrl &&& ~~~1 }).dropLine false r).out (.index c.ciAddr c.ci))) ∧
      (c.st = .enabled → exec (.commandRingDisable ring v) s =
        .next (((u.setCr r { c with st := .stopping, ctrl := c.ctrl &&& ~~~1 }).dropLine false r).settleRing r)) ∧
      (c.st = .stopping → exec (.commandRingDisable ring v) s = .next discarded)) ∧
    (v.getLsbD 0 = true → q.st = .disabled → u.qrReason r v = 0 →
      exec (.completionRingEnable ring v) s = .next ((u.setQr r
        { q with ctrl := v &&& 0xFFFFFFFF1F03, reason := 0, st := .enabled, pi := 0, ciRead := 0, held := [], unsig := 0 }).holdLine
          true r q.ciAddr)) ∧
    (v.getLsbD 0 = true → q.st = .disabled → u.qrReason r v ≠ 0 →
      exec (.completionRingEnable ring v) s = .next (u.setQr r { q with ctrl := v &&& 0xFFFFFFFF1F03, reason := u.qrReason r v })) ∧
    (v.getLsbD 0 = true → q.st ≠ .disabled → exec (.completionRingEnable ring v) s = .next discarded) ∧
    (v.getLsbD 0 = false → q.st = .disabled →
      exec (.completionRingDisable ring v) s = .next (u.setQr r { q with ctrl := v &&& 0xFFFFFFFF1F03 })) ∧
    (v.getLsbD 0 = false → q.st ≠ .disabled → u.cqInUse r = true →
      exec (.completionRingDisable ring v) s = .next (discarded.setQr r { q with st := .busy })) ∧
    (v.getLsbD 0 = false → q.st ≠ .disabled → u.cqInUse r = false →
      let w := q.held.foldl (fun s x => s.logFault .completionLost srcInterp 0 x.tag) u
      exec (.completionRingDisable ring v) s =
        .next ((w.setQr r { q with held := [], st := .disabled, ctrl := q.ctrl &&& ~~~1 }).dropLine true r)) ∧
    ((v.extractLsb' 8 5).toNat = 5 → u.crReason r v = 1 ∧ u.qrReason r v = 1) ∧
    (let x := { c with ctrl := v };
      (u.getQr x.cq).st ≠ .enabled ∨ (r = 0 ∧ (x.partition ≠ 0 ∨ x.cq ≠ 0)) → u.crReason r v ≠ 0)

/-- How the device notices indices (13 R297, R298), and the coalescing time (13 R299). The poll clauses are stated
for a module with one enabled ring. -/
def Obligations.IndicesAreNoticedByInvalidationAndPoll : Prop :=
  (∀ (s : State) (x : IndexRead), s.linkWoken.host.cached.contains (x.completion, x.ring) = false →
    exec (.indexLineInvalidation x) s = .next s.linkWoken) ∧
  (∀ (s : State) (x : IndexRead), let r := x.ring.toNat
    let u := (s.linkWoken.dropLine x.completion r).holdLine x.completion r (s.linkWoken.indexAddr x.completion r)
    let c := u.getCr r
    let q := u.getQr r
    let woken (u : State) : State := u.modHost fun h => { h with wakesInv := satAdd 32 h.wakesInv 1 }
    s.linkWoken.host.cached.contains (x.completion, x.ring) = true → u.serving = true →
    (x.completion = false → c.st = .enabled → c.piRead ≠ x.value →
      ((x.value - c.ci).toNat ≤ c.slots →
        exec (.indexLineInvalidation x) s = .next ((woken u).setCr r { c with piRead := x.value })) ∧
      (c.slots < (x.value - c.ci).toNat → exec (.indexLineInvalidation x) s = .next ((woken u).breakRing r 0x10))) ∧
    (x.completion = false → c.piRead = x.value → exec (.indexLineInvalidation x) s = .next u) ∧
    (x.completion = true → q.live = true → q.ciRead ≠ x.value → exec (.indexLineInvalidation x) s =
      .next ((woken (u.setQr r { q with ciRead := x.value })).postHeld r (q.held.length + 1)))) ∧
  (∀ (s : State) (x : IndexRead), let r := x.ring.toNat
    let c := s.getCr r
    let u := (s.modHost fun h => { h with polled := s.clk.now }).out (.cacheRead (s.indexAddr false r) false)
    let woken := u.modHost fun h => { h with wakesPoll := satAdd 32 h.wakesPoll 1 }
    s.host.polled + 1250 ≤ s.clk.now → s.host.cached = [(false, x.ring)] → s.serving = true → x.completion = false → c.st = .enabled →
    (c.piRead = x.value → exec (.indexPoll [x]) s = .next u) ∧
    (c.piRead ≠ x.value → (x.value - c.ci).toNat ≤ c.slots →
      exec (.indexPoll [x]) s = .next (woken.setCr r { c with piRead := x.value }))) ∧
  (∀ (s : State) (xs : List IndexRead), s.clk.now < s.host.polled + 1250 → exec (.indexPoll xs) s = .next s) ∧
  (∀ (s : State) (ring : BitVec 4), let q := s.getQr ring.toNat
    q.live = true → q.ctrl.getLsbD 1 = true → q.unsig ≠ 0 →
    (q.since + 25 * (q.ctrl.extractLsb' 32 16).toNat ≤ s.clk.now →
      exec (.completionCoalesceTimeout ring) s = .next ((s.setQr ring.toNat { q with unsig := 0 }).raiseMsix ring.toNat)) ∧
    (s.clk.now < q.since + 25 * (q.ctrl.extractLsb' 32 16).toNat → exec (.completionCoalesceTimeout ring) s = .next s))

/-- Host access to HBM (13 R287, R301 to R304), in the order of 08 R174. -/
def Obligations.HostMemoryAccessesAreCheckedAndServed : Prop :=
  (∀ (s : State) (hpa : Dword) (c poison : Bool) (bs : List Byte), let u := s.linkWoken
    let refused := u.modHost fun h => { h with refused := satAdd 32 h.refused 1 }
    (u.host.memActive = false →
      exec (.cxlMemRead hpa c) s = .next (refused.out (.readData (List.replicate 64 0) true)) ∧
      exec (.cxlMemWrite hpa bs poison) s = .next refused) ∧
    (u.host.memActive = true → u.hdmLine hpa = none →
      exec (.cxlMemRead hpa c) s = .next u ∧ exec (.cxlMemWrite hpa bs poison) s = .next u)) ∧
  (∀ (s : State) (g : Nat), smGet [] s.mem.sharedQ g = [] → s.dueSlots (min (s.sharedSlot g) (50 * s.clk.now + 50)) = [] →
    s.sharedTurn g (smGet [] s.mem.sharedQ g).length = s.modMem fun m => { m with sharedAt := smSet m.sharedAt g (s.sharedSlot g + 1) }) ∧
  (∀ (s : State) (hpa : Dword) (c poison : Bool) (bs : List Byte) (line : Nat), let u := s.linkWoken
    let refused := u.modHost fun h => { h with refused := satAdd 32 h.refused 1 }
    let logged := refused.logFault .windowRefused srcLighthouse 0 (BitVec.ofNat 32 line)
    let a := (hpa - s.host.hdmBase).toNat
    let put := bs.take (64 - a % 64)
    let v := u.sharedTurns line 64
    let w := (u.sharedTurns a put.length).touch a put.length
    u.host.memActive = true → u.hdmLine hpa = some line →
    (u.hostWindows false line = [] → exec (.cxlMemRead hpa c) s = .next (logged.out (.readData (List.replicate 64 0) true))) ∧
    (u.hostWindows true line = [] → exec (.cxlMemWrite hpa bs poison) s = .next logged) ∧
    (u.frameHeld = true → (u.hostWindows false line ≠ [] → exec (.cxlMemRead hpa c) s = .next u) ∧
      (u.hostWindows true line ≠ [] → exec (.cxlMemWrite hpa bs poison) s = .next u)) ∧
    (u.hostWindows false line ≠ [] → u.frameHeld = false → v.mem.uncorrectable line = false →
      ∃ t, exec (.cxlMemRead hpa c) s = .next t ∧ t.mem.hbm = v.mem.hbm ∧
        t.host.log.getLast? = some (.readData (memRead v.mem.hbm line 64) false)) ∧
    (u.hostWindows false line ≠ [] → u.frameHeld = false → v.mem.uncorrectable line = true →
      ∃ t, exec (.cxlMemRead hpa c) s = .next t ∧ t.mem.hbm = v.mem.hbm ∧
        t.host.poisoned = satAdd 32 (v.noteLine line).host.poisoned 1 ∧
        t.host.log.getLast? = some (.readData (memRead v.mem.hbm line 64) true)) ∧
    (u.hostWindows true line ≠ [] → u.frameHeld = false →
      ∃ t, exec (.cxlMemWrite hpa bs poison) s = .next t ∧
        (∀ b, b < a ∨ a + put.length ≤ b → memByte t.mem.hbm b = memByte w.mem.hbm b) ∧
        (s.snap.enabled = false → w.mem.hbm = (u.sharedTurns a put.length).mem.hbm) ∧
        (∀ k, k < put.length → memByte t.mem.hbm (a + k) = put.getD k 0) ∧
        (poison = true → smGet none t.mem.lineErr line = some .poison)))

/-- Host resets and link-up (13 R284, R286, R287). -/
def Obligations.HostResetsDropTheHostInterfaceOnly : Prop :=
  (∀ (s : State) (cause : HostReset), ∃ t, exec (.perstAssert cause) s = .next t ∧
    t.host.cmd = [] ∧ t.host.comp = [] ∧ t.host.cached = [] ∧ t.host.linkUp = false ∧ t.host.memActive = false ∧ t.host.hdmBase = 0 ∧
    t.host.stCtrl = s.host.stCtrl ∧ t.host.dev = s.host.dev ∧ t.isl = s.isl ∧ t.mem = s.mem ∧ t.part = s.part ∧ t.fab = s.fab ∧
    t.trk = s.trk ∧ t.snap = s.snap ∧ t.pwr = s.pwr ∧ t.cmds.long = s.cmds.long ∧
    t.pins.perst = (cause = .perst || s.pins.perst)) ∧
  (∀ (s : State), ∃ t, exec .refclkLoss s = .next t ∧ t.host.cmd = [] ∧ t.host.linkUp = false ∧ t.pins.refclk = false ∧
    t.isl = s.isl ∧ t.mem = s.mem ∧ t.part = s.part ∧ t.fab = s.fab) ∧
  (∀ (s : State) (l : Link), ∃ t, exec (.cxlLinkUp l) s = .next t ∧ t.host.linkUp = true ∧ t.host.biPath = l.biPath ∧
    t.host.link = some (l.width, l.rate) ∧
    t.pins.perst = false ∧ t.pins.refclk = true ∧ t.pins.wake = false ∧ t.mem = s.mem ∧ t.isl = s.isl ∧
    (l.biPath = true → s.mem.valid = true → t.host.memActive = true) ∧ (l.biPath = false ∨ s.mem.valid = false → t.host.memActive = false))

/-- Fabric time (11 R250, R258, R259, 19 R416). That a message's time is free within its millisecond is the
model's (log 36). -/
def Obligations.FabricTimeFollowsPulsesAndMessages : Prop :=
  (∀ (s : State) (w : Nat) (a : Dword), s.ret.syncMode ≠ 1 ∨ w < 20 → exec (.syncPulse w a) s = .next s) ∧
  (∀ (s : State) (w : Nat) (a : Dword), let e := pulseError ((a.toNat : Int) + s.ret.syncOff.toInt)
    let discarded := (s.modFab fun f => { f with pulsesBad := bump f.pulsesBad }).modPins
      fun p => { p with filtSync := satAdd 16 p.filtSync 1 }
    let ms : Int := ((max 1 ((s.clk.now - s.fab.lastPulse.toNat + 12500) / 25000) : Nat) : Int)
    s.ret.syncMode = 1 → 20 ≤ w →
    (w < 50 ∨ 10000 < w → exec (.syncPulse w a) s = .next discarded) ∧
    (∀ m, 50 ≤ w → w ≤ 10000 → s.fab.timeMsg = some m → s.fab.pulseSeen = false →
      exec (.syncPulse w a) s = .next (s.modFab fun f =>
        { f with time := m + BitVec.ofNat 64 ((s.clk.now - f.lastPulse.toNat) / 25000 * 1000000), lastPulse := s.now, pulseSeen := true,
                 tst := if f.freeMode then f.tst else .locked, lastErr := 0 })) ∧
    (50 ≤ w → w ≤ 10000 → s.fab.timeMsg = none ∨ s.fab.pulseSeen = true →
      (-100 ≤ e → e ≤ 100 → exec (.syncPulse w a) s = .next (s.modFab fun f =>
        { f with time := BitVec.ofInt 64 (f.time.toNat - e), lastErr := BitVec.ofInt 16 e, rate := f.rate - e.tdiv ms,
                 lastPulse := s.now, tst := if f.tst = TimeSt.holdover ∧ f.timeSeen then TimeSt.locked else f.tst })) ∧
      (e < -100 ∨ 100 < e → exec (.syncPulse w a) s = .next discarded))) ∧
  (∀ (s : State), let drives : Bool := s.ret.syncMode = 2 && s.fab.master = s.fab.node
    (s.fab.tst = .locked → drives = false → s.fab.lastPulse.toNat + 75000 ≤ s.clk.now →
      exec .syncHoldover s = .next (s.modFab fun f => { f with tst := .holdover })) ∧
    (s.fab.tst ≠ .locked ∨ drives = true ∨ s.clk.now < s.fab.lastPulse.toNat + 75000 → exec .syncHoldover s = .next s)) ∧
  (∀ (s : State), let due : Prop := s.fab.timeSent = none ∨ ∃ t, s.fab.timeSent = some t ∧ t + 25000000 ≤ s.clk.now
    let t := (s.fab.time.toNat / 1000000 + 1) * 1000000
    let p := Pkt.sealed { blankPkt tTime s.fab.node with
      epoch := s.curEpoch, src := s.fab.node, session := s.trk.session, length := 16,
      payload := leBytes 8 t ++ leBytes 2 s.fab.node.toNat ++ leBytes 6 0 }
    let u := (s.portsAbove 0).foldl (fun s k => s.copyTo p k) s
    (s.fab.master ≠ s.fab.node ∨ s.fab.freeMode = true ∨ s.fab.nodeSet = false ∨ ¬ due → exec .timeMessageSend s = .next s) ∧
    (s.fab.master = s.fab.node → s.fab.freeMode = false → s.fab.nodeSet = true → due →
      exec .timeMessageSend s = .next (u.modFab fun f =>
        { f with timeSent := some u.clk.now, timeSeen := true, timeMsg := some (BitVec.ofNat 64 t),
                 lastPulse := if f.pulseSeen then f.lastPulse else u.now,
                 tst := if f.timeSeen then f.tst else if u.drivesSync then .locked else .holdover }))) ∧
  (∀ (s : State) (k : BitVec 5) (p : Pkt), let u := s.taken k.toNat p
    let v := (u.portsAbove (u.nextAbove k.toNat)).foldl (fun s k => s.copyTo p k) u
    (u.retired p.epoch = true → exec (.timeReceived k p) s = .next (u.modFab fun f => { f with stale := bump f.stale })) ∧
    (u.retired p.epoch = false → (u.tab p.epoch).fenced p.src.toNat = true → exec (.timeReceived k p) s = .next u) ∧
    (u.retired p.epoch = false → (u.tab p.epoch).fenced p.src.toNat = false → p.crc = p.check →
      (leAt p.payload 8 2 = v.fab.master.toNat → v.fab.master ≠ v.fab.node →
        exec (.timeReceived k p) s = .next (v.takeTime (BitVec.ofNat 64 (leAt p.payload 0 8)))) ∧
      (leAt p.payload 8 2 ≠ v.fab.master.toNat ∨ v.fab.master = v.fab.node → exec (.timeReceived k p) s = .next v))) ∧
  (∀ (s : State) (t : Dword),
    let u := s.modFab fun f =>
      { f with timeMsg := some t, timeSeen := true, lastPulse := if f.pulseSeen then f.lastPulse else s.now }
    let drives : Bool := s.ret.syncMode = 2 && s.fab.master = s.fab.node
    (s.fab.freeMode = true → s.takeTime t = u) ∧
    (s.fab.freeMode = false → drives = true → s.takeTime t = u.modFab fun f => { f with tst := .locked }) ∧
    (s.fab.freeMode = false → s.ret.syncMode = 1 → s.fab.tst ≠ .unset → s.takeTime t = u) ∧
    (s.fab.freeMode = false → drives = false → s.ret.syncMode ≠ 1 ∨ s.fab.tst = .unset →
      (s.takeTime t).fab.tst = .holdover ∧ (t - (s.takeTime t).fab.time).toNat < 1000000)) ∧
  (∀ (s : State), let at_ : Prop := ((s.fab.time.toNat : Int) - s.ret.syncOff.toInt + 39) % 1000000 < 40
    (s.ret.syncMode = 2 → at_ → exec .syncTriggerPulse s = .next (s.modPins fun p => { p with pulses := p.pulses + 1 })) ∧
    (s.ret.syncMode ≠ 2 ∨ ¬ at_ → exec .syncTriggerPulse s = .next s))

/-- The pins (19 R414, Table 19.4, 17 R389, R390). -/
def Obligations.PinsRaiseTimersAndLogs : Prop :=
  ∀ (s : State),
    exec .pwrbrkAssert s = .next ((s.modPins fun p => { p with pwrbrk := true, pwrbrkAt := s.clk.now }).emergencyBegins 2) ∧
    exec .pwrbrkDeassert s = .next ((s.modPins fun p => { p with pwrbrk := false }).emergencyClears 2) ∧
    (s.pins.pwrbrk = true → s.pins.pwrbrkAt + 1500000000 ≤ s.clk.now → exec .pwrbrkHeldLog s =
      .next ((s.modPins fun p => { p with pwrbrkAt := s.clk.now }).logFault .pwrbrkHeld srcLighthouse 0 0)) ∧
    (s.pins.pwrbrk = false ∨ s.clk.now < s.pins.pwrbrkAt + 1500000000 → exec .pwrbrkHeldLog s = .next s) ∧
    (let wait : Nat := if s.pins.perstLogged then 1500000000 else 25000000;
      (s.pins.perst = true → s.pins.perstAt + wait ≤ s.clk.now → exec .perstHeldLog s =
        .next ((s.modPins fun p => { p with perstAt := s.clk.now, perstLogged := true }).logFault .perstHeld srcLighthouse 0 0)) ∧
      (s.pins.perst = false ∨ s.clk.now < s.pins.perstAt + wait → exec .perstHeldLog s = .next s)) ∧
    (s.pins.wake = true → s.pins.wakeAt + 2500000 ≤ s.clk.now → exec .wakeReleaseTimeout s =
      .next ((s.modPins fun p => { p with wake := false }).logFault .wakeReleased srcLighthouse 0 0)) ∧
    (s.pins.wake = false ∨ s.clk.now < s.pins.wakeAt + 2500000 → exec .wakeReleaseTimeout s = .next s) ∧
    (s.mgmt.i3c = true → exec .smbusClockLowTimeout s = .next s) ∧
    (s.mgmt.i3c = false → exec .smbusClockLowTimeout s =
      .next (s.modPins fun p => { p with xfer := false, filtSmbus := satAdd 16 p.filtSmbus 1 }))

/-- Copies of the logs (05 R129, 18 R406). -/
def Obligations.LogsAreCopiedToTheQueueAndTheArchive : Prop :=
  (∀ (s : State) (i : BitVec 8) (ci : Word), let v := s.getIsl i.toNat
    (s.getPart v.partition.toNat).exc = none →
    ∃ t, exec (.exceptionLogCopy i ci) s = .next t ∧ t.getIsl i.toNat = { v with logTail := v.logHead } ∧ t.host = s.host ∧
      t.flog = s.flog ∧ t.mem = s.mem) ∧
  (∀ (s : State) (i : BitVec 8) (ci : Word) (q : ExcQueue) (r : ExcRec), let v := s.getIsl i.toNat
    let p := v.partition.toNat
    (s.getPart p).exc = some q → v.excPending = [r] →
    ((q.pi - ci).toNat < 2 ^ q.log2 → ∃ t, exec (.exceptionLogCopy i ci) s = .next t ∧
      (t.getPart p).exc = some { q with ci := ci, pi := q.pi + 1 } ∧ (t.getIsl i.toNat).logTail = v.logHead ∧ t.flog = s.flog ∧
      t.host.log = s.host.log ++ [.data (q.base + BitVec.ofNat 64 (32 * (q.pi.toNat % 2 ^ q.log2))) (r.bytes i.toNat),
        .index q.piAddr (q.pi + 1)]) ∧
    (2 ^ q.log2 ≤ (q.pi - ci).toNat → q.dropped.toNat < 2 ^ 32 - 1 → ∃ t, exec (.exceptionLogCopy i ci) s = .next t ∧
      (t.getPart p).exc = some { q with ci := ci, dropped := q.dropped + 1 } ∧ (t.getIsl i.toNat).logTail = v.logHead ∧
      t.flog ≠ s.flog)) ∧
  (∀ (s : State), let all := s.flog.archive ++ s.flog.ring.filter (fun r => decide (s.flog.archived ≤ r.seq))
    exec .faultLogArchive s = .next { s with flog :=
      { s.flog with archive := all.drop ((all.length - 1966080 + 2047) / 2048 * 2048), archived := s.flog.seq } })

/-- Steps 1 to 5 of 14 R308 for every command; which of bytes 2 and 3 is checked first is log 45. -/
def Obligations.CommandsAreCheckedInOrder : Prop :=
  (∀ (s : State) (c : Packet) (tags), Fetched s c → ∀ x ∈ commandsOf c tags, x.2.2 = true → ∀ o, opSpec x.1.toNat = some o →
    let u := s.served c
    let ring := ((u.getCr c.ring.toNat).partition : Nat)
    let strange := (u.getPart c.part).exists_ = false ∨ ring ≠ 0 ∧ c.part ≠ ring
    (c.version ≠ 1 → exec x.2.1 s = .next (u.answered c x.1 sBadParam 3 0 0 0)) ∧
    (c.version = 1 → 8 ≤ c.flags.toNat → exec x.2.1 s = .next (u.answered c x.1 sBadParam 2 0 0 0)) ∧
    (c.version = 1 → c.flags.toNat < 8 → c.length.toNat ≠ o.len →
      exec x.2.1 s = .next (u.answered c x.1 sBadLength (BitVec.ofNat 16 o.len) 0 0 0)) ∧
    (c.version = 1 → c.flags.toNat < 8 → c.length.toNat = o.len → strange →
      exec x.2.1 s = .next (u.answered c x.1 sBadPartition 0 0 0 0)) ∧
    (c.version = 1 → c.flags.toNat < 8 → c.length.toNat = o.len → ¬ strange → o.p0 = true → ring ≠ 0 ∨ c.part ≠ 0 →
      exec x.2.1 s = .next (u.answered c x.1 sNotPermitted 0 0 0 0))) ∧
  (∀ (s : State) (c : Packet) (op : Half), Fetched s c → opSpec op.toNat = none →
    let u := s.served c
    (c.version ≠ 1 → exec (.undefinedOpcode op c) s = .next (u.answered c op sBadParam 3 0 0 0)) ∧
    (c.version = 1 → 8 ≤ c.flags.toNat → exec (.undefinedOpcode op c) s = .next (u.answered c op sBadParam 2 0 0 0)) ∧
    (c.version = 1 → c.flags.toNat < 8 → exec (.undefinedOpcode op c) s = .next (u.answered c op sBadOpcode 0 0 0 0)))

/-- Time limits and commit points (14 R312, Table 14.3). -/
def Obligations.CommandsTimeOutBeforeTheirCommitPoint : Prop :=
  (∀ (s : State) (ring : BitVec 4) (tag : Word) (x : LongCmd),
    (s.cmds.fenced.find? fun f => f.pkt.ring = ring && f.pkt.tag = tag) = none →
    (s.cmds.long.find? fun c => c.pkt.ring = ring && c.pkt.tag = tag && decide (c.deadline ≤ s.clk.now) && !s.committed c) = some x →
    (x.opcode = 0x0301 ∨ x.opcode = 0x0402 ∨ x.opcode = 0x0701 →
      exec (.commandTimeout ring tag) s = .next (s.complete x sTimeout 0 0 0 0)) ∧
    (x.opcode = 0x0304 → x.st = .accepted → exec (.commandTimeout ring tag) s =
      .next ((s.modPart x.part.toNat fun q => { q with starting := false, startGrp := none, startT := none }).complete x sTimeout 0 0 0 0))) ∧
  (∀ (s : State) (ring : BitVec 4) (tag : Word),
    (s.cmds.fenced.find? fun f => f.pkt.ring = ring && f.pkt.tag = tag) = none →
    (∀ c ∈ s.cmds.long, c.pkt.ring = ring → c.pkt.tag = tag → s.clk.now < c.deadline ∨ s.committed c = true) →
    exec (.commandTimeout ring tag) s = .next s)

/-- The device and identity group (14 R319, Table 14.4, 08 R186). -/
def Obligations.DeviceCommandsTakeEffect : Prop :=
  ∀ (s : State) (c : Packet), let u := s.served c
    (Takes s c 0x0101 [] → exec (.identify c) s = .next ((u.toHost (BitVec.ofNat 64 (c.at_ 16 8)) u.identity).answered c 0x0101 sOk 0
      idKey (BitVec.ofNat 32 u.idGrade) (BitVec.ofNat 32 u.idFw))) ∧
    (Takes s c 0x0102 [] → (∀ p ∈ u.part, p.2.pipe.beyondLoaded = false) → exec (.setNode c) s =
      .next (((u.modFab fun f => { f with node := BitVec.ofNat 12 (c.at_ 16 2), nodeSet := true }).recheckPorts.saveSettings).okay c 0x0102)) ∧
    (∀ x, Takes s c 0x0102 [] → (u.part.find? fun p => p.2.pipe.beyondLoaded) = some x →
      exec (.setNode c) s = .next (u.turnedAway c 0x0102 (BitVec.ofNat 16 x.2.pipe.code))) ∧
    (Takes s c 0x0103 [] → exec (.deviceStatus c) s = .next (u.answered c 0x0103 sOk 0 (BitVec.ofNat 32 u.stWord)
      (BitVec.ofNat 32 u.cmds.long.length) u.flog.sinceStart)) ∧
    (Takes s c 0x0104 (defaultFaults c) → exec (.setDefault c) s =
      .next (({ u with cmds := { u.cmds with defaults :=
          (u.cmds.defaults.filter fun d => !(d.1 = BitVec.ofNat 16 (c.at_ 16 2) && d.2.1 = c.at_ 18 2)) ++
            [(BitVec.ofNat 16 (c.at_ 16 2), c.at_ 18 2, BitVec.ofNat 64 (c.at_ 24 8))] } } : State).saveSettings.okay c 0x0104)) ∧
    (Takes s c 0x0105 [] → exec (.memoryMode c) s =
      .next ((u.modMem fun m => { m with staged := c.at_ 16 1 = 1 }).saveSettings.okay c 0x0105)) ∧
    (Takes s c 0x0106 [] → (∀ p ∈ u.part, p.2.pipe = .none) → Roomy u c → u.pwr.deepIdle = false →
      exec (.memoryClear c) s = .next (u.begun c 0x0106 fun t =>
        ((t.modMem fun m => { m with valid := false }).modHost fun h => { h with memActive := false }).modMem
          fun m => { m with filling := true })) ∧
    (∀ x, (s.cmds.long.find? fun c => c.opcode = 0x0106 && c.st = .accepted) = some x → s.mem.filling = true →
      ∃ t : State, exec .memoryClearComplete s = .next (t.complete x sOk 0 0 0 0) ∧ t.mem.valid = true ∧ t.mem.filling = false ∧
        t.mem.lineErr = [] ∧ (∀ a, memByte t.mem.hbm a = 0) ∧ t.isl = s.isl ∧ t.part = s.part) ∧
    (Takes s c 0x0107 [] → u.host.dev ≠ 2 → exec (.reset c) s =
      .next (((u.record c 0x0107 0 sAccepted 0 0 0 0).beginStart .warm (c.at_ 16 1 = 1) false false).advanceCi c.ring.toNat c.length.toNat)) ∧
    (Takes s c 0x0107 [] → u.host.dev = 2 → exec (.reset c) s = .next (u.turnedAway c 0x0107 2))

/-- The partition and window group (14 R320, Table 14.5). -/
def Obligations.PartitionCommandsTakeEffect : Prop :=
  ∀ (s : State) (c : Packet), let u := s.served c
    let p := c.at_ 16 1
    let w := c.at_ 17 1
    let q := u.getPart p
    (Takes s c 0x0201 [] → q.exists_ = false →
      exec (.partCreate c) s = .next ((u.setPart p { Part.reset with exists_ := true }).saveSettings.okay c 0x0201)) ∧
    (Takes s c 0x0201 [] → q.exists_ = true → exec (.partCreate c) s = .next (u.turnedAway c 0x0201 (BitVec.ofNat 16 q.pipe.code))) ∧
    (Takes s c 0x0202 (u.noPart p 16) → u.busy (onPipe p) = none → q.pipe = .none →
      (∀ r < 16, (u.getCr r).st = .disabled ∨ (u.getCr r).partition ≠ p) →
      exec (.partDestroy c) s = .next (((q.windows.foldl
        (fun s w => if w.2.valid then s.recheckLines w.2.base.toNat w.2.size.toNat else s)
        ({ u with part := u.part.filter fun x => x.1 ≠ p } : State)).freeGroups p).saveSettings.okay c 0x0202)) ∧
    (Takes s c 0x0202 (u.noPart p 16) → u.busy (onPipe p) = none → q.pipe ≠ .none →
      exec (.partDestroy c) s = .next (u.turnedAway c 0x0202 (BitVec.ofNat 16 q.pipe.code))) ∧
    (∀ r, Takes s c 0x0202 (u.noPart p 16) → u.busy (onPipe p) = none → q.pipe = .none →
      ((List.range 16).find? fun r => (u.getCr r).st ≠ .disabled && (u.getCr r).partition = p) = some r →
      exec (.partDestroy c) s = .next (u.turnedAway c 0x0202 (BitVec.ofNat 16 (0x100 + r)))) ∧
    (Takes s c 0x0203 (windowFaults c u) → q.pipe.beyondLoaded = false →
      exec (.windowSet c) s = .next ((u.putWindow p w ⟨true, c.at_ 18 1 / 4 % 2 = 1, BitVec.ofNat 2 (c.at_ 18 1),
        BitVec.ofNat 48 (c.at_ 24 8), BitVec.ofNat 48 (c.at_ 32 8)⟩).okay c 0x0203)) ∧
    (Takes s c 0x0203 (windowFaults c u) → q.pipe.beyondLoaded = true →
      exec (.windowSet c) s = .next (u.turnedAway c 0x0203 (BitVec.ofNat 16 q.pipe.code))) ∧
    (Takes s c 0x0204 (u.noPart p 16) → q.pipe.beyondLoaded = false →
      exec (.windowClear c) s = .next ((u.putWindow p w .reset).okay c 0x0204)) ∧
    (Takes s c 0x0205 [] → exec (.partStatus c) s = .next (u.answered c 0x0205 sOk 0 (BitVec.ofNat 32 (u.getPart c.part).pipe.code)
      (mask16 fun w => (smGet Window.reset (u.getPart c.part).windows w).valid)
      (mask16 fun r => (u.getCr r).st = .enabled && (u.getCr r).partition = c.part))) ∧
    (∀ x : Window, smGet Window.reset q.windows w = .reset → x.valid = true →
      let t := u.putWindow p w x
      smGet Window.reset (t.getPart p).windows w = x ∧ t.isl = u.isl ∧ t.mem = u.mem ∧ t.fab = u.fab)

/-- LOAD, UNLOAD and BIND (14 R321, 07 R150, R155). -/
def Obligations.PipelinesLoadAndBind : Prop :=
  (∀ (s : State) (c : Packet), let u := s.served c
    let q := u.getPart c.part
    u.busy (onPipe c.part) = none →
    (Takes s c 0x0301 (imageFaults c u) → q.pipe = .none → Roomy u c → exec (.load c) s = .next (u.begun c 0x0301 id)) ∧
    (Takes s c 0x0301 (imageFaults c u) → q.pipe ≠ .none →
      exec (.load c) s = .next (u.turnedAway c 0x0301 (BitVec.ofNat 16 q.pipe.code))) ∧
    (Takes s c 0x0302 [] → q.pipe = .loaded → exec (.unload c) s = .next ((u.setPart c.part
      { q with pipe := .none, image := 0, pipeId := 0, stages := [], groups := [], stepGroup := 0 }).okay c 0x0302)) ∧
    (Takes s c 0x0302 [] → q.pipe ≠ .loaded → exec (.unload c) s = .next (u.turnedAway c 0x0302 (BitVec.ofNat 16 q.pipe.code))) ∧
    (∀ im img t, Takes s c 0x0303 [] → q.pipe = .loaded → Roomy u c → u.pwr.deepIdle = false →
      u.readImage c.part q.image.toNat = (.ok im img, t) → u.bindFault c.part im = none →
      exec (.bind c) s = .next (u.begun c 0x0303 fun s => s.bindBegins c.part)) ∧
    (∀ im img t st d, Takes s c 0x0303 [] → q.pipe = .loaded → u.readImage c.part q.image.toNat = (.ok im img, t) →
      u.bindFault c.part im = some (st, d) → exec (.bind c) s = .next (u.answered c 0x0303 st d 0 0 0)) ∧
    (Takes s c 0x0303 [] → q.pipe ≠ .loaded → exec (.bind c) s = .next (u.turnedAway c 0x0303 0))) ∧
  (∀ (s : State) (p : BitVec 6) (x : LongCmd), s.longOf 0x0301 p.toNat = some x →
    (s.frameHeld = true → exec (.loadComplete p) s = .next s) ∧
    (∀ im img t, s.frameHeld = false → s.readImage p.toNat (x.pkt.at_ 24 8) = (.ok im img, t) →
      ∃ v : State, exec (.loadComplete p) s =
        .next (v.complete x sOk 0 im.pipeId (BitVec.ofNat 32 im.stages.length) 0) ∧ (v.getPart p.toNat).pipe = .loaded ∧
        (v.getPart p.toNat).stages = im.stages.map (·.stage) ∧ (v.getPart p.toNat).groups = im.groups ∧
        (v.getPart p.toNat).stepGroup = im.stepGroup ∧ v.isl = t.isl ∧ v.mem = t.mem) ∧
    (∀ f t, s.frameHeld = false → s.readImage p.toNat (x.pkt.at_ 24 8) = (.bad f, t) → exec (.loadComplete p) s =
      .next (t.complete x sBadParam 0xFFFE (BitVec.ofNat 32 f.1) (BitVec.ofNat 32 (f.1 / 2 ^ 32)) (BitVec.ofNat 32 f.2))) ∧
    (∀ f t, s.frameHeld = false → s.readImage p.toNat (x.pkt.at_ 24 8) = (.memory f, t) → exec (.loadComplete p) s =
      .next (t.complete x sMemoryError 0 (BitVec.ofNat 32 f.1) (BitVec.ofNat 32 (f.1 / 2 ^ 32)) (BitVec.ofNat 32 f.2)))) ∧
  (∀ (s : State) (p : Nat) (im : Image) (img : List Byte) (t : State),
    s.readImage p (s.getPart p).image.toNat = (.ok im img, t) → t.bindFault p im = none →
    ((s.bindBegins p).getPart p).binding = some (img, (im.islands.map groupOf).dedup)) ∧
  (∀ (s : State) (p : Nat) (f : ImgFault) (t : State), (s.readImage p (s.getPart p).image.toNat = (.bad f, t) ∨
    s.readImage p (s.getPart p).image.toNat = (.memory f, t)) → s.bindBegins p = s) ∧
  (∀ (s : State) (p : BitVec 6) (x : LongCmd), s.longOf 0x0303 p.toNat = some x →
    let k := p.toNat
    ((s.getPart k).binding = none →
      (∀ f t, s.readImage k (s.getPart k).image.toNat = (.bad f, t) → exec (.bindComplete p) s =
        .next (t.complete x sBadParam 0xFFFE (BitVec.ofNat 32 f.1) (BitVec.ofNat 32 (f.1 / 2 ^ 32)) (BitVec.ofNat 32 f.2))) ∧
      (∀ f t, s.readImage k (s.getPart k).image.toNat = (.memory f, t) → exec (.bindComplete p) s =
        .next (t.complete x sMemoryError 0 (BitVec.ofNat 32 f.1) (BitVec.ofNat 32 (f.1 / 2 ^ 32)) (BitVec.ofNat 32 f.2))) ∧
      (∀ im img t st d, s.readImage k (s.getPart k).image.toNat = (.ok im img, t) → t.bindFault k im = some (st, d) →
        exec (.bindComplete p) s = .next (t.complete x st d 0 0 0)) ∧
      (∀ im img t, s.readImage k (s.getPart k).image.toNat = (.ok im img, t) → t.bindFault k im = none →
        exec (.bindComplete p) s = .next ((s.bindBegins k).bindPlaces k x im img))) ∧
    (∀ img gs im, (s.getPart k).binding = some (img, gs) → parseImage img k (fun _ => true) = .ok im →
      (∀ st d, s.bindFault k im = some (st, d) →
        exec (.bindComplete p) s = .next ((s.bindUndone k).complete x st d 0 0 0)) ∧
      (s.bindFault k im = none → (∃ g ∈ im.islands.map groupOf, (s.getGrp g).gate ≠ .clocked) →
        exec (.bindComplete p) s = .next ((im.islands.map groupOf).dedup.foldl State.wakeGroup s)) ∧
      (s.bindFault k im = none → (∀ g ∈ im.islands.map groupOf, (s.getGrp g).gate = .clocked) →
        ∃ v : State, exec (.bindComplete p) s = .next (v.complete x sOk 0 0 0 0) ∧
          (v.getPart k).pipe = .bound ∧ (v.getPart k).releases = 0 ∧ (v.getPart k).stages = im.stages.map (·.stage) ∧
          ((s.getPart k).restored = none → ∀ g ∈ im.stages, (v.getIsl g.stage.island.toNat).st = stBound))))

/-- START, RESUME, PAUSE, DRAIN, STATUS and EXC_QUEUE (14 R321, 07 R157). -/
def Obligations.PipelinesStartPauseAndDrain : Prop :=
  (∀ (s : State) (c : Packet), let u := s.served c
    let q := u.getPart c.part
    u.busy (onPipe c.part) = none → u.pwr.deepIdle = false →
    (∀ x ∈ [((0x0304 : Half), Instr.start c, PipeSt.bound), (0x0306, Instr.resume c, PipeSt.paused)],
      let g := u.startGroup c x.1.toNat
      Takes s c x.1 (groupFaults c x.1.toNat u) →
      (q.pipe = x.2.2 → u.timeless g = false → Roomy u c → exec x.2.1 s = .next (u.begun c x.1 fun t =>
        (t.setPart c.part { q with starting := true, startGrp := some (BitVec.ofNat 8 g) }).tryArrive g)) ∧
      (q.pipe = x.2.2 → u.timeless g = true → exec x.2.1 s = .next (u.turnedAway c x.1 0x0100)) ∧
      (q.pipe ≠ x.2.2 → exec x.2.1 s = .next (u.turnedAway c x.1 (BitVec.ofNat 16 q.pipe.code)))) ∧
    (let low := u.lowestOpen c.part
      let n : Word := if c.at_ 16 4 = 0 then low else BitVec.ofNat 32 (c.at_ 16 4)
      Takes s c 0x0305 [] →
      (q.pipe = .running → low ≤ n → Roomy u c → exec (.pause c) s =
        .next (u.begun c 0x0305 fun t => t.setPart c.part { q with pipe := .pauseArmed, pauseAt := some n })) ∧
      (q.pipe = .running → n < low → exec (.pause c) s = .next (u.answered c 0x0305 sWrongState (low.setWidth 16) low 0 0)) ∧
      (q.pipe ≠ .running → exec (.pause c) s = .next (u.turnedAway c 0x0305 (BitVec.ofNat 16 q.pipe.code))))) ∧
  (∀ (s : State) (c : Packet), let u := s.served c
    let q := u.getPart c.part
    (Takes s c 0x0307 [] → q.pipe.quiet = false → q.pipe ≠ .draining → Roomy u c →
      exec (.pipelineDrain c) s = .next (u.begun c 0x0307 fun t => t.drainBegins c.part)) ∧
    (Takes s c 0x0307 [] → q.pipe.quiet = true → (u.busy fun x => x.part.toNat = c.part && x.opcode = 0x0303).isSome = true →
      Roomy u c → exec (.pipelineDrain c) s = .next (u.begun c 0x0307 fun t => t.drainBegins c.part)) ∧
    (Takes s c 0x0307 [] → q.pipe.quiet = true → (u.busy fun x => x.part.toNat = c.part && x.opcode = 0x0303).isSome = false →
      exec (.pipelineDrain c) s = .next (u.turnedAway c 0x0307 (BitVec.ofNat 16 q.pipe.code))) ∧
    (Takes s c 0x0307 [] → q.pipe = .draining → exec (.pipelineDrain c) s = .next (u.turnedAway c 0x0307 7)) ∧
    (Takes s c 0x0308 [] → exec (.status c) s = .next ((u.toHost (BitVec.ofNat 64 (c.at_ 16 8))
        (leBytes 8 q.pipe.code ++ leBytes 8 (u.pipeEnergy c.part / 1000000) ++
          (List.range 256).flatMap fun i => leBytes 8 (u.islWord i))).answered c 0x0308 sOk 0 (BitVec.ofNat 32 q.pipe.code)
        (BitVec.ofNat 32 (q.stages.filter fun x => u.islSt x.island.toNat = stFaulted &&
          (u.getIsl x.island.toNat).partition.toNat = c.part).length) q.releases)) ∧
    (let n := c.at_ 16 1
      let queue : ExcQueue := ⟨n, BitVec.ofNat 64 (c.at_ 24 8), BitVec.ofNat 64 (c.at_ 32 8), BitVec.ofNat 64 (c.at_ 40 8), 0, 0, 0⟩
      Takes s c 0x0309 (if 1 ≤ n ∧ n < 6 then [(16, sBadParam, 16)] else []) → exec (.excQueue c) s =
        .next ((u.setPart c.part { q with exc := if n = 0 then none else some queue }).okay c 0x0309))) ∧
  (∀ (s : State) (p : BitVec 6) (x : LongCmd), s.longOf 0x0307 p.toNat = some x →
    let islands := ((s.getPart p.toNat).stages.map fun x => x.island.toNat).filter fun i =>
      stBound ≤ s.islSt i && (s.getIsl i).partition.toNat = p.toNat
    (∀ i ∈ islands, s.islSt i = stRunning ∨ s.islSt i = stFaulted) →
    ((∃ i ∈ islands, (s.getIsl i).still = false) → exec (.pipelineDrainComplete p) s = .next s) ∧
    ((∀ i ∈ islands, (s.getIsl i).still = true) →
      ∃ v : State, exec (.pipelineDrainComplete p) s = .next (v.complete x sOk 0
          (BitVec.ofNat 32 (islands.filter fun i => !(s.getIsl i).ended).length) 0 0) ∧ (v.getPart p.toNat).pipe = .loaded ∧
        (∀ i ∈ islands, (v.getIsl i).st = stGated) ∧ (∀ i, i ∉ islands → v.getIsl i = s.getIsl i) ∧
        (∀ y ∈ v.circ, y.partition.toNat ≠ p.toNat) ∧ v.mem = s.mem))

/-- Table versions and the flip (11 R247 to R251, 14 R322). -/
def Obligations.TablesAreWrittenCommittedAndFlipped : Prop :=
  (∀ (s : State) (c : Packet), let u := s.served c
    let e := verOf c
    u.verBusy e = none →
    (Takes s c 0x0401 (tableFaults c u) → u.ver e = .writable →
      let r := u.sharedRead (c.at_ 24 8) (c.at_ 32 4)
      exec (.tableWrite c) s = .next (if r.2.1 then r.2.2.answered c 0x0401 sMemoryError 0 0 0 0
        else (r.2.2.modTab e fun t => t.write (c.at_ 17 1) (c.at_ 20 4) r.1).okay c 0x0401)) ∧
    (Takes s c 0x0404 [] → u.ver e = .writable → let n := c.at_ 18 2 % 4096
      let bit : Byte := 1 <<< (n % 8)
      let put (b : Byte) : Byte := if c.at_ 18 2 / 2 ^ 15 = 1 then b ||| bit else b &&& ~~~bit
      exec (.fence c) s = .next ((u.modTab e fun t =>
        { t with fence := memWrite t.fence (n / 8) [put (memByte t.fence (n / 8))] }).okay c 0x0404)) ∧
    (Takes s c 0x0402 [] → u.ver e = .writable → Roomy u c → exec (.tableCommit c) s = .next (u.begun c 0x0402 id)) ∧
    (u.ver e ≠ .writable →
      (Takes s c 0x0401 (tableFaults c u) → exec (.tableWrite c) s = .next (u.turnedAway c 0x0401 (BitVec.ofNat 16 (u.ver e).code))) ∧
      (Takes s c 0x0404 [] → exec (.fence c) s = .next (u.turnedAway c 0x0404 (BitVec.ofNat 16 (u.ver e).code))) ∧
      (Takes s c 0x0402 [] → exec (.tableCommit c) s = .next (u.turnedAway c 0x0402 (BitVec.ofNat 16 (u.ver e).code))))) ∧
  (∀ (s : State) (e : BitVec 1) (x : LongCmd), (s.cmds.long.find? fun c => c.opcode = 0x0402 && verOf c.pkt = e) = some x →
    (s.commitFault (s.tab e) = none →
      exec (.tableCommitComplete e) s = .next ((s.modFab fun f => setVer f (e = 1) .ready).complete x sOk 0 0 0 0)) ∧
    (∀ k off, s.commitFault (s.tab e) = some (k, off) →
      exec (.tableCommitComplete e) s = .next (s.complete x sBadParam 0xFFFE (BitVec.ofNat 32 k) (BitVec.ofNat 32 off) 0))) ∧
  (∀ (s : State) (c : Packet), let u := s.served c
    let e := verOf c
    let b := u.getBar (c.at_ 16 1)
    let n : Word := if c.at_ 20 4 = 0 then b.lowest else BitVec.ofNat 32 (c.at_ 20 4)
    (Takes s c 0x0403 (noGroup c u) → u.verBusy u.spare = none → u.ver u.spare = .ready → u.fab.retire ≤ u.now → Roomy u c →
      exec (.flipArm c) s = .next (u.begun c 0x0403 fun t => t.modFab fun f => { f with armed := some (BitVec.ofNat 8 (c.at_ 16 1), n) })) ∧
    (Takes s c 0x0403 (noGroup c u) → u.verBusy u.spare = none → u.ver u.spare ≠ .ready →
      exec (.flipArm c) s = .next (u.turnedAway c 0x0403 (BitVec.ofNat 16 (u.ver u.spare).code))) ∧
    (Takes s c 0x0403 (noGroup c u) → u.verBusy u.spare = none → u.ver u.spare = .ready → u.now < u.fab.retire →
      exec (.flipArm c) s = .next (u.turnedAway c 0x0403 (BitVec.ofNat 16 (min 0xFFFF (u.fab.retire - u.now).toNat)))) ∧
    (∀ op, u.verBusy e = some op →
      (Takes s c 0x0401 (tableFaults c u) → exec (.tableWrite c) s = .next (u.turnedAway c 0x0401 op)) ∧
      (Takes s c 0x0404 [] → exec (.fence c) s = .next (u.turnedAway c 0x0404 op)) ∧
      (Takes s c 0x0402 [] → exec (.tableCommit c) s = .next (u.turnedAway c 0x0402 op))) ∧
    (∀ op, u.verBusy u.spare = some op →
      Takes s c 0x0403 (noGroup c u) → exec (.flipArm c) s = .next (u.turnedAway c 0x0403 op)) ∧
    (Takes s c 0x0405 [] → exec (.fabricStatus c) s = .next ((u.toHost (BitVec.ofNat 64 (c.at_ 16 8))
        ((List.range 32).flatMap fun k => leBytes 8 (u.getPort k).state64 ++ leBytes 4 (u.getPort k).delay.toNat ++ leBytes 4 0)).answered
      c 0x0405 sOk 0 (BitVec.ofNat 32 u.fab.epochWord) (BitVec.ofNat 32 (u.fab.tst.code + u.fab.lastErr.toNat * 2 ^ 16)) 0)))

/-- Fabric settings and barrier groups (14 R322, 12 R271, 19 R416, R421). -/
def Obligations.FabricSettingsAndGroupsAreConfigured : Prop :=
  ∀ (s : State) (c : Packet), let u := s.served c
    let k := c.at_ 16 1
    let b := u.getBar k
    (Takes s c 0x0406 [] → c.at_ 17 1 / 4 % 2 = 0 → exec (.portSet c) s = .next ((u.portSetting c).okay c 0x0406)) ∧
    (Takes s c 0x0406 [] → c.at_ 17 1 / 4 % 2 = 1 → (u.getPort k).st ≠ .narrowing →
      exec (.portRetest c) s = .next (((u.portSetting c).modPort k fun p => p.retested u.clk.now).okay c 0x0406)) ∧
    (Takes s c 0x0406 [] → c.at_ 17 1 / 4 % 2 = 1 → (u.getPort k).st = .narrowing →
      exec (.portRetest c) s = .next (u.turnedAway c 0x0406 6)) ∧
    (let mine := holderId (if c.at_ 16 1 = 1 then featAttach else featDouble) 0;
      Takes s c 0x0407 [] →
      (u.holder rankAux = mine → exec (.auxMode c) s = .next (u.okay c 0x0407)) ∧
      (u.holder rankAux ≠ mine → u.holder rankAux ≠ 0 →
        exec (.auxMode c) s = .next (u.answered c 0x0407 sResourceHeld (u.holder rankAux) 0 0 0)) ∧
      (u.holder rankAux = 0 → exec (.auxMode c) s = .next
        ((([28, 29, 30, 31].foldl State.openPort (({ u with ret := { u.ret with auxMode := c.at_ 16 1 = 1 } } : State).setClaim rankAux mine)).saveSettings).okay
          c 0x0407))) ∧
    (Takes s c 0x0408 [] → exec (.resend c) s = .next (((u.record c 0x0408 0 sOk 0 0 0 0).modTrk
      fun t => { t with resendT := BitVec.ofNat 16 (c.at_ 16 2) }).advanceCi c.ring.toNat c.length.toNat)) ∧
    (Takes s c 0x0409 (if c.at_ 18 1 % 2 = 1 ∧ c.at_ 18 1 / 2 % 4 ≠ 0 then [(18, sBadParam, 18)] else []) →
      let m := syncModeOf c
      let old := u.ret.syncMode
      let held := u.firstHeld (if m ≠ old ∧ old = 0 then [rankSync] else []) (decide (m ≠ old ∧ m = 2)) []
      let w := u.syncClaims m
      let v := ({ w with ret := { w.ret with syncMode := m, syncOff := BitVec.ofNat 16 (c.at_ 20 2) } } : State).modFab fun f =>
        { f with master := BitVec.ofNat 12 (c.at_ 16 2), freeMode := c.at_ 16 2 / 2 ^ 15 = 1 }
      (∀ h, held = some h → exec (.timeCfg c) s = .next (u.answered c 0x0409 sResourceHeld h 0 0 0)) ∧
      (held = none → exec (.timeCfg c) s = .next ((v.modFab fun f => { f with tst := v.timeState }).saveSettings.okay c 0x0409))) ∧
    (let owner : BitVec 6 := BitVec.ofNat 6 (c.at_ 17 1)
      let r := u.sharedRead (c.at_ 24 8) 512;
      Takes s c 0x040A (barrierFaults c u) →
      (let free := b.valid = false ∨ b.owner = owner ∨ u.groupUser b.owner.toNat k = none;
        (free → r.2.1 = true → exec (.barrierCfg c) s = .next (r.2.2.answered c 0x040A sMemoryError 0 0 0 0)) ∧
        (free → r.2.1 = false → exec (.barrierCfg c) s =
        .next ((((r.2.2.setBar k (b.configured owner (BitVec.ofNat 12 (c.at_ 18 2)) (BitVec.ofNat 15 (r.2.2.expertVal c 0x040A 20 2 250))
          (c.at_ 22 1 % 2 = 1) (bitmapNodes r.1))).record c 0x040A 0 sOk 0 0 0 0).rearrive k b.coord).advanceCi c.ring.toNat c.length.toNat))) ∧
      (∀ st, b.valid = true → b.owner ≠ owner → u.groupUser b.owner.toNat k = some st →
        exec (.barrierCfg c) s = .next (u.turnedAway c 0x040A (BitVec.ofNat 16 st.code)))) ∧
    (Takes s c 0x040B [] →
      ((∀ x ∈ u.part, x.2.pipe.beyondLoaded = false ∨ x.2.uses k = false) →
        exec (.barrierFree c) s = .next ((u.setBar k b.freed).okay c 0x040B)) ∧
      (∀ x, (u.part.find? fun x => x.2.pipe.beyondLoaded && x.2.uses k) = some x →
        exec (.barrierFree c) s = .next (u.turnedAway c 0x040B (BitVec.ofNat 16 x.2.pipe.code))))

/-- The snapshot group (14 R323, 16 R355, R357, R366, R369, 19 R422); the conditions of SNAP_CUT are log 56. -/
def Obligations.SnapshotCommandsTakeEffect : Prop :=
  ∀ (s : State) (c : Packet), let u := s.served c
    let q := u.getPart c.part
    u.engineBusy = none →
    (Takes s c 0x0501 [] → c.at_ 16 1 % 2 = 1 →
      (u.snap.enabled = true → exec (.snapEnable c) s = .next (u.okay c 0x0501)) ∧
      (∀ h, u.snap.enabled = false → u.engineHeld = some h →
        exec (.snapEnable c) s = .next (u.answered c 0x0501 sResourceHeld h 0 0 0)) ∧
      (u.snap.enabled = false → u.engineHeld = none → exec (.snapEnable c) s =
        .next ((((u.takeComp (holderId featSched 0)).setClaims u.engineRanks (holderId featSnap 0)).modSnap
          fun x => { x with enabled := true }).okay c 0x0501))) ∧
    (Takes s c 0x0501 [] → c.at_ 16 1 % 2 = 0 → exec (.snapDisable c) s =
      .next ((((u.releaseFeat featSched).releaseFeat featSnap).modSnap fun x => { x with enabled := false }).okay c 0x0501)) ∧
    (let n := c.at_ 16 2
      let r := u.sharedRead (c.at_ 24 8) (64 + 32 * n)
      let t := r.2.2;
      Takes s c 0x0502 (if u.admits c.part (c.at_ 24 8) (64 + 32 * n) then [] else [(24, sBadParam, 24)]) →
      (r.2.1 = true → exec (.snapPolicy c) s = .next (t.answered c 0x0502 sMemoryError 0 0 0 0)) ∧
      (∀ off, r.2.1 = false → t.policyFault c.part r.1 n = some off → exec (.snapPolicy c) s =
        .next (t.answered c 0x0502 sBadParam 24 (BitVec.ofNat 32 off) 0 0)) ∧
      (r.2.1 = false → t.policyFault c.part r.1 n = none → t.engineBusy = none → t.snap.enabled = false →
        exec (.snapPolicy c) s = .next (t.turnedAway c 0x0502 0)) ∧
      (r.2.1 = false → t.policyFault c.part r.1 n = none → t.engineBusy = none → t.snap.enabled = true → exec (.snapPolicy c) s =
        .next (((t.modPart c.part fun q => { q with policy := some (Policy.parse r.1 n) }).modSnap
          fun x => { x with fullDue := 3 }).okay c 0x0502))) ∧
    (∀ tags, let p := c.at_ 16 1
      let partner : NodeId := BitVec.ofNat 12 (c.at_ 18 2)
      let stripe : List NodeId := (stripeOf c).map (BitVec.ofNat 12)
      let known : List (NodeId × Half) := tags.filterMap fun x : NodeId × Option Half => x.2.map fun v => (x.1, v)
      let v := { u.getPart p with partner := some partner, stripe := stripe, tags := known }
      let reached := (partner :: stripe).all fun n => n = u.fab.node || tags.any fun x => x.1 = n && x.2.isSome;
      Takes s c 0x0503 (partnerFaults c u) →
      (reached = false → exec (.snapPartners c tags) s = .next (u.answered c 0x0503 sTimeout 0 0 0 0)) ∧
      (reached = true → u.firstShared v = none → exec (.snapPartners c tags) s =
        .next (((u.setPart p v).modSnap fun x => { x with fullDue := 3, sharedTag := false }).okay c 0x0503)) ∧
      (∀ n, reached = true → u.firstShared v = some n → c.at_ 17 1 % 2 = 0 → exec (.snapPartners c tags) s =
        .next (u.answered c 0x0503 sFeedShared (n.zeroExtend 16) 0 0 0)) ∧
      (∀ n, reached = true → u.firstShared v = some n → c.at_ 17 1 % 2 = 1 → exec (.snapPartners c tags) s =
        .next (((u.setPart p v).modSnap fun x => { x with fullDue := 3, sharedTag := true }).okay c 0x0503))) ∧
    (u.busy (onPipe c.part) = none → u.pwr.deepIdle = false →
      (let low := u.lowestOpen c.part
        let n : Word := if c.at_ 16 4 = 0 then low else BitVec.ofNat 32 (c.at_ 16 4);
        Takes s c 0x0504 [] →
        (q.pipe.quiet = false → u.snap.enabled = true → q.policy ≠ none → low ≤ n → Roomy u c → exec (.snapCut c) s =
          .next (u.begun c 0x0504 fun t => t.modSnap fun x => { x with armed := some (BitVec.ofNat 6 c.part, n, true) })) ∧
        (q.pipe.quiet = true → exec (.snapCut c) s = .next (u.turnedAway c 0x0504 (BitVec.ofNat 16 q.pipe.code))) ∧
        (q.pipe.quiet = false → u.snap.enabled = false ∨ q.policy = none → exec (.snapCut c) s = .next (u.turnedAway c 0x0504 0)) ∧
        (q.pipe.quiet = false → u.snap.enabled = true → q.policy ≠ none → n < low →
          exec (.snapCut c) s = .next (u.turnedAway c 0x0504 (BitVec.ofNat 16 (low.toNat % 65536))))) ∧
      (Takes s c 0x0505 [] → q.pipe = .loaded → Roomy u c → exec (.restore c) s =
        .next (u.begun c 0x0505 fun t => t.modSnap fun x => { x with restoring := some (BitVec.ofNat 6 c.part) })) ∧
      (Takes s c 0x0505 [] → q.pipe ≠ .loaded → exec (.restore c) s = .next (u.turnedAway c 0x0505 (BitVec.ofNat 16 q.pipe.code))) ∧
      (Takes s c 0x0506 [] → c.at_ 16 1 = 0 → q.restored ≠ none → q.pipe = .bound → Roomy u c → exec (.verify c) s =
        .next (u.begun c 0x0506 fun t => t.modPart c.part fun q => { q with verifyArmed := true })) ∧
      (Takes s c 0x0506 [] → c.at_ 16 1 ≠ 0 → q.restored ≠ none → q.pipe = .bound ∨ q.pipe = .loaded →
        ((∃ y n, q.policy = some y ∧ y.replica = some n) → Roomy u c → exec (.verify c) s = .next (u.begun c 0x0506 id)) ∧
        ((∀ y, q.policy = some y → y.replica = none) → exec (.verify c) s = .next (u.turnedAway c 0x0506 0))) ∧
      (Takes s c 0x0506 [] → q.restored = none ∨ q.pipe ≠ .bound ∧ (c.at_ 16 1 = 0 ∨ q.pipe ≠ .loaded) →
        exec (.verify c) s = .next (u.turnedAway c 0x0506 (BitVec.ofNat 16 q.pipe.code)))) ∧
    (Takes s c 0x0507 [] → ∃ bs, exec (.snapStatus c) s = .next ((u.toHost (BitVec.ofNat 64 (c.at_ 16 8)) bs).answered c 0x0507 sOk 0
      u.snap.last u.snap.lastStep ((if u.snap.cut.isSome then 1 else 0) ||| if u.snap.restoring.isSome then 2 else 0)) ∧
      bs.length = 64)

/-- The ends of SNAP_CUT, RESTORE and VERIFY (16 R360, R369 to R371). -/
def Obligations.CutsRestoresAndChecksEnd : Prop :=
  (∀ s : State, s.snap.cut = none → exec .snapCopyComplete s = .next s) ∧
  (∀ (s : State) (c : Cut), s.snap.cut = some c → s.copying = true → exec .snapCopyComplete s = .next s) ∧
  (∀ (s : State) (c : Cut), s.snap.cut = some c → c.edge = true → s.copying = false → s.latching c.part.toNat = false → c.failed = [] →
    ∃ t : State, exec .snapCopyComplete s = .next t ∧ t.snap.cut = none ∧ t.snap.last = c.release ∧ t.snap.older = s.snap.last ∧
      t.snap.gen = s.snap.gen ||| bit2 (s.snap.genNo % 2)) ∧
  (∀ (s : State) (c : Cut), s.snap.cut = some c → c.edge = true → s.copying = false → s.latching c.part.toNat = false → c.failed ≠ [] →
    ∃ t : State, exec .snapCopyComplete s = .next t ∧ t.snap.cut = none ∧ t.snap.last = s.snap.last ∧ t.snap.older = s.snap.older ∧
      t.snap.gen = s.snap.gen ∧ t.snap.fullDue = s.snap.fullDue ||| bit2 (s.snap.genNo % 2)) ∧
  (∀ (s : State) (p : BitVec 6) (x : LongCmd), (s.cmds.long.find? fun c => c.opcode = 0x0505 && c.part = p && c.st = .accepted) = some x →
    let source := x.pkt.at_ 16 1
    let q := s.getPart p.toNat
    let end_ (t : State) : State := t.modSnap fun y => { y with restoring := none }
    (∀ got, source ≠ 2 → 2 ≤ q.restores ∨ got = none → exec (.restoreComplete p got) s =
      .next ((end_ s).complete x sNoResource (BitVec.ofNat 16 source) 0 0 0)) ∧
    (source = 2 → exec (.restoreComplete p none) s = .next s) ∧
    (∀ r : Restored, source = 2 ∨ q.restores < 2 →
      let t := end_ (r.data.foldl State.putRestored s)
      (r.missing = 0 → exec (.restoreComplete p (some r)) s = .next ((t.modPart p.toNat fun q =>
        { q with restores := q.restores + (if source = 2 then 0 else 1), restored := some r.release,
                 captures := (r.data.filterMap captureOf).foldl (fun m x => smSet m x.1 x.2) [],
                 lossSaved := r.ring.foldl (fun m x => smSet m x.1 x.2) [] }).complete x sOk 0 r.step 0 0)) ∧
      (r.missing ≠ 0 → exec (.restoreComplete p (some r)) s =
        .next (t.complete x sVerifyFailed 0 r.step (BitVec.ofNat 32 r.missing) (r.failed.zeroExtend 32))))) ∧
  (∀ (s : State) (p : BitVec 6) (x : LongCmd) (y : Policy),
    (s.cmds.long.find? fun c => c.opcode = 0x0506 && c.part = p && c.st = .accepted && c.pkt.at_ 16 1 = 1) = some x →
    (s.getPart p.toNat).policy = some y →
    exec (.replicaHashCompareDone p (s.digests (s.getPart p.toNat) y)) s =
      .next (s.complete x sOk 0 (s.getPart p.toNat).restoredStep 0 0) ∧
    ∀ other, let own := s.digests (s.getPart p.toNat) y
      own ≠ other → exec (.replicaHashCompareDone p other) s =
        .next (s.complete x sVerifyFailed 0 (s.getPart p.toNat).restoredStep
          (BitVec.ofNat 32 (firstDiff (own.flatMap (bvBytes 64)) (other.flatMap (bvBytes 64)) (16 * min own.length other.length))) 0))

/-- The power group (14 R324), diagnostics (14 R326, 10 R228), claims (14 R327); entering and leaving DEEP_IDLE in
corner cases is log 57. -/
def Obligations.PowerDiagnosticsAndClaimCommandsTakeEffect : Prop :=
  ∀ (s : State) (c : Packet), let u := s.served c
    let flag := c.at_ 16 1 % 2 = 1
    (Takes s c 0x0601 [] → exec (.powerStatus c) s = .next (u.answered c 0x0601 sOk 0 (BitVec.ofNat 32 u.pwr.est)
      (BitVec.ofNat 32 (u.pwr.level.toNat + if u.emergency then 8 else 0)) (BitVec.ofNat 32 u.pwr.cap))) ∧
    (Takes s c 0x0602 (if 1 ≤ c.at_ 16 2 ∧ c.at_ 16 2 < 400 then [(16, sBadParam, 16)] else []) → exec (.hostCap c) s =
      .next (((u.modPwr fun p => { p with hostCap := BitVec.ofNat 16 (c.at_ 16 2) }).saveSettings.capChanged u.pwr.cap).okay c 0x0602)) ∧
    (Takes s c 0x0603 [] → exec (.levelLimit c) s =
      .next (((u.modPwr fun p => { p with limit := BitVec.ofNat 3 (c.at_ 16 1) }).saveSettings.decideLevel 0).okay c 0x0603)) ∧
    (Takes s c 0x0604 [] → flag → (∀ p ∈ u.part, p.2.pipe.beyondLoaded = false) →
      (∀ x ∈ u.cmds.long, x.opcode ≠ 0x0604 ∧ planeOp x.opcode = false) →
      exec (.deepIdleEnter c) s = .next ((if u.pwr.deepIdle then u else u.enterIdle).okay c 0x0604)) ∧
    (∀ x, Takes s c 0x0604 [] → flag → (u.part.find? fun p => p.2.pipe.beyondLoaded) = some x →
      exec (.deepIdleEnter c) s = .next (u.turnedAway c 0x0604 (BitVec.ofNat 16 x.2.pipe.code))) ∧
    (Takes s c 0x0604 [] → ¬ flag → Roomy u c → exec (.deepIdleExit c) s = .next (u.begun c 0x0604 fun t =>
      if t.pwr.deepIdle then t.leaveIdle else t.completeAll (fun x => x.opcode = 0x0604 && x.pkt = c) sOk 0)) ∧
    (s.pwr.leaving = none → exec .deepIdleExitComplete s = .next s) ∧
    (∀ t, s.pwr.leaving = some t → s.clk.now < t + 100000 → exec .deepIdleExitComplete s = .next s) ∧
    (∀ t, s.pwr.leaving = some t → t + 100000 ≤ s.clk.now →
      let v := ((s.modPwr fun p => { p with deepIdle := false, leaving := none }).modHost fun h => { h with linkL1 := false }).modMem
        fun m => { m with frameFrom := ceilDiv s.clk.now 80 * 80 }
      let w := ((List.range 32).foldl State.wakePort v).completeAll (fun x => x.opcode = 0x0604) sOk 0
      exec .deepIdleExitComplete s =
        .next ((w.cmds.long.filter fun x => x.st = .deferred && planeOp x.opcode).foldl State.beginDeferred w)) ∧
    (∀ op, Takes s c 0x0604 [] → flag → (∀ p ∈ u.part, p.2.pipe.beyondLoaded = false) →
      (u.busy fun x => x.opcode = 0x0604 || planeOp x.opcode) = some op →
      exec (.deepIdleEnter c) s = .next (u.turnedAway c 0x0604 op)) ∧
    (∀ d, Takes s c 0x0604 [] → ¬ flag → u.fullFor c.part = some d →
      exec (.deepIdleExit c) s = .next (u.answered c 0x0604 sNoResource d 0 0 0)) ∧
    (let later (op : Half) : State :=
        ((({ u with cmds := { u.cmds with
            long := u.cmds.long ++ [acceptedCmd u c op ((opSpec op.toNat).getD ⟨1, false, 0, []⟩) .deferred] } } : State).record
          c op 0 sDeferred 1 0 0 0).leaveIdle).advanceCi c.ring.toNat c.length.toNat;
      u.pwr.deepIdle = true → Roomy u c →
        (Takes s c 0x0106 [] → (∀ p ∈ u.part, p.2.pipe = .none) → exec (.memoryClear c) s = .next (later 0x0106)) ∧
        (Takes s c 0x0505 [] → u.busy (onPipe c.part) = none → u.engineBusy = none → (u.getPart c.part).pipe = .loaded →
          exec (.restore c) s = .next (later 0x0505))) ∧
    (let e : Dword := BitVec.ofNat 64 ((if c.part = 0 then u.pwr.energy else u.energyOf c.part) / 1000000);
      Takes s c 0x0605 [] → exec (.energy c) s = .next (u.answered c 0x0605 sOk 0 (Word.lo e) (Word.hi e) 0)) ∧
    (Takes s c 0x0606 [] → exec (.energyMode c) s =
      .next ((u.modPwr fun p => { p with perPart := decide (c.at_ 16 1 = 0) }).saveSettings.okay c 0x0606)) ∧
    (Takes s c 0x0607 [] → exec (.estimator c) s =
      .next ((u.modPwr fun p => { p with calibrated := decide (c.at_ 16 1 = 1) }).saveSettings.okay c 0x0607)) ∧
    (Takes s c 0x0801 [] →
      (flag → exec (.diagModeEnter c) s = .next (({ u with cmds := { u.cmds with diag := true } } : State).okay c 0x0801)) ∧
      (¬ flag → exec (.diagModeLeave c) s = .next
        (({ u.clearInjection with cmds := { u.clearInjection.cmds with diag := false } } : State).okay c 0x0801))) ∧
    (Takes s c 0x0802 (fiFaults c) →
      (u.cmds.diag = false → exec (.fiSet c) s = .next (u.turnedAway c 0x0802 0)) ∧
      (u.cmds.diag = true →
        let comp := decide (c.at_ 24 1 / 16 % 2 = 1) && !u.holdsFeat 6
        let t := if comp then u.takeComp (holderId 6 0) else u
        let t := t.modPort (c.at_ 16 1) fun x => { x with fi := smMod FiSet.reset x.fi (c.at_ 17 1) fun f => f.written c t.clk.now }
        let t := if c.at_ 24 1 % 4 = 0 then t.releaseHeld (c.at_ 16 1) (c.at_ 17 1) fun _ => true else t;
        (∀ h, u.firstHeld [] comp [] = some h → exec (.fiSet c) s = .next (u.answered c 0x0802 sResourceHeld h 0 0 0)) ∧
        (u.firstHeld [] comp [] = none →
          exec (.fiSet c) s = .next ((if t.fiIdle then t.dropClaims 6 else t).okay c 0x0802)))) ∧
    (Takes s c 0x0803 [] →
      (u.cmds.diag = false → exec (.fiKey c) s = .next (u.turnedAway c 0x0803 0)) ∧
      (u.cmds.diag = true → exec (.fiKey c) s =
        .next ((u.modFab fun f => { f with fiKey := BitVec.ofNat 128 (c.at_ 16 16) }).okay c 0x0803))) ∧
    (Takes s c 0x0804 [] → exec (.errClear c) s = .next ((u.modMem fun m =>
      { m with scrubs := 0, scrubbed := [], wlog := [], chCorr := [], chUe := [], spCorr := [], accCorr := [], imCorr := [], parity := [],
               islUe := [] }).okay c 0x0804)) ∧
    (let buf : Dword := BitVec.ofNat 64 (c.at_ 16 8)
      let rs := u.flog.from_ (c.at_ 24 4) (c.at_ 28 4);
      Takes s c 0x0805 [] → exec (.logRead c) s = .next ((u.toHost buf (rs.flatMap LogRec.bytes)).answered c 0x0805 sOk 0
        (BitVec.ofNat 32 (if buf = 0 then 0 else rs.length)) u.flog.oldest 0)) ∧
    (∀ r, rankOfId (c.at_ 16 2) = some r → Takes s c 0x0901 [] →
      exec (.claimQuery c) s = .next (u.answered c 0x0901 sOk 0 ((u.holder r).zeroExtend 32) (u.claimAt r).time 0)) ∧
    (rankOfId (c.at_ 16 2) = none → Takes s c 0x0901 [] → exec (.claimQuery c) s = .next (u.answered c 0x0901 sBadParam 16 0 0 0)) ∧
    (let buf : Dword := BitVec.ofNat 64 (c.at_ 16 8);
      Takes s c 0x0902 [] → exec (.claimTable c) s = .next ((u.toHost buf ((List.range claimCount).flatMap fun r =>
        leBytes 2 (u.holder r).toNat ++ leBytes 2 0 ++ leBytes 4 (u.claimAt r).time.toNat)).answered c 0x0902 sOk 0
          (BitVec.ofNat 32 (if buf = 0 then 0 else claimCount)) 0 0))

/-- Firmware commands and activation (14 R325, 15 R336, R346 to R352). -/
def Obligations.FirmwareIsStagedActivatedAndHandedOff : Prop :=
  (∀ (s : State) (c : Packet), let u := s.served c
    let now := s.clk.now
    let atStart := c.at_ 16 1 % 2 = 1
    let accepts (op : Half) (b : State → State) : State :=
      if ¬ atStart ∧ u.emergency = true then
        (b (({ u with cmds := { u.cmds with
            long := u.cmds.long ++ [acceptedCmd u c op ((opSpec op.toNat).getD ⟨1, false, 0, []⟩) .deferred] } } : State).record
          c op 0 sDeferred 2 0 0 0)).advanceCi c.ring.toNat c.length.toNat
      else u.begun c op b;
    (u.slotsBusy = none →
      (Takes s c 0x0701 (stageFaults c u) → Roomy u c → exec (.fwStage c) s = .next (u.begun c 0x0701 id)) ∧
      (Takes s c 0x0702 [] → u.fw.staged = false → exec (.fwActivate c) s = .next (u.turnedAway c 0x0702 0)) ∧
      (Takes s c 0x0702 [] → u.fw.staged = true → Roomy u c → exec (.fwActivate c) s = .next (accepts 0x0702 fun t =>
        if atStart then t.armStart 0x0702 none else t.beginActivation true now)) ∧
      (Takes s c 0x0703 [] → Roomy u c → exec (.fwRollback c) s = .next (accepts 0x0703 fun t =>
        if atStart then t.armStart 0x0703 (t.fw.slotFault !t.fw.active) else t.beginActivation true now))) ∧
    (∀ op, u.slotsBusy = some op →
      (Takes s c 0x0701 (stageFaults c u) → exec (.fwStage c) s = .next (u.turnedAway c 0x0701 op)) ∧
      (Takes s c 0x0702 [] → exec (.fwActivate c) s = .next (u.turnedAway c 0x0702 op)) ∧
      (Takes s c 0x0703 [] → exec (.fwRollback c) s = .next (u.turnedAway c 0x0703 op))) ∧
    (Takes s c 0x0704 [] → exec (.fwStatus c) s = .next (u.answered c 0x0704 sOk 0 (manVersion (u.fw.slot false)) (manVersion (u.fw.slot true))
      (BitVec.ofNat 32 ((if u.fw.active then 1 else 0) + (if u.fw.staged then 2 else 0) + if u.fw.act.any fun a => a.phase = .hold then 4 else 0))))) ∧
  (∀ (s : State) (x : LongCmd), (s.cmds.long.find? fun c => c.opcode = 0x0701) = some x →
    let b := s.stageSlot x.pkt
    let r := s.sharedRead (x.pkt.at_ 24 8) (x.pkt.at_ 20 4)
    let fw := { (r.2.2.fw.setSlot b (if r.2.1 then [] else memWrite [] 0 r.1)) with staged := false };
    (s.frameHeld = true → exec .fwStageComplete s = .next s) ∧
    (s.frameHeld = false → r.2.1 = true →
      exec .fwStageComplete s = .next (({ r.2.2 with fw := fw } : State).complete x sMemoryError 0 0 0 0)) ∧
    (s.frameHeld = false → r.2.1 = false → fw.stageFault b = none →
      exec .fwStageComplete s = .next (({ r.2.2 with fw := { fw with staged := true } } : State).complete x sOk 0 0 0 0)) ∧
    (∀ d v, s.frameHeld = false → r.2.1 = false → fw.stageFault b = some (d, v) →
      exec .fwStageComplete s = .next (({ r.2.2 with fw := fw } : State).complete x sVerifyFailed d v 0 0))) ∧
  (∀ s : State, s.fw.act = none → exec .activationContinue s = .next s ∧ exec .activationHoldExpiry s = .next s ∧
    exec .activationLoadDone s = .next s ∧ ∀ r, exec (.handOffDone r) s = .next s) ∧
  (∀ (s : State) (a : Activation), s.fw.act = some a →
    let calm := s.emergency = false ∧ ∃ t, a.calmAt = some t ∧ t + 25000000 ≤ s.clk.now
    let go (p : ActPhase) (t : State) : State := t.modFw fun f => { f with act := some { a with phase := p } };
    (calm → a.phase = .calm → exec .activationContinue s = .next (go (.hand 6) s)) ∧
    (calm → a.phase = .hold → s.clk.now < a.since + 1500000000 → exec .activationContinue s = .next (go .quiesce s).quiesced) ∧
    (¬ calm ∨ a.phase = .hold ∧ a.since + 1500000000 ≤ s.clk.now ∨ (a.phase ≠ .calm ∧ a.phase ≠ .hold) →
      exec .activationContinue s = .next s) ∧
    (a.begun = false → a.held = true → a.since + 1500000000 ≤ s.clk.now → exec .activationHoldExpiry s =
      .next ((if a.byCmd then s else s.logFault .activationHeld srcMgmt 0 0).endActivation sEmergency 0 0)) ∧
    (a.begun = true ∨ a.held = false ∨ s.clk.now < a.since + 1500000000 → exec .activationHoldExpiry s = .next s) ∧
    (a.phase ≠ .load → exec .activationLoadDone s = .next s) ∧
    (a.phase = .load → (s.fw.stageFault !s.fw.active) = none → exec .activationLoadDone s = .next (go (.hand 0) s)) ∧
    (∀ d r, a.phase = .load → (s.fw.stageFault !s.fw.active) = some (d, r) →
      exec .activationLoadDone s = .next (s.endActivation sVerifyFailed d r)) ∧
    (∀ n, a.phase = .hand n →
      let k := handOrder.getD n 0
      let v := if k = 3 then (s.flipSide k).clearInjection else s.flipSide k;
      exec (.handOffDone .accepted) s =
        .next (if n = 6 then v.switched else if n = 5 ∧ v.emergency = true then go .calm v else go (.hand (n + 1)) v) ∧
      exec (.handOffDone .refused) s = .next ((s.handBack n).endActivation sVerifyFailed 7 (BitVec.ofNat 32 k)) ∧
      exec (.handOffDone .exporterLost) s = .next ((s.handBack n).endActivation sInternal 0 0)) ∧
    ((∀ n, a.phase ≠ .hand n) → ∀ r, exec (.handOffDone r) s = .next s)) ∧
  (∀ s : State, (s.fw.trial = true → s.fw.trialAt + 1500000000 ≤ s.clk.now →
      exec .trialWindowClose s = .next (s.modFw fun f =>
        { f with trial := false, raise := false, floor := if f.raise then max f.floor f.svn.toNat else f.floor })) ∧
    (s.fw.trial = false ∨ s.clk.now < s.fw.trialAt + 1500000000 → exec .trialWindowClose s = .next s))

/-- The power manager's own events (17 R377 to R393, 19 R415). -/
def Obligations.PowerManagerMeasuresChoosesAndActs : Prop :=
  (∀ (s : State) (cores : Nat), let raw := s.windowEnergy cores
    let e := s.pwr.scaled raw.1
    let w := (e :: s.pwr.window).take 250
    let excess := decide (11 * s.pwr.testCap.toNat * 4000000 < 10 * e)
    let begins := excess = true ∧ 250 ≤ s.pwr.overCap
    let clears := ¬ begins ∧ s.pwr.causes.getLsbD 0 = true ∧ w.sum / max 1 w.length ≤ s.pwr.cap * 4000000
    ∃ t : State, exec (.powerEstimateWindow cores) s = .next t ∧ t.pwr.energy = s.pwr.energy + e ∧ t.pwr.est = e / 4000000 ∧
      t.pwr.window = w ∧ t.pwr.overCap = (if excess then s.pwr.overCap + 1 else 0) ∧
      (begins → t.pwr.causes = s.pwr.causes ||| 1) ∧ (clears → t.pwr.causes = s.pwr.causes &&& ~~~1) ∧
      (begins → s.pwr.causes = 0 → t.pwr.emergFirst = 1 ∧ t.pwr.level = 5) ∧
      (¬ begins ∨ s.pwr.causes ≠ 0 → t.pwr.emergFirst = s.pwr.emergFirst ∧ t.pwr.level = s.pwr.level) ∧
      (¬ begins → ¬ clears → t.pwr.causes = s.pwr.causes ∧ t.pwr.acts = [] ∧ t.mem = s.mem ∧ t.trk = s.trk) ∧
      (s.pwr.perPart = false → ∀ p, (t.getPart p).energy = (s.getPart p).energy) ∧
      (s.pwr.perPart = true → ∀ p, (t.getPart p).energy = (s.getPart p).energy +
        if p = 0 then e - (raw.2.2.map fun x => s.pwr.scaled x.2).sum else s.pwr.scaled (smGet 0 raw.2.2 p))) ∧
  (∀ (s : State), s.emergency = false → let l := (s.pwr.choose 0).1
    (∃ t : State, exec .levelChoice s = .next t ∧ t.pwr.decided = BitVec.ofNat 3 l ∧ t.pwr.level = s.pwr.level ∧
      t.pwr.capUnmet = (s.pwr.choose 0).2 ∧ t.pwr.energy = s.pwr.energy ∧ t.mem = s.mem ∧ t.isl = s.isl) ∧
    l ≤ 4 ∧ s.pwr.floor ≤ l) ∧
  (∀ (s : State) (k : Nat), s.pwr.limit.toNat ≤ k → k ≤ 4 → s.pwr.level.toNat ≤ k → s.pwr.fits k 100 = true →
    (s.pwr.choose 0).2 = false ∧ (s.pwr.choose 0).1 ≤ max k s.pwr.floor) ∧
  (∀ (s : State), s.emergency = true → exec .levelChoice s = .next s) ∧
  (∀ (s : State) (g : Nat), s.pwr.grace = some g →
    (g + 2500000 ≤ s.clk.now → exec .capGraceExpiry s =
      .next { s with pwr := { s.pwr with grace := none, testCap := BitVec.ofNat 16 s.pwr.cap } }) ∧
    (s.clk.now < g + 2500000 → exec .capGraceExpiry s = .next s)) ∧
  (∀ (s : State), (s.clk.now < s.pwr.railSince + s.pwr.rampTicks → exec .vcoreRampReached s = .next s) ∧
    (s.pwr.railSince + s.pwr.rampTicks ≤ s.clk.now → exec .vcoreRampReached s =
      .next { s with pwr := { s.pwr with rail := s.pwr.railGoal, railSince := s.clk.now } })) ∧
  (∀ (s : State) (a v : Half), ∃ t : State, exec (.inputPowerSample a v) s = .next t ∧
    t.pwr = { s.pwr with measured := BitVec.ofNat 16 (a.toNat * v.toNat / 10000), volt := v,
                         measJ := s.pwr.measJ + a.toNat * v.toNat * 100000 } ∧
    t.pins = { s.pins with inputV := v, inputA := a } ∧ t.mem = s.mem ∧ t.host = s.host) ∧
  (∀ (s : State),
    (s.pwr.calibrated = false → exec .gainUpdate s = .next { s with pwr := { s.pwr with measJ := 0, estJ := 0 } }) ∧
    (s.pwr.calibrated = true → s.pwr.estJ ≠ 0 → ∃ t : State, exec .gainUpdate s = .next t ∧
      0x3333 ≤ t.pwr.gain.toNat ∧ t.pwr.gain.toNat ≤ 0x5000 ∧
      (0x3333 * s.pwr.estJ ≤ s.pwr.measJ * 0x4000 → s.pwr.measJ * 0x4000 < 0x5001 * s.pwr.estJ →
        t.pwr.gain = BitVec.ofNat 16 (s.pwr.measJ * 0x4000 / s.pwr.estJ)) ∧
      t.pwr.measJ = 0 ∧ t.pwr.estJ = 0 ∧ t.pwr.energy = s.pwr.energy ∧ t.pins = s.pins) ∧
    (s.pwr.calibrated = true → s.pwr.estJ = 0 → ∃ t : State, exec .gainUpdate s = .next t ∧
      t.pwr = { s.pwr with gain := t.pwr.gain, measJ := 0, estJ := 0 } ∧ t.pins = s.pins ∧ t.mem = s.mem)) ∧
  (∀ (s : State) (rs : List Half), let temp (k : Nat) : Int := (rs.getD k (smGet 0 s.pwr.temp k)).toInt
    ∃ t : State, exec (.sensorSample rs) s = .next t ∧
    (∀ k, k < 160 → sensorOf t.pwr k = temp k) ∧
    ((∃ k, k < 160 ∧ (if k < 128 then 1080 else 1000) ≤ temp k) → t.pwr.causes.getLsbD 2 = true) ∧
    ((∀ k, k < 160 → temp k < (if k < 128 then 1040 else 970)) → t.pwr.causes.getLsbD 2 = false) ∧
    ((∃ k, k < 160 ∧ (if k < 128 then 1040 else 970) ≤ temp k) → (∀ k, k < 160 → temp k < (if k < 128 then 1080 else 1000)) →
      t.pwr.causes = s.pwr.causes) ∧
    t.pwr.energy = s.pwr.energy ∧ t.mem = s.mem ∧ t.isl = s.isl) ∧
  (∀ (s : State) (k : Byte), s.clk.lit = true → s.pwr.tripped = false → ∃ t : State, exec (.thermalTrip k) s = .next t ∧
    t.pwr.tripped = true ∧ t.pins.thermtrip = true ∧ t.pwr.tripLog = s.now.extractLsb' 0 48 ++ (1 : Byte) ++ k ∧
    t.mem.hbm = [] ∧ t.mem.valid = false ∧ t.isl = [] ∧ t.host.linkUp = false ∧ t.fw.starting = none ∧
    t.pwr.energy = s.pwr.energy ∧ t.pending = s.pending) ∧
  (∀ (s : State) (k : Byte), s.clk.lit = false ∨ s.pwr.tripped = true → exec (.thermalTrip k) s = .next s) ∧
  (∀ (s : State) (v : Half), let low := decide (v.toNat < 3800)
    let high := decide (5500 < v.toNat)
    let margin := decide (v.toNat < 4000 ∨ 5000 < v.toNat)
    let fault := low = true ∧ 499 ≤ s.pins.lowFor ∨ high = true ∧ 124 ≤ s.pins.highFor
    (s.pins.latched = false → fault → ∃ t : State, exec (.inputVoltageSample v) s = .next t ∧ t.pins.latched = true ∧
      t.pins.inputV = v ∧ t.pins.faults = satAdd 16 s.pins.faults 1 ∧ t.mem.hbm = [] ∧ t.isl = [] ∧ t.host.linkUp = false) ∧
    (s.pins.latched = true ∨ ¬ fault → ∃ t : State, exec (.inputVoltageSample v) s = .next t ∧
      t.pins = { s.pins with
        inputV := v, inState := if v.toNat < 4000 then 1 else if 5000 < v.toNat then 2 else 0,
        lowFor := if low then s.pins.lowFor + 1 else 0, highFor := if high then s.pins.highFor + 1 else 0,
        marginFor := if margin then s.pins.marginFor + 1 else 0, goodFor := if margin then 0 else s.pins.goodFor + 1 } ∧
      t.mem = s.mem ∧ t.isl = s.isl ∧ t.host = s.host ∧
      (margin = false ∨ s.pins.marginFor ≠ 24999 → t.flog = s.flog) ∧
      (margin = true → s.pins.marginFor = 24999 → t = ({ s with pins := t.pins } : State).logFault .inputMargin 0x10 0 (v.zeroExtend 32)))) ∧
  (∀ (s : State), s.pins.latched = false → exec .inputFaultClear s = .next s) ∧
  (∀ (s : State), s.pins.latched = true →
    (s.pins.goodFor < 2500000 → exec .inputFaultClear s = .next s) ∧
    (2500000 ≤ s.pins.goodFor → s.pwr.tripped = true →
      exec .inputFaultClear s = .next { s with pins := { s.pins with latched := false } }) ∧
    (2500000 ≤ s.pins.goodFor → s.pwr.tripped = false → ∃ (t : State) (x : Starting), exec .inputFaultClear s = .next t ∧
      t.pins.latched = false ∧ t.fw.starting = some x ∧ x.kind = .cold ∧ x.step = 1 ∧ t.trk.session = s.trk.session + 1 ∧
      t.mem.valid = false))

/-- Starts and component restarts (15 R338 to R344, R351). -/
def Obligations.StartsRunStepByStepAndFallBack : Prop :=
  (∀ (s : State), (s.clk.lit = true → exec .lighthousePowerUp s = .next s) ∧
    (s.clk.lit = false → ∃ t : State, exec .lighthousePowerUp s = .next t ∧ t.clk = ⟨0, 0, 0, none, true⟩ ∧
      t.pwr.causes = (if s.pins.pwrbrk then 2 else 0) ∧
      t.fw.starting = some ⟨.cold, false, 1, if s.fw.atStart then !s.fw.active else s.fw.active, false, s.fw.atStart, false⟩ ∧
      t.trk.session = s.trk.session + 1 ∧ t.mem.hbm = [] ∧ t.mem.valid = false ∧ t.isl = [] ∧ t.pending = s.pending)) ∧
  (∀ (s : State), ∃ t : State, exec .lighthousePowerLoss s = .next t ∧ t.clk = ⟨0, 0, 0, none, false⟩ ∧ t.pwr.energy = 0 ∧
    (∀ p, (t.getPart p).energy = 0) ∧ t.claims = [] ∧ t.flog.ring = [] ∧ t.flog.seq = s.flog.archived ∧ t.mem.hbm = [] ∧
    (∀ b, t.fw.slot b = s.fw.slot b) ∧ t.fw.active = s.fw.active ∧ t.ret = s.ret ∧ t.pending = s.pending) ∧
  (∀ (s : State) (pc : Word), (s.powered = false ∨ s.fw.recovery = true → exec (.watchdogExpiry pc) s = .next s) ∧
    (s.powered = true → s.fw.recovery = false →
      let n := (s.fw.wdStarts.filter fun t => decide (s.clk.now < t + 15000000000)).length
      ∃ (t : State) (x : Starting), exec (.watchdogExpiry pc) s = .next t ∧ t.fw.starting = some x ∧ x.kind = .warm ∧
        x.keep = true ∧ x.step = 1 ∧ t.trk.session = s.trk.session + 1 ∧ t.mem.hbm = s.mem.hbm ∧
        (s.trialOpen = true → x.slot = !s.fw.active ∧ x.halt = false ∧ t.fw.trial = false) ∧
        (s.trialOpen = false → x.slot = (if s.fw.atStart then !s.fw.active else s.fw.active) ∧ x.halt = decide (2 ≤ n) ∧
          t.fw.trial = s.fw.trial))) ∧
  (∀ (s : State) (c : Component) (f : CompFault), s.serving = false ∨ s.powered = false →
    exec (.componentFault c f) s = .next s ∧ exec (.componentHeartbeatMiss c) s = .next s) ∧
  (∀ (s : State) (c : Component) (f : CompFault), s.serving = true → s.powered = true →
    (exec (.componentFault .supervisor f) s = .next s ∧ exec (.componentHeartbeatMiss .supervisor) s = .next s) ∧
    (c ≠ .supervisor →
      let recent := (smGet [] s.fw.restarts (componentCode c)).filter fun t => decide (s.clk.now < t + 1500000000)
      (recent.length < 3 → ∃ t u : State, exec (.componentHeartbeatMiss c) s = .next t ∧ exec (.componentFault c f) s = .next u ∧
        smGet [] t.fw.restarts (componentCode c) = s.clk.now :: recent ∧
        smGet [] u.fw.restarts (componentCode c) = s.clk.now :: recent ∧
        t.fw.starting = s.fw.starting ∧ t.trk.session = s.trk.session ∧ t.mem = s.mem ∧ t.isl = s.isl ∧
        (c = .security → t.mgmt.conns = [] ∧ u.mgmt.conns = []) ∧ (c = .interpreter → t.cmds.fenced = [] ∧ u.cmds.fenced = [])) ∧
      (3 ≤ recent.length → ∃ (t u : State) (x y : Starting), exec (.componentFault c f) s = .next t ∧
        exec (.componentHeartbeatMiss c) s = .next u ∧ t.fw.starting = some x ∧ u.fw.starting = some y ∧
        x.kind = .warm ∧ x.keep = true ∧ x.step = 1 ∧ t.trk.session = s.trk.session + 1 ∧
        y.kind = .warm ∧ y.keep = true ∧ y.step = 1 ∧ u.trk.session = s.trk.session + 1))) ∧
  (∀ (s : State), s.fw.starting = none → ∀ ok, exec (.startStepDone ok) s = .next s) ∧
  (∀ (s : State) (x : Starting), s.fw.starting = some x →
    let good := (s.fw.manifestFault (s.fw.slot x.slot)) = none
    let sums := (digestFault (s.fw.slot x.slot)) = none
    let at_ (n : Nat) : State := { s with fw := { s.fw with starting := some { x with step := n } } }
    let recovery : State := { s with fw := { s.fw with starting := none, recovery := true },
                                     host := { s.host with dev := 3, memActive := false } }
    (x.step = 1 ∨ x.step = 4 → exec (.startStepDone false) s = .next recovery) ∧
    (x.step = 1 → exec (.startStepDone true) s = .next (at_ 2)) ∧
    (x.step = 4 → s.keepsHbm x = true → exec (.startStepDone true) s = .next (at_ 5)) ∧
    (x.step = 4 → s.keepsHbm x = false → ∃ t : State, exec (.startStepDone true) s = .next t ∧ t.mem.valid = false ∧
      t.host.memActive = false ∧ t.mem.filling = true ∧ t.fw.starting = some { x with step := 5 } ∧ t.isl = s.isl) ∧
    (∀ ok, (x.step = 2 → exec (.startStepDone ok) s = .next (at_ 3)) ∧
      (x.step = 3 → good → x.halt = false → exec (.startStepDone ok) s = .next (at_ 4)) ∧
      (x.step = 3 → good → x.halt = true → exec (.startStepDone ok) s = .next recovery) ∧
      ((x.step = 3 ∧ ¬ good) ∨ (x.step = 6 ∧ ¬ sums) → x.tried = true → exec (.startStepDone ok) s = .next recovery) ∧
      ((x.step = 3 ∧ ¬ good) ∨ (x.step = 6 ∧ ¬ sums) → x.tried = false → ∃ t : State, exec (.startStepDone ok) s = .next t ∧
        t.fw.starting = some { x with step := 3, slot := !x.slot, tried := true, first := false } ∧ t.fw.trial = false ∧
        t.mem = s.mem ∧ t.host.dev = s.host.dev) ∧
      (x.step = 5 → s.mem.filling = true → exec (.startStepDone ok) s =
        .next { at_ 6 with mem := { s.mem with hbm := [], lineErr := [], rewrite := [], valid := true, filling := false } }) ∧
      (x.step = 5 → s.mem.filling = false → exec (.startStepDone ok) s = .next (at_ 6)) ∧
      (x.step = 6 → sums → exec (.startStepDone ok) s = .next (at_ 7)) ∧
      (x.step = 7 → ∃ t : State, exec (.startStepDone ok) s = .next t ∧ t.fw.active = x.slot ∧ t.host.dev = 1 ∧
        t.fw.starting = some { x with step := 8 } ∧ t.clk.frame = 0 ∧ (x.first = true → t.fw.trial = true ∧ t.fw.trialAt = s.clk.now)) ∧
      (x.step = 8 → exec (.startStepDone ok) s = .next (at_ 9)) ∧
      (x.step = 9 → exec (.startStepDone ok) s = .next { s with fw := { s.fw with starting := none } }))) ∧
  (∀ (s : State) (k : BitVec 3), let lost : State := { s with mem := { s.mem with valid := false }, host := { s.host with memActive := false } }
    exec (.stackSupplyFault k) s = .next lost ∧ exec (.selfRefreshExitUncommanded k) s = .next lost)

/-- Management requests (18 R396 to R400). Values the spec does not state are free bytes, so only their number is
said (log 60). -/
def Obligations.ManagementRequestsAreAnswered : Prop :=
  let said (s : State) (c : MgmtCode) (data : List Byte) : State := { s with mgmt := { s.mgmt with log := s.mgmt.log ++ [.answer c data] } }
  let free (s : State) (n : Nat) : State :=
    said { s with free := s.free + n } .ok ((List.range n).map fun k => Config.freeByte (s.free + k))
  let some_ (s : State) (x : Option (List Byte)) : State := match x with
    | some bs => said s .ok bs
    | none => said s .invalidData []
  let requests (b : Byte) (x y : Half) (w : Word) : List Instr :=
    [.getTid, .getPldmVersion b, .getPldmTypes, .getPldmCommands b, .getPdr w, .getStateSensorReadings x, .setManagementCap x,
      .setFeedTag x, .getNumericEffecterValue y, .pollForPlatformEventMessage, .getFaultLog w b, .getEnergy b]
  let hot (s : State) (x : Half) : Option (List Byte) :=
    if x = 1 then some (leBytes 2 (BitVec.ofInt 16 (hottest s.pwr 0 128).1).toNat)
    else if x = 2 then some (leBytes 2 (BitVec.ofInt 16 (hottest s.pwr 128 160).1).toNat) else none
  (∀ (s : State) (a : BitVec 7) (b c : Byte) (x y : Half) (w : Word), s.clk.lit = false →
    ∀ i ∈ requests b x y w ++ [.i3cBroadcastCcc, .dynamicAddressAssign a, .setEndpointId b, .getEndpointId, .getMctpVersionSupport b,
      .getMessageTypeSupport, .getNumericSensorReading x, .warmStartMemoryKept, .warmStartMemoryFilled, .restartAfterTrip,
      .unsupportedManagementMessage (.pldm b c), .unsupportedManagementMessage (.spdm b c)], exec i s = .next s) ∧
  (∀ (s : State) (e : Byte), exec (.unsupportedManagementMessage (.mctp e)) s = .next s) ∧
  (∀ (s : State) (a : BitVec 7) (e : Byte), s.clk.lit = true →
    (s.mgmt.i3c = false → exec .i3cBroadcastCcc s = .next { s with
        mgmt := { s.mgmt with i3c := true, dynAddr := none }, pins := { s.pins with alert := false } } ∧
      exec (.dynamicAddressAssign a) s = .next s) ∧
    (s.mgmt.i3c = true → exec .i3cBroadcastCcc s = .next s ∧
      exec (.dynamicAddressAssign a) s = .next { s with mgmt := { s.mgmt with dynAddr := some a } }) ∧
    exec (.setEndpointId e) s = .next (said { s with mgmt := { s.mgmt with eid := e } } .ok [e]) ∧
    exec .getEndpointId s = .next (said s .ok [s.mgmt.eid]) ∧
    exec .getMessageTypeSupport s = .next (said s .ok [0, 1, 5]) ∧
    (e ∈ ([0, 1, 5, 0xFF] : List Byte) → exec (.getMctpVersionSupport e) s = .next (free s 4)) ∧
    (e ∉ ([0, 1, 5, 0xFF] : List Byte) → exec (.getMctpVersionSupport e) s = .next (said s .invalidData []))) ∧
  (∀ (s : State) (b c : Byte) (x y : Half) (w : Word), s.clk.lit = true → s.serving = false →
    (∀ i ∈ .unsupportedManagementMessage (.pldm b c) :: requests b x y w, exec i s = .next (said s .notReady [])) ∧
    exec (.unsupportedManagementMessage (.spdm b c)) s = .next (said s .spdmBusy []) ∧
    exec (.getNumericSensorReading x) s = .next (if x = 1 ∨ x = 2 then some_ s (hot s x) else said s .notReady [])) ∧
  (∀ (s : State) (a b : Byte) (x : Half) (w : Word), s.clk.lit = true → s.serving = true →
    exec (.unsupportedManagementMessage (.pldm a b)) s = .next (said s .unsupportedCmd []) ∧
    exec (.unsupportedManagementMessage (.spdm a b)) s = .next (said s .spdmUnsupported []) ∧
    exec .getTid s = .next (free s 1) ∧
    exec (.getPldmVersion a) s = .next (if a ∈ ([0, 2, 5, 63] : List Byte) then free s 4 else said s .invalidData []) ∧
    exec .getPldmTypes s = .next (said s .ok [0x25, 0, 0, 0, 0, 0, 0, 0x80]) ∧
    exec (.getPldmCommands a) s = .next (if a = 63 then said s .ok (6 :: List.replicate 31 0)
      else if a ∈ ([0, 2, 5] : List Byte) then free s 32 else said s .invalidData []) ∧
    exec (.getPdr w) s = .next (some_ s ((pdrRows[w.toNat - 1]?).map fun r =>
      leBytes 1 r.1 ++ leBytes 2 r.2.1 ++ leBytes 4 r.2.2.1 ++ leBytes 4 r.2.2.2)) ∧
    exec (.getNumericSensorReading x) s = .next (some_ s (
      if x = 1 ∨ x = 2 then hot s x else if x = 3 then some (leBytes 2 s.pwr.measured.toNat)
      else if x = 4 then some (leBytes 2 (s.pwr.mean / 4000000)) else if x = 5 then some (leBytes 2 s.pwr.volt.toNat)
      else if x = 6 then some (leBytes 4 (s.pwr.energy / 1000000000000000)) else none)) ∧
    exec (.getStateSensorReadings x) s = .next (some_ s (if x = 7 then some (leBytes 1 (s.pwr.level.toNat + 1))
      else if x = 8 then some (leBytes 1 (s.host.dev.toNat + 1)) else none)) ∧
    exec (.getNumericEffecterValue x) s = .next (some_ s (if x = 1 then some (leBytes 2 s.pwr.mgmtCap.toNat)
      else if x = 2 then some (leBytes 2 s.snap.feed.toNat) else none)) ∧
    exec (.getEnergy a) s = .next (some_ s (if a = 0xFF then some (leBytes 8 (s.pwr.energy / 1000000))
      else if a.toNat < 64 then some (leBytes 8 ((s.getPart a.toNat).energy / 1000000)) else none)) ∧
    exec (.getFaultLog w a) s = .next (said s .ok ((s.flog.from_ w.toNat (min 16 a.toNat)).flatMap LogRec.bytes)) ∧
    (s.mgmt.events = [] → exec .pollForPlatformEventMessage s = .next (said s .ok [])) ∧
    (∀ r rest, s.mgmt.events = r :: rest → ∃ t : State, exec .pollForPlatformEventMessage s = .next t ∧ t.mgmt.events = rest ∧
      t.mgmt.log = s.mgmt.log ++ [.answer .ok r.bytes] ∧ t.pins.alert = (if rest = [] then false else s.pins.alert)) ∧
    exec (.setFeedTag x) s = .next (said { s with
      snap := { s.snap with feed := x }, fw := { s.fw with settingsCount := s.fw.settingsCount + 1 } } .ok []) ∧
    (x.toNat < 400 ∨ 2200 < x.toNat → x ≠ 0 → exec (.setManagementCap x) s = .next (said s .invalidData [])) ∧
    (x = 0 ∨ (400 ≤ x.toNat ∧ x.toNat ≤ 2200) → ∃ t : State, exec (.setManagementCap x) s = .next t ∧ t.pwr.mgmtCap = x ∧
      t.pwr.hostCap = s.pwr.hostCap ∧ t.fw.settingsCount = s.fw.settingsCount + 1 ∧ t.mgmt.log = s.mgmt.log ++ [.answer .ok []] ∧
      t.mem = s.mem ∧ t.isl = s.isl)) ∧
  (∀ (s : State), s.clk.lit = true → s.pwr.tripped = false → s.pins.latched = false → ∃ t u : State,
    exec .warmStartMemoryKept s = .next t ∧ exec .warmStartMemoryFilled s = .next u ∧
    (t.fw.starting.map fun x => (x.kind, x.keep, x.step, x.halt)) = some (.warm, true, 1, false) ∧
    (u.fw.starting.map fun x => (x.kind, x.keep, x.step, x.halt)) = some (.warm, false, 1, false) ∧
    t.trk.session = s.trk.session + 1 ∧ u.trk.session = s.trk.session + 1 ∧ t.mem.hbm = s.mem.hbm ∧ t.isl = [] ∧ u.isl = []) ∧
  (∀ (s : State), s.clk.lit = true →
    (s.pwr.tripped = true ∨ s.pins.latched = true →
      exec .warmStartMemoryKept s = .next (said s .notReady []) ∧ exec .warmStartMemoryFilled s = .next (said s .notReady [])) ∧
    (s.pwr.tripped = false → exec .restartAfterTrip s = .next (said s .invalidData [])) ∧
    (s.pwr.tripped = true → s.pwr.tripCool < 250000000 →
      exec .restartAfterTrip s = .next (said (s.logFault .tripRefused srcLighthouse 0 0) .notReady [])) ∧
    (s.pwr.tripped = true → 250000000 ≤ s.pwr.tripCool → ∃ t : State, exec .restartAfterTrip s = .next t ∧
      t.pwr.tripped = false ∧ t.pins.thermtrip = false ∧
      (s.pins.latched = false → (t.fw.starting.map fun x => (x.kind, x.step)) = some (.cold, 1)) ∧
      (s.pins.latched = true → t.fw = s.fw ∧ t.mem = s.mem)))

/-- Firmware update over PLDM and SPDM (18 R401 to R405). -/
def Obligations.UpdatesAndAttestationRunByStages : Prop :=
  let said (s : State) (c : MgmtCode) (data : List Byte) : State := { s with mgmt := { s.mgmt with log := s.mgmt.log ++ [.answer c data] } }
  let put (s : State) (c : SpdmConn) : State :=
    { s with mgmt := { s.mgmt with conns := (s.mgmt.conns.filter fun x => x.ep ≠ c.ep) ++ [c] } }
  let answer (s : State) (c : SpdmConn) (data : List Byte) : State :=
    if data.length ≤ 4096 then said s .ok data else said (put s { c with outbox := data, outSeq := 0 }) .spdmLarge []
  let signed (s : State) (c : SpdmConn) (msg body : List Byte) : State :=
    answer { s with free := s.free + 1 } c (body ++ (Config.mldsaSign s.free (msg ++ body)).take 4627)
  let free (s : State) (n : Nat) : List Byte := (List.range n).map fun k => Config.freeByte (s.free + k)
  (∀ (s : State) (b : Bool), s.clk.lit = true → s.serving = false → s.fw.recovery = false ∨ s.powered = false →
    ∀ i ∈ [Instr.requestUpdate, .getStatus, .cancelUpdate, .activateFirmware b], exec i s = .next (said s .notReady [])) ∧
  (∀ (s : State), s.clk.lit = true → s.serving = true ∨ s.fw.recovery = true ∧ s.powered = true →
    (s.fw.recovery = true ∨ s.host.dev = 1 → s.slotsBusy = none → exec .requestUpdate s =
      .next (said { s with mgmt := { s.mgmt with upd := .learn, updBytes := 0, updIdle := s.clk.now } } .ok [])) ∧
    ((s.fw.recovery = false ∧ s.host.dev ≠ 1) ∨ s.slotsBusy ≠ none → exec .requestUpdate s = .next (said s .retryRequest [])) ∧
    exec .getStatus s = .next { s with mgmt := { s.mgmt with log := s.mgmt.log ++ [.update s.mgmt.upd] } } ∧
    (s.mgmt.upd = .learn ∨ s.mgmt.upd = .download ∨ s.mgmt.upd = .apply → exec .cancelUpdate s =
      .next (said { s with fw := { s.fw with staged := false }, mgmt := { s.mgmt with upd := .idle, updBytes := 0, updIdle := 0 } } .ok [])) ∧
    (s.mgmt.upd ≠ .learn → s.mgmt.upd ≠ .download → s.mgmt.upd ≠ .apply → exec .cancelUpdate s = .next (said s .wrongState [])) ∧
    (∀ b, (s.mgmt.upd ≠ .apply → exec (.activateFirmware b) s = .next (said s .wrongState [])) ∧
      (s.mgmt.upd = .apply → b = false ∨ s.fw.recovery = true → exec (.activateFirmware b) s =
        .next { said s .ok [] with fw := { s.fw with atStart := true },
                                   mgmt := { (said s .ok []).mgmt with upd := .idle, updIdle := 0 } }) ∧
      (s.mgmt.upd = .apply → b = true → s.fw.recovery = false → exec (.activateFirmware b) s =
        .next (({ said s .ok [] with mgmt := { (said s .ok []).mgmt with upd := .activate } } : State).beginActivation false s.clk.now)))) ∧
  (∀ (s : State), s.fw.act = none → s.emergency = true → ∃ a : Activation, (s.beginActivation false s.clk.now).fw.act = some a ∧
    a.phase = .hold ∧ a.byCmd = false ∧ a.held = true) ∧
  (∀ (s : State) (off : Word) (bs : List Byte), s.clk.lit = true → let b := !s.fw.active
    let next := (s.mgmt.upd = .learn ∨ s.mgmt.upd = .download) ∧ off.toNat = s.mgmt.updBytes ∧ bs.length ≤ 1024 ∧
      off.toNat + bs.length ≤ slotSize
    (next → ∃ t : State, exec (.firmwareDataReceived off bs) s = .next t ∧ t.mgmt.upd = .download ∧
        t.mgmt.updBytes = s.mgmt.updBytes + bs.length ∧ t.mgmt.updIdle = s.clk.now ∧
        t.fw.staged = (if s.mgmt.upd = .learn then false else s.fw.staged) ∧
        (s.mgmt.upd = .learn ∨ Memory.wf (s.fw.slot b) → ∀ a, memByte (t.fw.slot b) a =
          if off.toNat ≤ a ∧ a < off.toNat + bs.length then bs.getD (a - off.toNat) 0
          else if s.mgmt.upd = .learn then 0 else memByte (s.fw.slot b) a) ∧
        t.fw.slot s.fw.active = s.fw.slot s.fw.active ∧ t.fw.active = s.fw.active ∧ t.mem = s.mem) ∧
    (¬ next → exec (.firmwareDataReceived off bs) s = .next s) ∧
    (s.mgmt.upd ≠ .download → exec .updateVerifyComplete s = .next s) ∧
    (s.mgmt.upd = .download → s.fw.stageFault b = none → ∃ t : State, exec .updateVerifyComplete s = .next t ∧ t.fw.staged = true ∧
      t.mgmt.upd = .apply ∧ t.mgmt.log = s.mgmt.log ++ [.verified 0] ∧ t.mem = s.mem) ∧
    (∀ d r, s.mgmt.upd = .download → s.fw.stageFault b = some (d, r) → ∃ t : State, exec .updateVerifyComplete s = .next t ∧
      t.fw.staged = s.fw.staged ∧ t.mgmt.upd = .failed ∧ t.mgmt.log = s.mgmt.log ++ [.verified (0x90 + d.setWidth 8)])) ∧
  (∀ (s : State), let under := s.mgmt.upd = .learn ∨ s.mgmt.upd = .download ∨ s.mgmt.upd = .apply
    (under → s.mgmt.updIdle + 3000000000 ≤ s.clk.now → exec .fdT1Timeout s =
      .next { s with fw := { s.fw with staged := false }, mgmt := { s.mgmt with upd := .idle, updBytes := 0, updIdle := 0 } }) ∧
    (¬ under ∨ s.clk.now < s.mgmt.updIdle + 3000000000 → exec .fdT1Timeout s = .next s)) ∧
  (∀ (s : State) (e k : Byte) (n : BitVec 256) (o : SpdmOffer) (x y : Half) (bs : List Byte) (last sign : Bool),
    let requests : List Instr := [.getCapabilities e, .negotiateAlgorithms e o, .getDigests e, .getCertificate e k x y, .challenge e k n,
      .getMeasurements e k sign n, .chunkSend e last x bs, .chunkGet e x]
    (s.clk.lit = false → ∀ i ∈ .getVersion e :: requests, exec i s = .next s) ∧
    (s.clk.lit = true → s.serving = false → ∀ i ∈ .getVersion e :: requests, exec i s = .next (said s .spdmBusy [])) ∧
    (s.clk.lit = true → s.serving = true →
    (s.mgmt.conns.length < 4 ∨ s.conn e ≠ none → exec (.getVersion e) s = .next (said (put s ⟨e, .version, [], 0, [], 0⟩) .ok [1, 3])) ∧
    (s.conn e = none → (4 ≤ s.mgmt.conns.length → exec (.getVersion e) s = .next (said s .spdmBusy [])) ∧
      ∀ i ∈ requests, exec i s = .next (said s .spdmUnexpected [])) ∧
    (∀ c, s.conn e = some c →
      (c.stage = .version → exec (.getCapabilities e) s = .next (said (put s { c with stage := .capabilities }) .ok
        ([1, 1, 1, 2, 16] ++ leBytes 4 4096 ++ leBytes 4 16384))) ∧
      (c.stage ≠ .version → exec (.getCapabilities e) s = .next (said s .spdmUnexpected [])) ∧
      (c.stage ≠ .capabilities → exec (.negotiateAlgorithms e o) s = .next (said s .spdmUnexpected [])) ∧
      (c.stage ≠ .negotiated → ∀ i ∈ [Instr.getDigests e, .getCertificate e k x y, .challenge e k n, .getMeasurements e k sign n],
        exec i s = .next (said s .spdmUnexpected [])) ∧
      (c.stage = .capabilities →
        (o.measSpec.getLsbD 0 = true → o.baseHash.getLsbD 5 = true → (0x00, 0xD087) ∈ o.extAsym →
          exec (.negotiateAlgorithms e o) s = .next (said (put s { c with stage := .negotiated }) .ok
            ([1] ++ leBytes 4 32 ++ leBytes 4 64 ++ leBytes 4 0 ++ [0] ++ leBytes 2 0xD087))) ∧
        (o.measSpec.getLsbD 0 = false ∨ o.baseHash.getLsbD 5 = false ∨ (0x00, 0xD087) ∉ o.extAsym →
          exec (.negotiateAlgorithms e o) s =
            .next (said { s with mgmt := { s.mgmt with conns := s.mgmt.conns.filter fun x => x.ep ≠ e } } .spdmUnsupported []))) ∧
      (c.stage = .negotiated →
        let chain := Config.certChain
        let digest := bvBytes 64 (Config.sha3 chain)
        exec (.getDigests e) s = .next (answer s c ([1] ++ digest)) ∧
        (k ≠ 0 ∨ chain.length < x.toNat → exec (.getCertificate e k x y) s = .next (said s .spdmInvalid [])) ∧
        (k ≠ 0 → exec (.challenge e k n) s = .next (said s .spdmInvalid [])) ∧
        (k = 0 → x.toNat ≤ chain.length → let rest := chain.drop x.toNat
          exec (.getCertificate e k x y) s = .next (answer s c (leBytes 2 (rest.take y.toNat).length ++
            leBytes 2 (rest.length - (rest.take y.toNat).length) ++ rest.take y.toNat))) ∧
        (k = 0 → exec (.challenge e k n) s = .next (signed { s with free := s.free + 32 } c (bvBytes 32 n) (digest ++ free s 32))) ∧
        (s.host.dev = 2 → exec (.getMeasurements e k sign n) s = .next (said s .spdmBusy [])) ∧
        (s.host.dev ≠ 2 → (14 < k.toNat → k ≠ 0xFF → exec (.getMeasurements e k sign n) s = .next (said s .spdmInvalid [])) ∧
          ∀ ks, ks = (if k = 0 then [] else if k = 0xFF then (List.range 14).map (· + 1) else [k.toNat]) → k.toNat ≤ 14 ∨ k = 0xFF →
            let body := (if k = 0 then [14] else leBytes 1 ks.length) ++
              ks.flatMap fun j => leBytes 1 j ++ leBytes 2 (s.measurement j).length ++ s.measurement j
            exec (.getMeasurements e k sign n) s = .next (if sign = false then answer s c body
              else
                let own := free s 32
                answer { s with free := s.free + 33 } c
                  (body ++ own ++ (Config.mldsaSign (s.free + 32) (bvBytes 32 n ++ own ++ body)).take 4627)))) ∧
      (let bad := x ≠ c.inSeq ∨ 4096 < bs.length ∨ 16384 < c.inbox.length + bs.length;
        exec (.chunkSend e last x bs) s = .next (if bad then said (put s { c with inbox := [], inSeq := 0 }) .spdmInvalid []
          else if last then said (put s { c with inbox := [], inSeq := 0 }) .ok (leBytes 2 x.toNat)
          else said (put s { c with inbox := c.inbox ++ bs, inSeq := x + 1 }) .ok (leBytes 2 x.toNat))) ∧
      (x = c.outSeq → c.outbox ≠ [] → exec (.chunkGet e x) s =
        .next (said (put s { c with outbox := c.outbox.drop 4096, outSeq := x + 1 }) .ok (leBytes 2 x.toNat ++ c.outbox.take 4096))) ∧
      (x ≠ c.outSeq ∨ c.outbox = [] → exec (.chunkGet e x) s = .next (said s .spdmInvalid [])))))

/-- The canonical form of HBM is kept by every step: no store, fill, restore, delivery, copy or start leaves an
address twice, out of order, or a byte that an unlisted address reads as. -/
def Obligations.EveryStepKeepsHbmCanonical : Prop :=
  ∀ s t : State, Memory.wf s.mem.hbm → step s = .next t → Memory.wf t.mem.hbm

/-- A step takes exactly the command at the front, and nothing changes the part's identity: no command, message,
packet, restore or start. -/
def Obligations.EveryStepTakesOneCommandAndKeepsTheFuses : Prop :=
  ∀ s t : State, step s = .next t → t.pending = s.pending.tail ∧ t.id = s.id

/-- Memory_Active (13 R287), with the path of 13 R284. -/
def Obligations.MemoryActiveIsSetOnlyWithValidMemory : Prop :=
  let guarded (s : State) : Prop := s.host.memActive = true → s.host.linkUp = true ∧ s.host.biPath = true ∧ s.mem.valid = true
  (∀ s t : State, guarded s → step s = .next t → guarded t) ∧
  (∀ s t : State, s.host.memActive = false → step s = .next t → t.host.memActive = true → t.mem.valid = true) ∧
  (∀ (s : State) (hpa : Dword), s.host.memActive = false →
    let counted : State := { s.linkWoken with host := { s.linkWoken.host with refused := satAdd 32 s.host.refused 1 } }
    (∀ cacheable, ∃ data, exec (.cxlMemRead hpa cacheable) s = .next (counted.out (.readData data true))) ∧
    (∀ bytes poison, exec (.cxlMemWrite hpa bytes poison) s = .next counted) ∧ counted.mem = s.mem)

/-- Entry into power gating (01 R25); 50 ticks are the 2 us of R24. -/
def Obligations.PowerGatingEntryTakesFiveTicks : Prop :=
  (∀ (s : State) (g : BitVec 4), let k := g.toNat
    (s.getGrp k).gate = .clocked → s.groupFree k = true → (s.getGrp k).unbound + 25001 ≤ s.clk.now →
      ∃ t : State, exec (.groupPowerGatingEntry g) s = .next t ∧ (t.getGrp k).gate = .entering s.clk.now ∧ (t.getGrp k).wakeReq = false) ∧
  (∀ (s : State) (g : BitVec 4) (v : Nat), let k := g.toNat
    (s.getGrp k).gate = .entering v →
    (s.groupPresent k = true → ((s.wakeGroup k).getGrp k).gate = .entering v ∧ ((s.wakeGroup k).getGrp k).wakeReq = true) ∧
    (∀ n, ((s.wakeGroup n).getGrp k).gate = .entering v ∧ ((s.getGrp k).wakeReq = true → ((s.wakeGroup n).getGrp k).wakeReq = true)) ∧
    (s.clk.now < v + 5 → exec (.powerGatingEntryDone g) s = .next s ∧ exec (.groupWakeComplete g) s = .next s ∧
      exec (.groupPowerGatingEntry g) s = .next s) ∧
    (s.clk.now = v + 5 → ∃ t : State, exec (.powerGatingEntryDone g) s = .next t ∧ (t.getGrp k).wakeReq = false ∧
      (t.getGrp k).gate = (if (s.getGrp k).wakeReq then .waking (v + 5) else .off))) ∧
  (∀ (s : State) (g : BitVec 4) (w : Nat), (s.getGrp g.toNat).gate = .waking w →
    (s.clk.now < w + 50 → exec (.groupWakeComplete g) s = .next s) ∧
    (s.clk.now = w + 50 → ∃ t : State, exec (.groupWakeComplete g) s = .next t ∧ (t.getGrp g.toNat).gate = .clocked) ∧
    (∀ n, ((s.wakeGroup n).getGrp g.toNat).gate = .waking w))

/-- Reset (15 R338 and the register tables). Values the spec does not give are the model's own (logs 4 to 9) and
are not stated here. -/
def Obligations.ResetLeavesTheStatedValues : Prop :=
  let s := State.reset
  s.pending = [] ∧ s.clk.now = 0 ∧ s.clk.lit = true ∧ s.serving = false ∧ s.host.dev = 0 ∧
  (s.fw.starting.map fun x => (x.kind, x.step)) = some (.cold, 1) ∧
  Memory.wf s.mem.hbm ∧ s.mem.hbm = [] ∧ s.mem.valid = false ∧ s.host.memActive = false ∧
  (∀ i a k, smGet .reset ((s.getIsl i).getArr a).slots k = (⟨0xF, false, false, false, false, 0, 0⟩ : SlotAnchor)) ∧
  (∀ r, (s.getCr r).st = .disabled ∧ (s.getQr r).st = .disabled) ∧
  s.pwr.level = 0 ∧ s.pwr.limit = 0 ∧ s.pwr.mgmtCap = 0 ∧ s.pwr.hostCap = 0 ∧ s.pwr.cap = 2200 ∧ s.pwr.scaled = id ∧
  s.pwr.energy = 0 ∧ s.pwr.causes = 0 ∧ (∀ p, (s.getPart p).exists_ = decide (p = 0)) ∧ (∀ p, (s.getPart p).energy = 0) ∧
  s.trk.session = 0 ∧ s.flog.ring = [] ∧ s.mgmt.i3c = false ∧ s.fab.tst = .unset ∧
  StepSafe s
end

