-- ==== Sys2Proof/Laws/State.lean ====
section
/-! SUPPORT. What each update of the state does to each field: one lemma per field per update. -/

namespace Sys2Proof.Machine

variable (s : State)


/-! `setIsl` -/

@[simp] theorem State.setIsl_pending (i : Nat) (v : Island) : (s.setIsl i v).pending = s.pending := rfl
@[simp] theorem State.setIsl_clk (i : Nat) (v : Island) : (s.setIsl i v).clk = s.clk := rfl
@[simp] theorem State.setIsl_id (i : Nat) (v : Island) : (s.setIsl i v).id = s.id := rfl
@[simp] theorem State.setIsl_isl (i : Nat) (v : Island) : (s.setIsl i v).isl = smSet s.isl i v := rfl
@[simp] theorem State.setIsl_bundle (i : Nat) (v : Island) : (s.setIsl i v).bundle = s.bundle := rfl
@[simp] theorem State.setIsl_grp (i : Nat) (v : Island) : (s.setIsl i v).grp = s.grp := rfl
@[simp] theorem State.setIsl_circ (i : Nat) (v : Island) : (s.setIsl i v).circ = s.circ := rfl
@[simp] theorem State.setIsl_beats (i : Nat) (v : Island) : (s.setIsl i v).beats = s.beats := rfl
@[simp] theorem State.setIsl_mem (i : Nat) (v : Island) : (s.setIsl i v).mem = s.mem := rfl
@[simp] theorem State.setIsl_trk (i : Nat) (v : Island) : (s.setIsl i v).trk = s.trk := rfl
@[simp] theorem State.setIsl_port (i : Nat) (v : Island) : (s.setIsl i v).port = s.port := rfl
@[simp] theorem State.setIsl_fab (i : Nat) (v : Island) : (s.setIsl i v).fab = s.fab := rfl
@[simp] theorem State.setIsl_bar (i : Nat) (v : Island) : (s.setIsl i v).bar = s.bar := rfl
@[simp] theorem State.setIsl_host (i : Nat) (v : Island) : (s.setIsl i v).host = s.host := rfl
@[simp] theorem State.setIsl_cmds (i : Nat) (v : Island) : (s.setIsl i v).cmds = s.cmds := rfl
@[simp] theorem State.setIsl_part (i : Nat) (v : Island) : (s.setIsl i v).part = s.part := rfl
@[simp] theorem State.setIsl_snap (i : Nat) (v : Island) : (s.setIsl i v).snap = s.snap := rfl
@[simp] theorem State.setIsl_pwr (i : Nat) (v : Island) : (s.setIsl i v).pwr = s.pwr := rfl
@[simp] theorem State.setIsl_fw (i : Nat) (v : Island) : (s.setIsl i v).fw = s.fw := rfl
@[simp] theorem State.setIsl_ret (i : Nat) (v : Island) : (s.setIsl i v).ret = s.ret := rfl
@[simp] theorem State.setIsl_mgmt (i : Nat) (v : Island) : (s.setIsl i v).mgmt = s.mgmt := rfl
@[simp] theorem State.setIsl_pins (i : Nat) (v : Island) : (s.setIsl i v).pins = s.pins := rfl
@[simp] theorem State.setIsl_claims (i : Nat) (v : Island) : (s.setIsl i v).claims = s.claims := rfl
@[simp] theorem State.setIsl_flog (i : Nat) (v : Island) : (s.setIsl i v).flog = s.flog := rfl
@[simp] theorem State.setIsl_sent (i : Nat) (v : Island) : (s.setIsl i v).sent = s.sent := rfl
@[simp] theorem State.setIsl_free (i : Nat) (v : Island) : (s.setIsl i v).free = s.free := rfl

/-! `modIsl` -/

@[simp] theorem State.modIsl_pending (i : Nat) (f : Island → Island) : (s.modIsl i f).pending = s.pending := rfl
@[simp] theorem State.modIsl_clk (i : Nat) (f : Island → Island) : (s.modIsl i f).clk = s.clk := rfl
@[simp] theorem State.modIsl_id (i : Nat) (f : Island → Island) : (s.modIsl i f).id = s.id := rfl
@[simp] theorem State.modIsl_isl (i : Nat) (f : Island → Island) : (s.modIsl i f).isl = smSet s.isl i (f (s.getIsl i)) := rfl
@[simp] theorem State.modIsl_bundle (i : Nat) (f : Island → Island) : (s.modIsl i f).bundle = s.bundle := rfl
@[simp] theorem State.modIsl_grp (i : Nat) (f : Island → Island) : (s.modIsl i f).grp = s.grp := rfl
@[simp] theorem State.modIsl_circ (i : Nat) (f : Island → Island) : (s.modIsl i f).circ = s.circ := rfl
@[simp] theorem State.modIsl_beats (i : Nat) (f : Island → Island) : (s.modIsl i f).beats = s.beats := rfl
@[simp] theorem State.modIsl_mem (i : Nat) (f : Island → Island) : (s.modIsl i f).mem = s.mem := rfl
@[simp] theorem State.modIsl_trk (i : Nat) (f : Island → Island) : (s.modIsl i f).trk = s.trk := rfl
@[simp] theorem State.modIsl_port (i : Nat) (f : Island → Island) : (s.modIsl i f).port = s.port := rfl
@[simp] theorem State.modIsl_fab (i : Nat) (f : Island → Island) : (s.modIsl i f).fab = s.fab := rfl
@[simp] theorem State.modIsl_bar (i : Nat) (f : Island → Island) : (s.modIsl i f).bar = s.bar := rfl
@[simp] theorem State.modIsl_host (i : Nat) (f : Island → Island) : (s.modIsl i f).host = s.host := rfl
@[simp] theorem State.modIsl_cmds (i : Nat) (f : Island → Island) : (s.modIsl i f).cmds = s.cmds := rfl
@[simp] theorem State.modIsl_part (i : Nat) (f : Island → Island) : (s.modIsl i f).part = s.part := rfl
@[simp] theorem State.modIsl_snap (i : Nat) (f : Island → Island) : (s.modIsl i f).snap = s.snap := rfl
@[simp] theorem State.modIsl_pwr (i : Nat) (f : Island → Island) : (s.modIsl i f).pwr = s.pwr := rfl
@[simp] theorem State.modIsl_fw (i : Nat) (f : Island → Island) : (s.modIsl i f).fw = s.fw := rfl
@[simp] theorem State.modIsl_ret (i : Nat) (f : Island → Island) : (s.modIsl i f).ret = s.ret := rfl
@[simp] theorem State.modIsl_mgmt (i : Nat) (f : Island → Island) : (s.modIsl i f).mgmt = s.mgmt := rfl
@[simp] theorem State.modIsl_pins (i : Nat) (f : Island → Island) : (s.modIsl i f).pins = s.pins := rfl
@[simp] theorem State.modIsl_claims (i : Nat) (f : Island → Island) : (s.modIsl i f).claims = s.claims := rfl
@[simp] theorem State.modIsl_flog (i : Nat) (f : Island → Island) : (s.modIsl i f).flog = s.flog := rfl
@[simp] theorem State.modIsl_sent (i : Nat) (f : Island → Island) : (s.modIsl i f).sent = s.sent := rfl
@[simp] theorem State.modIsl_free (i : Nat) (f : Island → Island) : (s.modIsl i f).free = s.free := rfl

/-! `setPart` -/

@[simp] theorem State.setPart_pending (p : Nat) (v : Part) : (s.setPart p v).pending = s.pending := rfl
@[simp] theorem State.setPart_clk (p : Nat) (v : Part) : (s.setPart p v).clk = s.clk := rfl
@[simp] theorem State.setPart_id (p : Nat) (v : Part) : (s.setPart p v).id = s.id := rfl
@[simp] theorem State.setPart_isl (p : Nat) (v : Part) : (s.setPart p v).isl = s.isl := rfl
@[simp] theorem State.setPart_bundle (p : Nat) (v : Part) : (s.setPart p v).bundle = s.bundle := rfl
@[simp] theorem State.setPart_grp (p : Nat) (v : Part) : (s.setPart p v).grp = s.grp := rfl
@[simp] theorem State.setPart_circ (p : Nat) (v : Part) : (s.setPart p v).circ = s.circ := rfl
@[simp] theorem State.setPart_beats (p : Nat) (v : Part) : (s.setPart p v).beats = s.beats := rfl
@[simp] theorem State.setPart_mem (p : Nat) (v : Part) : (s.setPart p v).mem = s.mem := rfl
@[simp] theorem State.setPart_trk (p : Nat) (v : Part) : (s.setPart p v).trk = s.trk := rfl
@[simp] theorem State.setPart_port (p : Nat) (v : Part) : (s.setPart p v).port = s.port := rfl
@[simp] theorem State.setPart_fab (p : Nat) (v : Part) : (s.setPart p v).fab = s.fab := rfl
@[simp] theorem State.setPart_bar (p : Nat) (v : Part) : (s.setPart p v).bar = s.bar := rfl
@[simp] theorem State.setPart_host (p : Nat) (v : Part) : (s.setPart p v).host = s.host := rfl
@[simp] theorem State.setPart_cmds (p : Nat) (v : Part) : (s.setPart p v).cmds = s.cmds := rfl
@[simp] theorem State.setPart_part (p : Nat) (v : Part) : (s.setPart p v).part = smSet s.part p v := rfl
@[simp] theorem State.setPart_snap (p : Nat) (v : Part) : (s.setPart p v).snap = s.snap := rfl
@[simp] theorem State.setPart_pwr (p : Nat) (v : Part) : (s.setPart p v).pwr = s.pwr := rfl
@[simp] theorem State.setPart_fw (p : Nat) (v : Part) : (s.setPart p v).fw = s.fw := rfl
@[simp] theorem State.setPart_ret (p : Nat) (v : Part) : (s.setPart p v).ret = s.ret := rfl
@[simp] theorem State.setPart_mgmt (p : Nat) (v : Part) : (s.setPart p v).mgmt = s.mgmt := rfl
@[simp] theorem State.setPart_pins (p : Nat) (v : Part) : (s.setPart p v).pins = s.pins := rfl
@[simp] theorem State.setPart_claims (p : Nat) (v : Part) : (s.setPart p v).claims = s.claims := rfl
@[simp] theorem State.setPart_flog (p : Nat) (v : Part) : (s.setPart p v).flog = s.flog := rfl
@[simp] theorem State.setPart_sent (p : Nat) (v : Part) : (s.setPart p v).sent = s.sent := rfl
@[simp] theorem State.setPart_free (p : Nat) (v : Part) : (s.setPart p v).free = s.free := rfl

/-! `modPart` -/

@[simp] theorem State.modPart_pending (p : Nat) (f : Part → Part) : (s.modPart p f).pending = s.pending := rfl
@[simp] theorem State.modPart_clk (p : Nat) (f : Part → Part) : (s.modPart p f).clk = s.clk := rfl
@[simp] theorem State.modPart_id (p : Nat) (f : Part → Part) : (s.modPart p f).id = s.id := rfl
@[simp] theorem State.modPart_isl (p : Nat) (f : Part → Part) : (s.modPart p f).isl = s.isl := rfl
@[simp] theorem State.modPart_bundle (p : Nat) (f : Part → Part) : (s.modPart p f).bundle = s.bundle := rfl
@[simp] theorem State.modPart_grp (p : Nat) (f : Part → Part) : (s.modPart p f).grp = s.grp := rfl
@[simp] theorem State.modPart_circ (p : Nat) (f : Part → Part) : (s.modPart p f).circ = s.circ := rfl
@[simp] theorem State.modPart_beats (p : Nat) (f : Part → Part) : (s.modPart p f).beats = s.beats := rfl
@[simp] theorem State.modPart_mem (p : Nat) (f : Part → Part) : (s.modPart p f).mem = s.mem := rfl
@[simp] theorem State.modPart_trk (p : Nat) (f : Part → Part) : (s.modPart p f).trk = s.trk := rfl
@[simp] theorem State.modPart_port (p : Nat) (f : Part → Part) : (s.modPart p f).port = s.port := rfl
@[simp] theorem State.modPart_fab (p : Nat) (f : Part → Part) : (s.modPart p f).fab = s.fab := rfl
@[simp] theorem State.modPart_bar (p : Nat) (f : Part → Part) : (s.modPart p f).bar = s.bar := rfl
@[simp] theorem State.modPart_host (p : Nat) (f : Part → Part) : (s.modPart p f).host = s.host := rfl
@[simp] theorem State.modPart_cmds (p : Nat) (f : Part → Part) : (s.modPart p f).cmds = s.cmds := rfl
@[simp] theorem State.modPart_part (p : Nat) (f : Part → Part) : (s.modPart p f).part = smSet s.part p (f (s.getPart p)) := rfl
@[simp] theorem State.modPart_snap (p : Nat) (f : Part → Part) : (s.modPart p f).snap = s.snap := rfl
@[simp] theorem State.modPart_pwr (p : Nat) (f : Part → Part) : (s.modPart p f).pwr = s.pwr := rfl
@[simp] theorem State.modPart_fw (p : Nat) (f : Part → Part) : (s.modPart p f).fw = s.fw := rfl
@[simp] theorem State.modPart_ret (p : Nat) (f : Part → Part) : (s.modPart p f).ret = s.ret := rfl
@[simp] theorem State.modPart_mgmt (p : Nat) (f : Part → Part) : (s.modPart p f).mgmt = s.mgmt := rfl
@[simp] theorem State.modPart_pins (p : Nat) (f : Part → Part) : (s.modPart p f).pins = s.pins := rfl
@[simp] theorem State.modPart_claims (p : Nat) (f : Part → Part) : (s.modPart p f).claims = s.claims := rfl
@[simp] theorem State.modPart_flog (p : Nat) (f : Part → Part) : (s.modPart p f).flog = s.flog := rfl
@[simp] theorem State.modPart_sent (p : Nat) (f : Part → Part) : (s.modPart p f).sent = s.sent := rfl
@[simp] theorem State.modPart_free (p : Nat) (f : Part → Part) : (s.modPart p f).free = s.free := rfl

/-! `setPort` -/

@[simp] theorem State.setPort_pending (p : Nat) (v : Port) : (s.setPort p v).pending = s.pending := rfl
@[simp] theorem State.setPort_clk (p : Nat) (v : Port) : (s.setPort p v).clk = s.clk := rfl
@[simp] theorem State.setPort_id (p : Nat) (v : Port) : (s.setPort p v).id = s.id := rfl
@[simp] theorem State.setPort_isl (p : Nat) (v : Port) : (s.setPort p v).isl = s.isl := rfl
@[simp] theorem State.setPort_bundle (p : Nat) (v : Port) : (s.setPort p v).bundle = s.bundle := rfl
@[simp] theorem State.setPort_grp (p : Nat) (v : Port) : (s.setPort p v).grp = s.grp := rfl
@[simp] theorem State.setPort_circ (p : Nat) (v : Port) : (s.setPort p v).circ = s.circ := rfl
@[simp] theorem State.setPort_beats (p : Nat) (v : Port) : (s.setPort p v).beats = s.beats := rfl
@[simp] theorem State.setPort_mem (p : Nat) (v : Port) : (s.setPort p v).mem = s.mem := rfl
@[simp] theorem State.setPort_trk (p : Nat) (v : Port) : (s.setPort p v).trk = s.trk := rfl
@[simp] theorem State.setPort_port (p : Nat) (v : Port) : (s.setPort p v).port = smSet s.port p v := rfl
@[simp] theorem State.setPort_fab (p : Nat) (v : Port) : (s.setPort p v).fab = s.fab := rfl
@[simp] theorem State.setPort_bar (p : Nat) (v : Port) : (s.setPort p v).bar = s.bar := rfl
@[simp] theorem State.setPort_host (p : Nat) (v : Port) : (s.setPort p v).host = s.host := rfl
@[simp] theorem State.setPort_cmds (p : Nat) (v : Port) : (s.setPort p v).cmds = s.cmds := rfl
@[simp] theorem State.setPort_part (p : Nat) (v : Port) : (s.setPort p v).part = s.part := rfl
@[simp] theorem State.setPort_snap (p : Nat) (v : Port) : (s.setPort p v).snap = s.snap := rfl
@[simp] theorem State.setPort_pwr (p : Nat) (v : Port) : (s.setPort p v).pwr = s.pwr := rfl
@[simp] theorem State.setPort_fw (p : Nat) (v : Port) : (s.setPort p v).fw = s.fw := rfl
@[simp] theorem State.setPort_ret (p : Nat) (v : Port) : (s.setPort p v).ret = s.ret := rfl
@[simp] theorem State.setPort_mgmt (p : Nat) (v : Port) : (s.setPort p v).mgmt = s.mgmt := rfl
@[simp] theorem State.setPort_pins (p : Nat) (v : Port) : (s.setPort p v).pins = s.pins := rfl
@[simp] theorem State.setPort_claims (p : Nat) (v : Port) : (s.setPort p v).claims = s.claims := rfl
@[simp] theorem State.setPort_flog (p : Nat) (v : Port) : (s.setPort p v).flog = s.flog := rfl
@[simp] theorem State.setPort_sent (p : Nat) (v : Port) : (s.setPort p v).sent = s.sent := rfl
@[simp] theorem State.setPort_free (p : Nat) (v : Port) : (s.setPort p v).free = s.free := rfl

/-! `modPort` -/

@[simp] theorem State.modPort_pending (p : Nat) (f : Port → Port) : (s.modPort p f).pending = s.pending := rfl
@[simp] theorem State.modPort_clk (p : Nat) (f : Port → Port) : (s.modPort p f).clk = s.clk := rfl
@[simp] theorem State.modPort_id (p : Nat) (f : Port → Port) : (s.modPort p f).id = s.id := rfl
@[simp] theorem State.modPort_isl (p : Nat) (f : Port → Port) : (s.modPort p f).isl = s.isl := rfl
@[simp] theorem State.modPort_bundle (p : Nat) (f : Port → Port) : (s.modPort p f).bundle = s.bundle := rfl
@[simp] theorem State.modPort_grp (p : Nat) (f : Port → Port) : (s.modPort p f).grp = s.grp := rfl
@[simp] theorem State.modPort_circ (p : Nat) (f : Port → Port) : (s.modPort p f).circ = s.circ := rfl
@[simp] theorem State.modPort_beats (p : Nat) (f : Port → Port) : (s.modPort p f).beats = s.beats := rfl
@[simp] theorem State.modPort_mem (p : Nat) (f : Port → Port) : (s.modPort p f).mem = s.mem := rfl
@[simp] theorem State.modPort_trk (p : Nat) (f : Port → Port) : (s.modPort p f).trk = s.trk := rfl
@[simp] theorem State.modPort_port (p : Nat) (f : Port → Port) : (s.modPort p f).port = smSet s.port p (f (s.getPort p)) := rfl
@[simp] theorem State.modPort_fab (p : Nat) (f : Port → Port) : (s.modPort p f).fab = s.fab := rfl
@[simp] theorem State.modPort_bar (p : Nat) (f : Port → Port) : (s.modPort p f).bar = s.bar := rfl
@[simp] theorem State.modPort_host (p : Nat) (f : Port → Port) : (s.modPort p f).host = s.host := rfl
@[simp] theorem State.modPort_cmds (p : Nat) (f : Port → Port) : (s.modPort p f).cmds = s.cmds := rfl
@[simp] theorem State.modPort_part (p : Nat) (f : Port → Port) : (s.modPort p f).part = s.part := rfl
@[simp] theorem State.modPort_snap (p : Nat) (f : Port → Port) : (s.modPort p f).snap = s.snap := rfl
@[simp] theorem State.modPort_pwr (p : Nat) (f : Port → Port) : (s.modPort p f).pwr = s.pwr := rfl
@[simp] theorem State.modPort_fw (p : Nat) (f : Port → Port) : (s.modPort p f).fw = s.fw := rfl
@[simp] theorem State.modPort_ret (p : Nat) (f : Port → Port) : (s.modPort p f).ret = s.ret := rfl
@[simp] theorem State.modPort_mgmt (p : Nat) (f : Port → Port) : (s.modPort p f).mgmt = s.mgmt := rfl
@[simp] theorem State.modPort_pins (p : Nat) (f : Port → Port) : (s.modPort p f).pins = s.pins := rfl
@[simp] theorem State.modPort_claims (p : Nat) (f : Port → Port) : (s.modPort p f).claims = s.claims := rfl
@[simp] theorem State.modPort_flog (p : Nat) (f : Port → Port) : (s.modPort p f).flog = s.flog := rfl
@[simp] theorem State.modPort_sent (p : Nat) (f : Port → Port) : (s.modPort p f).sent = s.sent := rfl
@[simp] theorem State.modPort_free (p : Nat) (f : Port → Port) : (s.modPort p f).free = s.free := rfl

/-! `setBar` -/

@[simp] theorem State.setBar_pending (g : Nat) (v : Barrier) : (s.setBar g v).pending = s.pending := rfl
@[simp] theorem State.setBar_clk (g : Nat) (v : Barrier) : (s.setBar g v).clk = s.clk := rfl
@[simp] theorem State.setBar_id (g : Nat) (v : Barrier) : (s.setBar g v).id = s.id := rfl
@[simp] theorem State.setBar_isl (g : Nat) (v : Barrier) : (s.setBar g v).isl = s.isl := rfl
@[simp] theorem State.setBar_bundle (g : Nat) (v : Barrier) : (s.setBar g v).bundle = s.bundle := rfl
@[simp] theorem State.setBar_grp (g : Nat) (v : Barrier) : (s.setBar g v).grp = s.grp := rfl
@[simp] theorem State.setBar_circ (g : Nat) (v : Barrier) : (s.setBar g v).circ = s.circ := rfl
@[simp] theorem State.setBar_beats (g : Nat) (v : Barrier) : (s.setBar g v).beats = s.beats := rfl
@[simp] theorem State.setBar_mem (g : Nat) (v : Barrier) : (s.setBar g v).mem = s.mem := rfl
@[simp] theorem State.setBar_trk (g : Nat) (v : Barrier) : (s.setBar g v).trk = s.trk := rfl
@[simp] theorem State.setBar_port (g : Nat) (v : Barrier) : (s.setBar g v).port = s.port := rfl
@[simp] theorem State.setBar_fab (g : Nat) (v : Barrier) : (s.setBar g v).fab = s.fab := rfl
@[simp] theorem State.setBar_bar (g : Nat) (v : Barrier) : (s.setBar g v).bar = smSet s.bar g v := rfl
@[simp] theorem State.setBar_host (g : Nat) (v : Barrier) : (s.setBar g v).host = s.host := rfl
@[simp] theorem State.setBar_cmds (g : Nat) (v : Barrier) : (s.setBar g v).cmds = s.cmds := rfl
@[simp] theorem State.setBar_part (g : Nat) (v : Barrier) : (s.setBar g v).part = s.part := rfl
@[simp] theorem State.setBar_snap (g : Nat) (v : Barrier) : (s.setBar g v).snap = s.snap := rfl
@[simp] theorem State.setBar_pwr (g : Nat) (v : Barrier) : (s.setBar g v).pwr = s.pwr := rfl
@[simp] theorem State.setBar_fw (g : Nat) (v : Barrier) : (s.setBar g v).fw = s.fw := rfl
@[simp] theorem State.setBar_ret (g : Nat) (v : Barrier) : (s.setBar g v).ret = s.ret := rfl
@[simp] theorem State.setBar_mgmt (g : Nat) (v : Barrier) : (s.setBar g v).mgmt = s.mgmt := rfl
@[simp] theorem State.setBar_pins (g : Nat) (v : Barrier) : (s.setBar g v).pins = s.pins := rfl
@[simp] theorem State.setBar_claims (g : Nat) (v : Barrier) : (s.setBar g v).claims = s.claims := rfl
@[simp] theorem State.setBar_flog (g : Nat) (v : Barrier) : (s.setBar g v).flog = s.flog := rfl
@[simp] theorem State.setBar_sent (g : Nat) (v : Barrier) : (s.setBar g v).sent = s.sent := rfl
@[simp] theorem State.setBar_free (g : Nat) (v : Barrier) : (s.setBar g v).free = s.free := rfl

/-! `modBar` -/

@[simp] theorem State.modBar_pending (g : Nat) (f : Barrier → Barrier) : (s.modBar g f).pending = s.pending := rfl
@[simp] theorem State.modBar_clk (g : Nat) (f : Barrier → Barrier) : (s.modBar g f).clk = s.clk := rfl
@[simp] theorem State.modBar_id (g : Nat) (f : Barrier → Barrier) : (s.modBar g f).id = s.id := rfl
@[simp] theorem State.modBar_isl (g : Nat) (f : Barrier → Barrier) : (s.modBar g f).isl = s.isl := rfl
@[simp] theorem State.modBar_bundle (g : Nat) (f : Barrier → Barrier) : (s.modBar g f).bundle = s.bundle := rfl
@[simp] theorem State.modBar_grp (g : Nat) (f : Barrier → Barrier) : (s.modBar g f).grp = s.grp := rfl
@[simp] theorem State.modBar_circ (g : Nat) (f : Barrier → Barrier) : (s.modBar g f).circ = s.circ := rfl
@[simp] theorem State.modBar_beats (g : Nat) (f : Barrier → Barrier) : (s.modBar g f).beats = s.beats := rfl
@[simp] theorem State.modBar_mem (g : Nat) (f : Barrier → Barrier) : (s.modBar g f).mem = s.mem := rfl
@[simp] theorem State.modBar_trk (g : Nat) (f : Barrier → Barrier) : (s.modBar g f).trk = s.trk := rfl
@[simp] theorem State.modBar_port (g : Nat) (f : Barrier → Barrier) : (s.modBar g f).port = s.port := rfl
@[simp] theorem State.modBar_fab (g : Nat) (f : Barrier → Barrier) : (s.modBar g f).fab = s.fab := rfl
@[simp] theorem State.modBar_bar (g : Nat) (f : Barrier → Barrier) : (s.modBar g f).bar = smSet s.bar g (f (s.getBar g)) := rfl
@[simp] theorem State.modBar_host (g : Nat) (f : Barrier → Barrier) : (s.modBar g f).host = s.host := rfl
@[simp] theorem State.modBar_cmds (g : Nat) (f : Barrier → Barrier) : (s.modBar g f).cmds = s.cmds := rfl
@[simp] theorem State.modBar_part (g : Nat) (f : Barrier → Barrier) : (s.modBar g f).part = s.part := rfl
@[simp] theorem State.modBar_snap (g : Nat) (f : Barrier → Barrier) : (s.modBar g f).snap = s.snap := rfl
@[simp] theorem State.modBar_pwr (g : Nat) (f : Barrier → Barrier) : (s.modBar g f).pwr = s.pwr := rfl
@[simp] theorem State.modBar_fw (g : Nat) (f : Barrier → Barrier) : (s.modBar g f).fw = s.fw := rfl
@[simp] theorem State.modBar_ret (g : Nat) (f : Barrier → Barrier) : (s.modBar g f).ret = s.ret := rfl
@[simp] theorem State.modBar_mgmt (g : Nat) (f : Barrier → Barrier) : (s.modBar g f).mgmt = s.mgmt := rfl
@[simp] theorem State.modBar_pins (g : Nat) (f : Barrier → Barrier) : (s.modBar g f).pins = s.pins := rfl
@[simp] theorem State.modBar_claims (g : Nat) (f : Barrier → Barrier) : (s.modBar g f).claims = s.claims := rfl
@[simp] theorem State.modBar_flog (g : Nat) (f : Barrier → Barrier) : (s.modBar g f).flog = s.flog := rfl
@[simp] theorem State.modBar_sent (g : Nat) (f : Barrier → Barrier) : (s.modBar g f).sent = s.sent := rfl
@[simp] theorem State.modBar_free (g : Nat) (f : Barrier → Barrier) : (s.modBar g f).free = s.free := rfl

/-! `setGrp` -/

@[simp] theorem State.setGrp_pending (g : Nat) (v : Group) : (s.setGrp g v).pending = s.pending := rfl
@[simp] theorem State.setGrp_clk (g : Nat) (v : Group) : (s.setGrp g v).clk = s.clk := rfl
@[simp] theorem State.setGrp_id (g : Nat) (v : Group) : (s.setGrp g v).id = s.id := rfl
@[simp] theorem State.setGrp_isl (g : Nat) (v : Group) : (s.setGrp g v).isl = s.isl := rfl
@[simp] theorem State.setGrp_bundle (g : Nat) (v : Group) : (s.setGrp g v).bundle = s.bundle := rfl
@[simp] theorem State.setGrp_grp (g : Nat) (v : Group) : (s.setGrp g v).grp = smSet s.grp g v := rfl
@[simp] theorem State.setGrp_circ (g : Nat) (v : Group) : (s.setGrp g v).circ = s.circ := rfl
@[simp] theorem State.setGrp_beats (g : Nat) (v : Group) : (s.setGrp g v).beats = s.beats := rfl
@[simp] theorem State.setGrp_mem (g : Nat) (v : Group) : (s.setGrp g v).mem = s.mem := rfl
@[simp] theorem State.setGrp_trk (g : Nat) (v : Group) : (s.setGrp g v).trk = s.trk := rfl
@[simp] theorem State.setGrp_port (g : Nat) (v : Group) : (s.setGrp g v).port = s.port := rfl
@[simp] theorem State.setGrp_fab (g : Nat) (v : Group) : (s.setGrp g v).fab = s.fab := rfl
@[simp] theorem State.setGrp_bar (g : Nat) (v : Group) : (s.setGrp g v).bar = s.bar := rfl
@[simp] theorem State.setGrp_host (g : Nat) (v : Group) : (s.setGrp g v).host = s.host := rfl
@[simp] theorem State.setGrp_cmds (g : Nat) (v : Group) : (s.setGrp g v).cmds = s.cmds := rfl
@[simp] theorem State.setGrp_part (g : Nat) (v : Group) : (s.setGrp g v).part = s.part := rfl
@[simp] theorem State.setGrp_snap (g : Nat) (v : Group) : (s.setGrp g v).snap = s.snap := rfl
@[simp] theorem State.setGrp_pwr (g : Nat) (v : Group) : (s.setGrp g v).pwr = s.pwr := rfl
@[simp] theorem State.setGrp_fw (g : Nat) (v : Group) : (s.setGrp g v).fw = s.fw := rfl
@[simp] theorem State.setGrp_ret (g : Nat) (v : Group) : (s.setGrp g v).ret = s.ret := rfl
@[simp] theorem State.setGrp_mgmt (g : Nat) (v : Group) : (s.setGrp g v).mgmt = s.mgmt := rfl
@[simp] theorem State.setGrp_pins (g : Nat) (v : Group) : (s.setGrp g v).pins = s.pins := rfl
@[simp] theorem State.setGrp_claims (g : Nat) (v : Group) : (s.setGrp g v).claims = s.claims := rfl
@[simp] theorem State.setGrp_flog (g : Nat) (v : Group) : (s.setGrp g v).flog = s.flog := rfl
@[simp] theorem State.setGrp_sent (g : Nat) (v : Group) : (s.setGrp g v).sent = s.sent := rfl
@[simp] theorem State.setGrp_free (g : Nat) (v : Group) : (s.setGrp g v).free = s.free := rfl

/-! `modMem` -/

@[simp] theorem State.modMem_pending (f : Mem → Mem) : (s.modMem f).pending = s.pending := rfl
@[simp] theorem State.modMem_clk (f : Mem → Mem) : (s.modMem f).clk = s.clk := rfl
@[simp] theorem State.modMem_id (f : Mem → Mem) : (s.modMem f).id = s.id := rfl
@[simp] theorem State.modMem_isl (f : Mem → Mem) : (s.modMem f).isl = s.isl := rfl
@[simp] theorem State.modMem_bundle (f : Mem → Mem) : (s.modMem f).bundle = s.bundle := rfl
@[simp] theorem State.modMem_grp (f : Mem → Mem) : (s.modMem f).grp = s.grp := rfl
@[simp] theorem State.modMem_circ (f : Mem → Mem) : (s.modMem f).circ = s.circ := rfl
@[simp] theorem State.modMem_beats (f : Mem → Mem) : (s.modMem f).beats = s.beats := rfl
@[simp] theorem State.modMem_mem (f : Mem → Mem) : (s.modMem f).mem = f s.mem := rfl
@[simp] theorem State.modMem_trk (f : Mem → Mem) : (s.modMem f).trk = s.trk := rfl
@[simp] theorem State.modMem_port (f : Mem → Mem) : (s.modMem f).port = s.port := rfl
@[simp] theorem State.modMem_fab (f : Mem → Mem) : (s.modMem f).fab = s.fab := rfl
@[simp] theorem State.modMem_bar (f : Mem → Mem) : (s.modMem f).bar = s.bar := rfl
@[simp] theorem State.modMem_host (f : Mem → Mem) : (s.modMem f).host = s.host := rfl
@[simp] theorem State.modMem_cmds (f : Mem → Mem) : (s.modMem f).cmds = s.cmds := rfl
@[simp] theorem State.modMem_part (f : Mem → Mem) : (s.modMem f).part = s.part := rfl
@[simp] theorem State.modMem_snap (f : Mem → Mem) : (s.modMem f).snap = s.snap := rfl
@[simp] theorem State.modMem_pwr (f : Mem → Mem) : (s.modMem f).pwr = s.pwr := rfl
@[simp] theorem State.modMem_fw (f : Mem → Mem) : (s.modMem f).fw = s.fw := rfl
@[simp] theorem State.modMem_ret (f : Mem → Mem) : (s.modMem f).ret = s.ret := rfl
@[simp] theorem State.modMem_mgmt (f : Mem → Mem) : (s.modMem f).mgmt = s.mgmt := rfl
@[simp] theorem State.modMem_pins (f : Mem → Mem) : (s.modMem f).pins = s.pins := rfl
@[simp] theorem State.modMem_claims (f : Mem → Mem) : (s.modMem f).claims = s.claims := rfl
@[simp] theorem State.modMem_flog (f : Mem → Mem) : (s.modMem f).flog = s.flog := rfl
@[simp] theorem State.modMem_sent (f : Mem → Mem) : (s.modMem f).sent = s.sent := rfl
@[simp] theorem State.modMem_free (f : Mem → Mem) : (s.modMem f).free = s.free := rfl

/-! `modHost` -/

@[simp] theorem State.modHost_pending (f : HostIf → HostIf) : (s.modHost f).pending = s.pending := rfl
@[simp] theorem State.modHost_clk (f : HostIf → HostIf) : (s.modHost f).clk = s.clk := rfl
@[simp] theorem State.modHost_id (f : HostIf → HostIf) : (s.modHost f).id = s.id := rfl
@[simp] theorem State.modHost_isl (f : HostIf → HostIf) : (s.modHost f).isl = s.isl := rfl
@[simp] theorem State.modHost_bundle (f : HostIf → HostIf) : (s.modHost f).bundle = s.bundle := rfl
@[simp] theorem State.modHost_grp (f : HostIf → HostIf) : (s.modHost f).grp = s.grp := rfl
@[simp] theorem State.modHost_circ (f : HostIf → HostIf) : (s.modHost f).circ = s.circ := rfl
@[simp] theorem State.modHost_beats (f : HostIf → HostIf) : (s.modHost f).beats = s.beats := rfl
@[simp] theorem State.modHost_mem (f : HostIf → HostIf) : (s.modHost f).mem = s.mem := rfl
@[simp] theorem State.modHost_trk (f : HostIf → HostIf) : (s.modHost f).trk = s.trk := rfl
@[simp] theorem State.modHost_port (f : HostIf → HostIf) : (s.modHost f).port = s.port := rfl
@[simp] theorem State.modHost_fab (f : HostIf → HostIf) : (s.modHost f).fab = s.fab := rfl
@[simp] theorem State.modHost_bar (f : HostIf → HostIf) : (s.modHost f).bar = s.bar := rfl
@[simp] theorem State.modHost_host (f : HostIf → HostIf) : (s.modHost f).host = f s.host := rfl
@[simp] theorem State.modHost_cmds (f : HostIf → HostIf) : (s.modHost f).cmds = s.cmds := rfl
@[simp] theorem State.modHost_part (f : HostIf → HostIf) : (s.modHost f).part = s.part := rfl
@[simp] theorem State.modHost_snap (f : HostIf → HostIf) : (s.modHost f).snap = s.snap := rfl
@[simp] theorem State.modHost_pwr (f : HostIf → HostIf) : (s.modHost f).pwr = s.pwr := rfl
@[simp] theorem State.modHost_fw (f : HostIf → HostIf) : (s.modHost f).fw = s.fw := rfl
@[simp] theorem State.modHost_ret (f : HostIf → HostIf) : (s.modHost f).ret = s.ret := rfl
@[simp] theorem State.modHost_mgmt (f : HostIf → HostIf) : (s.modHost f).mgmt = s.mgmt := rfl
@[simp] theorem State.modHost_pins (f : HostIf → HostIf) : (s.modHost f).pins = s.pins := rfl
@[simp] theorem State.modHost_claims (f : HostIf → HostIf) : (s.modHost f).claims = s.claims := rfl
@[simp] theorem State.modHost_flog (f : HostIf → HostIf) : (s.modHost f).flog = s.flog := rfl
@[simp] theorem State.modHost_sent (f : HostIf → HostIf) : (s.modHost f).sent = s.sent := rfl
@[simp] theorem State.modHost_free (f : HostIf → HostIf) : (s.modHost f).free = s.free := rfl

/-! `modTrk` -/

@[simp] theorem State.modTrk_pending (f : Tracker → Tracker) : (s.modTrk f).pending = s.pending := rfl
@[simp] theorem State.modTrk_clk (f : Tracker → Tracker) : (s.modTrk f).clk = s.clk := rfl
@[simp] theorem State.modTrk_id (f : Tracker → Tracker) : (s.modTrk f).id = s.id := rfl
@[simp] theorem State.modTrk_isl (f : Tracker → Tracker) : (s.modTrk f).isl = s.isl := rfl
@[simp] theorem State.modTrk_bundle (f : Tracker → Tracker) : (s.modTrk f).bundle = s.bundle := rfl
@[simp] theorem State.modTrk_grp (f : Tracker → Tracker) : (s.modTrk f).grp = s.grp := rfl
@[simp] theorem State.modTrk_circ (f : Tracker → Tracker) : (s.modTrk f).circ = s.circ := rfl
@[simp] theorem State.modTrk_beats (f : Tracker → Tracker) : (s.modTrk f).beats = s.beats := rfl
@[simp] theorem State.modTrk_mem (f : Tracker → Tracker) : (s.modTrk f).mem = s.mem := rfl
@[simp] theorem State.modTrk_trk (f : Tracker → Tracker) : (s.modTrk f).trk = f s.trk := rfl
@[simp] theorem State.modTrk_port (f : Tracker → Tracker) : (s.modTrk f).port = s.port := rfl
@[simp] theorem State.modTrk_fab (f : Tracker → Tracker) : (s.modTrk f).fab = s.fab := rfl
@[simp] theorem State.modTrk_bar (f : Tracker → Tracker) : (s.modTrk f).bar = s.bar := rfl
@[simp] theorem State.modTrk_host (f : Tracker → Tracker) : (s.modTrk f).host = s.host := rfl
@[simp] theorem State.modTrk_cmds (f : Tracker → Tracker) : (s.modTrk f).cmds = s.cmds := rfl
@[simp] theorem State.modTrk_part (f : Tracker → Tracker) : (s.modTrk f).part = s.part := rfl
@[simp] theorem State.modTrk_snap (f : Tracker → Tracker) : (s.modTrk f).snap = s.snap := rfl
@[simp] theorem State.modTrk_pwr (f : Tracker → Tracker) : (s.modTrk f).pwr = s.pwr := rfl
@[simp] theorem State.modTrk_fw (f : Tracker → Tracker) : (s.modTrk f).fw = s.fw := rfl
@[simp] theorem State.modTrk_ret (f : Tracker → Tracker) : (s.modTrk f).ret = s.ret := rfl
@[simp] theorem State.modTrk_mgmt (f : Tracker → Tracker) : (s.modTrk f).mgmt = s.mgmt := rfl
@[simp] theorem State.modTrk_pins (f : Tracker → Tracker) : (s.modTrk f).pins = s.pins := rfl
@[simp] theorem State.modTrk_claims (f : Tracker → Tracker) : (s.modTrk f).claims = s.claims := rfl
@[simp] theorem State.modTrk_flog (f : Tracker → Tracker) : (s.modTrk f).flog = s.flog := rfl
@[simp] theorem State.modTrk_sent (f : Tracker → Tracker) : (s.modTrk f).sent = s.sent := rfl
@[simp] theorem State.modTrk_free (f : Tracker → Tracker) : (s.modTrk f).free = s.free := rfl

/-! `modFab` -/

@[simp] theorem State.modFab_pending (f : Fabric → Fabric) : (s.modFab f).pending = s.pending := rfl
@[simp] theorem State.modFab_clk (f : Fabric → Fabric) : (s.modFab f).clk = s.clk := rfl
@[simp] theorem State.modFab_id (f : Fabric → Fabric) : (s.modFab f).id = s.id := rfl
@[simp] theorem State.modFab_isl (f : Fabric → Fabric) : (s.modFab f).isl = s.isl := rfl
@[simp] theorem State.modFab_bundle (f : Fabric → Fabric) : (s.modFab f).bundle = s.bundle := rfl
@[simp] theorem State.modFab_grp (f : Fabric → Fabric) : (s.modFab f).grp = s.grp := rfl
@[simp] theorem State.modFab_circ (f : Fabric → Fabric) : (s.modFab f).circ = s.circ := rfl
@[simp] theorem State.modFab_beats (f : Fabric → Fabric) : (s.modFab f).beats = s.beats := rfl
@[simp] theorem State.modFab_mem (f : Fabric → Fabric) : (s.modFab f).mem = s.mem := rfl
@[simp] theorem State.modFab_trk (f : Fabric → Fabric) : (s.modFab f).trk = s.trk := rfl
@[simp] theorem State.modFab_port (f : Fabric → Fabric) : (s.modFab f).port = s.port := rfl
@[simp] theorem State.modFab_fab (f : Fabric → Fabric) : (s.modFab f).fab = f s.fab := rfl
@[simp] theorem State.modFab_bar (f : Fabric → Fabric) : (s.modFab f).bar = s.bar := rfl
@[simp] theorem State.modFab_host (f : Fabric → Fabric) : (s.modFab f).host = s.host := rfl
@[simp] theorem State.modFab_cmds (f : Fabric → Fabric) : (s.modFab f).cmds = s.cmds := rfl
@[simp] theorem State.modFab_part (f : Fabric → Fabric) : (s.modFab f).part = s.part := rfl
@[simp] theorem State.modFab_snap (f : Fabric → Fabric) : (s.modFab f).snap = s.snap := rfl
@[simp] theorem State.modFab_pwr (f : Fabric → Fabric) : (s.modFab f).pwr = s.pwr := rfl
@[simp] theorem State.modFab_fw (f : Fabric → Fabric) : (s.modFab f).fw = s.fw := rfl
@[simp] theorem State.modFab_ret (f : Fabric → Fabric) : (s.modFab f).ret = s.ret := rfl
@[simp] theorem State.modFab_mgmt (f : Fabric → Fabric) : (s.modFab f).mgmt = s.mgmt := rfl
@[simp] theorem State.modFab_pins (f : Fabric → Fabric) : (s.modFab f).pins = s.pins := rfl
@[simp] theorem State.modFab_claims (f : Fabric → Fabric) : (s.modFab f).claims = s.claims := rfl
@[simp] theorem State.modFab_flog (f : Fabric → Fabric) : (s.modFab f).flog = s.flog := rfl
@[simp] theorem State.modFab_sent (f : Fabric → Fabric) : (s.modFab f).sent = s.sent := rfl
@[simp] theorem State.modFab_free (f : Fabric → Fabric) : (s.modFab f).free = s.free := rfl

/-! `modSnap` -/

@[simp] theorem State.modSnap_pending (f : Snap → Snap) : (s.modSnap f).pending = s.pending := rfl
@[simp] theorem State.modSnap_clk (f : Snap → Snap) : (s.modSnap f).clk = s.clk := rfl
@[simp] theorem State.modSnap_id (f : Snap → Snap) : (s.modSnap f).id = s.id := rfl
@[simp] theorem State.modSnap_isl (f : Snap → Snap) : (s.modSnap f).isl = s.isl := rfl
@[simp] theorem State.modSnap_bundle (f : Snap → Snap) : (s.modSnap f).bundle = s.bundle := rfl
@[simp] theorem State.modSnap_grp (f : Snap → Snap) : (s.modSnap f).grp = s.grp := rfl
@[simp] theorem State.modSnap_circ (f : Snap → Snap) : (s.modSnap f).circ = s.circ := rfl
@[simp] theorem State.modSnap_beats (f : Snap → Snap) : (s.modSnap f).beats = s.beats := rfl
@[simp] theorem State.modSnap_mem (f : Snap → Snap) : (s.modSnap f).mem = s.mem := rfl
@[simp] theorem State.modSnap_trk (f : Snap → Snap) : (s.modSnap f).trk = s.trk := rfl
@[simp] theorem State.modSnap_port (f : Snap → Snap) : (s.modSnap f).port = s.port := rfl
@[simp] theorem State.modSnap_fab (f : Snap → Snap) : (s.modSnap f).fab = s.fab := rfl
@[simp] theorem State.modSnap_bar (f : Snap → Snap) : (s.modSnap f).bar = s.bar := rfl
@[simp] theorem State.modSnap_host (f : Snap → Snap) : (s.modSnap f).host = s.host := rfl
@[simp] theorem State.modSnap_cmds (f : Snap → Snap) : (s.modSnap f).cmds = s.cmds := rfl
@[simp] theorem State.modSnap_part (f : Snap → Snap) : (s.modSnap f).part = s.part := rfl
@[simp] theorem State.modSnap_snap (f : Snap → Snap) : (s.modSnap f).snap = f s.snap := rfl
@[simp] theorem State.modSnap_pwr (f : Snap → Snap) : (s.modSnap f).pwr = s.pwr := rfl
@[simp] theorem State.modSnap_fw (f : Snap → Snap) : (s.modSnap f).fw = s.fw := rfl
@[simp] theorem State.modSnap_ret (f : Snap → Snap) : (s.modSnap f).ret = s.ret := rfl
@[simp] theorem State.modSnap_mgmt (f : Snap → Snap) : (s.modSnap f).mgmt = s.mgmt := rfl
@[simp] theorem State.modSnap_pins (f : Snap → Snap) : (s.modSnap f).pins = s.pins := rfl
@[simp] theorem State.modSnap_claims (f : Snap → Snap) : (s.modSnap f).claims = s.claims := rfl
@[simp] theorem State.modSnap_flog (f : Snap → Snap) : (s.modSnap f).flog = s.flog := rfl
@[simp] theorem State.modSnap_sent (f : Snap → Snap) : (s.modSnap f).sent = s.sent := rfl
@[simp] theorem State.modSnap_free (f : Snap → Snap) : (s.modSnap f).free = s.free := rfl

/-! `modPwr` -/

@[simp] theorem State.modPwr_pending (f : Power → Power) : (s.modPwr f).pending = s.pending := rfl
@[simp] theorem State.modPwr_clk (f : Power → Power) : (s.modPwr f).clk = s.clk := rfl
@[simp] theorem State.modPwr_id (f : Power → Power) : (s.modPwr f).id = s.id := rfl
@[simp] theorem State.modPwr_isl (f : Power → Power) : (s.modPwr f).isl = s.isl := rfl
@[simp] theorem State.modPwr_bundle (f : Power → Power) : (s.modPwr f).bundle = s.bundle := rfl
@[simp] theorem State.modPwr_grp (f : Power → Power) : (s.modPwr f).grp = s.grp := rfl
@[simp] theorem State.modPwr_circ (f : Power → Power) : (s.modPwr f).circ = s.circ := rfl
@[simp] theorem State.modPwr_beats (f : Power → Power) : (s.modPwr f).beats = s.beats := rfl
@[simp] theorem State.modPwr_mem (f : Power → Power) : (s.modPwr f).mem = s.mem := rfl
@[simp] theorem State.modPwr_trk (f : Power → Power) : (s.modPwr f).trk = s.trk := rfl
@[simp] theorem State.modPwr_port (f : Power → Power) : (s.modPwr f).port = s.port := rfl
@[simp] theorem State.modPwr_fab (f : Power → Power) : (s.modPwr f).fab = s.fab := rfl
@[simp] theorem State.modPwr_bar (f : Power → Power) : (s.modPwr f).bar = s.bar := rfl
@[simp] theorem State.modPwr_host (f : Power → Power) : (s.modPwr f).host = s.host := rfl
@[simp] theorem State.modPwr_cmds (f : Power → Power) : (s.modPwr f).cmds = s.cmds := rfl
@[simp] theorem State.modPwr_part (f : Power → Power) : (s.modPwr f).part = s.part := rfl
@[simp] theorem State.modPwr_snap (f : Power → Power) : (s.modPwr f).snap = s.snap := rfl
@[simp] theorem State.modPwr_pwr (f : Power → Power) : (s.modPwr f).pwr = f s.pwr := rfl
@[simp] theorem State.modPwr_fw (f : Power → Power) : (s.modPwr f).fw = s.fw := rfl
@[simp] theorem State.modPwr_ret (f : Power → Power) : (s.modPwr f).ret = s.ret := rfl
@[simp] theorem State.modPwr_mgmt (f : Power → Power) : (s.modPwr f).mgmt = s.mgmt := rfl
@[simp] theorem State.modPwr_pins (f : Power → Power) : (s.modPwr f).pins = s.pins := rfl
@[simp] theorem State.modPwr_claims (f : Power → Power) : (s.modPwr f).claims = s.claims := rfl
@[simp] theorem State.modPwr_flog (f : Power → Power) : (s.modPwr f).flog = s.flog := rfl
@[simp] theorem State.modPwr_sent (f : Power → Power) : (s.modPwr f).sent = s.sent := rfl
@[simp] theorem State.modPwr_free (f : Power → Power) : (s.modPwr f).free = s.free := rfl

/-! `modFw` -/

@[simp] theorem State.modFw_pending (f : Firmware → Firmware) : (s.modFw f).pending = s.pending := rfl
@[simp] theorem State.modFw_clk (f : Firmware → Firmware) : (s.modFw f).clk = s.clk := rfl
@[simp] theorem State.modFw_id (f : Firmware → Firmware) : (s.modFw f).id = s.id := rfl
@[simp] theorem State.modFw_isl (f : Firmware → Firmware) : (s.modFw f).isl = s.isl := rfl
@[simp] theorem State.modFw_bundle (f : Firmware → Firmware) : (s.modFw f).bundle = s.bundle := rfl
@[simp] theorem State.modFw_grp (f : Firmware → Firmware) : (s.modFw f).grp = s.grp := rfl
@[simp] theorem State.modFw_circ (f : Firmware → Firmware) : (s.modFw f).circ = s.circ := rfl
@[simp] theorem State.modFw_beats (f : Firmware → Firmware) : (s.modFw f).beats = s.beats := rfl
@[simp] theorem State.modFw_mem (f : Firmware → Firmware) : (s.modFw f).mem = s.mem := rfl
@[simp] theorem State.modFw_trk (f : Firmware → Firmware) : (s.modFw f).trk = s.trk := rfl
@[simp] theorem State.modFw_port (f : Firmware → Firmware) : (s.modFw f).port = s.port := rfl
@[simp] theorem State.modFw_fab (f : Firmware → Firmware) : (s.modFw f).fab = s.fab := rfl
@[simp] theorem State.modFw_bar (f : Firmware → Firmware) : (s.modFw f).bar = s.bar := rfl
@[simp] theorem State.modFw_host (f : Firmware → Firmware) : (s.modFw f).host = s.host := rfl
@[simp] theorem State.modFw_cmds (f : Firmware → Firmware) : (s.modFw f).cmds = s.cmds := rfl
@[simp] theorem State.modFw_part (f : Firmware → Firmware) : (s.modFw f).part = s.part := rfl
@[simp] theorem State.modFw_snap (f : Firmware → Firmware) : (s.modFw f).snap = s.snap := rfl
@[simp] theorem State.modFw_pwr (f : Firmware → Firmware) : (s.modFw f).pwr = s.pwr := rfl
@[simp] theorem State.modFw_fw (f : Firmware → Firmware) : (s.modFw f).fw = f s.fw := rfl
@[simp] theorem State.modFw_ret (f : Firmware → Firmware) : (s.modFw f).ret = s.ret := rfl
@[simp] theorem State.modFw_mgmt (f : Firmware → Firmware) : (s.modFw f).mgmt = s.mgmt := rfl
@[simp] theorem State.modFw_pins (f : Firmware → Firmware) : (s.modFw f).pins = s.pins := rfl
@[simp] theorem State.modFw_claims (f : Firmware → Firmware) : (s.modFw f).claims = s.claims := rfl
@[simp] theorem State.modFw_flog (f : Firmware → Firmware) : (s.modFw f).flog = s.flog := rfl
@[simp] theorem State.modFw_sent (f : Firmware → Firmware) : (s.modFw f).sent = s.sent := rfl
@[simp] theorem State.modFw_free (f : Firmware → Firmware) : (s.modFw f).free = s.free := rfl

/-! `modMgmt` -/

@[simp] theorem State.modMgmt_pending (f : Mgmt → Mgmt) : (s.modMgmt f).pending = s.pending := rfl
@[simp] theorem State.modMgmt_clk (f : Mgmt → Mgmt) : (s.modMgmt f).clk = s.clk := rfl
@[simp] theorem State.modMgmt_id (f : Mgmt → Mgmt) : (s.modMgmt f).id = s.id := rfl
@[simp] theorem State.modMgmt_isl (f : Mgmt → Mgmt) : (s.modMgmt f).isl = s.isl := rfl
@[simp] theorem State.modMgmt_bundle (f : Mgmt → Mgmt) : (s.modMgmt f).bundle = s.bundle := rfl
@[simp] theorem State.modMgmt_grp (f : Mgmt → Mgmt) : (s.modMgmt f).grp = s.grp := rfl
@[simp] theorem State.modMgmt_circ (f : Mgmt → Mgmt) : (s.modMgmt f).circ = s.circ := rfl
@[simp] theorem State.modMgmt_beats (f : Mgmt → Mgmt) : (s.modMgmt f).beats = s.beats := rfl
@[simp] theorem State.modMgmt_mem (f : Mgmt → Mgmt) : (s.modMgmt f).mem = s.mem := rfl
@[simp] theorem State.modMgmt_trk (f : Mgmt → Mgmt) : (s.modMgmt f).trk = s.trk := rfl
@[simp] theorem State.modMgmt_port (f : Mgmt → Mgmt) : (s.modMgmt f).port = s.port := rfl
@[simp] theorem State.modMgmt_fab (f : Mgmt → Mgmt) : (s.modMgmt f).fab = s.fab := rfl
@[simp] theorem State.modMgmt_bar (f : Mgmt → Mgmt) : (s.modMgmt f).bar = s.bar := rfl
@[simp] theorem State.modMgmt_host (f : Mgmt → Mgmt) : (s.modMgmt f).host = s.host := rfl
@[simp] theorem State.modMgmt_cmds (f : Mgmt → Mgmt) : (s.modMgmt f).cmds = s.cmds := rfl
@[simp] theorem State.modMgmt_part (f : Mgmt → Mgmt) : (s.modMgmt f).part = s.part := rfl
@[simp] theorem State.modMgmt_snap (f : Mgmt → Mgmt) : (s.modMgmt f).snap = s.snap := rfl
@[simp] theorem State.modMgmt_pwr (f : Mgmt → Mgmt) : (s.modMgmt f).pwr = s.pwr := rfl
@[simp] theorem State.modMgmt_fw (f : Mgmt → Mgmt) : (s.modMgmt f).fw = s.fw := rfl
@[simp] theorem State.modMgmt_ret (f : Mgmt → Mgmt) : (s.modMgmt f).ret = s.ret := rfl
@[simp] theorem State.modMgmt_mgmt (f : Mgmt → Mgmt) : (s.modMgmt f).mgmt = f s.mgmt := rfl
@[simp] theorem State.modMgmt_pins (f : Mgmt → Mgmt) : (s.modMgmt f).pins = s.pins := rfl
@[simp] theorem State.modMgmt_claims (f : Mgmt → Mgmt) : (s.modMgmt f).claims = s.claims := rfl
@[simp] theorem State.modMgmt_flog (f : Mgmt → Mgmt) : (s.modMgmt f).flog = s.flog := rfl
@[simp] theorem State.modMgmt_sent (f : Mgmt → Mgmt) : (s.modMgmt f).sent = s.sent := rfl
@[simp] theorem State.modMgmt_free (f : Mgmt → Mgmt) : (s.modMgmt f).free = s.free := rfl

/-! `modPins` -/

@[simp] theorem State.modPins_pending (f : Pins → Pins) : (s.modPins f).pending = s.pending := rfl
@[simp] theorem State.modPins_clk (f : Pins → Pins) : (s.modPins f).clk = s.clk := rfl
@[simp] theorem State.modPins_id (f : Pins → Pins) : (s.modPins f).id = s.id := rfl
@[simp] theorem State.modPins_isl (f : Pins → Pins) : (s.modPins f).isl = s.isl := rfl
@[simp] theorem State.modPins_bundle (f : Pins → Pins) : (s.modPins f).bundle = s.bundle := rfl
@[simp] theorem State.modPins_grp (f : Pins → Pins) : (s.modPins f).grp = s.grp := rfl
@[simp] theorem State.modPins_circ (f : Pins → Pins) : (s.modPins f).circ = s.circ := rfl
@[simp] theorem State.modPins_beats (f : Pins → Pins) : (s.modPins f).beats = s.beats := rfl
@[simp] theorem State.modPins_mem (f : Pins → Pins) : (s.modPins f).mem = s.mem := rfl
@[simp] theorem State.modPins_trk (f : Pins → Pins) : (s.modPins f).trk = s.trk := rfl
@[simp] theorem State.modPins_port (f : Pins → Pins) : (s.modPins f).port = s.port := rfl
@[simp] theorem State.modPins_fab (f : Pins → Pins) : (s.modPins f).fab = s.fab := rfl
@[simp] theorem State.modPins_bar (f : Pins → Pins) : (s.modPins f).bar = s.bar := rfl
@[simp] theorem State.modPins_host (f : Pins → Pins) : (s.modPins f).host = s.host := rfl
@[simp] theorem State.modPins_cmds (f : Pins → Pins) : (s.modPins f).cmds = s.cmds := rfl
@[simp] theorem State.modPins_part (f : Pins → Pins) : (s.modPins f).part = s.part := rfl
@[simp] theorem State.modPins_snap (f : Pins → Pins) : (s.modPins f).snap = s.snap := rfl
@[simp] theorem State.modPins_pwr (f : Pins → Pins) : (s.modPins f).pwr = s.pwr := rfl
@[simp] theorem State.modPins_fw (f : Pins → Pins) : (s.modPins f).fw = s.fw := rfl
@[simp] theorem State.modPins_ret (f : Pins → Pins) : (s.modPins f).ret = s.ret := rfl
@[simp] theorem State.modPins_mgmt (f : Pins → Pins) : (s.modPins f).mgmt = s.mgmt := rfl
@[simp] theorem State.modPins_pins (f : Pins → Pins) : (s.modPins f).pins = f s.pins := rfl
@[simp] theorem State.modPins_claims (f : Pins → Pins) : (s.modPins f).claims = s.claims := rfl
@[simp] theorem State.modPins_flog (f : Pins → Pins) : (s.modPins f).flog = s.flog := rfl
@[simp] theorem State.modPins_sent (f : Pins → Pins) : (s.modPins f).sent = s.sent := rfl
@[simp] theorem State.modPins_free (f : Pins → Pins) : (s.modPins f).free = s.free := rfl

/-! `setCr` -/

@[simp] theorem State.setCr_pending (r : Nat) (v : CmdRing) : (s.setCr r v).pending = s.pending := rfl
@[simp] theorem State.setCr_clk (r : Nat) (v : CmdRing) : (s.setCr r v).clk = s.clk := rfl
@[simp] theorem State.setCr_id (r : Nat) (v : CmdRing) : (s.setCr r v).id = s.id := rfl
@[simp] theorem State.setCr_isl (r : Nat) (v : CmdRing) : (s.setCr r v).isl = s.isl := rfl
@[simp] theorem State.setCr_bundle (r : Nat) (v : CmdRing) : (s.setCr r v).bundle = s.bundle := rfl
@[simp] theorem State.setCr_grp (r : Nat) (v : CmdRing) : (s.setCr r v).grp = s.grp := rfl
@[simp] theorem State.setCr_circ (r : Nat) (v : CmdRing) : (s.setCr r v).circ = s.circ := rfl
@[simp] theorem State.setCr_beats (r : Nat) (v : CmdRing) : (s.setCr r v).beats = s.beats := rfl
@[simp] theorem State.setCr_mem (r : Nat) (v : CmdRing) : (s.setCr r v).mem = s.mem := rfl
@[simp] theorem State.setCr_trk (r : Nat) (v : CmdRing) : (s.setCr r v).trk = s.trk := rfl
@[simp] theorem State.setCr_port (r : Nat) (v : CmdRing) : (s.setCr r v).port = s.port := rfl
@[simp] theorem State.setCr_fab (r : Nat) (v : CmdRing) : (s.setCr r v).fab = s.fab := rfl
@[simp] theorem State.setCr_bar (r : Nat) (v : CmdRing) : (s.setCr r v).bar = s.bar := rfl
@[simp] theorem State.setCr_host (r : Nat) (v : CmdRing) : (s.setCr r v).host = { s.host with cmd := smSet s.host.cmd r v } := rfl
@[simp] theorem State.setCr_cmds (r : Nat) (v : CmdRing) : (s.setCr r v).cmds = s.cmds := rfl
@[simp] theorem State.setCr_part (r : Nat) (v : CmdRing) : (s.setCr r v).part = s.part := rfl
@[simp] theorem State.setCr_snap (r : Nat) (v : CmdRing) : (s.setCr r v).snap = s.snap := rfl
@[simp] theorem State.setCr_pwr (r : Nat) (v : CmdRing) : (s.setCr r v).pwr = s.pwr := rfl
@[simp] theorem State.setCr_fw (r : Nat) (v : CmdRing) : (s.setCr r v).fw = s.fw := rfl
@[simp] theorem State.setCr_ret (r : Nat) (v : CmdRing) : (s.setCr r v).ret = s.ret := rfl
@[simp] theorem State.setCr_mgmt (r : Nat) (v : CmdRing) : (s.setCr r v).mgmt = s.mgmt := rfl
@[simp] theorem State.setCr_pins (r : Nat) (v : CmdRing) : (s.setCr r v).pins = s.pins := rfl
@[simp] theorem State.setCr_claims (r : Nat) (v : CmdRing) : (s.setCr r v).claims = s.claims := rfl
@[simp] theorem State.setCr_flog (r : Nat) (v : CmdRing) : (s.setCr r v).flog = s.flog := rfl
@[simp] theorem State.setCr_sent (r : Nat) (v : CmdRing) : (s.setCr r v).sent = s.sent := rfl
@[simp] theorem State.setCr_free (r : Nat) (v : CmdRing) : (s.setCr r v).free = s.free := rfl

/-! `setQr` -/

@[simp] theorem State.setQr_pending (r : Nat) (v : CompRing) : (s.setQr r v).pending = s.pending := rfl
@[simp] theorem State.setQr_clk (r : Nat) (v : CompRing) : (s.setQr r v).clk = s.clk := rfl
@[simp] theorem State.setQr_id (r : Nat) (v : CompRing) : (s.setQr r v).id = s.id := rfl
@[simp] theorem State.setQr_isl (r : Nat) (v : CompRing) : (s.setQr r v).isl = s.isl := rfl
@[simp] theorem State.setQr_bundle (r : Nat) (v : CompRing) : (s.setQr r v).bundle = s.bundle := rfl
@[simp] theorem State.setQr_grp (r : Nat) (v : CompRing) : (s.setQr r v).grp = s.grp := rfl
@[simp] theorem State.setQr_circ (r : Nat) (v : CompRing) : (s.setQr r v).circ = s.circ := rfl
@[simp] theorem State.setQr_beats (r : Nat) (v : CompRing) : (s.setQr r v).beats = s.beats := rfl
@[simp] theorem State.setQr_mem (r : Nat) (v : CompRing) : (s.setQr r v).mem = s.mem := rfl
@[simp] theorem State.setQr_trk (r : Nat) (v : CompRing) : (s.setQr r v).trk = s.trk := rfl
@[simp] theorem State.setQr_port (r : Nat) (v : CompRing) : (s.setQr r v).port = s.port := rfl
@[simp] theorem State.setQr_fab (r : Nat) (v : CompRing) : (s.setQr r v).fab = s.fab := rfl
@[simp] theorem State.setQr_bar (r : Nat) (v : CompRing) : (s.setQr r v).bar = s.bar := rfl
@[simp] theorem State.setQr_host (r : Nat) (v : CompRing) : (s.setQr r v).host = { s.host with comp := smSet s.host.comp r v } := rfl
@[simp] theorem State.setQr_cmds (r : Nat) (v : CompRing) : (s.setQr r v).cmds = s.cmds := rfl
@[simp] theorem State.setQr_part (r : Nat) (v : CompRing) : (s.setQr r v).part = s.part := rfl
@[simp] theorem State.setQr_snap (r : Nat) (v : CompRing) : (s.setQr r v).snap = s.snap := rfl
@[simp] theorem State.setQr_pwr (r : Nat) (v : CompRing) : (s.setQr r v).pwr = s.pwr := rfl
@[simp] theorem State.setQr_fw (r : Nat) (v : CompRing) : (s.setQr r v).fw = s.fw := rfl
@[simp] theorem State.setQr_ret (r : Nat) (v : CompRing) : (s.setQr r v).ret = s.ret := rfl
@[simp] theorem State.setQr_mgmt (r : Nat) (v : CompRing) : (s.setQr r v).mgmt = s.mgmt := rfl
@[simp] theorem State.setQr_pins (r : Nat) (v : CompRing) : (s.setQr r v).pins = s.pins := rfl
@[simp] theorem State.setQr_claims (r : Nat) (v : CompRing) : (s.setQr r v).claims = s.claims := rfl
@[simp] theorem State.setQr_flog (r : Nat) (v : CompRing) : (s.setQr r v).flog = s.flog := rfl
@[simp] theorem State.setQr_sent (r : Nat) (v : CompRing) : (s.setQr r v).sent = s.sent := rfl
@[simp] theorem State.setQr_free (r : Nat) (v : CompRing) : (s.setQr r v).free = s.free := rfl

/-! `emit` -/

@[simp] theorem State.emit_pending (x : Sent) : (s.emit x).pending = s.pending := rfl
@[simp] theorem State.emit_clk (x : Sent) : (s.emit x).clk = s.clk := rfl
@[simp] theorem State.emit_id (x : Sent) : (s.emit x).id = s.id := rfl
@[simp] theorem State.emit_isl (x : Sent) : (s.emit x).isl = s.isl := rfl
@[simp] theorem State.emit_bundle (x : Sent) : (s.emit x).bundle = s.bundle := rfl
@[simp] theorem State.emit_grp (x : Sent) : (s.emit x).grp = s.grp := rfl
@[simp] theorem State.emit_circ (x : Sent) : (s.emit x).circ = s.circ := rfl
@[simp] theorem State.emit_beats (x : Sent) : (s.emit x).beats = s.beats := rfl
@[simp] theorem State.emit_mem (x : Sent) : (s.emit x).mem = s.mem := rfl
@[simp] theorem State.emit_trk (x : Sent) : (s.emit x).trk = s.trk := rfl
@[simp] theorem State.emit_port (x : Sent) : (s.emit x).port = s.port := rfl
@[simp] theorem State.emit_fab (x : Sent) : (s.emit x).fab = s.fab := rfl
@[simp] theorem State.emit_bar (x : Sent) : (s.emit x).bar = s.bar := rfl
@[simp] theorem State.emit_host (x : Sent) : (s.emit x).host = s.host := rfl
@[simp] theorem State.emit_cmds (x : Sent) : (s.emit x).cmds = s.cmds := rfl
@[simp] theorem State.emit_part (x : Sent) : (s.emit x).part = s.part := rfl
@[simp] theorem State.emit_snap (x : Sent) : (s.emit x).snap = s.snap := rfl
@[simp] theorem State.emit_pwr (x : Sent) : (s.emit x).pwr = s.pwr := rfl
@[simp] theorem State.emit_fw (x : Sent) : (s.emit x).fw = s.fw := rfl
@[simp] theorem State.emit_ret (x : Sent) : (s.emit x).ret = s.ret := rfl
@[simp] theorem State.emit_mgmt (x : Sent) : (s.emit x).mgmt = s.mgmt := rfl
@[simp] theorem State.emit_pins (x : Sent) : (s.emit x).pins = s.pins := rfl
@[simp] theorem State.emit_claims (x : Sent) : (s.emit x).claims = s.claims := rfl
@[simp] theorem State.emit_flog (x : Sent) : (s.emit x).flog = s.flog := rfl
@[simp] theorem State.emit_sent (x : Sent) : (s.emit x).sent = s.sent ++ [x] := rfl
@[simp] theorem State.emit_free (x : Sent) : (s.emit x).free = s.free := rfl

/-! `out` -/

@[simp] theorem State.out_pending (x : HostOut) : (s.out x).pending = s.pending := rfl
@[simp] theorem State.out_clk (x : HostOut) : (s.out x).clk = s.clk := rfl
@[simp] theorem State.out_id (x : HostOut) : (s.out x).id = s.id := rfl
@[simp] theorem State.out_isl (x : HostOut) : (s.out x).isl = s.isl := rfl
@[simp] theorem State.out_bundle (x : HostOut) : (s.out x).bundle = s.bundle := rfl
@[simp] theorem State.out_grp (x : HostOut) : (s.out x).grp = s.grp := rfl
@[simp] theorem State.out_circ (x : HostOut) : (s.out x).circ = s.circ := rfl
@[simp] theorem State.out_beats (x : HostOut) : (s.out x).beats = s.beats := rfl
@[simp] theorem State.out_mem (x : HostOut) : (s.out x).mem = s.mem := rfl
@[simp] theorem State.out_trk (x : HostOut) : (s.out x).trk = s.trk := rfl
@[simp] theorem State.out_port (x : HostOut) : (s.out x).port = s.port := rfl
@[simp] theorem State.out_fab (x : HostOut) : (s.out x).fab = s.fab := rfl
@[simp] theorem State.out_bar (x : HostOut) : (s.out x).bar = s.bar := rfl
@[simp] theorem State.out_host (x : HostOut) : (s.out x).host = { s.host with log := s.host.log ++ [x] } := rfl
@[simp] theorem State.out_cmds (x : HostOut) : (s.out x).cmds = s.cmds := rfl
@[simp] theorem State.out_part (x : HostOut) : (s.out x).part = s.part := rfl
@[simp] theorem State.out_snap (x : HostOut) : (s.out x).snap = s.snap := rfl
@[simp] theorem State.out_pwr (x : HostOut) : (s.out x).pwr = s.pwr := rfl
@[simp] theorem State.out_fw (x : HostOut) : (s.out x).fw = s.fw := rfl
@[simp] theorem State.out_ret (x : HostOut) : (s.out x).ret = s.ret := rfl
@[simp] theorem State.out_mgmt (x : HostOut) : (s.out x).mgmt = s.mgmt := rfl
@[simp] theorem State.out_pins (x : HostOut) : (s.out x).pins = s.pins := rfl
@[simp] theorem State.out_claims (x : HostOut) : (s.out x).claims = s.claims := rfl
@[simp] theorem State.out_flog (x : HostOut) : (s.out x).flog = s.flog := rfl
@[simp] theorem State.out_sent (x : HostOut) : (s.out x).sent = s.sent := rfl
@[simp] theorem State.out_free (x : HostOut) : (s.out x).free = s.free := rfl

end Sys2Proof.Machine
end

