-- ==== Sys2Proof/Laws/Maps.lean ====
section
/-! SUPPORT. Laws of sparse maps and of the parts of the state that they hold. -/

namespace Sys2Proof.Machine

variable {α : Type}

@[simp] theorem smGet_nil (d : α) (k : Nat) : smGet d [] k = d := rfl

@[simp] theorem smGet_smSet_same (d : α) (m : SMap α) (k : Nat) (v : α) : smGet d (smSet m k v) k = v := by
  induction m with
  | nil => simp [smSet, smGet]
  | cons e t ih =>
    obtain ⟨j, w⟩ := e
    by_cases h : j = k
    · simp [smSet, smGet, h]
    · by_cases h2 : k < j
      · simp [smSet, smGet, h, h2]
      · simp [smSet, smGet, h, h2, ih]

theorem smGet_smSet_ne (d : α) (m : SMap α) {k j : Nat} (v : α) (h : j ≠ k) : smGet d (smSet m k v) j = smGet d m j := by
  induction m with
  | nil => simp [smSet, smGet, Ne.symm h]
  | cons e t ih =>
    obtain ⟨i, w⟩ := e
    by_cases h1 : i = k
    · subst h1; simp [smSet, smGet, Ne.symm h]
    · by_cases h2 : k < i
      · simp [smSet, smGet, h1, h2, Ne.symm h]
      · rw [show smSet ((i, w) :: t) k v = (i, w) :: smSet t k v by simp [smSet, h1, h2]]
        simp only [smGet, ih]

@[simp] theorem smSet_smSet (m : SMap α) (k : Nat) (v w : α) : smSet (smSet m k v) k w = smSet m k w := by
  induction m with
  | nil => simp [smSet]
  | cons e t ih =>
    obtain ⟨j, u⟩ := e
    by_cases h : j = k
    · simp [smSet, h]
    · by_cases h2 : k < j
      · simp [smSet, h, h2]
      · simp [smSet, h, h2, ih]

@[simp] theorem smMod_get (d : α) (m : SMap α) (k : Nat) (f : α → α) : smGet d (smMod d m k f) k = f (smGet d m k) := by
  simp [smMod]

variable (s : State)

@[simp] theorem State.getIsl_setIsl (i : Nat) (v : Island) : (s.setIsl i v).getIsl i = v := by simp [getIsl]
theorem State.getIsl_setIsl_ne {i j : Nat} (v : Island) (h : j ≠ i) : (s.setIsl i v).getIsl j = s.getIsl j := by
  simp [getIsl, smGet_smSet_ne _ _ _ h]
@[simp] theorem State.setIsl_setIsl (i : Nat) (v w : Island) : (s.setIsl i v).setIsl i w = s.setIsl i w := by simp [setIsl]
@[simp] theorem State.getIsl_modIsl (i : Nat) (f : Island → Island) : (s.modIsl i f).getIsl i = f (s.getIsl i) := by simp [modIsl]
@[simp] theorem State.modIsl_setIsl (i : Nat) (v : Island) (f : Island → Island) : (s.setIsl i v).modIsl i f = s.setIsl i (f v) := by
  simp [modIsl]

@[simp] theorem State.getPart_setPart (p : Nat) (v : Part) : (s.setPart p v).getPart p = v := by simp [getPart]
theorem State.getPart_setPart_ne {p q : Nat} (v : Part) (h : q ≠ p) : (s.setPart p v).getPart q = s.getPart q := by
  simp [getPart, smGet_smSet_ne _ _ _ h]
@[simp] theorem State.setPart_setPart (p : Nat) (v w : Part) : (s.setPart p v).setPart p w = s.setPart p w := by simp [setPart]

@[simp] theorem State.getPort_setPort (p : Nat) (v : Port) : (s.setPort p v).getPort p = v := by simp [getPort]
theorem State.getPort_setPort_ne {p q : Nat} (v : Port) (h : q ≠ p) : (s.setPort p v).getPort q = s.getPort q := by
  simp [getPort, smGet_smSet_ne _ _ _ h]
@[simp] theorem State.setPort_setPort (p : Nat) (v w : Port) : (s.setPort p v).setPort p w = s.setPort p w := by simp [setPort]

@[simp] theorem State.getBar_setBar (g : Nat) (v : Barrier) : (s.setBar g v).getBar g = v := by simp [getBar]
theorem State.getBar_setBar_ne {g h : Nat} (v : Barrier) (n : h ≠ g) : (s.setBar g v).getBar h = s.getBar h := by
  simp [getBar, smGet_smSet_ne _ _ _ n]
@[simp] theorem State.setBar_setBar (g : Nat) (v w : Barrier) : (s.setBar g v).setBar g w = s.setBar g w := by simp [setBar]

@[simp] theorem State.getGrp_setGrp (g : Nat) (v : Group) : (s.setGrp g v).getGrp g = v := by simp [getGrp]
@[simp] theorem State.getCr_setCr (r : Nat) (v : CmdRing) : (s.setCr r v).getCr r = v := by simp [getCr]
theorem State.getCr_setCr_ne {r q : Nat} (v : CmdRing) (h : q ≠ r) : (s.setCr r v).getCr q = s.getCr q := by
  simp [getCr, smGet_smSet_ne _ _ _ h]
@[simp] theorem State.getQr_setQr (r : Nat) (v : CompRing) : (s.setQr r v).getQr r = v := by simp [getQr]
theorem State.getQr_setQr_ne {r q : Nat} (v : CompRing) (h : q ≠ r) : (s.setQr r v).getQr q = s.getQr q := by
  simp [getQr, smGet_smSet_ne _ _ _ h]
@[simp] theorem State.getQr_setCr (r q : Nat) (v : CmdRing) : (s.setCr r v).getQr q = s.getQr q := rfl
@[simp] theorem State.getCr_setQr (r q : Nat) (v : CompRing) : (s.setQr r v).getCr q = s.getCr q := rfl

end Sys2Proof.Machine
end

