-- ==== Sys2Proof/Laws/Command.lean ====
section
/-! SUPPORT. What the command interpreter's shared operations do, said once. -/

namespace Sys2Proof.Machine

variable {s : State} {c : Packet}

/-- Reads of host memory change only what the device has put out. -/
theorem foldl_cacheRead (l : List Dword) (s : State) : ∃ x : List HostOut,
    l.foldl (fun s a => s.out (.cacheRead a false)) s = s.modHost fun h => { h with log := h.log ++ x } := by
  induction l generalizing s with
  | nil => exact ⟨[], by simp [State.modHost]⟩
  | cons a l ih =>
    obtain ⟨x, hx⟩ := ih (s.out (.cacheRead a false))
    exact ⟨.cacheRead a false :: x, by rw [List.foldl_cons, hx]; simp [State.out, State.modHost]⟩

/-- Reading the slots of a ring changes only what the device has put out. -/
theorem readSlots_log (s : State) (r n : Nat) : ∃ x : List HostOut,
    s.readSlots r n = s.modHost fun h => { h with log := h.log ++ x } := foldl_cacheRead _ s

/-- A packet taken up changes only what the device has put out and the ring served last. -/
theorem served_eq (s : State) (c : Packet) : ∃ x : List HostOut,
    s.served c = { s with host := { s.host with log := s.host.log ++ x, lastServed := c.ring } } := by
  obtain ⟨x, hx⟩ := readSlots_log s c.ring.toNat c.length.toNat
  exact ⟨x, by simp [State.served, hx, State.modHost]⟩

@[simp] theorem served_cmds (s : State) (c : Packet) : (s.served c).cmds = s.cmds := by
  obtain ⟨x, hx⟩ := served_eq s c; rw [hx]
@[simp] theorem served_clk (s : State) (c : Packet) : (s.served c).clk = s.clk := by
  obtain ⟨x, hx⟩ := served_eq s c; rw [hx]
@[simp] theorem served_isl (s : State) (c : Packet) : (s.served c).isl = s.isl := by
  obtain ⟨x, hx⟩ := served_eq s c; rw [hx]
@[simp] theorem served_part (s : State) (c : Packet) : (s.served c).part = s.part := by
  obtain ⟨x, hx⟩ := served_eq s c; rw [hx]
@[simp] theorem served_mem (s : State) (c : Packet) : (s.served c).mem = s.mem := by
  obtain ⟨x, hx⟩ := served_eq s c; rw [hx]
@[simp] theorem served_port (s : State) (c : Packet) : (s.served c).port = s.port := by
  obtain ⟨x, hx⟩ := served_eq s c; rw [hx]
@[simp] theorem served_fab (s : State) (c : Packet) : (s.served c).fab = s.fab := by
  obtain ⟨x, hx⟩ := served_eq s c; rw [hx]
@[simp] theorem served_bar (s : State) (c : Packet) : (s.served c).bar = s.bar := by
  obtain ⟨x, hx⟩ := served_eq s c; rw [hx]
@[simp] theorem served_pwr (s : State) (c : Packet) : (s.served c).pwr = s.pwr := by
  obtain ⟨x, hx⟩ := served_eq s c; rw [hx]
@[simp] theorem served_snap (s : State) (c : Packet) : (s.served c).snap = s.snap := by
  obtain ⟨x, hx⟩ := served_eq s c; rw [hx]
@[simp] theorem served_fw (s : State) (c : Packet) : (s.served c).fw = s.fw := by
  obtain ⟨x, hx⟩ := served_eq s c; rw [hx]
@[simp] theorem served_claims (s : State) (c : Packet) : (s.served c).claims = s.claims := by
  obtain ⟨x, hx⟩ := served_eq s c; rw [hx]
@[simp] theorem served_dev (s : State) (c : Packet) : (s.served c).host.dev = s.host.dev := by
  obtain ⟨x, hx⟩ := served_eq s c; rw [hx]
@[simp] theorem served_getCr (s : State) (c : Packet) (r : Nat) : (s.served c).getCr r = s.getCr r := by
  obtain ⟨x, hx⟩ := served_eq s c; rw [hx]; rfl

/-- A packet taken up and not held runs on the served state, and its ring moves on. -/
theorem fetch_fetched (op : Half) (start : Nat → State → State) (h : Fetched s c) :
    s.fetch c op start = (start s.clk.now (s.served c)).advanceCi c.ring.toNat c.length.toNat := by
  obtain ⟨h1, h2, h3, h4, h5, h6, h7, h8, h9⟩ := h
  have e0 : (((s.getCr c.ring.toNat).piRead - (s.getCr c.ring.toNat).ci).toNat = 0) = False := by
    simp only [eq_iff_iff, iff_false]; omega
  have e1 : ((s.getCr c.ring.toNat).slots < c.length.toNat) = False := by simp only [eq_iff_iff, iff_false]; omega
  have e2 : (((s.getCr c.ring.toNat).piRead - (s.getCr c.ring.toNat).ci).toNat < c.length.toNat) = False := by
    simp only [eq_iff_iff, iff_false]; omega
  have en : min ((s.getCr c.ring.toNat).piRead - (s.getCr c.ring.toNat).ci).toNat (max 1 c.length.toNat) = c.length.toNat := by omega
  have e3 : (c.fence && (s.served c).owing c.ring.toNat) = false := by
    unfold State.owing at h9 ⊢
    rw [served_cmds]
    exact h9
  obtain ⟨x, hx⟩ := readSlots_log s c.ring.toNat c.length.toNat
  have e4 : (s.readSlots c.ring.toNat c.length.toNat).clk = s.clk := by rw [hx]; rfl
  unfold State.fetch
  simp only [h1, h2, h3, h4, h5, h6, e0, e1, e2, en, if_false, Bool.not_true, Bool.false_or, or_self, Bool.false_eq_true]
  change (if (c.fence && (s.served c).owing c.ring.toNat) = true then _ else _) = _
  rw [e3]
  change (start (s.readSlots c.ring.toNat c.length.toNat).clk.now _).advanceCi _ _ = _
  rw [e4]
  rfl

/-- A packet taken up that passes its checks, and whose body replies, is answered on the state the body leaves. -/
theorem command_reply {op : Half} {extra : State → List (Nat × Half × Half)} {body : Nat → State → Run} {r : Rep} {t : State}
    (h : Fetched s c) (p : Passes (s.served c) c op (extra (s.served c))) (hb : body s.clk.now (s.served c) = .reply r t) :
    s.command c op extra body = t.answered c op r.status r.detail r.r0 r.r1 r.r2 := by
  obtain ⟨o, ho, hc⟩ := p
  unfold State.command
  rw [ho]
  simp only [fetch_fetched _ _ h, hc, hb]
  rfl

/-- One whose effect follows its reply. -/
theorem command_first {op : Half} {extra : State → List (Nat × Half × Half)} {body : Nat → State → Run} {r : Rep} {t : State}
    {f : State → State} (h : Fetched s c) (p : Passes (s.served c) c op (extra (s.served c)))
    (hb : body s.clk.now (s.served c) = .first r t f) :
    s.command c op extra body = (f (t.record c op 0 r.status r.detail r.r0 r.r1 r.r2)).advanceCi c.ring.toNat c.length.toNat := by
  obtain ⟨o, ho, hc⟩ := p
  unfold State.command
  rw [ho]
  simp only [fetch_fetched _ _ h, hc, hb]

/-- One that begins a long command. -/
theorem command_long {op : Half} {extra : State → List (Nat × Half × Half)} {body : Nat → State → Run} {r : Rep} {l : LongCmd}
    {f : State → State} (h : Fetched s c) (p : Passes (s.served c) c op (extra (s.served c)))
    (hb : body s.clk.now (s.served c) = .long r l f) :
    s.command c op extra body = (f (({ s.served c with cmds := { (s.served c).cmds with
        long := (s.served c).cmds.long ++ [l] } } : State).record c op 0 r.status r.detail r.r0 r.r1 r.r2)).advanceCi
      c.ring.toNat c.length.toNat := by
  obtain ⟨o, ho, hc⟩ := p
  unfold State.command
  rw [ho]
  simp only [fetch_fetched _ _ h, hc, hb]

/-- A command without further checks that replies at once. -/
theorem simple_reply {op : Half} {body : State → Rep × State} (h : Fetched s c) (p : Passes (s.served c) c op []) :
    s.simple c op body = (body (s.served c)).2.answered c op (body (s.served c)).1.status (body (s.served c)).1.detail
      (body (s.served c)).1.r0 (body (s.served c)).1.r1 (body (s.served c)).1.r2 := by
  unfold State.simple
  exact command_reply h p rfl

/-- A long command that nothing refuses is accepted, where it does not wait for the data plane. -/
theorem startLong_accepted {op : Half} {o : OpSpec} (plane : Bool) (b : State → State) (ho : opSpec op.toNat = some o)
    (h1 : s.host.dev ≠ 2) (h2 : s.fullFor c.part = none) (h3 : (plane && s.pwr.deepIdle) = false) :
    s.startLong c op s.clk.now plane b = .long (rep sAccepted 0) (acceptedCmd s c op o .accepted) b := by
  unfold State.startLong
  rw [if_neg fun h => h1 h.1, ho, h2]
  simp [h3, acceptedCmd]

/-- A command that answers OK on the state it leaves. -/
theorem command_okay {op : Half} {extra : State → List (Nat × Half × Half)} {body : Nat → State → Run} {t : State}
    (h : Takes s c op (extra (s.served c))) (hb : body s.clk.now (s.served c) = .reply okRep t) :
    s.command c op extra body = t.okay c op := by
  rw [command_reply h.1 h.2 hb, State.okay, okRep, rep]

/-- A command that its object's state refuses. -/
theorem command_wrong {op : Half} {extra : State → List (Nat × Half × Half)} {body : Nat → State → Run} {d : Nat}
    (h : Takes s c op (extra (s.served c))) (hb : body s.clk.now (s.served c) = (s.served c).wrong d) :
    s.command c op extra body = (s.served c).turnedAway c op (BitVec.ofNat 16 d) := by
  rw [command_reply h.1 h.2 hb, State.turnedAway, rep]

/-- A long command that is accepted. -/
theorem command_begun {op : Half} {extra : State → List (Nat × Half × Half)} {body : Nat → State → Run} {plane : Bool}
    {f : State → State} (h : Takes s c op (extra (s.served c))) (r : Roomy (s.served c) c)
    (hp : (plane && (s.served c).pwr.deepIdle) = false)
    (hb : body s.clk.now (s.served c) = (s.served c).startLong c op s.clk.now plane f) :
    s.command c op extra body = (s.served c).begun c op f := by
  obtain ⟨hf, o, ho, hc⟩ := h
  have e := startLong_accepted (s := s.served c) (c := c) (op := op) (o := o) plane f ho r.1 r.2 hp
  rw [served_clk] at e
  rw [command_long (r := rep sAccepted 0) (l := acceptedCmd (s.served c) c op o .accepted) (f := f) hf ⟨o, ho, hc⟩ (hb.trans e)]
  unfold State.begun State.accepting
  rw [ho]
  rfl

/-- A packet taken up that fails a check is answered with its error, and nothing else happens. -/
theorem command_refused {op : Half} {extra : State → List (Nat × Half × Half)} {o : OpSpec} {st d : Half} (body : Nat → State → Run)
    (h : Fetched s c) (ho : opSpec op.toNat = some o) (p : (s.served c).checkCmd c o (extra (s.served c)) = some (st, d)) :
    s.command c op extra body = (s.served c).answered c op st d 0 0 0 := by
  unfold State.command
  rw [ho]
  simp only [fetch_fetched _ _ h, p]
  rfl

end Sys2Proof.Machine
end

