-- ==== Sys2Proof/Laws/Memory.lean ====
section
/-! SUPPORT. Laws of byte memories: what a write leaves at each address, and that every operation keeps
the canonical form. -/

namespace Sys2Proof.Machine

/-! ### Lookups -/

variable {β : Type} (d : β)

theorem smGet_append_none (m n : SMap β) (x : Nat) (h : ∀ c ∈ m, c.1 ≠ x) : smGet d (m ++ n) x = smGet d n x := by
  induction m with
  | nil => rfl
  | cons c t ih =>
    have hc : c.1 ≠ x := h c (by simp)
    obtain ⟨a, b⟩ := c
    simp only [List.cons_append, smGet]
    rw [if_neg hc]
    exact ih fun e he => h e (by simp [he])

theorem smGet_append_right (m n : SMap β) (x : Nat) (h : ∀ c ∈ n, c.1 ≠ x) : smGet d (m ++ n) x = smGet d m x := by
  induction m with
  | nil =>
    have := smGet_append_none d n [] x h
    simpa [smGet] using this
  | cons c t ih =>
    obtain ⟨a, b⟩ := c
    by_cases hc : a = x <;> simp [smGet, hc, ih]

theorem smGet_filter (m : SMap β) (p : Nat → Bool) (x : Nat) (h : p x = true) :
    smGet d (m.filter fun c => p c.1) x = smGet d m x := by
  induction m with
  | nil => rfl
  | cons c t ih =>
    obtain ⟨a, b⟩ := c
    by_cases hc : a = x
    · subst hc; simp [smGet, h]
    · by_cases hp : p a
      · simp [List.filter, hp, smGet, hc, ih]
      · simp [List.filter, hp, smGet, hc, ih]

theorem cellsOf_range (a : Nat) (bs : List Byte) : ∀ c ∈ cellsOf a bs, a ≤ c.1 ∧ c.1 < a + bs.length := by
  induction bs generalizing a with
  | nil => simp [cellsOf]
  | cons b t ih =>
    intro c hc
    simp only [cellsOf] at hc
    split at hc
    · have := ih (a + 1) c hc; simp; omega
    · rcases List.mem_cons.1 hc with rfl | hc
      · simp
      · have := ih (a + 1) c hc; simp; omega

theorem cellsOf_get (a : Nat) (bs : List Byte) (k : Nat) (h : k < bs.length) : smGet (0 : Byte) (cellsOf a bs) (a + k) = bs[k] := by
  induction bs generalizing a k with
  | nil => simp at h
  | cons b t ih =>
    cases k with
    | zero =>
      simp only [cellsOf]
      split
      · next hb =>
        have := smGet_append_none (0 : Byte) (cellsOf (a + 1) t) [] a fun c hc => by have := cellsOf_range _ _ c hc; omega
        simp only [List.append_nil] at this
        simp only [Nat.add_zero, this, hb]
        rfl
      · simp [smGet]
    | succ k =>
      have ih' := ih (a + 1) k (by simpa using h)
      have e : a + 1 + k = a + (k + 1) := by omega
      rw [e] at ih'
      simp only [cellsOf]
      split
      · simpa using ih'
      · simp only [smGet]
        rw [if_neg (by omega)]
        simpa using ih'

/-- A byte outside a splice keeps its value. -/
theorem memSplice_outside (m : Memory) (a n : Nat) (cs : Memory) (x : Nat) (hc : ∀ c ∈ cs, a ≤ c.1 ∧ c.1 < a + n)
    (h : x < a ∨ a + n ≤ x) : memByte (memSplice m a n cs) x = memByte m x := by
  unfold memByte memSplice
  rcases h with h | h
  · rw [smGet_append_right]
    · exact smGet_filter 0 m (fun k => decide (k < a)) x (by simp [h])
    · intro c hcm
      rcases List.mem_append.1 hcm with hcm | hcm
      · have := hc c hcm; omega
      · have := (List.mem_filter.1 hcm).2; simp at this; omega
  · rw [smGet_append_none, smGet_append_none]
    · exact smGet_filter 0 m (fun k => decide (a + n ≤ k)) x (by simp [h])
    · intro c hcm; have := hc c hcm; omega
    · intro c hcm; have := (List.mem_filter.1 hcm).2; simp at this; omega

/-- A write leaves every byte outside it alone. -/
theorem memByte_memWrite_outside (m : Memory) (a : Nat) (bs : List Byte) (x : Nat) (h : x < a ∨ a + bs.length ≤ x) :
    memByte (memWrite m a bs) x = memByte m x :=
  memSplice_outside m a bs.length _ x (cellsOf_range a bs) h

/-- A read after a write to the same place gives the byte written. -/
theorem memByte_memWrite (m : Memory) (a : Nat) (bs : List Byte) (k : Nat) (h : k < bs.length) :
    memByte (memWrite m a bs) (a + k) = bs[k] := by
  unfold memByte memWrite memSplice
  rw [smGet_append_none, smGet_append_right, cellsOf_get a bs k h]
  · intro c hc; have := (List.mem_filter.1 hc).2; simp at this; omega
  · intro c hc; have := (List.mem_filter.1 hc).2; simp at this; omega

theorem memByte_memZero_outside (m : Memory) (a n x : Nat) (h : x < a ∨ a + n ≤ x) : memByte (memZero m a n) x = memByte m x :=
  memSplice_outside m a n [] x (by simp) h

/-! ### The canonical form -/

/-- The canonical form said of every pair of cells. -/
theorem Memory.wf_iff (m : Memory) : Memory.wf m = true ↔ m.Pairwise (fun c d => c.1 < d.1) ∧ ∀ c ∈ m, c.2 ≠ 0 := by
  match m with
  | [] => simp [Memory.wf]
  | [c] => simp [Memory.wf]
  | c :: d :: t =>
    have ih := Memory.wf_iff (d :: t)
    simp only [Memory.wf, Bool.and_eq_true, bne_iff_ne, decide_eq_true_eq, ih, List.pairwise_cons, List.mem_cons, forall_eq_or_imp]
    constructor
    · rintro ⟨⟨h0, h1⟩, ⟨h2, h3⟩, h4, h5⟩
      exact ⟨⟨⟨h1, fun x hx => Nat.lt_trans h1 (h2 x hx)⟩, h2, h3⟩, h0, h4, h5⟩
    · rintro ⟨⟨⟨h1, -⟩, h2, h3⟩, h0, h4, h5⟩
      exact ⟨⟨h0, h1⟩, ⟨h2, h3⟩, h4, h5⟩

theorem cellsOf_wf (a : Nat) (bs : List Byte) : Memory.wf (cellsOf a bs) = true := by
  rw [Memory.wf_iff]
  induction bs generalizing a with
  | nil => simp [cellsOf]
  | cons b t ih =>
    simp only [cellsOf]
    split
    · exact ih (a + 1)
    · next hb =>
      refine ⟨List.pairwise_cons.2 ⟨fun c hc => ?_, (ih (a + 1)).1⟩, ?_⟩
      · have := cellsOf_range _ _ c hc; simp; omega
      · intro c hc
        rcases List.mem_cons.1 hc with rfl | hc
        · exact hb
        · exact (ih (a + 1)).2 c hc

theorem memSplice_wf (m : Memory) (a n : Nat) (cs : Memory) (hm : Memory.wf m = true) (hc : Memory.wf cs = true)
    (hr : ∀ c ∈ cs, a ≤ c.1 ∧ c.1 < a + n) : Memory.wf (memSplice m a n cs) = true := by
  rw [Memory.wf_iff] at *
  unfold memSplice
  refine ⟨?_, ?_⟩
  · rw [List.pairwise_append, List.pairwise_append]
    refine ⟨hm.1.filter _, ⟨hc.1, hm.1.filter _, ?_⟩, ?_⟩
    · intro c h d h'
      have := hr c h; have := (List.mem_filter.1 h').2; simp at this; omega
    · intro c h d h'
      have h1 := (List.mem_filter.1 h).2
      simp at h1
      rcases List.mem_append.1 h' with h' | h'
      · have := hr d h'; omega
      · have := (List.mem_filter.1 h').2; simp at this; omega
  · intro c h
    rcases List.mem_append.1 h with h | h
    · exact hm.2 c (List.mem_filter.1 h).1
    · rcases List.mem_append.1 h with h | h
      · exact hc.2 c h
      · exact hm.2 c (List.mem_filter.1 h).1

/-- A write keeps the canonical form. -/
theorem memWrite_wf (m : Memory) (a : Nat) (bs : List Byte) (h : Memory.wf m = true) : Memory.wf (memWrite m a bs) = true :=
  memSplice_wf m a _ _ h (cellsOf_wf a bs) (cellsOf_range a bs)

/-- Zeroing keeps the canonical form. -/
theorem memZero_wf (m : Memory) (a n : Nat) (h : Memory.wf m = true) : Memory.wf (memZero m a n) = true :=
  memSplice_wf m a n [] h rfl (by simp)

theorem reset_hbm_wf : Memory.wf State.reset.mem.hbm = true := rfl

end Sys2Proof.Machine
end

