-- ==== Sys2Proof/Laws/Slot.lean ====
section
/-! SUPPORT. What the shared operations of slot instructions do, said once. -/

namespace Sys2Proof.Machine

variable {s r : State} {w : Site} {c : Nat}

/-- A slot whose bundle does not issue changes only what the attempt to issue changes. -/
theorem slot_idle (idx : BitVec 3) (f : State → Nat → Nat → Nat → State) (h : s.issue w = (r, none)) : s.slot w idx f = r := by
  simp [State.slot, h]

/-- A slot that issues runs its meaning on the state opened for it. -/
theorem slot_issued (idx : BitVec 3) (f : State → Nat → Nat → Nat → State) (h : s.issue w = (r, some c)) :
    s.slot w idx f = f (r.opened w.island.toNat idx) w.island.toNat c (r.getIsl w.island.toNat).nextOp := by
  simp [State.slot, h, State.opened]

theorem opened_getIsl (i : Nat) (idx : BitVec 3) : (r.opened i idx).getIsl i =
    { r.getIsl i with nextOp := (r.getIsl i).nextOp + 1,
                      ops := smSet (r.getIsl i).ops (r.getIsl i).nextOp (some (.other (r.getIsl i).curPc idx)) } := by
  simp [State.opened]

@[simp] theorem opened_nextOp (i : Nat) (idx : BitVec 3) : ((r.opened i idx).getIsl i).nextOp = (r.getIsl i).nextOp + 1 := by
  rw [opened_getIsl]

@[simp] theorem opened_getX (i : Nat) (idx : BitVec 3) (x : BitVec 5) : ((r.opened i idx).getIsl i).getX x = (r.getIsl i).getX x := by
  rw [opened_getIsl]; rfl

@[simp] theorem opened_getH (i : Nat) (idx : BitVec 3) (x : BitVec 4) : ((r.opened i idx).getIsl i).getH x = (r.getIsl i).getH x := by
  rw [opened_getIsl]; rfl

@[simp] theorem opened_getV (i : Nat) (idx : BitVec 3) (x : BitVec 5) : ((r.opened i idx).getIsl i).getV x = (r.getIsl i).getV x := by
  rw [opened_getIsl]; rfl

@[simp] theorem opened_getSem (i : Nat) (idx : BitVec 3) (x : BitVec 5) : ((r.opened i idx).getIsl i).getSem x = (r.getIsl i).getSem x := by
  rw [opened_getIsl]; rfl

@[simp] theorem opened_stepReg (i : Nat) (idx : BitVec 3) : ((r.opened i idx).getIsl i).stepReg = (r.getIsl i).stepReg := by
  rw [opened_getIsl]

/-- The landing of a scalar result. -/
theorem result_eq (i t : Nat) (idx : BitVec 3) (a : Act) :
    (r.opened i idx).result i (r.getIsl i).nextOp t a = (r.opened i idx).scheduled i (t + 1) 0 a := by
  simp [State.result, State.scheduled, State.modIsl]

/-- An access whose extent and banks are admitted goes on with its banks claimed. -/
theorem access_admitted (i : Nat) (idx : BitVec 3) (t off n : Nat) (acc : List (Nat × Nat)) (f : State → State)
    (h1 : s.spOutside i off n = none) (h2 : bankCheck (s.getIsl i).banks acc = none) :
    s.access i idx t off n acc f = f (s.modIsl i fun v => ({ v with banks := acc ++ v.banks } : Island).count 1 acc.length) := by
  simp [State.access, h1, h2]

theorem checked_none (i : Nat) (idx : BitVec 3) (t : Nat) (f : State → State) : s.checked i idx t none f = f s := rfl

/-! The schedule: an inserted event is in it, and none is lost. -/

theorem mem_insertEv (e x : Ev) (l : List Ev) : x ∈ insertEv e l ↔ x = e ∨ x ∈ l := by
  induction l with
  | nil => simp [insertEv]
  | cons y t ih => simp only [insertEv]; split <;> simp only [List.mem_cons, ih, or_left_comm]

theorem push_mem (v : Island) (due prio op : Nat) (a : Act) (x : Ev) :
    x ∈ (v.push due prio op a).sched ↔ x = ⟨due, prio, op, a⟩ ∨ x ∈ v.sched := mem_insertEv ..

/-- Pushing one event for each row changes nothing but the schedule, which gains exactly those events. -/
theorem pushAll (due : Nat → Nat) (prio op : Nat) (a : Nat → Act) (l : List Nat) (v : Island) :
    ∃ q, l.foldl (fun v m => v.push (due m) prio op (a m)) v = { v with sched := q } ∧
      ∀ x, x ∈ q ↔ (∃ m ∈ l, x = ⟨due m, prio, op, a m⟩) ∨ x ∈ v.sched := by
  induction l generalizing v with
  | nil => exact ⟨v.sched, rfl, by simp⟩
  | cons m t ih =>
    obtain ⟨q, h, hm⟩ := ih (v.push (due m) prio op (a m))
    exact ⟨q, h, fun x => by
      rw [hm, push_mem]; simp only [List.mem_cons, exists_eq_or_imp]; exact or_left_comm.trans or_assoc.symm⟩

/-- Changing each named array in turn changes those arrays, each by its own function, and nothing else. -/
theorem modArrsBy {β : Type} (g : β → Nat) (f : β → Array → Array) (l : List β) (v : Island) (hl : (l.map g).Nodup) :
    ∃ q, l.foldl (fun v a => v.modArr (g a) (f a)) v = { v with arr := q } ∧
      (∀ a ∈ l, smGet Array.reset q (g a) = f a (v.getArr (g a))) ∧ ∀ k, k ∉ l.map g → smGet Array.reset q k = v.getArr k := by
  induction l generalizing v with
  | nil => exact ⟨v.arr, rfl, by simp, fun _ _ => rfl⟩
  | cons b t ih =>
    obtain ⟨hb, ht⟩ := List.nodup_cons.mp hl
    obtain ⟨q, h, h1, h2⟩ := ih (v.modArr (g b) (f b)) ht
    have ne : ∀ k, k ≠ g b → (v.modArr (g b) (f b)).getArr k = v.getArr k := fun k h => smGet_smSet_ne _ _ _ h
    refine ⟨q, h, fun a ha => ?_, fun k hk => ?_⟩
    · rcases List.mem_cons.mp ha with rfl | ha
      · rw [h2 _ hb]; simp [Island.modArr, Island.setArr, Island.getArr]
      · rw [h1 a ha, ne _ (fun e => hb (e ▸ List.mem_map_of_mem ha))]
    · obtain ⟨n1, n2⟩ := not_or.mp (mt List.mem_cons.mpr hk)
      rw [h2 k n2, ne k n1]

theorem modArrs (f : Nat → Array → Array) (l : List Nat) (v : Island) (hl : l.Nodup) :
    ∃ q, l.foldl (fun v a => v.modArr a (f a)) v = { v with arr := q } ∧
      (∀ a ∈ l, smGet Array.reset q a = f a (v.getArr a)) ∧ ∀ a, a ∉ l → smGet Array.reset q a = v.getArr a := by
  have h := modArrsBy id f l v (by simpa using hl)
  simpa using h

theorem maskArrays_nodup (m : Byte) : (maskArrays m).Nodup := List.nodup_range.filter _

/-! The checks of the issue cycle, in the words of the rules. -/

theorem onArrays_none (code : Nat) (v : Island) (as : List Nat) (bad : Array → Bool) :
    onArrays code v as bad = none ↔ ∀ a ∈ as, bad (v.getArr a) = false := by
  simp [onArrays]

theorem onSlots_none (code : Nat) (v : Island) (as ss : List Nat) (bad : Array → Nat → Bool) :
    onSlots code v as ss bad = none ↔ ∀ a ∈ as, ∀ k ∈ ss, bad (v.getArr a) k = false := by
  simp [onSlots]

theorem firstCheck_none (l : List Check) : firstCheck l = none ↔ ∀ c ∈ l, c = none := by
  simp [firstCheck]

theorem rangeCheck_none (i : Nat) (ext : List (Nat × Nat)) : s.rangeCheck i ext = none ↔ s.WithinScratchpad i ext := by
  simp only [State.rangeCheck, Option.map_eq_none_iff, List.findSome?_eq_none_iff, State.WithinScratchpad, State.spOutside]
  refine forall₂_congr fun e _ => ?_
  by_cases h : e.2 = 0
  · simp [h]
  · simp [h]

theorem passChecks_none {v : Island} {i inj : Nat} {o : PassOp} {swap : Bool} (h : PassMayIssue v o swap inj)
    (hr : s.WithinScratchpad i (passReads i o)) :
    firstCheck (passChecks v o swap inj ++ [s.rangeCheck i (passReads i o),
      onArrays 0x14 v o.arrays fun a => tileModeBad o.mode o.ec (a.tileRec (a.usedBuf swap))]) = none := by
  obtain ⟨h0, h⟩ := h
  have e : o.slot + o.rows ≤ 128 := h0
  rw [firstCheck_none]
  simp only [passChecks, List.mem_append, List.mem_cons, List.not_mem_nil, or_false]
  rintro c ((rfl | rfl | rfl | rfl | rfl | rfl) | rfl | rfl)
  · rw [onArrays_none]; intro a ha; have := (h a ha).1
    cases swap <;> simp_all
  · rw [onArrays_none]; intro a ha; have := (h a ha).2.1
    split
    · next j hj => simpa using this j hj
    · rfl
  · by_cases hs : o.start
    · simp [hs]
    · rw [if_neg hs, onSlots_none]
      intro a ha k hk
      simp only [List.mem_filter, List.mem_map, List.mem_range] at hk
      obtain ⟨⟨m, hm, rfl⟩, -⟩ := hk
      obtain ⟨h1, h2, h3⟩ := (h a ha).2.2.2.2.2 (by simpa using hs) m hm
      simp only [slotModeBad, h1, h2, decide_false, Bool.false_or, ne_eq, not_true_eq_false]
      by_cases hm : modeEcAnchor o.mode <;> simp [hm, h3]
  · rw [if_neg (by omega)]
  · rw [onArrays_none]; intro a ha; simpa using (h a ha).2.2.1
  · rw [onSlots_none]; intro a ha k hk
    simp only [List.mem_map, List.mem_range] at hk
    obtain ⟨m, hm, rfl⟩ := hk
    have := (h a ha).2.2.2.2.1 m hm
    simpa using this
  · rw [rangeCheck_none]; exact hr
  · rw [onArrays_none]; intro a ha; exact (h a ha).2.2.2.1

theorem seedChecks_none {v : Island} {i : Nat} {o : SeedOp} (h : SeedMayIssue v o)
    (hr : s.WithinScratchpad i [(o.src, 2048 * o.rows)]) :
    firstCheck (seedChecks v o ++ [s.rangeCheck i [(o.src, 2048 * o.rows)]]) = none := by
  obtain ⟨h0, h1, h2, h3⟩ := h
  rw [firstCheck_none]
  simp only [seedChecks, List.mem_append, List.mem_cons, List.not_mem_nil, or_false]
  rintro c ((rfl | rfl | rfl | rfl) | rfl)
  · by_cases hs : o.start
    · simp [hs]
    · rw [if_neg hs, onSlots_none]
      intro a ha k hk
      simp only [List.mem_filter, List.mem_map, List.mem_range, List.mem_cons, List.not_mem_nil, or_false] at hk ha
      obtain ⟨⟨m, hm, rfl⟩, -⟩ := hk
      subst ha; exact h3 (by simpa using hs) m hm
  · rw [if_neg (by omega)]
  · rw [onArrays_none]; intro a ha
    simp only [List.mem_cons, List.not_mem_nil, or_false] at ha; subst ha
    rcases h1 with h1 | h1 <;> simp [h1]
  · rw [onSlots_none]; intro a ha k hk
    simp only [List.mem_map, List.mem_range, List.mem_cons, List.not_mem_nil, or_false] at hk ha
    obtain ⟨m, hm, rfl⟩ := hk
    subst ha; have := h2 m hm
    simpa using this
  · rw [rangeCheck_none]; exact hr

theorem drainChecks_none {v : Island} {i : Nat} {o : DrainOp} {d : DrainDesc} (h : DrainMayIssue v o d)
    (hr : s.WithinScratchpad i (drainExtents o d)) :
    firstCheck (drainChecks v o d.w ++ [(bankCheck v.banks (drainBanks o d)).map fun b => (0x0A, 0, b),
      s.rangeCheck i (drainExtents o d)]) = none := by
  obtain ⟨h0, h1, h⟩ := h
  rw [firstCheck_none]
  simp only [drainChecks, List.mem_append, List.mem_cons, List.not_mem_nil, or_false]
  rintro c ((rfl | rfl | rfl) | rfl | rfl)
  · rw [if_neg (by omega)]
  · rw [onSlots_none]; intro a ha k hk
    simp only [List.mem_map, List.mem_range] at hk
    obtain ⟨m, hm, rfl⟩ := hk
    simpa using (h a ha).2 m hm
  · rw [onArrays_none]; intro a ha; simpa using (h a ha).1
  · simp [h1]
  · rw [rangeCheck_none]; exact hr

/-! What starts an array operation does. -/

theorem noteSp_clean (s : State) (i off n : Nat) (h : (s.getIsl i).spUe off n = false) :
    ∃ m, s.noteSp i off n = { s with mem := m } ∧ m.hbm = s.mem.hbm := by
  have hu : ((spWords off n).filter fun w => isUe ((s.getIsl i).spErrOf w)).length = 0 := by
    simp only [Island.spUe, List.any_eq_false] at h
    simp only [List.length_eq_zero_iff, List.filter_eq_nil_iff]; exact fun a ha => by simpa using h a ha
  simp only [State.noteSp, hu, and_true, if_true]
  split
  · exact ⟨s.mem, rfl, rfl⟩
  · exact ⟨_, rfl, rfl⟩

/-- Reads that meet no uncorrectable word leave nothing but correction counts. -/
theorem notesSp_clean (i : Nat) (l : List (Nat × Nat)) (s : State) (h : ∀ e ∈ l, (s.getIsl i).spUe e.1 e.2 = false) :
    ∃ m, l.foldl (fun s e => s.noteSp i e.1 e.2) s = { s with mem := m } ∧ m.hbm = s.mem.hbm := by
  induction l generalizing s with
  | nil => exact ⟨s.mem, rfl, rfl⟩
  | cons e t ih =>
    obtain ⟨m, hm, hh⟩ := noteSp_clean s i e.1 e.2 (h e (.head _))
    obtain ⟨m', hm', hh'⟩ := ih { s with mem := m } fun x hx => h x (.tail _ hx)
    exact ⟨m', by rw [List.foldl_cons, hm, hm'], hh'.trans hh⟩

theorem sameBut_mem (r : State) (i : Nat) (m : Mem) (v : Island) (h : m.hbm = r.mem.hbm) :
    (({ r with mem := m } : State).setIsl i v).SameBut r i :=
  ⟨fun _ hj => smGet_smSet_ne _ _ _ hj, h, rfl, rfl, rfl, rfl, rfl, rfl, rfl, rfl, rfl⟩

theorem sameBut_set (r : State) (i : Nat) (v : Island) : (r.setIsl i v).SameBut r i := sameBut_mem r i r.mem v rfl

/-- A pass whose format descriptor is legal and readable is on its way: one event for its injection and one for each row. -/
theorem startPass_starts {s : State} {i op t : Nat} {o : PassOp} {swap : Bool} (hn : o.arrays.Nodup)
    (h1 : fmtCheck i (bvBytes 32 o.fmt) = none) (h2 : ecwFault (FeedDesc.parse o.fd) (FmtDesc.parse (bvBytes 32 o.fmt)) = false)
    (h3 : (s.getIsl i).spUe (FeedDesc.parse o.fd).fmtOff 32 = false) :
    ∃ m u, s.startPass i op t o swap = ({ s with mem := m } : State).setIsl i u ∧ m.hbm = s.mem.hbm ∧
      u.ops = smSet (s.getIsl i).ops op (some (.pass o)) ∧
      (∀ e, e ∈ u.sched ↔ (∃ m < o.rows, e = ⟨t + m * o.p, 1, op, .row m⟩) ∨ e = ⟨t + 4, 1, op, .inject⟩ ∨ e ∈ (s.getIsl i).sched) ∧
      (∀ a ∈ o.arrays, u.getArr a = ((s.getIsl i).getArr a).passIssued op o swap (t + 4)) ∧
      (∀ a, a ∉ o.arrays → u.getArr a = (s.getIsl i).getArr a) ∧ u.SameRegs (s.getIsl i) := by
  obtain ⟨m, hm, hh⟩ := noteSp_clean s i _ 32 h3
  obtain ⟨ar, ha, ha1, ha2⟩ := modArrs (fun _ x => x.passIssued op o swap (t + 4)) o.arrays (s.getIsl i) hn
  have hX : ∃ X : Island, (s.getIsl i).passRecords op o swap (t + 4) = X ∧ X.ops = smSet (s.getIsl i).ops op (some (.pass o)) ∧
      X.sched = (s.getIsl i).sched ∧ X.arr = ar ∧ X.SameRegs (s.getIsl i) ∧ X.spUe (FeedDesc.parse o.fd).fmtOff 32 = false := by
    simp only [Island.passRecords, ha]
    exact ⟨_, rfl, rfl, rfl, rfl, ⟨rfl, rfl, rfl, rfl, rfl, rfl, rfl, rfl, rfl, rfl, rfl, rfl⟩, h3⟩
  obtain ⟨X, hX, x1, x2, x3, x4, x5⟩ := hX
  obtain ⟨sd, hd, hd1⟩ := pushAll (fun m => t + m * o.p) 1 op (fun m => .row m) (List.range o.rows) (X.push (t + 4) 1 op .inject)
  refine ⟨m, { X.push (t + 4) 1 op .inject with sched := sd }, ?_, hh, x1, fun e => ?_, fun a h => ?_, fun a h => ?_, x4⟩
  · simp only [State.startPass, hX, x5, h1, h2, hm, Option.isSome_none, Bool.or_self, Bool.false_eq_true, if_false]
    exact congrArg (State.setIsl _ i) hd
  · show e ∈ sd ↔ _
    rw [hd1, push_mem, x2]; simp
  · show smGet _ X.arr a = _
    rw [x3]; exact ha1 a h
  · show smGet _ X.arr a = _
    rw [x3]; exact ha2 a h

/-- A seed on its way: one read event for each row; its tags are recorded at once. -/
theorem seedStart_starts (v : Island) (op : Nat) (o : SeedOp) :
    let u := v.seedStart op o
    u.ops = smSet v.ops op (some (.seed o)) ∧
      (∀ e, e ∈ u.sched ↔ (∃ m < o.rows, e = ⟨o.cycle + 4 * m, 1, op, .seedRead m⟩) ∨ e ∈ v.sched) ∧
      (u.getArr o.array).acc = (v.getArr o.array).acc ∧ (u.getArr o.array).slots = (v.getArr o.array).slots ∧
      (u.getArr o.array).seedEnd = max (v.getArr o.array).seedEnd (o.cycle + 4 * o.rows + 12) ∧
      (∀ a, a ≠ o.array → u.getArr a = v.getArr a) ∧ u.SameRegs v := by
  let P : Island → Prop := fun u => u.ops = smSet v.ops op (some (.seed o)) ∧ u.sched = v.sched ∧
    (u.getArr o.array).acc = (v.getArr o.array).acc ∧ (u.getArr o.array).slots = (v.getArr o.array).slots ∧
    (u.getArr o.array).seedEnd = max (v.getArr o.array).seedEnd (o.cycle + 4 * o.rows + 12) ∧
    (∀ a, a ≠ o.array → u.getArr a = v.getArr a) ∧ u.SameRegs v
  have step : ∀ u f, P u → (∀ x : Array, (f x).acc = x.acc ∧ (f x).slots = x.slots ∧ (f x).seedEnd = x.seedEnd) → P (u.modArr o.array f) := by
    rintro u f ⟨p1, p2, p3, p4, p5, p6, p7⟩ hf
    have e : (u.modArr o.array f).getArr o.array = f (u.getArr o.array) := by simp [Island.modArr, Island.setArr, Island.getArr]
    refine ⟨p1, p2, ?_, ?_, ?_, fun a h => ?_, p7⟩
    · rw [e, (hf _).1, p3]
    · rw [e, (hf _).2.1, p4]
    · rw [e, (hf _).2.2, p5]
    · rw [← p6 a h]; exact smGet_smSet_ne _ _ _ h
  have all : ∀ (l : List Nat) u, P u → P (l.foldl (fun v m => v.modArr o.array fun a =>
      a.seedTag op (o.slot + m) (v.spRead (o.src + 2048 * m) 2048)) u) := by
    intro l
    induction l with
    | nil => exact fun u h => h
    | cons m t ih => exact fun u h => ih _ (step u _ h fun x => ⟨rfl, rfl, rfl⟩)
  have key : ∃ X, P X ∧ v.seedStart op o = (List.range o.rows).foldl (fun v m => v.push (o.cycle + 4 * m) 1 op (.seedRead m)) X := by
    have P0 : P ((({ v with ops := smSet v.ops op (some (.seed o)) } : Island)).modArr o.array fun a =>
      { a with seedEnd := max a.seedEnd (o.cycle + 4 * o.rows + 12),
               footOf := (List.range o.rows).foldl (fun m k => smMax m (o.slot + k) (o.cycle + 4 * k + 16)) a.footOf }) := by
      refine ⟨rfl, rfl, ?_, ?_, ?_, fun a h => ?_, rfl, rfl, rfl, rfl, rfl, rfl, rfl, rfl, rfl, rfl, rfl, rfl⟩
      · simp [Island.modArr, Island.setArr, Island.getArr]
      · simp [Island.modArr, Island.setArr, Island.getArr]
      · simp [Island.modArr, Island.setArr, Island.getArr]
      · exact smGet_smSet_ne _ _ _ h
    simp only [Island.seedStart]
    split
    · exact ⟨_, all _ _ P0, rfl⟩
    · exact ⟨_, P0, rfl⟩
  obtain ⟨X, ⟨p1, p2, p3, p4, p5, p6, p7⟩, hk⟩ := key
  obtain ⟨sd, hd, hd1⟩ := pushAll (fun m => o.cycle + 4 * m) 1 op (fun m => .seedRead m) (List.range o.rows) X
  simp only [hk, hd]
  refine ⟨p1, fun e => ?_, p3, p4, p5, p6, p7⟩
  rw [hd1, p2]; simp

/-- A load on its way: its first block is read at once, into the buffer its arrays do not use. -/
theorem loadStart_starts (v : Island) (op : Nat) (o : LoadOp) (hn : (o.arrays.map (·.1)).Nodup) :
    let u := v.loadStart op o
    u.ops = smSet v.ops op (some (.load o)) ∧ (∀ e, e ∈ u.sched ↔ e = ⟨o.cycle, 1, op, .loadBlock 0 []⟩ ∨ e ∈ v.sched) ∧
      (∀ a ∈ o.arrays, ∃ k, u.getArr a.1 = { v.getArr a.1 with
        loadEnd := o.cycle + 8 * (FmtDesc.parse (bvBytes 32 o.fmt)).planes + 4, loadRec := k }) ∧
      (∀ a, a ∉ o.arrays.map (·.1) → u.getArr a = v.getArr a) ∧ u.SameRegs v := by
  obtain ⟨ar, ha, ha1, ha2⟩ := modArrsBy Prod.fst (fun a x => ({ x with
    loadEnd := o.cycle + 8 * (FmtDesc.parse (bvBytes 32 o.fmt)).planes + 4,
    loadRec := some (a.2, loadRecords (FeedDesc.parse o.fd) (FmtDesc.parse (bvBytes 32 o.fmt))) } : Array)) o.arrays
    ({ v with ops := smSet v.ops op (some (.load o)) } : Island) hn
  simp only [Island.loadStart, ha]
  exact ⟨rfl, fun e => push_mem .., fun a h => ⟨_, ha1 a h⟩, ha2, rfl, rfl, rfl, rfl, rfl, rfl, rfl, rfl, rfl, rfl, rfl, rfl⟩

/-- A drain on its way: one read event for each row and one for its end. -/
theorem drainStart_starts (v : Island) (op w : Nat) (o : DrainOp) (hn : o.arrays.Nodup) :
    let u := v.drainStart op w o
    u.ops = smSet v.ops op (some (.drain o)) ∧ u.drainSeq = v.drainSeq + 1 ∧
      (∀ e, e ∈ u.sched ↔ e = ⟨o.cycle + o.rows * w + 14, 2, op, .drainEnd⟩ ∨
        (∃ m < o.rows, e = ⟨o.cycle + m * w, 1, op, .drainRow m⟩) ∨ e ∈ v.sched) ∧
      (∀ a ∈ o.arrays, ∃ k, u.getArr a = { v.getArr a with drainEnd := o.cycle + o.rows * w + 15, readOf := k }) ∧
      (∀ a, a ∉ o.arrays → u.getArr a = v.getArr a) ∧ u.SameRegs v := by
  obtain ⟨ar, ha, ha1, ha2⟩ := modArrs (fun _ x => ({ x with
    drainEnd := o.cycle + o.rows * w + 15, readOf := (List.range o.rows).foldl (fun m k => smMax m (o.slot + k) (o.cycle + k * w + 1)) x.readOf } : Array)) o.arrays
    ({ v with ops := smSet v.ops op (some (.drain o)), drainSeq := v.drainSeq + 1 } : Island) hn
  obtain ⟨sd, hd, hd1⟩ := pushAll (fun m => o.cycle + m * w) 1 op (fun m => .drainRow m) (List.range o.rows)
    ({ v with ops := smSet v.ops op (some (.drain o)), drainSeq := v.drainSeq + 1, arr := ar } : Island)
  simp only [Island.drainStart, ha, hd]
  refine ⟨rfl, rfl, fun e => ?_, fun a h => ⟨_, ha1 a h⟩, ha2, rfl, rfl, rfl, rfl, rfl, rfl, rfl, rfl, rfl, rfl, rfl, rfl⟩
  rw [push_mem]; show _ ∨ e ∈ sd ↔ _; rw [hd1]; simp

end Sys2Proof.Machine
end

