-- ==== Sys2Proof/Tests/Slice0.lean ====
section
/-! SUPPORT. Small tests: operands that no image can hold, worked values of the spec, and for each statement with
hypotheses a state and operands that meet them. -/

set_option linter.unusedVariables false
set_option Elab.async false

namespace Sys2Proof.Tests

open Sys2Proof Sys2Proof.Machine

/-! ### Small states -/

/-- A module in READY with command ring 0 (four slots filled) and completion ring 0 enabled, and rings 1 with their addresses. -/
def ready : State :=
  { State.reset with
    fw := { Firmware.reset with starting := none },
    mem := { Mem.reset with valid := true },
    host := { HostIf.reset with
      dev := 1,
      cmd := [(0, { CmdRing.reset with base := 0x10000, piAddr := 0x8000, ciAddr := 0x8040, ctrl := 0x601, st := .enabled, piRead := 4 }),
              (1, { CmdRing.reset with base := 0x20000, piAddr := 0x8080, ciAddr := 0x80C0 })],
      comp := [(0, { CompRing.reset with base := 0x30000, piAddr := 0x8100, ciAddr := 0x8140, ctrl := 0x601, st := .enabled }),
               (1, { CompRing.reset with base := 0x40000, piAddr := 0x8180, ciAddr := 0x81C0 })] } }

/-- A command packet of `len` slots with these parameter bytes. -/
def cmd (len : Half) (body : List Byte) : Packet := ⟨0, false, 1, 0, 7, 0, len, 0, body⟩

/-- `ready` with one island in a state. -/
def withIsl (v : Island) : State := { ready with isl := [(0, v)] }

/-- An island that runs and has issued nothing. -/
def running : Island := { Island.reset with st := stRunning }

/-- Site of the first slot of a bundle on island 0. -/
def site : Site := ⟨0, false, 0⟩

/-- The checks of `Takes`, as one value. -/
def takesB (s : State) (c : Packet) (op : Half) (extra : List (Nat × Half × Half)) : Bool :=
  let r := c.ring.toNat
  let q := s.getCr r
  q.active && s.serving && s.cqRoom r && (s.cmds.fenced.find? (·.pkt.ring = c.ring)).isNone && !c.poison &&
    decide (c.length.toNat ≠ 0) && decide (c.length.toNat ≤ q.slots) && decide (c.length.toNat ≤ (q.piRead - q.ci).toNat) &&
    !(c.fence && s.owing r) &&
    match opSpec op.toNat with
    | some o => ((s.served c).checkCmd c o extra).isNone
    | none => false

/-- A packet that passes them is taken up and passes its checks. -/
theorem takes_of {s : State} {c : Packet} {op : Half} {extra : List (Nat × Half × Half)} (h : takesB s c op extra = true) :
    Takes s c op extra := by
  unfold takesB at h
  simp only [Bool.and_eq_true, decide_eq_true_eq, Bool.not_eq_true', Option.isNone_iff_eq_none] at h
  obtain ⟨⟨⟨⟨⟨⟨⟨⟨⟨h1, h2⟩, h3⟩, h4⟩, h5⟩, h6⟩, h7⟩, h8⟩, h9⟩, h10⟩ := h
  refine ⟨⟨h1, h2, h3, h4, h5, h6, h7, h8, h9⟩, ?_⟩
  split at h10
  · exact ⟨_, by assumption, by simpa using h10⟩
  · cases h10


/-! ### Witnesses: slots -/

/-- An island with X1 = 2 and one wait. -/
def runX : Island := { running with x := [(1, 2)] }

theorem witness_StepRunsTheFrontCommand : ({ ready with pending := [.refclkLoss] } : State).pending = [.refclkLoss] := rfl

theorem witness_EmptyQueueTicksTheLighthouseCounter : State.reset.pending = [] ∧ State.reset.clk.lit = true ∧
    ({ State.reset with clk := ⟨0, 0, 0, none, false⟩ } : State).clk.lit = false := ⟨rfl, rfl, rfl⟩

theorem witness_ABundleIssuesAtTheNextIssueCycle : (withIsl running).canIssue 0 = true ∧ running.ended = false ∧
    running.sched = [] ∧ running.imemErr = [] ∧ running.imemHard = [] := by decide

theorem witness_AStoppedIslandIssuesNothing : ready.canIssue 0 = false := by decide

theorem witness_issue : ((withIsl running).issue site).2 = some 0 := by decide

theorem witness_AnAluResultIsReadFromTheNextCycle : (((withIsl running).issue site).1.getIsl 0).sched = [] := by decide

theorem witness_ScalarMemorySlotsScheduleTheirAccesses :
    let r := ((withIsl runX).issue site).1
    (r.opened 0 0).spOutside 0 0 8 = none ∧ bankCheck (r.getIsl 0).banks ((granules 0 8).map fun b => (1, b)) = none ∧
    ((r.getIsl 0).getX 0).toNat = 0 ∧ ((r.getIsl 0).getX 1).toNat ≠ 0 ∧ (r.opened 0 0).spOutside 0 0 4 = none ∧
    (r.opened 0 0).spOutside 0 (spSize - 8) 8 = none := by decide

theorem witness_TheBranchSlotSetsTheNextBundle :
    let v := ((withIsl runX).issue site).1.getIsl 0
    v.curPc < 1 ∧ v.getX 1 ≠ 0 ∧ v.getX 0 = 0 ∧ v.loopsWas.length < 4 := by decide

/-- An island that waits for semaphore 1 with a limit of 100 ticks. -/
def waiter (arrived : Bool) : Island :=
  { running with waiting := some ⟨1, 2, 0, 0, some 3, arrived⟩, waitLimit := 100, sem := [(1, 2)] }

theorem witness_WaitsEndOrTimeOut :
    ((withIsl (waiter true)).islSt 0 = stRunning ∧ (waiter true).stopped = false ∧ (2 : Half) ≤ (waiter true).getSem 1) ∧
    (({ withIsl { waiter false with sem := [] } with clk := ⟨100, 0, 0, none, true⟩ } : State).islSt 0 = stRunning ∧
      0 + (waiter false).waitLimit.toNat ≤ 100) ∧
    (((withIsl (waiter false)).runOut 0).islSt 0 = stRunning ∧
      (((withIsl (waiter false)).runOut 0).getIsl 0).waiting = (waiter false).waiting) := by decide

theorem witness_ArrayOperationsStartAfterTheirChecks :
    let q := ((withIsl running).issue site).1.opened 0 2
    ((((q.getIsl 0).getX 0).extractLsb' 0 7).toNat + (((q.getIsl 0).getX 0).extractLsb' 8 7).toNat + 1 ≤ 128) ∧
    (let v := q.getIsl 0
     let o := passOf v 0 0 1 0 0 true false 0 2
     firstCheck (passChecks v o false 4 ++ [q.rangeCheck 0 (passReads 0 o),
       onArrays 0x14 v o.arrays fun x => tileModeBad o.mode o.ec (x.buf (x.usedBuf false))]) = none) ∧
    (let v := q.getIsl 0
     let o : SeedOp := ⟨0, 0, 0, 1, true, 0, v.curPc, 2⟩
     firstCheck (seedChecks v o ++ [q.rangeCheck 0 [(o.src, 2048 * o.rows)]]) = none) := by decide

/-- An island whose format descriptor at 0 is of 12 planes. -/
def loader : Island := { running with sp := [(2, 12)] }

theorem witness_ArrayOperations_drainAndLoad :
    let q := ((withIsl loader).issue site).1.opened 0 5
    let v := q.getIsl 0
    let d := DrainDesc.parse 0
    let o : DrainOp :=
      { cycle := 0, arrays := maskArrays 1, dd := 0, slot := 0, rows := 1, off := 0, key := 0, stepReg := 0, seq := 0, kinds := 0,
        first := none, tileHwm := none, rowHwm := [], bundle := 0, slotIdx := 5 }
    firstCheck (drainChecks v o d.w ++ [q.rangeCheck 0 (drainExtents o d)]) = none ∧
    (let f := FeedDesc.parse 0
     let bytes := v.spRead f.fmtOff 32
     let e := FmtDesc.parse bytes
     let ext := loadExtents 0 f e 0 (scaleBase 0 e 0) 0
     loadDescBad 0 f bytes = false ∧ fmtIsRounding e.format = true ∧ tableBytes e = 0 ∧
       ((maskArrays 1).all fun k => ((v.getArr k).swapInj.all fun j => decide (j + 252 ≤ 0)) && decide ((v.getArr k).loadEnd ≤ 0)) = true ∧
       q.rangeCheck 0 ext = none ∧ v.spUe f.fmtOff 32 = false ∧ (ext.any fun e => v.spUe e.1 e.2) = false)
    := by decide +kernel

/-- What a first pass, seed, drain and load of array 0 meet. -/
theorem witness_ArrayOperationsMayIssue :
    let v := ((withIsl loader).issue site).1.getIsl 0
    let o := passOf v 0 0 1 0 0 true false 0 2
    PassMayIssue v o false 4 ∧ SeedMayIssue v ⟨0, 0, 0, 1, true, 0, v.curPc, 2⟩ ∧ LoadMayIssue v [0] 0 := by
  intro v o
  have e : v.getArr 0 = Array.reset := by decide +kernel
  have a : o.arrays = [0] := by decide +kernel
  have st : o.start = true := by decide +kernel
  have sw : (false = true) → False := by decide
  refine ⟨⟨by decide +kernel, ?_⟩, ⟨by decide +kernel, Or.inl ?_, ?_, ?_⟩, ?_⟩
  · rw [a]
    intro k hk
    rw [List.mem_singleton] at hk
    subst hk
    rw [e]
    refine ⟨fun h => absurd h (by decide), fun j h => (by rw [show Array.reset.passInj = none by decide +kernel] at h; cases h), Nat.zero_le _, by decide +kernel,
      fun m _ => Nat.zero_le _, fun h => absurd (st.symm.trans h) (by decide)⟩
  · show (v.getArr 0).footEnd = 0
    rw [e]; rfl
  · show ∀ m < 1, smGet 0 (v.getArr 0).readOf (0 + m) ≤ _
    rw [e]; exact fun m _ => Nat.zero_le _
  · exact fun h => absurd h (by decide)
  · intro k hk
    rw [List.mem_singleton] at hk
    subst hk
    rw [e]
    exact ⟨fun j h => (by rw [show Array.reset.swapInj = none by decide +kernel] at h; cases h), Nat.le_refl _⟩

theorem witness_VectorResultsLandAfterTheirLatency :
    let q := ((withIsl running).issue site).1.opened 0 6
    (30 : BitVec 5) ≠ 31 ∧ (3 : Nat) < 4 ∧ vecOffset (q.getIsl 0) 0 0 % 64 = 0 ∧ q.spOutside 0 0 (vecBytes 3) = none ∧
      bankCheck (q.getIsl 0).banks (vecAccess 0 0 (vecBytes 3)) = none := by decide

theorem witness_DmaSlotsQueueAndPause :
    let q := ((withIsl running).issue site).1.opened 0 7
    q.stagingHeld 0 = false ∧ ((q.getIsl 0).getX 0).toNat < spSize ∧ (running.getChan 0).starts.length < 8 ∧
    8 ≤ (({ running with chan := [(0, { Chan.reset with queue := List.replicate 8 (some (0, 0)) })] } : Island).getChan 0).starts.length ∧
    (((withIsl running).issue site).1.getIsl 0).sched = [] := by
  decide

/-! ### Witnesses: gating, straits, DMA and HBM -/

def grouped (g : Gate) (n : Nat) : State := { ready with grp := [(0, ⟨g, 0, true⟩)], clk := ⟨n, 0, 0, none, true⟩ }

theorem witness_GatingGroupsEnterAndLeavePowerGating :
    ((grouped .clocked 25001).getGrp 0).gate = .clocked ∧ (grouped .clocked 25001).groupFree 0 = true ∧
    ((grouped .clocked 25001).getGrp 0).unbound + 25001 ≤ (grouped .clocked 25001).clk.now ∧
    ((grouped (.entering 7) 12).getGrp 0).gate = .entering 7 ∧ 7 + 5 ≤ (grouped (.entering 7) 12).clk.now ∧
    ((grouped (.waking 7) 57).getGrp 0).gate = .waking 7 ∧ 7 + 50 ≤ (grouped (.waking 7) 57).clk.now := by decide

theorem witness_PowerGatingEntryTakesFiveTicks :
    ((grouped (.entering 7) 11).groupPresent 0 = true ∧ (grouped (.entering 7) 11).clk.now < 7 + 5) ∧
    (grouped (.entering 7) 12).clk.now = 7 + 5 ∧ (grouped (.waking 7) 56).clk.now < 7 + 50 ∧
    (grouped (.waking 7) 57).clk.now = 7 + 50 := by decide

/-- A circuit from island 0, east, to island 1, in slot 0, and an island with a beat offered in frame cycle 0. -/
def oneHop : Circuit := ⟨0, 1, 1, [0], 0⟩
def offering : Island := { running with txq := [(oneHop.srcPort, [(0, [1])])] }

theorem witness_AStraitBeatDepartsInItsSlotAndArrives :
    let r : State := { withIsl offering with circ := [oneHop] }
    (offering.tx oneHop.srcPort = [(0, [1])] ∧ offering.departs oneHop oneHop.srcPort = some 8 ∧
      offering.lastDep.find? (·.1 = oneHop.srcPort) = none) ∧
    r.circuitFrom 0 oneHop.srcPort = some oneHop ∧ 8 < r.clk.frame + r.tickCycles ∧ offering.departs oneHop oneHop.srcPort ≠ some 16 ∧
    (let b : State := { withIsl running with beats := [⟨0, 0, 0, [1]⟩] }
     takeFirst (fun f : BeatFlight => f.island = 0 && f.port = 0) b.beats = some (⟨0, 0, 0, [1]⟩, []) ∧
     0 < b.clk.frame + b.tickCycles ∧ b.islSt 0 = stRunning ∧ ((b.getIsl 0).rx 0).length < 64) ∧
    (withIsl { running with st := stPaused }).islSt 0 ≠ stRunning := by decide

/-- A bank read of channel 0, and an HBM request that has been served. -/
def bankReq : BankReq := ⟨0, 0, [], 0, 0, [], 0⟩
def hbmReq : HbmReq := ⟨0, 0, 0, true, 0, 64, [], 0, 0, true, false, false⟩
/-- An island that stands still, with a request at bank 2. -/
def banked (st : BitVec 4) : Island := { running with st := st, bankQ := [(2, [bankReq])] }

theorem witness_DmaMovesBytesThroughBanksAndHbm :
    ((withIsl running).islSt 0 = stRunning ∧ running.starting = false ∧ running.origin ≤ 0) ∧
    (let s := withIsl (banked stBound)
     smGet [] (s.getIsl 0).bankQ 2 = [bankReq] ∧ (s.bankHeadAt 0 2).any (fun c => decide (c < s.tickEnd 0)) = true ∧ s.cycling 0 = false) ∧
    (stBound ≤ (withIsl running).islSt 0 ∧ ready.frameHeld = false ∧
      max ((withIsl running).getIsl 0).portAt ((withIsl running).reached 0) < (withIsl running).tickEnd 0) ∧
    takeFirst (fun r : HbmReq => r.served && decide (r.due < tickUnits * (0 + 1))) [hbmReq] = some (hbmReq, []) ∧
    (smGet [] ({ Mem.reset with sharedQ := [(3, [hbmReq])] } : Mem).sharedQ 3 = [hbmReq] ∧
      ({ ready with mem := { ready.mem with sharedQ := [(3, [hbmReq])] } } : State).sharedSlot 3 < 50 * ready.clk.now + 50) := by decide +kernel

/-- The scratchpad of an island with a descriptor at 64 that moves 64 bytes from offset 0 to 4096; its completion queue of two
slots at 256 has its header at 128. -/
def descBytes : List Byte :=
  [1, 0, 63, 0] ++ leBytes 4 128 ++ leBytes 8 spBase0 ++ leBytes 8 (spBase0 + 4096) ++ List.replicate 40 0
def cqBytes : List Byte := leBytes 8 (spBase0 + 256) ++ [1, 0, 0, 0] ++ List.replicate 20 0
def dmaSp : Memory := memWrite (memWrite [] 64 descBytes) 128 cqBytes

/-- Island 0, bound, with channel 0 in a state. -/
def channelled (x : Chan) : State := withIsl { running with st := stBound, sp := dmaSp, chan := [(0, x)] }

theorem witness_DmaDescriptorTakeUp :
    let s := channelled { Chan.reset with queue := [some (1, 64)] }
    let v := s.getIsl 0
    let c := v.getChan 0
    (c.starts = [((1 : BitVec 5), (64 : BitVec 22))] ∧ c.st = 0 ∧ c.paused = false ∧ c.recOut = none ∧ stBound ≤ s.islSt 0) ∧
    (smGet [] v.bankQ (bankOf 64) = [] ∧ s.bankFrom 0 (bankOf 64) (max c.since (s.reached 0)) < s.tickEnd 0) ∧
    ((Desc.parse (v.spRead 64 64)).cqOff = 128 ∧ v.spUe 64 64 = false ∧ v.spUe 128 32 = false) ∧
    (s.cqHeader 0 (v.spRead 128 32)).map (·.2) = some (.sp 0 256) ∧ s.descCheck 0 (v.spRead 64 64) = none := by decide +kernel

theorem witness_DmaCompletion :
    let s := channelled { Chan.reset with st := 4, dcopy := BitVec.ofNat 512 (leNat descBytes) }
    let v := s.getIsl 0
    let x := v.getChan 0
    (x.recOut = none ∧ x.refused = [] ∧ x.st = 4 ∧ x.desc_.cqOff = 128 ∧ (s.completeAt 0 0).any (fun c => decide (c < s.tickEnd 0)) = true) ∧
    ((s.cqHeader 0 (v.spRead 128 32)).any fun h => (h.1.pi - h.1.ci).toNat ≠ 2 ^ h.1.log2) = true ∧ s.cycling 0 = false := by decide +kernel

/-- Channel 0 reads one line of HBM at 0, in READY's bound island of a partition with a window. -/
def readingHbm : State :=
  { channelled { Chan.reset with st := 1, dcopy := BitVec.ofNat 512 (leNat ([1, 0, 63, 0] ++ leBytes 4 128 ++ leBytes 8 0 ++
      leBytes 8 (spBase0 + 4096) ++ List.replicate 40 0)) } with
    part := [(0, { Part.reset with exists_ := true, windows := [(0, ⟨true, true, 2, 0, 0xA000000000⟩)] })] }

theorem witness_PortTakes :
    let q := readingHbm.openRun 0 0
    let g := (hbmMap q.mem.mode 0).1
    (match q.portOffer 0 0 with
     | some (.read p a) => decide (a = 0) && decide (q.offerRefused 0 (.read p a) = none)
     | _ => false) = true ∧ slotCount q.mem.mode 0 g ≠ 0 ∧ q.recent 0 g (q.unitsOf 0) < slotCount q.mem.mode 0 g ∧
    (q.slotFor 0 g (q.unitsOf 0)).isSome = true := by decide +kernel

/-- Tick 5 holds a scrub slot of channel 3. -/
def scrubbing (rewrite : SMap (Option Nat)) : State :=
  { ready with clk := ⟨5, 0, 0, none, true⟩, mem := { ready.mem with rewrite := rewrite } }

theorem witness_ScrubAndRefreshServeTheirSlots :
    ((scrubbing []).scrubSlot 3).isSome = true ∧ ((scrubbing []).scrubSlot 3).all (fun k => (scrubbing []).dueSlots k = []) = true ∧
    smGet none (scrubbing []).mem.rewrite 3 = none ∧ smGet none (scrubbing [(3, some 64)]).mem.rewrite 3 = some 64 ∧
    ((scrubbing [(3, some 64)]).scrubSlot 3).isSome = true ∧ ready.scrubSlot 3 = none ∧
    ({ ready with pwr := { ready.pwr with deepIdle := true } } : State).frameRuns = false := by decide +kernel

theorem witness_HbmReadsWhatWasWritten : Memory.wf ready.mem.hbm = true ∧ Memory.wf [(5, (1 : Byte)), (6, 2)] = true := by decide

/-! ### Witnesses: the fabric -/

/-- A packet whose check holds, from node 5, with one byte. -/
def pkt (type : BitVec 4) (payload : List Byte) : Pkt :=
  Pkt.sealed { blankPkt type 0 with src := 5, seq := 1, addr := 64, payload := payload, length := BitVec.ofNat 13 payload.length }

/-- An entry of island 0 in a series and a try, whose time expired at tick 0. -/
def trkEntry (series tries : Nat) : TrkEntry := ⟨pkt tWrite [1], some 0, [], none, series, tries, 0, false, none⟩
def tracked (series tries : Nat) : State :=
  { ready with clk := ⟨1, 40, 0, none, true⟩, trk := { Tracker.reset with entries := [(0, some (trkEntry series tries))] } }
/-- A multicast entry whose members are node 5. -/
def mcastEntry : McastEntry := ⟨pkt tMcast [1], [5], [(5, none)], [], [], [], 0⟩

theorem witness_TrackerEntriesResendAndResolve :
    ((tracked 2 8).trk.get (.island 0 0) = some (trkEntry 2 8) ∧ (trkEntry 2 8).expiry < (tracked 2 8).clk.now ∧
      (trkEntry 2 8).nack = none ∧ 8 ≤ (trkEntry 2 8).tries) ∧
    (smGet none [(3, some mcastEntry)] 3 = some mcastEntry ∧ mcastEntry.expiry < (tracked 1 1).clk.now) ∧
    (({ tracked 2 8 with clk := ready.clk } : State).clk.now ≤ (trkEntry 2 8).expiry) ∧
    (pkt tAck []).crc = (pkt tAck []).check ∧ ((tracked 1 1).entryOf (pkt tAck [])).isSome = true ∧
    (let s : State := { ready with trk := { Tracker.reset with entries := [(0, some { trkEntry 1 1 with nack := some (sTimeout, 0) })] } }
     s.trk.control = [] ∧ s.trk.mcast = []) ∧
    ready.entryOf (pkt tAck []) = none ∧ ready.mcastOf (pkt tAck []) = none ∧
    (let s : State := { ready with trk := { Tracker.reset with mcast := [(3, some { mcastEntry with pkt := pkt tAck [] })] } }
     s.entryOf (pkt tAck []) = none ∧ (s.mcastOf (pkt tAck [])).isSome = true ∧ mcastEntry.members.contains (pkt tAck []).src = true) ∧
    (((tracked 1 1).modFab fun f => { f with avoid := avoidLink f.avoid 0 0 }).entryOf (pkt tDetour [])).isSome = true := by
  decide +kernel

theorem witness_PacketsWithABadCrcAreDroppedAndCounted : ({ pkt tAck [] with crc := (pkt tAck []).crc ^^^ 1 } : Pkt).crc ≠ ({ pkt tAck [] with crc := (pkt tAck []).crc ^^^ 1 } : Pkt).check := by
  decide +kernel

/-- `ready` with partition 0 holding a window over all of HBM. -/
def windowed : State :=
  { ready with part := [(0, { Part.reset with exists_ := true, windows := [(0, ⟨true, true, 2, 0, 0xA000000000⟩)] })] }

theorem witness_DestinationsAnswerRequests :
    (pkt tWrite [1]).crc = (pkt tWrite [1]).check ∧ (pkt tWrite [1]).payload ≠ [] ∧ windowed.frameHeld = false ∧
    judgeSeq (smGet none windowed.trk.sources (8 * 5)) 0 1 = (.accept, ⟨0, 1, [1]⟩) ∧
    (judgeSeq (some ⟨0, 1, [1]⟩) 0 1).1 = .duplicate ∧
    windowed.remoteRegion 0 64 1 = .ok (.hbm 64) ∧ (ready.remoteRegion 0 64 1).isOk = false ∧
    windowed.retired 0 = false ∧ (windowed.tab 0).fenced 5 = false ∧ (5 : NodeId) ≠ windowed.fab.node ∧
    (({ windowed with pwr := { windowed.pwr with deepIdle := true } } : State).frameHeld = true ∧
      (match regionOf 64 1 with | .hbm a => a == 64 | _ => false) = true) := by
  decide +kernel

theorem witness_NotifyNamesAnIslandOfThePartition :
    let s : State := { withIsl { running with partition := 0 } with
      part := [(0, { Part.reset with exists_ := true, pipe := .running, stages := [⟨0, 0, false, false⟩] })] }
    s.remoteRegion 0 (spBase0 + 64) 1 = .ok (.sp 0 64) ∧ (s.getIsl 0).spUe 64 1 = false := by decide +kernel

/-- A packet as a queue holds it, and a port that is up with it in VC 2's queue. -/
def queued : Queued := ⟨pkt tWrite [1], 0, false, true, none, none⟩
def portUp : Port := { Port.reset with st := .up, width := 4, active := 0xF, txq := [(2, [queued])] }
def withPort (p : Port) : State := { ready with port := [(0, p)] }

theorem witness_SwitchesQueueSendAndExpirePackets :
    ((pkt tWrite [1]).reserved = false ∧ ready.retired (pkt tWrite [1]).epoch = false ∧
      (ready.tab (pkt tWrite [1]).epoch).fenced (pkt tWrite [1]).src.toNat = false ∧
      (match ready.routePkt (pkt tWrite [1]) with | .here _ => true | _ => false) = true ∧
      (match ready.routePkt { pkt tWrite [1] with dst := 1 } with | .here _ => false | _ => true) = true) ∧
    ({ pkt tWrite [1] with type := 15 } : Pkt).reserved = true ∧ ready.retired 1 = true ∧
    (smGet [] portUp.txq 2 = [queued] ∧ portUp.up = true ∧
      (smGet 0 portUp.sentBlk 2 - smGet 0 portUp.credits 2).toNat + queued.pkt.blocks ≤ 512 ∧
      portUp.outBlks.length < 15 * (40 / flitNs portUp.width) ∧ portUp.getFi 2 = FiSet.reset) ∧
    takeFirst (fun q : Queued => decide (q.since + 500 ≤ 500)) (smGet [] portUp.txq 2) = some (queued, []) ∧
    takeFirst (fun q : Queued => decide (q.since + 500 ≤ 499)) (smGet [] portUp.txq 2) = none ∧
    (({ portUp with fi := [(2, { FiSet.reset with held := [⟨queued, 0, 0⟩] })] } : Port).getFi 2).held ≠ [] := by decide +kernel

theorem witness_FiSchedulerFires :
    let f : FiSet := { FiSet.reset with ctrl := 0x11, startAt := some 7 }
    (7 : Nat) ≤ 7 ∧ f.startAt = some 7 ∧ f.stopAt = none ∧ (f.fire 7).sel = 1 := by decide

/-- A position of circuit data in the current epoch. -/
def position : CircuitData := ⟨3, 0, [⟨pkt tWrite [1], 0, 3⟩]⟩
/-- Tables whose CIN entry of port 0, position 3, is this byte pair. -/
def cin (hi lo : Byte) : State :=
  { withPort portUp with fab := { Fabric.reset with tab0 := { Table.reset with cin := [(6, lo), (7, hi)] } } }

theorem witness_CircuitsCarryPositions :
    ready.retired 0 = false ∧ ready.retired 1 = true ∧ ((ready.tab 0).cinOf 0 3).getLsbD 15 = false ∧
    (((cin 0xC0 0).tab 0).cinOf 0 3).getLsbD 15 = true ∧ (((cin 0xC0 0).tab 0).cinOf 0 3).getLsbD 14 = true ∧
    (((cin 0x80 0).tab 0).cinOf 0 3).getLsbD 14 = false ∧ ((cin 0x80 0).getPort 0).up = true ∧ (ready.getPort 0).up = false ∧
    (((cin 0x82 0).tab 0).cinOf 0 3).extractLsb' 9 5 = 1 ∧ ((cin 0x82 0).getPort 1).up = false ∧
    (∀ c ∈ position.parts, c.first = 0 ∧ partEnds c = true ∧ c.pkt.dstAtt = 0) ∧
    (pkt tCircLost []).crc = (pkt tCircLost []).check ∧ (pkt tCircLost []).aux.toNat < 256 ∧
    (ready.fab.lostSent.contains 5 = false ∧ [5].contains 5 = true) := by
  decide +kernel

/-- A tick in which position 3 begins, on a port with that position at hand. -/
def sending (out : List CircPay) (q : List Queued) (csrc : Memory) : State :=
  { withPort { portUp with circOut := [(3, out)] } with
    fab := { Fabric.reset with time := 48, circQ := [(2, q)], tab0 := { Table.reset with csrc := csrc } } }

theorem witness_CircuitsSendPositions :
    (sending [] [] []).slotTime 3 = some 48 ∧ (sending [] [] []).slotTime 10 = none ∧
    smGet 0 ((sending [] [] []).getPort 0).circAt 3 ≠ 48 / 4096 + 1 ∧
    smGet 0 ({ portUp with circAt := [(3, 1)] } : Port).circAt 3 = 48 / 4096 + 1 ∧
    (let y : CircPay := ⟨0, position.parts, 0⟩
     smGet [] ((sending [y] [] []).getPort 0).circOut 3 = [y] ∧ (sending [y] [] []).retired y.epoch = false ∧ y.parts ≠ [] ∧
       ((sending [y] [] []).getPort 0).up = true ∧ (((sending [y] [] []).getPort 0).getFi 6).on = false) ∧
    ((sending [] [] []).tab ((sending [] [] []).epochAt 48)).circuitAt 0 3 = none ∧
    (∀ n ∈ [1, 1000], let q : Queued := { queued with pkt := { pkt tWrite [] with payload := List.replicate n 0, length := BitVec.ofNat 13 n } }
     let s := sending [] [q] [(87, 0x80), (88, 8)]
     (s.tab (s.epochAt 48)).circuitAt 0 3 = some 2 ∧ smGet [] s.fab.circQ 2 = [q] ∧ q.seen = true ∧
       (q.pkt.blocks - smGet 0 s.fab.circPart 2 ≤ circBlocks (s.getPort 0).width ↔ n = 1)) := by decide +kernel

theorem witness_TheEpochFlipsAtItsTime :
    ready.fab.flipAt = none ∧
    (∃ s : State, s.fab.flipAt = some 40 ∧ s.fab.time.toNat + 40 ≤ (40 : Dword).toNat) ∧
    (∃ s : State, s.fab.flipAt = some 39 ∧ (39 : Dword).toNat < s.fab.time.toNat + 40) ∧
    ∃ s : State, (if s.fab.epoch then s.fab.ver0 else s.fab.ver1) = .retiring ∧ s.fab.retire ≤ s.now :=
  ⟨by decide, ⟨{ ready with fab := { Fabric.reset with flipAt := some 40 } }, by decide⟩,
    ⟨{ ready with fab := { Fabric.reset with flipAt := some 39 } }, by decide⟩,
    ⟨{ ready with fab := { Fabric.reset with ver1 := .retiring } }, by decide⟩⟩

/-! ### Witnesses: barriers and ports -/

/-- Group 3 of this module as coordinator, with members 0 and 5. -/
def group (arrivals : List Arrival) : Barrier := { Barrier.reset with valid := true, members := [0, 5], arrivals := arrivals }
def withBar (b : Barrier) : State := { ready with bar := [(3, b)] }
def barMsg (kind n : Nat) : Pkt := pkt tBarrier (leBytes 1 kind ++ leBytes 1 3 ++ leBytes 2 0 ++ leBytes 4 n ++ leBytes 24 0)

theorem witness_BarrierPacketsReachTheirGroup :
    (barMsg 1 0).crc = (barMsg 1 0).check ∧ judgeSeq (smGet none (withBar (group [])).trk.sources 40) 0 1 = (.accept, ⟨0, 1, [1]⟩) ∧
    (BarMsg.parse (barMsg 1 0).payload).kind = 1 ∧ (BarMsg.parse (barMsg 2 0).payload).kind = 2 ∧ (BarMsg.parse (barMsg 3 0).payload).kind = 3 ∧
    (BarMsg.parse (barMsg 2 0).payload).group = 3 ∧ (BarMsg.parse (barMsg 2 0).payload).n = (group []).next ∧
    ((withBar (group [])).getBar 3).valid = true ∧ ((withBar (group [])).getBar 3).coord = (withBar (group [])).fab.node ∧
    (group []).members.contains 5 = true ∧ (ready.getBar 3).valid = false ∧ ({ group [] with coord := 5 } : Barrier).coord = (barMsg 2 0).src ∧
    (group []).coord ≠ (barMsg 2 0).src ∧ (BarMsg.parse (barMsg 2 1).payload).n ≠ (group []).next := by decide +kernel

theorem witness_TheLastArrivalFixesTheRelease :
    let b := group [⟨5, 0, false, 0⟩]
    b.arrivals.any (·.node = 5) = true ∧ b.members.all (fun m => b.arrivals.any (·.node = m)) = false ∧
    b.arrivals.any (·.node = 0) = false ∧ b.members.all (fun m => (b.arrivals ++ [(⟨0, 0, false, 0⟩ : Arrival)]).any (·.node = m)) = true ∧
    (group []).members.all (fun m => ((group []).arrivals ++ [(⟨0, 0, false, 0⟩ : Arrival)]).any (·.node = m)) = false ∧
    ({ b with fixed := true } : Barrier).early.any (·.node = 0) = false := by decide

/-- A release under way that island 4 awaits. -/
def release (edge : Option Nat) (start pause : Bool) : Pending := ⟨0, 0, 0, ⟨0, 0, false, 0⟩, false, 0, false, edge, 0, [4], start, pause, false⟩
def releasing (v : Island) (edge : Option Nat) (start pause : Bool) : State :=
  { withBar { group [] with pending := some (release edge start pause) } with isl := [(4, v)] }

theorem witness_AReleaseStartsIslandsAtTheirRampCycles :
    (release (some 0) true false).waiting.contains 5 = false ∧
    (let s := releasing running (some 0) true false
     (s.getBar 3).pending = some (release (some 0) true false) ∧ (release (some 0) true false).waiting.contains 4 = true ∧
     0 + rampCycles (0 : BitVec 3).toNat 4 < s.clk.frame + s.tickCycles ∧ s.islSt 4 = stRunning ∧ (s.getIsl 4).waiting = none ∧
     s.clk.frame + s.tickCycles ≤ 1000 + rampCycles (0 : BitVec 3).toNat 4) ∧
    ((releasing { running with waiting := some ⟨1, 1, 0, 0, some 3, true⟩ } (some 0) true false).getIsl 4).waiting = some ⟨1, 1, 0, 0, some 3, true⟩ ∧
    ((releasing { running with barSem := [(3, 1)] } (some 0) false false).getIsl 4).barSem.find? (·.1 = 3) = some (3, 1) ∧
    (releasing { running with st := stFaulted } (some 0) false false).islSt 4 ≠ stRunning ∧
    (({ releasing running (some 0) false true with part := [(0, { Part.reset with exists_ := true, pipe := .pauseArmed })] } : State).getPart 0).pipe = .pauseArmed ∧
    (ready.getBar 3).pending = none := by decide +kernel

theorem witness_TheReleaseEdgeAdvancesTheGroup :
    let s := releasing running none true false
    (s.getBar 3).pending = some (release none true false) ∧ s.edgeCycle 0 < s.clk.frame + s.tickCycles ∧
    (let q : Part := { Part.reset with pipe := .running, stepGroup := 3 }
     q.uses 3 = true ∧ q.stepGroup = 3) ∧
    s.clk.frame + s.tickCycles ≤ s.edgeCycle 1000000 := by decide +kernel

theorem witness_PortsTrainInSteps :
    let p : Port := { Port.reset with st := .training, trainStep := 4, since := 0 }
    (p.st = .training ∧ ¬ (p.trainStep = 4 ∧ p.cold = false)) ∧ p.since + trainLimit p.trainStep ≤ 10 ^ 12 ∧
    (0 < ({ p with cold := false } : Port).since + trainLimit p.trainStep) ∧
    (({ p with cold := false } : Port).trainStep = 4 ∧ ({ p with cold := false } : Port).cold = false) ∧
    ({ Port.reset with st := .training, trainStep := 5 } : Port).trainStep = 5 ∧
    (ready.fab.nodeSet = false ∧ ({ Fabric.reset with nodeSet := true } : Fabric).nodeSet = true ∧ ready.pwr.deepIdle = false) ∧
    (Port.reset.enabled = true ∧ Port.reset.st = .down ∧ Port.reset.since + 25000000 ≤ 25000000) ∧
    ({ Port.reset with st := .miswired } : Port).st = .miswired := by decide +kernel

set_option maxRecDepth 100000 in
theorem witness_PortsNarrowAndDropBadFlits :
    portUp.st = .up ∧ (flitDecode (List.replicate 256 0)).isSome = true ∧
    (flitDecode (1 :: 2 :: 3 :: 4 :: 5 :: 6 :: 7 :: 8 :: 9 :: 10 :: List.replicate 246 0)) = none ∧ portUp.partial_ = none ∧
    (portUp.active &&& (1 <<< 3) ≠ 0 ∧ portUp.allowed (chooseLanes (portUp.failed ||| (1 <<< 3))) ≠ 0) ∧
    portUp.allowed (chooseLanes (portUp.failed ||| 0xF)) = 0 ∧
    ({ portUp with thr := 0 } : Port).thr = 0 ∧ portUp.winAt ≤ ready.clk.now ∧
    (let p : Port := { portUp with st := .narrowing, failed := 0 }
     p.since + 1250 ≤ 1250 ∧ p.retest = false ∧ ready.fab.node ≤ p.peerNode ∧ p.allowed (chooseLanes (p.failed ||| ~~~0xF)) ≠ 0 ∧
     laneCount (p.allowed (chooseLanes p.failed)) = p.width) := by decide +kernel

/-! ### Witnesses: the host interface and the pins -/

theorem witness_DeviceRegisterWritesAreGuarded :
    ready.present 255 = true ∧ (withIsl { running with st := stBound }).islSt 0 = stBound ∧
    ((withIsl running).islSt 0 ≠ stBound ∧ (withIsl running).islSt 0 ≠ stPaused) ∧ (12 : Nat) % 8 ≠ 0 ∧
    (((withIsl { running with st := stBound }).getIsl 0).getChan 0).state = 0 ∧
    ready.devReg 0x2FFFFFFFFFF8 = none ∧ (ready.devReg 0x30000005F000).isSome = true := by decide +kernel

theorem witness_RingsEnableRefuseAndStop :
    let u := ready.linkWoken
    (((0x601 : Dword).getLsbD 0 = true) ∧ (u.getCr 1).st = .disabled ∧ u.crReason 1 0x601 = 0 ∧ u.crReason 1 0x501 ≠ 0) ∧
    (u.getCr 0).st ≠ .disabled ∧ (u.getCr 0).st = .enabled ∧
    (({ ready with host := { ready.host with cmd := [(0, { CmdRing.reset with st := .broken })] } } : State).linkWoken.getCr 0).st = .broken ∧
    (({ ready with host := { ready.host with cmd := [(0, { CmdRing.reset with st := .stopping })] } } : State).linkWoken.getCr 0).st = .stopping ∧
    ((u.getQr 1).st = .disabled ∧ u.qrReason 1 0x601 = 0) ∧ ((u.getQr 0).st = .enabled ∧ u.cqInUse 0 = true) ∧
    (let w := ({ ready with host := { ready.host with cmd := [] } } : State).linkWoken
     w.cqInUse 0 = false ∧ (w.getQr 0).held = []) ∧ ((0x501 : Dword).extractLsb' 8 5).toNat = 5 := by decide +kernel

/-- `ready` with these index lines held Shared. -/
def sharing (l : List (Bool × BitVec 4)) : State := { ready with host := { ready.host with cached := l } }

theorem witness_IndicesAreNoticedByInvalidationAndPoll :
    (ready.linkWoken.host.cached.contains (false, 0) = false ∧ (sharing [(false, 0)]).linkWoken.host.cached.contains (false, 0) = true) ∧
    (let u := ((sharing [(false, 0)]).linkWoken.dropLine false 0).holdLine false 0 ((sharing [(false, 0)]).linkWoken.indexAddr false 0)
     u.serving = true ∧ (u.getCr 0).st = .enabled ∧ (u.getCr 0).piRead = 4 ∧ ((64 : Word) - (u.getCr 0).ci).toNat ≤ (u.getCr 0).slots ∧
     (u.getCr 0).slots < ((65 : Word) - (u.getCr 0).ci).toNat ∧ (u.getQr 0).live = true ∧ (u.getQr 0).ciRead ≠ 1) ∧
    (let s := { sharing [(false, 0)] with clk := ⟨1250, 0, 0, none, true⟩ }
     s.host.polled + 1250 ≤ s.clk.now ∧ s.serving = true ∧ (s.getCr 0).st = .enabled) ∧ ready.clk.now < ready.host.polled + 1250 ∧
    (let q : CompRing := { CompRing.reset with st := .enabled, ctrl := 0x200000403, unsig := 1, since := 50 }
     q.live = true ∧ q.ctrl.getLsbD 1 = true ∧ q.unsig ≠ 0 ∧ q.since + 25 * (q.ctrl.extractLsb' 32 16).toNat ≤ 100 ∧
       99 < q.since + 25 * (q.ctrl.extractLsb' 32 16).toNat) := by decide +kernel

/-- HBM mapped to the host at 0, with and without windows. -/
def hostMem (s : State) : State := { s with host := { s.host with linkUp := true, biPath := true, memActive := true } }

theorem witness_HostMemoryAccessesAreCheckedAndServed :
    ready.linkWoken.hdmLine 0xA000000000 = none ∧ ready.linkWoken.hdmLine 0x9FFFFFFFFF = some 0x9FFFFFFFC0 ∧
    ready.linkWoken.host.memActive = false ∧ (hostMem ready).linkWoken.host.memActive = true ∧
    (hostMem ready).linkWoken.hostWindows false 64 = [] ∧ (hostMem ready).linkWoken.hostWindows true 64 = [] ∧
    (hostMem windowed).linkWoken.hostWindows false 64 ≠ [] ∧ (hostMem windowed).linkWoken.hostWindows true 64 ≠ [] ∧
    (hostMem windowed).linkWoken.frameHeld = false ∧ ((hostMem windowed).linkWoken.sharedTurns 64 64).mem.uncorrectable 64 = false ∧
    ({ hostMem windowed with pwr := { windowed.pwr with deepIdle := true } } : State).frameHeld = true ∧
    (let s : State := { hostMem windowed with mem := { ready.mem with lineErr := [(64, some .poison)] } }
     (s.linkWoken.sharedTurns 64 64).mem.uncorrectable 64 = true) ∧
    (smGet [] ready.mem.sharedQ 0 = [] ∧ ready.dueSlots (min (ready.sharedSlot 0) (50 * ready.clk.now + 50)) = []) := by decide +kernel

theorem witness_MemoryActiveIsSetOnlyWithValidMemory :
    ((hostMem ready).host.memActive = true ∧ (hostMem ready).host.linkUp = true ∧ (hostMem ready).host.biPath = true ∧
      (hostMem ready).mem.valid = true) ∧ ready.host.memActive = false ∧ ready.hdmLine 0 = some 0 := by decide +kernel

theorem witness_EveryStepKeepsHbmCanonical : Memory.wf ready.mem.hbm = true ∧ ready.pending = [] := by decide

theorem witness_HostResetsDropTheHostInterfaceOnly : ready.mem.valid = true ∧ State.reset.mem.valid = false := by decide

/-- A module that takes or drives SYNC pulses, in a state of fabric time. -/
def timed (mode : BitVec 2) (tst : TimeSt) (msg : Option Dword) : State :=
  { ready with ret := ⟨false, mode, 0⟩, fab := { Fabric.reset with tst := tst, timeMsg := msg, nodeSet := true, timeSeen := true } }

theorem witness_FabricTimeFollowsPulsesAndMessages :
    ((timed 0 .unset none).ret.syncMode ≠ 1 ∧ (timed 1 .unset none).ret.syncMode = 1) ∧
    ((timed 1 .unset (some 5)).fab.timeMsg = some 5 ∧ (timed 1 .unset (some 5)).fab.pulseSeen = false) ∧
    (-100 ≤ pulseError ((100 : Dword).toNat + (timed 1 .locked none).ret.syncOff.toInt) ∧
      pulseError ((100 : Dword).toNat + (timed 1 .locked none).ret.syncOff.toInt) ≤ 100 ∧ 100 < pulseError (101 : Int)) ∧
    ((timed 1 .locked none).fab.tst = .locked ∧ (timed 1 .locked none).fab.lastPulse.toNat + 75000 ≤ 75000 ∧
      (timed 1 .locked none).clk.now < (timed 1 .locked none).fab.lastPulse.toNat + 75000) ∧
    ({ (timed 2 .locked none).fab with master := 9 } : Fabric).master ≠ (timed 2 .locked none).fab.node ∧
    ((timed 2 .locked none).fab.master = (timed 2 .locked none).fab.node ∧ (timed 2 .locked none).fab.freeMode = false ∧
      (timed 2 .locked none).fab.timeSent = none) ∧
    (timed 2 .locked none).ret.syncMode = 2 ∧ ((0 : Int) - 0 + 39) % 1000000 < 40 := by decide +kernel

theorem witness_TimeReceived :
    let p := pkt tTime (leBytes 8 1000000 ++ leBytes 2 9 ++ leBytes 6 0)
    let s : State := { timed 1 .unset none with fab := { (timed 1 .unset none).fab with master := 9 } }
    (s.taken 31 p).retired p.epoch = false ∧ ((s.taken 31 p).tab p.epoch).fenced p.src.toNat = false ∧ p.crc = p.check ∧
      leAt p.payload 8 2 = s.fab.master.toNat ∧ s.fab.master ≠ s.fab.node ∧
      ({ s with fab := { s.fab with epoch := true, ver0 := .writable } } : State).retired p.epoch = true := by decide +kernel

theorem witness_PinsRaiseTimersAndLogs :
    ({ Pins.reset with pwrbrk := true } : Pins).pwrbrkAt + 1500000000 ≤ 1500000000 ∧ Pins.reset.pwrbrk = false ∧
    ({ Pins.reset with perst := true } : Pins).perstAt + 25000000 ≤ 25000000 ∧
    ({ Pins.reset with wake := true } : Pins).wakeAt + 2500000 ≤ 2500000 ∧ Pins.reset.wake = false ∧ Mgmt.reset.i3c = false ∧
    ({ Mgmt.reset with i3c := true } : Mgmt).i3c = true := by decide

/-- A record in the log of an island, and an exception queue of 64 slots with room. -/
def excRec : ExcRec := ⟨1, 0, 0, 0, 0, 0, 0⟩
def excQueue (pi : Word) : ExcQueue := ⟨6, 0, 0, 0, pi, 0, 0⟩

theorem witness_LogsAreCopiedToTheQueueAndTheArchive :
    (ready.getPart 0).exc = none ∧
    ({ running with excLog := [(0, excRec)], logHead := 1 } : Island).excPending = [excRec] ∧
    ((excQueue 63).pi - 0).toNat < 2 ^ (excQueue 63).log2 ∧ 2 ^ (excQueue 64).log2 ≤ ((excQueue 64).pi - 0).toNat ∧
    (excQueue 64).dropped.toNat < 2 ^ 32 - 1 ∧
    (ready.flog.archive ++ ready.flog.ring.filter (fun r => decide (ready.flog.archived ≤ r.seq))).length ≤ 1966080 := by decide +kernel

/-! ### Witnesses: commands -/

/-- The module with partition 0's pipeline in a state. -/
def piped (p : PipeSt) : State := { ready with part := [(0, { Part.reset with exists_ := true, pipe := p })] }

/-- The module with a long command under way. -/
def longOf (op : Half) (body : List Byte) : LongCmd := ⟨cmd 1 body, op, 0, .accepted, 100, 0, 0⟩
def busyWith (s : State) (op : Half) (body : List Byte) : State := { s with cmds := { s.cmds with long := [longOf op body] } }

/-- Every command of one or two slots with parameters in range is taken up by the module in READY and passes the checks of its entry. -/
theorem witness_Takes : ∀ x ∈ [((0x0101 : Half), (1 : Half), ([] : List Byte)), (0x0102, 1, [5]), (0x0103, 1, []), (0x0105, 1, [1]), (0x0106, 1, []),
    (0x0107, 1, [1]), (0x0201, 1, [63]), (0x0204, 1, []), (0x0205, 1, []), (0x0302, 1, []), (0x0303, 1, []), (0x0305, 1, []),
    (0x0307, 1, []), (0x0308, 1, []), (0x0309, 2, []), (0x0402, 1, []), (0x0404, 1, []), (0x0405, 1, []), (0x0406, 1, [31, 4]),
    (0x0406, 1, [31]), (0x0407, 1, [1]), (0x0408, 1, [50]), (0x0409, 1, []), (0x040B, 1, [255]), (0x0501, 1, [1]), (0x0501, 1, []),
    (0x0504, 1, []), (0x0505, 1, []), (0x0506, 1, []), (0x0507, 1, []), (0x0601, 1, []), (0x0602, 1, []), (0x0603, 1, [4]),
    (0x0604, 1, [1]), (0x0604, 1, []), (0x0605, 1, []), (0x0606, 1, [1]), (0x0607, 1, [1]), (0x0702, 1, [1]), (0x0702, 1, []),
    (0x0703, 1, []), (0x0704, 1, []), (0x0801, 1, [1]), (0x0801, 1, []), (0x0803, 1, []), (0x0804, 1, []),
    (0x0805, 1, [0, 0, 0, 0, 0, 0, 0, 0, 0, 0, 0, 0, 1]), (0x0901, 1, []), (0x0902, 1, [])],
    Takes ready (cmd x.2.1 x.2.2) x.1 [] := by
  intro x hx
  apply takes_of
  revert x
  decide +kernel

theorem witness_CommandsAreCheckedInOrder :
    takesB ready (cmd 1 []) 0x0103 [] = true ∧ ({ cmd 1 [] with version := 2 } : Packet).version ≠ 1 ∧
    8 ≤ ({ cmd 1 [] with flags := 8 } : Packet).flags.toNat ∧ (cmd 2 []).length.toNat ≠ 1 ∧
    ((ready.served (cmd 1 [])).getPart 7).exists_ = false ∧ (0x0102 ∈ (commandsOf (cmd 1 []) []).map (·.1)) ∧
    (((ready.served (cmd 1 [])).getCr 0).partition = 0 ∧ ((ready.served (cmd 1 [])).getPart 0).exists_ = true) ∧
    opSpec 0x0108 = none := by decide +kernel

/-- A tenant's ring sends a command of partition 0 only. -/
theorem witness_CommandsOfPartitionZeroOnly :
    let s : State := { ready with
      host := { ready.host with cmd := [(0, { ready.getCr 0 with ctrl := 0x10601 })] },
      part := [(0, { Part.reset with exists_ := true }), (1, { Part.reset with exists_ := true })] }
    let c : Packet := { cmd 1 [] with partWord := 1 }
    ((s.served c).getCr c.ring.toNat).partition ≠ 0 ∧ c.part = ((s.served c).getCr c.ring.toNat).partition ∧
      ((s.served c).getPart c.part).exists_ = true ∧ ((opSpec 0x0102).any (·.p0)) = true := by decide +kernel

/-- The module at tick 100 with a long command whose deadline that is. -/
def lateWith (op : Half) : State := { busyWith ready op [] with clk := ⟨100, 0, 0, none, true⟩ }

/-- The command that COMMAND_TIMEOUT finds. -/
def overdue (s : State) : Option LongCmd :=
  s.cmds.long.find? fun c => c.pkt.ring = 0 && c.pkt.tag = 7 && decide (c.deadline ≤ s.clk.now) && !s.committed c

theorem witness_CommandsTimeOutBeforeTheirCommitPoint :
    ((lateWith 0x0301).cmds.fenced.find? fun f => f.pkt.ring = 0 && f.pkt.tag = 7) = none ∧
    ([0x0301, 0x0402, 0x0701, 0x0304].all fun op => (overdue (lateWith op)).any fun c => c.opcode = op && c.st = .accepted) = true ∧
    (busyWith ready 0x0301 []).clk.now < (longOf 0x0301 []).deadline := by decide +kernel

theorem witness_DeviceCommandsTakeEffect :
    (∀ p ∈ (ready.served (cmd 1 [])).part, p.2.pipe.beyondLoaded = false) ∧
    (((piped .bound).served (cmd 1 [])).part.find? fun p => p.2.pipe.beyondLoaded).isSome = true ∧
    takesB ready (cmd 1 [1, 3, 16, 0]) 0x0104 (defaultFaults (cmd 1 [1, 3, 16, 0])) = false ∧
    takesB ready (cmd 1 [4, 3, 16, 0]) 0x0104 (defaultFaults (cmd 1 [4, 3, 16, 0])) = true ∧
    (∀ p ∈ ready.part, p.2.pipe = .none) ∧ (ready.host.dev ≠ 2 ∧ ready.fullFor 0 = none ∧ ready.pwr.deepIdle = false) ∧
    ((busyWith ready 0x0106 []).cmds.long.find? fun c => c.opcode = 0x0106 && c.st = .accepted).isSome = true ∧
    ({ ready with mem := { ready.mem with filling := true } } : State).mem.filling = true ∧
    takesB { ready with host := { ready.host with dev := 2 } } (cmd 1 []) 0x0107 [] = true := by decide +kernel

/-- Partition 1 exists too. -/
def twoParts : State := { ready with part := [(0, { Part.reset with exists_ := true }), (1, { Part.reset with exists_ := true })] }

theorem witness_PartitionCommandsTakeEffect :
    let w := cmd 2 ([1, 0, 4, 0, 0, 0, 0, 0] ++ leBytes 8 0 ++ leBytes 8 0x200000)
    (ready.getPart 63).exists_ = false ∧ takesB twoParts (cmd 1 [1]) 0x0201 [] = true ∧ (twoParts.getPart 1).exists_ = true ∧
    takesB twoParts (cmd 1 [1]) 0x0202 ((twoParts.served (cmd 1 [1])).noPart 1 16) = true ∧
    (twoParts.served (cmd 1 [1])).busy (onPipe 1) = none ∧ (twoParts.getPart 1).pipe = .none ∧
    (∀ r ∈ List.range 16, ((twoParts.served (cmd 1 [1])).getCr r).st = .disabled ∨ ((twoParts.served (cmd 1 [1])).getCr r).partition ≠ 1) ∧
    takesB twoParts w 0x0203 (windowFaults w (twoParts.served w)) = true ∧ (twoParts.getPart 1).pipe.beyondLoaded = false ∧
    takesB { twoParts with part := [(0, { Part.reset with exists_ := true }), (1, { Part.reset with exists_ := true, pipe := .bound })] } w 0x0203
      (windowFaults w (twoParts.served w)) = true ∧
    takesB ready (cmd 1 []) 0x0204 ((ready.served (cmd 1 [])).noPart 0 16) = true ∧
    smGet Window.reset (twoParts.getPart 1).windows 15 = .reset := by decide +kernel

theorem witness_PartDestroyIsTurnedAwayForARing :
    let s : State := { twoParts with host := { ready.host with
      cmd := [(0, ready.getCr 0), (3, { CmdRing.reset with ctrl := 0x10601, st := .enabled })] } }
    takesB s (cmd 1 [1]) 0x0202 ((s.served (cmd 1 [1])).noPart 1 16) = true ∧ (s.served (cmd 1 [1])).busy (onPipe 1) = none ∧
    ((List.range 16).find? fun r => ((s.served (cmd 1 [1])).getCr r).st ≠ .disabled && ((s.served (cmd 1 [1])).getCr r).partition = 1) = some 3 := by
  decide +kernel

theorem witness_PipelinesLoadAndBind :
    (∀ p ∈ [PipeSt.none, .loaded, .bound], (piped p).busy (onPipe 0) = none) ∧
    takesB (piped .none) (cmd 1 []) 0x0301 (imageFaults (cmd 1 []) ((piped .none).served (cmd 1 []))) = false ∧
    (let s : State := { windowed with clk := windowed.clk }
     let c := cmd 1 (leBytes 8 0 ++ leBytes 8 0x1000)
     takesB s c 0x0301 (imageFaults c (s.served c)) = true ∧ (s.getPart 0).pipe = .none ∧ s.fullFor 0 = none) ∧
    (takesB (piped .loaded) (cmd 1 []) 0x0302 [] = true ∧ takesB (piped .loaded) (cmd 1 []) 0x0303 [] = true) ∧
    ((busyWith ready 0x0301 []).longOf 0x0301 0 = some (longOf 0x0301 []) ∧
      (busyWith (piped .loaded) 0x0303 []).longOf 0x0303 0 = some (longOf 0x0303 [])) := by decide +kernel

theorem witness_LoadCompletesWithABadImage :
    (match (busyWith windowed 0x0301 []).readImage 0 0x1000 with
     | (.bad _, _) => true
     | _ => false) = true := by decide +kernel

theorem witness_ADrainWaitsForItsIslands :
    let s (v : Island) : State := { busyWith (piped .draining) 0x0307 [] with
      isl := [(4, v)], part := [(0, { Part.reset with exists_ := true, pipe := .draining, stages := [⟨4, 0, false, false⟩] })] }
    (s running).islSt 4 = stRunning ∧ ((s running).getIsl 4).partition.toNat = 0 ∧ (s running).longOf 0x0307 0 = some (longOf 0x0307 []) ∧
    ((s running).getIsl 4).still = true ∧ ((s { running with inFlight := [⟨4, 0, 0, true, 0, 64, [], 0, 0, false, false, false⟩] }).getIsl 4).still = false ∧
    takesB (piped .loaded) (cmd 1 []) 0x0307 [] = true ∧ (piped .loaded).getPart 0 ≠ Part.reset ∧
    ((busyWith (piped .loaded) 0x0303 []).busy fun x => x.part.toNat = 0 && x.opcode = 0x0303).isSome = true ∧
    PipeSt.quiet .loaded = true := by decide +kernel

theorem witness_PipelinesStartPauseAndDrain :
    (∀ x ∈ [((0x0304 : Half), PipeSt.bound), (0x0306, .paused), (0x0304, .loaded)],
      let s : State := { piped x.2 with bar := [(0, { Barrier.reset with valid := true, members := [0] })],
                                        fab := { Fabric.reset with timeSeen := true, tst := .locked } }
      let c := cmd 1 []
      takesB s c x.1 (groupFaults c x.1.toNat (s.served c)) = true ∧ (s.served c).busy (onPipe 0) = none ∧
        (s.served c).timeless ((s.served c).startGroup c x.1.toNat) = false) ∧
    (let s : State := { piped .bound with bar := [(0, { Barrier.reset with valid := true, members := [0, 5] })] }
     (s.served (cmd 1 [])).timeless ((s.served (cmd 1 [])).startGroup (cmd 1 []) 0x0304) = true) ∧
    (takesB (piped .running) (cmd 1 [9]) 0x0305 [] = true ∧ (piped .running).lowestOpen 0 ≤ 9) ∧
    (takesB (piped .running) (cmd 1 []) 0x0307 [] = true ∧ (piped .running).getPart 0 ≠ Part.reset) ∧
    (takesB (piped .draining) (cmd 1 []) 0x0307 [] = true) ∧
    (takesB (piped .none) (cmd 2 [6]) 0x0309 [] = true) ∧
    ((busyWith (piped .draining) 0x0307 []).longOf 0x0307 0 = some (longOf 0x0307 []) ∧ ((piped .draining).getPart 0).stages = []) ∧
    (let s : State := { busyWith (piped .draining) 0x0307 [] with bar := [(0, { Barrier.reset with owner := 1 })] }
     (s.getBar (s.getPart 0).stepGroup.toNat).owner.toNat ≠ 0) := by decide +kernel

/-! ### Witnesses: a pipeline image in HBM -/

set_option maxRecDepth 100000 in
/-- A one-stage image: 256 bytes of header, the stage entry of island 4, the group bitmap at 320, and zeros
(one empty bundle, unused descriptors, registers 0). -/
def image : List Byte :=
  [1, 0, 1, 0, 0, 0, 0, 0, 5, 0, 0, 0, 0, 0, 3, 0] ++ leBytes 4 256 ++ leBytes 4 320 ++ leBytes 4 320 ++ leBytes 4 2048 ++ List.replicate 224 0 ++
  ([4, 0, 0, 0] ++ leBytes 4 384 ++ leBytes 4 1 ++ leBytes 4 384 ++ leBytes 4 384 ++ leBytes 4 384 ++ List.replicate 40 0) ++
  [8] ++ List.replicate 1727 0

/-- `windowed` with partition 0's pipeline in a state, the image at address 0x1000, and the group of its step. -/
def imaged (p : PipeSt) : State :=
  { windowed with
    mem := { windowed.mem with hbm := memWrite [] 0x1000 image },
    part := [(0, { windowed.getPart 0 with pipe := p, image := 0x1000 })],
    bar := [(3, { Barrier.reset with valid := true, members := [0] })],
    grp := [(groupOf 4, { Group.reset with gate := .clocked })] }

/-- The image that a read finds. -/
def imageOf (r : ImgRead) : Option Image :=
  match r with
  | .ok im _ => some im
  | _ => none

theorem witness_ImagesAreReadAndBound :
    (imageOf ((busyWith (imaged .none) 0x0301 (leBytes 8 0 ++ leBytes 8 0x1000)).readImage 0 0x1000).1).isSome = true ∧
    (match imageOf ((imaged .loaded).readImage 0 0x1000).1 with
     | none => false
     | some im => im.pipeId = 5 && (im.islands.map groupOf).all (fun g => decide (((imaged .loaded).getGrp g).gate = .clocked)) &&
        ((imaged .loaded).bindFault 0 im).isNone &&
        (({ imaged .loaded with bar := [] } : State).bindFault 0 im).isSome) = true := by decide +kernel

theorem witness_ABindWaitsForItsGroups :
    (match parseImage image 0 (fun _ => true) with
     | .ok im => (({ imaged .loaded with grp := [] } : State).bindFault 0 im).isNone && decide (groupOf 4 ∈ im.islands.map groupOf) &&
        decide ((({ imaged .loaded with grp := [] } : State).getGrp (groupOf 4)).gate ≠ .clocked)
     | _ => false) = true ∧
    (({ imaged .loaded with pwr := { windowed.pwr with deepIdle := true } } : State).frameHeld = true) ∧
    (match (({ imaged .loaded with mem := { (imaged .loaded).mem with lineErr := [(0x1000, some .poison)] } } : State).readImage 0 0x1000).1 with
     | .memory _ => true
     | _ => false) = true := by decide +kernel

/-! ### Witnesses: fabric and snapshot commands -/

/-- Parameter bytes with one little-endian field of n bytes at each offset given; bytes between are 0. -/
def params (fields : List (Nat × Nat × Nat)) : List Byte :=
  (List.range 48).map fun i => match fields.find? fun f => f.1 ≤ 16 + i ∧ 16 + i < f.1 + f.2.1 with
    | some f => BitVec.ofNat 8 (f.2.2 / 256 ^ (16 + i - f.1))
    | none => 0

/-- `windowed` with both table versions in a state. -/
def versions (v : VerSt) : State :=
  { windowed with fab := { Fabric.reset with ver0 := .active, ver1 := v }, bar := [(3, group [])] }

theorem witness_TablesAreWrittenCommittedAndFlipped :
    (let s := versions .writable
     let w := cmd 2 (params [(16, 1, 1), (24, 8, 0x1000), (32, 4, 8)])
     let f := cmd 1 (params [(16, 1, 1), (18, 2, 0x8009)])
     (s.served w).verBusy (verOf w) = none ∧ (s.served w).ver (verOf w) = .writable ∧ takesB s w 0x0401 (tableFaults w (s.served w)) = true ∧
     ((s.served w).sharedRead 0x1000 8).2.1 = false ∧ takesB s f 0x0404 [] = true ∧ takesB s (cmd 1 [1]) 0x0402 [] = true ∧
     (s.served w).fullFor 0 = none) ∧
    (let s := versions .ready
     let w := cmd 2 (params [(16, 1, 1), (24, 8, 0x1000), (32, 4, 8)])
     let a := cmd 1 (params [(16, 1, 3)])
     ((s.served w).ver (verOf w) ≠ .writable ∧ takesB s w 0x0401 (tableFaults w (s.served w)) = true) ∧
     (takesB s a 0x0403 (noGroup a (s.served a)) = true ∧ (s.served a).verBusy (s.served a).spare = none ∧
       (s.served a).ver (s.served a).spare = .ready ∧ (s.served a).fab.retire ≤ (s.served a).now) ∧
     ((versions .writable).served a).ver ((versions .writable).served a).spare ≠ .ready) ∧
    takesB (versions .ready) (cmd 1 []) 0x0405 [] = true ∧
    (let s := busyWith (versions .writable) 0x0402 [1]
     let a := cmd 1 (params [(16, 1, 3)])
     (s.served (cmd 1 [1])).verBusy (verOf (cmd 1 [1])) = some 0x0402 ∧ (s.served a).verBusy (s.served a).spare = some 0x0402 ∧
       takesB s a 0x0403 (noGroup a (s.served a)) = true) := by decide +kernel

theorem witness_ATableVersionIsCommitted :
    let s : State := busyWith (versions .writable) 0x0402 [1]
    (s.cmds.long.find? fun c => c.opcode = 0x0402 && verOf c.pkt = 1).isSome = true ∧ s.commitFault (s.tab 1) = none ∧
    (let t : State := { s with fab := { s.fab with tab1 := { Table.reset with fence := [(1, 2)], csrc := [(6, 9), (7, 0x80)] } } }
     (t.commitFault (t.tab 1)).isSome = true) := by decide +kernel

theorem witness_FabricSettingsAndGroupsAreConfigured :
    (let x := cmd 1 (params [(16, 1, 3), (17, 1, 1)])
     takesB ready x 0x0406 [] = true ∧ x.at_ 17 1 / 4 % 2 = 0) ∧
    (let x := cmd 1 (params [(16, 1, 3), (17, 1, 4)])
     let s : State := { ready with port := [(3, { Port.reset with st := .narrowing })] }
     takesB ready x 0x0406 [] = true ∧ x.at_ 17 1 / 4 % 2 = 1 ∧ ((ready.served x).getPort 3).st ≠ .narrowing ∧
       takesB s x 0x0406 [] = true ∧ ((s.served x).getPort 3).st = .narrowing) ∧
    (let x := cmd 1 (params [(16, 1, 1)])
     let mine := holderId featAttach 0
     takesB ready x 0x0407 [] = true ∧ (ready.served x).holder rankAux = 0 ∧
       ((ready.setClaim rankAux mine).served x).holder rankAux = mine ∧
       (((ready.setClaim rankAux (holderId featDouble 0)).served x).holder rankAux ≠ mine ∧
         ((ready.setClaim rankAux (holderId featDouble 0)).served x).holder rankAux ≠ 0)) ∧
    takesB ready (cmd 1 (params [(16, 2, 50)])) 0x0408 [] = true ∧
    (let x := cmd 1 (params [(16, 2, 5)])
     takesB ready x 0x0409 [] = true ∧ ¬ (x.at_ 18 1 % 2 = 1 ∧ x.at_ 18 1 / 2 % 4 ≠ 0) ∧ syncModeOf x = (ready.served x).ret.syncMode) ∧
    (let x := cmd 1 (params [(16, 2, 5), (18, 1, 3)])
     takesB ready x 0x0409 [(18, sBadParam, 18)] = false ∧ x.at_ 18 1 % 2 = 1 ∧ x.at_ 18 1 / 2 % 4 ≠ 0) ∧
    ((ready.setClaim rankSync 9).firstHeld [rankSync] false []).isSome = true ∧ ready.firstHeld [rankSync] false [] = none := by decide +kernel

theorem witness_BarrierGroupsAreConfiguredAndFreed :
    (let x := cmd 2 (params [(16, 1, 3), (24, 8, 0x1000)])
     let w : State := { windowed with mem := { windowed.mem with hbm := [(0x1000, 1)] } }
     let s : State := { w with bar := [(3, { Barrier.reset with valid := true, owner := 1 })],
                               part := w.part ++ [(1, { Part.reset with exists_ := true, pipe := .running, stepGroup := 3 })] }
     takesB w x 0x040A (barrierFaults x (w.served x)) = true ∧ ((w.served x).getBar 3).valid = false ∧
       ((w.served x).sharedRead 0x1000 512).2.1 = false ∧
       (takesB s x 0x040A (barrierFaults x (s.served x)) = true ∧ ((s.served x).getBar 3).valid = true ∧
         ((s.served x).getBar 3).owner ≠ 0 ∧ ((s.served x).groupUser ((s.served x).getBar 3).owner.toNat 3) = some .running)) ∧
    (let x := cmd 1 (params [(16, 1, 3)])
     let s : State := { ready with part := [(0, { Part.reset with exists_ := true }), (1, { Part.reset with exists_ := true, pipe := .running, stepGroup := 3 })] }
     takesB ready x 0x040B [] = true ∧ takesB s x 0x040B [] = true ∧
       ((s.served x).part.find? fun x => x.2.pipe.beyondLoaded && x.2.uses 3).isSome = true) := by decide +kernel

/-- The snapshot engine enabled, with partition 0's pipeline in a state and a policy without entries. -/
def noEntries : Policy := ⟨1, 0, 0, 0, 0, 0, 0, none, []⟩
def snapped (p : PipeSt) (restored : Option Word) : State :=
  { windowed with snap := { Snap.reset with enabled := true },
                  part := [(0, { windowed.getPart 0 with pipe := p, policy := some noEntries, restored := restored })] }

theorem witness_SnapshotCommandsTakeEffect :
    (let x := cmd 1 (params [(16, 1, 1)])
     (ready.served x).engineBusy = none ∧ takesB ready x 0x0501 [] = true ∧ x.at_ 16 1 % 2 = 1 ∧
       ((snapped .none none).served x).snap.enabled = true ∧ takesB (snapped .none none) x 0x0501 [] = true ∧
       (ready.served x).snap.enabled = false ∧ (ready.served x).engineHeld = none ∧
       (((ready.setClaims ready.engineRanks (holderId featAttach 0)).served x).engineHeld).isSome = true) ∧
    (let x := cmd 1 (params [(16, 2, 1), (24, 8, 0x1000)])
     let s : State := { snapped .none none with mem := { windowed.mem with hbm := [(0x1046, 1), (0x1048, 1)] } }
     let t := ((s.served x).sharedRead 0x1000 96).2.2
     takesB s x 0x0502 (if (s.served x).admits 0 0x1000 96 then [] else [(24, sBadParam, 24)]) = true ∧
       ((s.served x).sharedRead 0x1000 96).2.1 = false ∧ t.engineBusy = none ∧ t.snap.enabled = true ∧
       t.policyFault 0 ((s.served x).sharedRead 0x1000 96).1 1 = none ∧
       (t.policyFault 0 (List.replicate 96 255) 1).isSome = true) ∧
    (let x := cmd 2 (params ((18, 2, 5) :: (List.range 8).map fun k => (24 + 2 * k, 2, 10 + k)))
     let s := snapped .none none
     let q (tags : List (NodeId × Half)) : Part := { s.getPart 0 with partner := some 5, stripe := (stripeOf x).map (BitVec.ofNat 12), tags := tags }
     takesB s x 0x0503 (partnerFaults x (s.served x)) = true ∧
       ((5 :: (stripeOf x).map (BitVec.ofNat 12)).all fun n => n = s.fab.node || ([] : List (NodeId × Option Half)).any fun y => y.1 = n && y.2.isSome) = false ∧
       ((5 :: (stripeOf x).map (BitVec.ofNat 12)).all fun n => n = s.fab.node ||
         ((List.range 20).map fun k => ((BitVec.ofNat 12 k : NodeId), some (BitVec.ofNat 16 (100 + k) : Half))).any fun y => y.1 = n && y.2.isSome) = true ∧
       (({ s with snap := { s.snap with feed := 7 } } : State).firstShared (q ((List.range 20).map fun k => ((BitVec.ofNat 12 k : NodeId), (BitVec.ofNat 16 (100 + k) : Half))))) = none ∧
       (({ s with snap := { s.snap with feed := 1 } } : State).firstShared (q [(5, 1)])).isSome = true ∧ x.at_ 17 1 % 2 = 0) ∧
    (let x := cmd 1 []
     let s := snapped .running none
     takesB s x 0x0504 [] = true ∧ (s.served x).busy (onPipe 0) = none ∧ (s.served x).pwr.deepIdle = false ∧
       PipeSt.quiet .running = false ∧ PipeSt.quiet .none = true ∧ ((s.served x).getPart 0).policy ≠ none ∧
       (s.served x).lowestOpen 0 ≤ (if x.at_ 16 4 = 0 then (s.served x).lowestOpen 0 else 0) ∧ (s.served x).fullFor 0 = none) ∧
    takesB (snapped .loaded none) (cmd 1 []) 0x0505 [] = true ∧
    takesB (snapped .bound (some 4)) (cmd 1 []) 0x0506 [] = true ∧ takesB (snapped .loaded (some 4)) (cmd 1 [1]) 0x0506 [] = true ∧
    (cmd 1 [1]).at_ 16 1 ≠ 0 ∧ ({ noEntries with replica := some 5 } : Policy).replica = some 5 ∧ noEntries.replica = none ∧ takesB (snapped .bound none) (cmd 1 []) 0x0506 [] = true ∧
    takesB ready (cmd 1 []) 0x0507 [] = true := by decide +kernel

theorem witness_APolicyMayFindBadMemory :
    let x := cmd 1 (params [(16, 2, 1), (24, 8, 0x1000)])
    let s : State := { snapped .none none with mem := { windowed.mem with lineErr := [(0x1000, some .poison)] } }
    takesB s x 0x0502 (if (s.served x).admits 0 0x1000 96 then [] else [(24, sBadParam, 24)]) = true ∧
      ((s.served x).sharedRead 0x1000 96).2.1 = true := by decide +kernel

/-- A cut of partition 0 at release 4, its edge past and its copies out. -/
def cutOut : Cut := ⟨0, 4, true, true, [], 0, 9, 0, 0, true⟩

theorem witness_CutsRestoresAndChecksEnd :
    ready.snap.cut = none ∧
    (let s : State := { ready with snap := { Snap.reset with cut := some cutOut } }
     s.copying = false ∧ s.latching 0 = false ∧ cutOut.failed = [] ∧ cutOut.edge = true ∧
     ({ s with snap := { s.snap with queue := [⟨0, 0, 0, none, 0, false, false⟩] } } : State).copying = true) ∧
    (let s := busyWith (snapped .loaded none) 0x0505 []
     (s.cmds.long.find? fun c => c.opcode = 0x0505 && c.part = 0 && c.st = .accepted) = some (longOf 0x0505 []) ∧
     (longOf 0x0505 []).pkt.at_ 16 1 ≠ 2 ∧ (longOf 0x0505 [2]).pkt.at_ 16 1 = 2 ∧ ({ cutOut with failed := [1] } : Cut).failed ≠ [] ∧ (s.getPart 0).restores < 2 ∧
     2 ≤ (({ s with part := [(0, { s.getPart 0 with restores := 2 })] } : State).getPart 0).restores) ∧
    (let s := busyWith (snapped .bound none) 0x0506 [1]
     (s.cmds.long.find? fun c => c.opcode = 0x0506 && c.part = 0 && c.st = .accepted && c.pkt.at_ 16 1 = 1) = some (longOf 0x0506 [1]) ∧
     (s.getPart 0).policy = some noEntries) := by decide +kernel

/-! ### Witnesses: power, firmware, management -/

def idle_ (p : Power → Power) : State := { ready with pwr := p Power.reset }
def diag : State := { ready with cmds := { ready.cmds with diag := true } }

theorem witness_PowerDiagnosticsAndClaimCommandsTakeEffect :
    ((params [(16, 1, 1)]).take 1 = [1] ∧ (cmd 1 [1]).at_ 16 1 % 2 = 1 ∧ (∀ p ∈ (ready.served (cmd 1 [1])).part, p.2.pipe.beyondLoaded = false) ∧
      (ready.served (cmd 1 [1])).cmds.long = []) ∧
    ((piped .bound).served (cmd 1 [1])).part.find? (fun p => p.2.pipe.beyondLoaded) ≠ none ∧
    takesB (piped .bound) (cmd 1 [1]) 0x0604 [] = true ∧
    (ready.pwr.leaving = none ∧ (idle_ fun p => { p with leaving := some 0 }).clk.now < 0 + 100000 ∧
      (let s : State := { (idle_ fun p => { p with leaving := some 0, deepIdle := true }) with clk := ⟨100000, 0, 0, none, true⟩ }
       0 + 100000 ≤ s.clk.now ∧ s.cmds.long = [] ∧ s.port = [])) ∧
    (let x := cmd 2 (params [(16, 1, 3), (17, 1, 2), (24, 1, 1)])
     takesB diag x 0x0802 (fiFaults x) = true ∧ takesB ready x 0x0802 (fiFaults x) = true ∧ (diag.served x).cmds.diag = true ∧
       (ready.served x).cmds.diag = false ∧ x.at_ 24 1 / 16 % 2 = 0 ∧ x.at_ 24 1 % 4 ≠ 0) ∧
    takesB diag (cmd 1 []) 0x0803 [] = true ∧ (rankOfId 1).isSome = true := by decide +kernel

/-- The number of `HOST_CAP` below 400 that is not 0 is refused, 0 and 400 are not. -/
theorem test_HostCap_range :
    (takesB ready (cmd 1 (params [(16, 2, 400)])) 0x0602 [], takesB ready (cmd 1 []) 0x0602 [],
      takesB ready (cmd 1 (params [(16, 2, 399)])) 0x0602 [(16, sBadParam, 16)]) = (true, true, false) := by decide +kernel

/-- An activation in a phase, since tick 0. -/
def activating (p : ActPhase) (held : Bool) (calm : Option Nat) : State :=
  { ready with fw := { ready.fw with act := some ⟨p, true, 0, calm, held⟩ } }

theorem witness_FirmwareIsStagedActivatedAndHandedOff :
    (let x := cmd 1 (params [(16, 1, 1)])
     (ready.served x).slotsBusy = none ∧ takesB ready (cmd 1 []) 0x0701 (stageFaults (cmd 1 []) (ready.served x)) = true ∧ (ready.served x).fw.staged = false ∧
       (({ ready with fw := { ready.fw with staged := true } } : State).served x).fw.staged = true ∧ takesB ready x 0x0702 [] = true ∧
       x.at_ 16 1 % 2 = 1 ∧ (cmd 1 []).at_ 16 1 % 2 = 0 ∧ takesB ready (cmd 1 []) 0x0703 [] = true ∧ (ready.served x).emergency = false ∧
       ((busyWith ready 0x0701 []).served x).slotsBusy = some 0x0701 ∧ takesB (busyWith ready 0x0701 []) (cmd 1 []) 0x0703 [] = true) ∧
    (let s := busyWith ready 0x0701 [1]
     (s.cmds.long.find? fun c => c.opcode = 0x0701) = some (longOf 0x0701 [1]) ∧ (s.hbmRead 0 0).2.1 = false) ∧
    ready.fw.act = none ∧
    ((activating .calm false (some 0)).emergency = false ∧ 0 + 25000000 ≤ 25000000) ∧
    ({ ready with pwr := { Power.reset with causes := 1 } } : State).emergency = true ∧
    ((activating .hold true none).fw.act = some ⟨.hold, true, 0, none, true⟩) ∧
    ((activating (.hand 2) false none).fw.act = some ⟨.hand 2, true, 0, none, false⟩) ∧
    ({ ready.fw with trial := true, trialAt := 0 } : Firmware).raise = false ∧ ready.fw.trial = false := by decide +kernel

/-- A manifest of one component, key and signature of zeros. -/
def manifest : Memory := memWrite [] 0 [0x51, 0x4D, 0x46, 0x31, 1, 0, 0, 0, 0, 0, 1, 0, 0xA1, 0xB0, 0, 0]

/-- Whether an image verifies rests on open values only: the key's digest and the signature check. -/
theorem witness_AVerifiedImage :
    formatFault manifest = none ∧ formatFault [] = some 0 ∧ digestFault [] = none ∧
    ∀ f : Firmware, f.floor = 0 → keyFault f manifest = none →
      Config.mldsaVerify (memRead manifest 16 2592) (memRead manifest 0 (sigOff manifest)) (memRead manifest (sigOff manifest) 4627) = true →
      f.manifestFault manifest = none := by
  have h : formatFault manifest = none := by decide +kernel
  refine ⟨h, by decide +kernel, by decide +kernel, fun f h1 h2 h3 => ?_⟩
  unfold Firmware.manifestFault
  simp only [h, h2, h1, h3, Nat.not_lt_zero, if_false, Bool.not_true, Bool.false_eq_true]

/-- A module that takes measurements, under a cap. -/
def measuring (cap : Half) (mean : Nat) : State :=
  idle_ fun p => { p with hostCap := cap, window := [mean], calibrated := true, estJ := 0x4000, measJ := 0x4000 }

theorem witness_PowerManagerMeasuresChoosesAndActs :
    (let s := idle_ fun p => { p with perPart := false }
     s.pwr.causes = 0 ∧ 10 * s.pwr.scaled (s.windowEnergy 0).1 ≤ 11 * s.pwr.testCap.toNat * 4000000 ∧
       (let t : State := { s with id := { s.id with weights := [(7, 160)] } }
        11 * t.pwr.testCap.toNat * 4000000 < 10 * t.pwr.scaled (t.windowEnergy (10 ^ 12)).1)) ∧
    (let s := measuring 2200 (4000000 * 1000)
     s.emergency = false ∧ s.pwr.limit.toNat ≤ 2 ∧ s.pwr.level.toNat ≤ 2 ∧ s.pwr.fits 2 100 = true) ∧
    ({ ready with pwr := { Power.reset with causes := 4 } } : State).emergency = true ∧
    ((0 : Nat) + 2500000 ≤ 2500000 ∧ (2499999 : Nat) < 0 + 2500000) ∧
    (ready.clk.now < ({ Power.reset with railGoal := 800 } : Power).railSince + ({ Power.reset with railGoal := 800 } : Power).rampTicks) ∧
    (ready.pwr.railSince + ready.pwr.rampTicks ≤ ready.clk.now) ∧
    (Power.reset.calibrated = false ∧ (measuring 0 1).pwr.calibrated = true ∧ (measuring 0 1).pwr.estJ ≠ 0 ∧
      0x3333 * (measuring 0 1).pwr.estJ ≤ (measuring 0 1).pwr.measJ * 0x4000 ∧
      (measuring 0 1).pwr.measJ * 0x4000 < 0x5001 * (measuring 0 1).pwr.estJ) ∧
    ((List.replicate 160 (1080 : Half)).length = 160 ∧ (if 0 < 128 then (1080 : Int) else 1000) ≤ ((List.replicate 160 (1080 : Half)).getD 0 0).toInt ∧
      ((List.replicate 160 (0 : Half)).getD 0 0).toInt < (if 0 < 128 then (1040 : Int) else 970)) ∧
    (ready.clk.lit = true ∧ ready.pwr.tripped = false) ∧
    (ready.pins.latched = false ∧ (3799 : Half).toNat < 3800 ∧ 499 ≤ ({ Pins.reset with lowFor := 499 } : Pins).lowFor ∧ 4000 ≤ (4000 : Half).toNat ∧
      (5000 : Half).toNat ≤ 5000) ∧
    (({ Pins.reset with latched := true, goodFor := 2500000 } : Pins).latched = true ∧ ({ Pins.reset with latched := true } : Pins).goodFor < 2500000) := by
  decide +kernel

/-- A start at a step. -/
def starting (step : Nat) (x : Starting) : State := { State.reset with fw := { Firmware.reset with starting := some { x with step := step } } }

theorem witness_StartsRunStepByStepAndFallBack :
    (State.reset.clk.lit = true ∧ ({ State.reset with clk := ⟨5, 0, 0, none, false⟩ } : State).clk.lit = false ∧ State.reset.pins.pwrbrk = false) ∧
    (({ State.reset with clk := ⟨5, 0, 0, none, false⟩ } : State).powered = false ∧ State.reset.powered = true ∧ State.reset.fw.recovery = false ∧
      State.reset.trialOpen = false ∧
      ({ State.reset with fw := { Firmware.reset with trial := true } } : State).trialOpen = true) ∧
    (ready.serving = true ∧ (smGet [] ready.fw.restarts 6).filter (fun t => decide (ready.clk.now < t + 1500000000)) = [] ∧
      3 ≤ ((smGet [] ({ ready.fw with restarts := [(6, [0, 0, 0])] } : Firmware).restarts 6).filter
        fun t => decide (ready.clk.now < t + 1500000000)).length) ∧
    ready.fw.starting = none ∧
    (∀ n ∈ List.range 10, ((starting n ⟨.cold, false, 1, false, false, false, false⟩).fw.starting.map (·.step)) = some n) ∧
    ((starting 4 ⟨.cold, false, 1, false, false, false, false⟩).keepsHbm ⟨.cold, false, 4, false, false, false, false⟩ = false ∧
      ready.keepsHbm ⟨.warm, true, 4, false, false, false, false⟩ = true) ∧
    (State.reset.mem.filling = false ∧ ({ Mem.reset with filling := true } : Mem).filling = true) := by decide +kernel

/-- A module without power of its lighthouse, one on I3C, and one with a trip. -/
def dark : State := { State.reset with clk := ⟨0, 0, 0, none, false⟩ }
def onI3c : State := { ready with mgmt := { Mgmt.reset with i3c := true } }
def tripped (cool : Nat) : State := idle_ fun p => { p with tripped := true, tripCool := cool }

theorem witness_ManagementRequestsAreAnswered :
    dark.clk.lit = false ∧ (ready.clk.lit = true ∧ ready.mgmt.i3c = false) ∧ onI3c.mgmt.i3c = true ∧
    (State.reset.clk.lit = true ∧ State.reset.serving = false) ∧ (ready.serving = true ∧ ready.mgmt.events = []) ∧
    (ready.pwr.tripped = false ∧ ready.pins.latched = false) ∧
    ((tripped 0).pwr.tripped = true ∧ (tripped 0).pwr.tripCool < 250000000 ∧ 250000000 ≤ (tripped 250000000).pwr.tripCool ∧
      (tripped 0).pins.latched = false) := by decide +kernel

/-- A module whose firmware device is in a state, and one with an SPDM connection in a stage. -/
def updating (u : UpdSt) : State := { ready with mgmt := { Mgmt.reset with upd := u } }
def connected (st : SpdmStage) (outbox : List Byte) : State := { ready with mgmt := { Mgmt.reset with conns := [⟨9, st, [], 0, outbox, 0⟩] } }

theorem witness_UpdatesAndAttestationRunByStages :
    (ready.host.dev = 1 ∧ ready.slotsBusy = none ∧ ready.fw.recovery = false ∧ (busyWith ready 0x0701 []).slotsBusy ≠ none) ∧
    (∀ u ∈ [UpdSt.idle, .learn, .download, .apply], (updating u).mgmt.upd = u ∧ (updating u).mgmt.updBytes = 0 ∧ (updating u).clk.lit = true) ∧
    ((0 : Word).toNat = (updating .download).mgmt.updBytes ∧ ([1] : List Byte).length ≤ 1024 ∧ (0 : Word).toNat + ([1] : List Byte).length ≤ slotSize) ∧
    ((0 : Nat) + 3000000000 ≤ 3000000000) ∧ (State.reset.clk.lit = true ∧ State.reset.serving = false) ∧
    (ready.mgmt.conns.length < 4 ∧ ready.conn 9 = none ∧
      (({ ready with mgmt := { Mgmt.reset with conns := (List.range 4).map fun k => ⟨BitVec.ofNat 8 k, .version, [], 0, [], 0⟩ } } : State).conn 9 = none)) ∧
    (∀ st ∈ [SpdmStage.version, .capabilities, .negotiated], ((connected st [1]).conn 9).map (·.stage) = some st ∧ (connected st [1]).serving = true) ∧
    (∃ o : SpdmOffer, o.measSpec.getLsbD 0 = true ∧ o.baseHash.getLsbD 5 = true ∧ (0x00, 0xD087) ∈ o.extAsym) ∧ ready.host.dev ≠ 2 := by
  refine ⟨by decide +kernel, by decide +kernel, by decide +kernel, by decide, by decide +kernel, by decide +kernel, by decide +kernel,
    ⟨⟨1, 0x20, [(0, 0xD087)]⟩, by decide⟩, by decide⟩

theorem witness_EmergenciesDeferAndClear :
    (let x := cmd 1 []
     let s : State := { ready with pwr := { Power.reset with causes := 1 }, fw := { ready.fw with staged := true } }
     takesB s x 0x0702 [] = true ∧ (s.served x).emergency = true ∧ (s.served x).fw.staged = true ∧ (s.served x).slotsBusy = none ∧
       ¬ x.at_ 16 1 % 2 = 1 ∧ (s.served x).fullFor 0 = none) ∧
    (let s := idle_ fun p => { p with overCap := 250, testCap := 0, window := [10 ^ 15] }
     (11 * s.pwr.testCap.toNat * 4000000 < 10 * s.pwr.scaled (({ s with id := { s.id with weights := [(7, 160)] } } : State).windowEnergy (10 ^ 12)).1 ∧ 250 ≤ s.pwr.overCap) ∧ s.pwr.causes = 0) ∧
    (let s := idle_ fun p => { p with causes := 1 }
     s.pwr.causes.getLsbD 0 = true ∧
       ((s.pwr.scaled (s.windowEnergy 0).1 :: s.pwr.window).take 250).sum ≤ s.pwr.cap * 4000000) ∧
    (let x := cmd 1 []
     let s := idle_ fun p => { p with deepIdle := true }
     takesB s x 0x0106 [] = true ∧ (s.served x).pwr.deepIdle = true ∧ (∀ p ∈ (s.served x).part, p.2.pipe = .none)) ∧
    (((ready.setClaim (rankComp 0) 9).setClaim (rankComp 1) 9).setClaim (rankComp 2) 9 |>.setClaim (rankComp 3) 9 |>.firstHeld [] true []).isSome = true ∧
    ready.firstHeld [] true [] = none ∧ (rankOfId 0xFFFF) = none := by decide +kernel

theorem witness_MarginsAreLogged :
    let s (n : Nat) : State := { ready with pins := { Pins.reset with marginFor := n } }
    (s 24999).pins.latched = false ∧ ¬ ((3999 : Half).toNat < 3800 ∧ 499 ≤ (s 24999).pins.lowFor ∨ 5500 < (3999 : Half).toNat) ∧
      ((3999 : Half).toNat < 4000 ∨ 5000 < (3999 : Half).toNat) ∧ (s 24999).pins.marginFor = 24999 ∧ (s 0).pins.marginFor ≠ 24999 ∧
      (5501 : Half).toNat > 5500 ∧ 124 ≤ ({ Pins.reset with highFor := 124 } : Pins).highFor := by decide

/-! ### Worked values of the spec -/

/-- 02 Table 2.3: a BF16 weight group, TGE = 127, at 12 and at 8 planes. -/
def group23 : List Elem := ([0x4140, 0xC0A0, 0x3F80, 0x3E00, 0x3D4D, 0x0000, 0x8000, 0xC180, 0x3FC0, 0xBF40, 0xFFC0, 0x4000, 0x3B80, 0x3C40,
  0xC100, 0x3F00] : List Nat).map (decodeElem 1 [])

theorem table_2_3 :
    (alignRound group23 12).ge = 0x82 ∧
    (alignRound group23 12).q = [0x600, 0xD80 - 4096, 0x080, 0x010, 6, 0, 0, 0x800 - 4096, 0x0C0, 0xFA0 - 4096, 0, 0x100, 0, 2, 0xC00 - 4096, 0x040] ∧
    (alignRound group23 8).q = [0x600, 0xD80 - 4096, 0x080, 0x010, 0, 0, 0, 0x800 - 4096, 0x0C0, 0xFA0 - 4096, 0, 0x100, 0, 0, 0xC00 - 4096, 0x040] ∧
    ((alignRound group23 12).cls.getD 10 .fin, (alignRound group23 12).cls.getD 6 .fin, (alignRound group23 12).cls.getD 12 .zero) =
      (.nan, .zero, .fin) := by decide +kernel

/-- 02, realignment: an E4M3 group at 4 and 8 planes. -/
theorem example_realignment :
    let els := ([0x77, 0x38, 0xB0, 0] : List Nat).map (decodeElem 3 [])
    ((alignRound els 4).ge, (alignRound els 4).q) = (0x87, [0x400, 0, 0, 0]) ∧
    ((alignRound els 8).ge, (alignRound els 8).q) = (0x86, [0x780, 0, 0, 0]) := by decide +kernel

/-- 03 Table 3.5: the two group terms and the entry. -/
def entry35 : Entry := addTerm (addTerm ⟨.fin, false, 0⟩ (groupTerm 131712 (0x85 + 0x80) 12)) (groupTerm (-2665984) (0x85 + 0x57) 12)

theorem table_3_5 :
    groupTerm 131712 (0x85 + 0x80) 12 = 0x1014000000000 ∧ groupTerm (-2665984) (0x85 + 0x57) 12 = -0xA2C ∧
    entry35.toBits = 0x1013FFFFFF5D4 := by decide +kernel

/-- 04: that entry drained to FP32, and to BF16 in three roundings. -/
theorem example_drain :
    let x : Dyad := ⟨entry35.v, 12 - 56⟩
    let code (f rnd : Nat) (r : Word) : Nat := (drainValue x (outFmt f) rnd r).1.code (outFmt f)
    code 0 rndRne 0 = 0x4180A000 ∧ code 1 rndRne 0 = 0x4181 ∧ code 1 rndRtz 0 = 0x4180 ∧
    code 1 rndStoch 0x9FFFFFF9 = 0x4181 ∧ code 1 rndStoch 0x9FFFFFFA = 0x4180 ∧
    hwmRecord (drainValue x (outFmt 1) rndRne 0).1.hwm = 4 := by decide +kernel

/-- 04: group 1 alone, drained RAW. -/
theorem example_raw_element :
    rawElement { SlotAnchor.reset with tag := 0, anchor := 12 } (addTerm ⟨.fin, false, 0⟩ (-0xA2C)).toBits =
      [0xD4, 0xF5, 0xFF, 0xFF, 0xFF, 0xFF, 0xFF, 0xFF, 0xFF, 0xFF, 0xFF, 0x00, 0x0C, 0x00, 0x00, 0x00] := by decide +kernel

/-- 06 Table 6.8: round 0 of CBG with key 0 and element 1. -/
theorem table_6_8 :
    cbgMix ⟨1, 0, 0, 0⟩ = ⟨0x10000001, 0x80808808, 0x01010110, 0x01000110⟩ ∧
    cbgRound ⟨0, 0, 0, 0⟩ 0 ⟨1, 0, 0, 0⟩ = ⟨0xAE3779BA, 0x80808808, 0x01010110, 0x01000110⟩ ∧
    islandCounter 0x11 7 (0x87E8 >>> 2) = ⟨0x21FA, 0, 7, 0x11⟩ := by decide

/-- 07 Table 7.6. -/
theorem table_7_6 :
    (List.range 6).map (fun l => [1, 100, 200, 255].map (rampCycles l)) =
      [[6, 640, 1280, 1632], [5, 560, 1120, 1428], [4, 480, 960, 1224], [4, 400, 800, 1020], [3, 320, 640, 816], [1, 160, 320, 408]] := by decide

/-- 07: the circuit from island 47 to 161. -/
theorem example_circuit :
    let c : Circuit := ⟨47, 161, 0x55, [1, 1], 0⟩
    routePath 47 c.route = some [160, 161] ∧ routeCrossings c = 1 ∧ c.latency = 32 ∧ c.dstPort = 3 ∧
    (circuitAt ([0x2F, 0xA1, 0x55, 0x02, 0x05] ++ List.replicate 27 0) 0 0).route = [1, 1] := by decide

/-- 08: positions of channel 29 in SPREAD mode, and the counts of island 29. -/
theorem example_slots :
    slotUse true 13 29 = .island 128 ∧ slotUse true 15 29 = .refresh ∧ slotUse true 271 29 = .scrub ∧ slotUse true 287 29 = .shared ∧
    slotCount true 29 29 = 28 ∧ slotCount true 29 200 = 2 ∧ slotCount false 29 29 = 3750 := by decide

/-- 09: the descriptor of the worked example. -/
theorem example_descriptor :
    let d := Desc.parse ([0x01, 0x00, 0xFF, 0x00, 0x00, 0xF0, 0x3E, 0x00, 0, 0, 0, 0x20, 0x12, 0, 0, 0, 0, 0, 0x41, 0x07, 0, 0x10, 0, 0,
      0x7F, 0, 0, 0, 0, 0, 0, 0, 0, 0x58, 0, 0, 0] ++ List.replicate 10 0 ++ [0, 1, 0, 0, 0] ++ List.replicate 12 0)
    d.src.addr = 29 * 0xA0000000 ∧ d.dst.addr = 0x100007410000 ∧ d.cqOff = 0x3EF000 ∧ d.elem = 256 ∧
    d.walk = .strided 128 1 1 0x5800 0 0 0x100 0 0 := by decide

/-- 10: port 16 of node 0xEAB. -/
theorem example_port :
    peerNodeOf 0xEAB 16 = 0xF6B ∧ peerPortOf 16 = 18 ∧ peerNodeOf 0xF6B 18 = 0xEAB := by decide

set_option maxRecDepth 100000 in
/-- 10: one symbol struck in coded bytes 40 and 42 is corrected; four a codeword are not. -/
theorem example_line_corrupt :
    let struck (bs : List Byte) : List Byte := List.replicate 40 0 ++ bs ++ List.replicate (216 - bs.length) 0
    (flitDecode (struck [1, 0, 7])).map (fun r => (r.1.all (· = 0), r.2.length)) = some (true, 2) ∧
    flitDecode (struck (List.replicate 8 1)) = none := by decide +kernel

/-- 11: the check value of the CRC. -/
theorem example_crc : crc64 [0x31, 0x32, 0x33, 0x34, 0x35, 0x36, 0x37, 0x38, 0x39] = 0x62EC59E3F1A4F00A := by decide +kernel

/-- 13: `CR_CTRL` of the worked submission. -/
theorem example_ring :
    let q : CmdRing := { CmdRing.reset with ctrl := 0x03070801 }
    q.ctrl.getLsbD 0 = true ∧ q.slots = 256 ∧ q.partition = 7 ∧ q.cq = 3 := by decide

/-- 14: the basic-form START is admitted, a † byte without `EXPERT` is BAD_PARAM with detail 16, and the reply's bytes. -/
theorem example_start :
    let c : Packet := ⟨3, false, 1, 0, 0x1234, 7, 1, 0, List.replicate 16 0⟩
    let s : State := { ready with part := [(7, { Part.reset with exists_ := true, pipe := .bound, stepGroup := 0x21 })],
                                  bar := [(0x21, { Barrier.reset with valid := true, owner := 7 })] }
    let check (c : Packet) : Option (Half × Half) := (opSpec 0x0304).bind fun o => s.checkCmd c o []
    check { c with body := 0x21 :: List.replicate 15 0 } = some (sBadParam, 0x0010) ∧
    check { c with flags := 1, timeout := 0x1388, body := 0x21 :: List.replicate 15 0 } = none ∧ s.startGroup c 0x0304 = 0x21 ∧
    Record.bytes { tag := 0x1234, opcode := 0x0304, status := 1, detail := 0, kind := 0, ring := 3, time := 0x12A05F200, result0 := 0, result1 := 0,
                   result2 := 0 } =
      [0x34, 0x12, 0, 0, 4, 3, 1, 0, 0, 0, 0, 3, 0, 0xF2, 5, 0x2A, 1, 0, 0, 0] ++ List.replicate 12 0 := by decide +kernel

/-- 16: member 3's page 10 lies in row 12, held by member 4. -/
theorem example_stripe :
    stripeRow 3 10 = 12 ∧ stripeHolder 12 = 4 ∧ [0, 1, 2].map (stripeRow · 10) = [12, 12, 12] ∧ [5, 6, 7].map (stripeRow · 11) = [12, 12, 12] := by
  decide

/-- 18: a window over island 29's home channel admits its last line and not the next. -/
theorem example_window :
    let s : State := { ready with part := [(7, { Part.reset with exists_ := true, windows := [(0, ⟨true, true, 2, 0x1220000000, 0xA0000000⟩)] })] }
    s.admits 7 0x12BFFFFFC0 64 = true ∧ s.admits 7 0x12C0000000 64 = false := by decide

/-- 19 Table 19.9, steps 1 to 3: with channel 3 of island 29 held, the snapshot engine is refused naming its holder. -/
theorem table_19_9 :
    let s := ((((ready.setClaim (rankComp 0) (holderId featWatchdog 0)).setClaim (rankComp 1) (holderId featTelemetry 0)).setClaim rankSync
      (holderId featPulse 0)).setClaim rankAux (holderId featDouble 0)).setClaim (rankCh3 29) (holderId featPipe 7)
    rankOfId 0x011D = some (rankCh3 29) ∧ s.holder (rankCh3 29) = 0x0907 ∧ s.engineHeld = some 0x0907 ∧ ready.engineHeld = none ∧
    (s.holder (rankComp 0), s.holder (rankComp 1), s.holder rankSync, s.holder rankAux) = (0x0400, 0x0700, 0x0100, 0x0A00) := by decide +kernel

/-! ### Operands that no image can hold: each is refused as ill-formed -/

/-- Whether a command is refused. -/
def refused (i : Instr) : Bool :=
  match exec i ready with
  | .refused (.illFormed _) => true
  | _ => false

theorem smoke_ill_formed :
    ([.loop site false 0 0 0, .wait site 1 0, .delay site 0, .pass site false 0 0 0 false false 0, .anch site false 0 (.imm 5) 0,
      .loadw site 0 0 0, .drain site 0 0 0 0, .vld site 5 0 0 0 0, .vst site 7 0 0 0 0, .vkadd site 31 0,
      .vrand site 0 false 0 31 0 0] : List Instr).all (fun i => refused i && !i.wf) = true := by decide +kernel

theorem smoke_well_formed :
    ([.loop site true 0 0 0, .loop site false 1 0 0, .wait site 1 1, .delay site 1, .pass site false 1 0 0 false false 0, .anch site false 1 (.imm 5) 0,
      .loadw site 1 0 0, .drain site 1 0 0 0, .vld site 4 0 0 0 0, .vst site 0 0 0 0 0, .vkadd site 30 0,
      .vrand site 0 false 0 30 0 0, .endRun site] : List Instr).all (fun i => !refused i && i.wf) = true := by decide +kernel

/-! ### Single commands -/

/-- The state that a command answers. -/
def after (i : Instr) (s : State) : State :=
  match exec i s with
  | .next t => t
  | _ => s

/-- X2 = X1 + X1, read in the next cycle; and X0 stays 0 (05 R113, R114). -/
theorem test_alu_add : (((after (.alu site .add 2 1 1) (withIsl runX)).advance 0 1).getIsl 0).getX 2 = 4 := by decide
theorem test_alu_x0 : (((after (.alu site .add 0 1 1) (withIsl runX)).advance 0 1).getIsl 0).getX 0 = 0 := by decide

/-- A shift takes the low six bits of its amount (05 R113). -/
theorem test_alu_shift :
    (((after (.alu site .sll 2 1 3) (withIsl { runX with x := [(1, 2), (3, 65)] })).advance 0 1).getIsl 0).getX 2 = 4 := by decide

/-- A jump names the next bundle (05 R115). -/
theorem test_jmp : ((after (.jmp site 9) (withIsl running)).getIsl 0).seqPc = 9 := by decide

/-- A read of a saturating counter clears it (00 R10). -/
theorem test_read_clears : (after .trkDupsRead { ready with trk := { Tracker.reset with dups := 5 } }).trk.dups = 0 := by decide

/-- The first broadcast CCC turns the port to I3C (18 R396). -/
theorem test_first_ccc : (after .i3cBroadcastCcc ready).mgmt.i3c = true := by decide

/-- PART_CREATE of partition 5 makes it exist (14 R320). -/
theorem test_part_create : ((after (.partCreate (cmd 1 [5])) ready).getPart 5).exists_ = true := by decide +kernel

/-- A tick of an idle module counts 40 ns. -/
theorem test_idle_tick : (match step State.reset with
    | .next t => t.clk.now
    | _ => 0) = 1 := by decide +kernel

/-! ### Slot words, written out from 05 Tables 5.4 to 5.7 and 06 Table 6.1 -/

theorem test_scalar_words :
    slotInstr 0 site 0b000001_00010_00001_00011_00000001011 = some (.alu site .slt 2 1 3) ∧
    slotInstr 0 site 0b000010_11111_00000_1111111111111111 = some (.addi site 31 0 0xFFFF) ∧
    slotInstr 0 site 0b000011_00001_00010_0000000000000111 = some (.lih site 1 2 7) ∧
    slotInstr 0 site 0b000110_1001_0_00010_00011_1_0000000000 = some (.hmax site 9 2 3 true) ∧
    slotInstr 0 site 0b000111_0101_000000_0000010000000001 = some (.hset site 5 0x401) ∧
    slotInstr 0 site 0b001000_1_0000_00010_0000000000000011 = some (.stepOp site true 2 3) ∧
    slotInstr 0 site 0 = none := by decide

theorem test_branch_words :
    slotInstr 1 site 0b000001_0_000000000011_0000000001111 = some (.loop site false 3 0 15) ∧
    slotInstr 1 site 0b000001_1_0000000_00101_0000000001111 = some (.loop site true 0 5 15) ∧
    slotInstr 1 site 0b000011_101_00001_00010_0000000000100 = some (.bcc site .geu 1 2 4) ∧
    slotInstr 1 site 0b000100_00011_0000000000000010_00000 = some (.wait site 3 2) ∧
    slotInstr 1 site 0b000101_10000001_00100_0000000000000 = some (.barrive site 129 4) ∧
    slotInstr 1 site 0b000111_00000000000000000000000000 = some (.endRun site) := by decide

theorem test_array_words :
    slotInstr 2 site 0b000001_10000001_0011_00101_1_0_0000111 = some (.pass site false 129 3 5 true false 7) ∧
    slotInstr 3 site 0b000010_101_0000001_0000011_1_00100_000 = some (.seed site true 5 1 3 true 4) ∧
    slotInstr 2 site 0b000011_00000001_1_00110_00_0000000101 = some (.anch site false 1 (.imm 5) 6) ∧
    slotInstr 3 site 0b000011_00000001_0_00110_0001_0010_1111 = some (.anch site true 1 (.hwm 1 2 15) 6) ∧
    slotInstr 4 site 0b000001_00000001_00010_00011_00000000 = some (.loadw site 1 2 3) ∧
    slotInstr 5 site 0b000001_00000001_0010_0000011_00100_00 = some (.drain site 1 2 3 4) ∧
    slotInstr 7 site 0b000001_10_00011_00100_00000000000000 = some (.dstart site 2 3 4) ∧
    slotInstr 7 site 0b000011_11_000000000000000000000000 = some (.dresume site 3) := by decide

theorem test_vector_words :
    slotInstr 6 site 0b000001_00001_00010_011_10_00000000100 = some (.vld site 3 2 1 2 4) ∧
    slotInstr 6 site 0b000011_00001_00010_00011_00100_1_00011 = some (.vopf site .fma true 1 2 3 4) ∧
    slotInstr 6 site 0b001010_00001_00010_00011_00100_10_0001 = some (.vrand site 2 true 1 2 3 4) := by decide

/-- The word of an instruction holds it again. -/
theorem test_word_round_trip :
    ([.alu site .slt 2 1 3, .hmax site 9 2 3 true, .bcc site .geu 1 2 4, .pass site false 129 3 5 true false 7, .seed site true 5 1 3 true 4,
      .anch site true 1 (.hwm 1 2 15) 6, .drain site 1 2 3 4, .vcvt site .toInt 1 2 3, .dpause site 2] : List Instr).all (fun i =>
        (slotWord i).any fun w => slotInstr w.1 site w.2 = some i) = true := by decide

set_option maxRecDepth 100000 in
/-- What a port sends decodes without a correction, its number and its packet's first block in place (10 R212, R214). -/
theorem test_sent_flit :
    (flitDecode (({ portUp with fseqOut := 9 } : Port).flitOf 1 queued.lay [])).map
      (fun r => (leNat (r.1.take 4) % 4096, field (leNat (r.1.take 4)) 26 4, r.2)) = some (9, 0, []) := by decide +kernel

end Sys2Proof.Tests
end

/-! # What every step keeps

The queue's rest and the part's identity are untouched by every operation of the model, and the lighthouse's counter and
supply by all but the end of a tick and the two supply events. One lemma per operation says so, in the order of the model's
files; the commands' lemmas follow from those of the operations they are made of. -/

namespace Sys2Proof.Machine

/-- What a step may not change: the queue behind its command, and what is fused into the part; with them the lighthouse's
count and supply, which only the end of a tick and the two supply events move. -/
def State.kept (s : State) : List Instr × Ident × Nat × Bool := (s.pending, s.id, s.clk.now, s.clk.lit)

theorem kept_eq_iff {s t : State} : t.kept = s.kept ↔
    t.pending = s.pending ∧ t.id = s.id ∧ t.clk.now = s.clk.now ∧ t.clk.lit = s.clk.lit := by
  simp only [State.kept, Prod.mk.injEq]

@[simp] theorem State.kept_mk (a0 a1 a2 a3 a4 a5 a6 a7 a8 a9 a10 a11 a12 a13 a14 a15 a16 a17 a18 a19 a20 a21 a22 a23 a24 a25) :
    (State.mk a0 a1 a2 a3 a4 a5 a6 a7 a8 a9 a10 a11 a12 a13 a14 a15 a16 a17 a18 a19 a20 a21 a22 a23 a24 a25).kept =
      (a0, a2, a1.now, a1.lit) := by simp only [State.kept]
@[simp] theorem State.fold_kept (s : State) : (s.pending, s.id, s.clk.now, s.clk.lit) = s.kept := by simp only [State.kept]
@[simp] theorem State.kept_ite (c : Prop) [Decidable c] (a b : State) :
   (if c then a else b).kept = if c then a.kept else b.kept := by split <;> rfl

section
variable (s : State)

/-! The updates of the state: from the laws of its fields and not by `rfl`, so that `simp` may use them in the side conditions
of the lemmas about continuations. -/

@[simp] theorem State.setIsl_kept (i v) : (s.setIsl i v).kept = s.kept := by
  simp only [State.kept, State.setIsl_pending, State.setIsl_id, State.setIsl_clk]
@[simp] theorem State.modIsl_kept (i f) : (s.modIsl i f).kept = s.kept := by
  simp only [State.kept, State.modIsl_pending, State.modIsl_id, State.modIsl_clk]
@[simp] theorem State.setPart_kept (i v) : (s.setPart i v).kept = s.kept := by
  simp only [State.kept, State.setPart_pending, State.setPart_id, State.setPart_clk]
@[simp] theorem State.modPart_kept (i f) : (s.modPart i f).kept = s.kept := by
  simp only [State.kept, State.modPart_pending, State.modPart_id, State.modPart_clk]
@[simp] theorem State.setPort_kept (i v) : (s.setPort i v).kept = s.kept := by
  simp only [State.kept, State.setPort_pending, State.setPort_id, State.setPort_clk]
@[simp] theorem State.modPort_kept (i f) : (s.modPort i f).kept = s.kept := by
  simp only [State.kept, State.modPort_pending, State.modPort_id, State.modPort_clk]
@[simp] theorem State.setBar_kept (i v) : (s.setBar i v).kept = s.kept := by
  simp only [State.kept, State.setBar_pending, State.setBar_id, State.setBar_clk]
@[simp] theorem State.modBar_kept (i f) : (s.modBar i f).kept = s.kept := by
  simp only [State.kept, State.modBar_pending, State.modBar_id, State.modBar_clk]
@[simp] theorem State.setGrp_kept (i v) : (s.setGrp i v).kept = s.kept := by
  simp only [State.kept, State.setGrp_pending, State.setGrp_id, State.setGrp_clk]
@[simp] theorem State.modMem_kept (f) : (s.modMem f).kept = s.kept := by
  simp only [State.kept, State.modMem_pending, State.modMem_id, State.modMem_clk]
@[simp] theorem State.modHost_kept (f) : (s.modHost f).kept = s.kept := by
  simp only [State.kept, State.modHost_pending, State.modHost_id, State.modHost_clk]
@[simp] theorem State.modTrk_kept (f) : (s.modTrk f).kept = s.kept := by
  simp only [State.kept, State.modTrk_pending, State.modTrk_id, State.modTrk_clk]
@[simp] theorem State.modFab_kept (f) : (s.modFab f).kept = s.kept := by
  simp only [State.kept, State.modFab_pending, State.modFab_id, State.modFab_clk]
@[simp] theorem State.modSnap_kept (f) : (s.modSnap f).kept = s.kept := by
  simp only [State.kept, State.modSnap_pending, State.modSnap_id, State.modSnap_clk]
@[simp] theorem State.modPwr_kept (f) : (s.modPwr f).kept = s.kept := by
  simp only [State.kept, State.modPwr_pending, State.modPwr_id, State.modPwr_clk]
@[simp] theorem State.modFw_kept (f) : (s.modFw f).kept = s.kept := by
  simp only [State.kept, State.modFw_pending, State.modFw_id, State.modFw_clk]
@[simp] theorem State.modMgmt_kept (f) : (s.modMgmt f).kept = s.kept := by
  simp only [State.kept, State.modMgmt_pending, State.modMgmt_id, State.modMgmt_clk]
@[simp] theorem State.modPins_kept (f) : (s.modPins f).kept = s.kept := by
  simp only [State.kept, State.modPins_pending, State.modPins_id, State.modPins_clk]
@[simp] theorem State.setCr_kept (r v) : (s.setCr r v).kept = s.kept := by
  simp only [State.kept, State.setCr_pending, State.setCr_id, State.setCr_clk]
@[simp] theorem State.setQr_kept (r v) : (s.setQr r v).kept = s.kept := by
  simp only [State.kept, State.setQr_pending, State.setQr_id, State.setQr_clk]
@[simp] theorem State.emit_kept (x) : (s.emit x).kept = s.kept := by
  simp only [State.kept, State.emit_pending, State.emit_id, State.emit_clk]
@[simp] theorem State.out_kept (x) : (s.out x).kept = s.kept := by
  simp only [State.kept, State.out_pending, State.out_id, State.out_clk]
end

@[simp] theorem foldl_kept {α : Type*} (f : State → α → State) (h : ∀ u a, (f u a).kept = u.kept) (l : List α) (s : State) :
    (l.foldl f s).kept = s.kept := by
  induction l generalizing s with
  | nil => rfl
  | cons a l ih => rw [List.foldl_cons, ih, h]

@[simp] theorem foldl_fst_kept {α β : Type*} (f : State × β → α → State × β) (h : ∀ r a, (f r a).1.kept = r.1.kept)
    (l : List α) (r : State × β) : (l.foldl f r).1.kept = r.1.kept := by
  induction l generalizing r with
  | nil => rfl
  | cons a l ih => rw [List.foldl_cons, ih, h]

@[simp] theorem foldl_snd_snd_kept {α β γ : Type*} (f : β × γ × State → α → β × γ × State) 
    (h : ∀ r a, (f r a).2.2.kept = r.2.2.kept) (l : List α) (r : β × γ × State) : (l.foldl f r).2.2.kept = r.2.2.kept := by
  induction l generalizing r with
  | nil => rfl
  | cons a l ih => rw [List.foldl_cons, ih, h]

/-- Every next state that a command answers keeps what s is given. -/
def Keeps (o : Out) (s : State) : Prop := ∀ t, o = .next t → t.kept = s.kept
@[simp] theorem keeps_next (t s : State) : Keeps (.next t) s ↔ t.kept = s.kept := by simp [Keeps]
@[simp] theorem keeps_refused (r s) : Keeps (.refused r) s := by simp [Keeps]

@[simp] theorem keeps_ite (c : Prop) [Decidable c] (a b : Out) (s : State) :
    Keeps (if c then a else b) s ↔ if c then Keeps a s else Keeps b s := by split <;> rfl

/-- What the body of a host command answers keeps it: the state replied with, and what is done after the reply. -/
def Run.Keeps (r : Run) (s : State) : Prop :=
  match r with
  | .reply _ t => t.kept = s.kept
  | .first _ t f => t.kept = s.kept ∧ ∀ u, (f u).kept = u.kept
  | .long _ _ f => ∀ u, (f u).kept = u.kept
@[simp] theorem Run.keeps_reply (r t s) : (Run.reply r t).Keeps s ↔ t.kept = s.kept := Iff.rfl
@[simp] theorem Run.keeps_first (r t f s) : (Run.first r t f).Keeps s ↔ t.kept = s.kept ∧ ∀ u, (f u).kept = u.kept := Iff.rfl
@[simp] theorem Run.keeps_long (r c f s) : (Run.long r c f).Keeps s ↔ ∀ u, (f u).kept = u.kept := Iff.rfl
@[simp] theorem Run.keeps_ite (c : Prop) [Decidable c] (a b : Run) (s : State) :
    (if c then a else b).Keeps s ↔ if c then a.Keeps s else b.Keeps s := by split <;> rfl

section
variable (s : State)

/-! ### Shared operations -/

@[simp] theorem State.drawBytes_kept (n) : (s.drawBytes n).2.kept = s.kept := by simp [State.drawBytes]
@[simp] theorem State.logFault_kept (k source severity detail) : (s.logFault k source severity detail).kept = s.kept := by
  simp [State.logFault]
@[simp] theorem State.raiseMsix_kept (r) : (s.raiseMsix r).kept = s.kept := by simp [State.raiseMsix]
@[simp] theorem State.wakeHost_kept : s.wakeHost.kept = s.kept := by simp [State.wakeHost]
@[simp] theorem State.putRecord_kept (ring rec) : (s.putRecord ring rec).kept = s.kept := by simp [State.putRecord]
@[simp] theorem State.post_kept (ring rec) : (s.post ring rec).kept = s.kept := by simp [State.post]
@[simp] theorem State.postHeld_kept (ring fuel) : (s.postHeld ring fuel).kept = s.kept := by
  induction fuel generalizing s with
  | zero => simp [State.postHeld]
  | succ n ih => simp only [State.postHeld]; (repeat' split) <;> simp [ih]

@[simp] theorem State.platformEvent_kept (r) : (s.platformEvent r).kept = s.kept := by simp [State.platformEvent]
@[simp] theorem State.event_kept (code status detail r0 r1 r2) : (s.event code status detail r0 r1 r2).kept = s.kept := by
  simp [State.event]
@[simp] theorem State.noteLine_kept (line) : (s.noteLine line).kept = s.kept := by
  unfold State.noteLine
  split <;> simp
@[simp] theorem State.hbmRead_kept (a n) : (s.hbmRead a n).2.2.kept = s.kept := by simp [State.hbmRead]
@[simp] theorem State.hbmWriteLine_kept (a bs) : (s.hbmWriteLine a bs).1.kept = s.kept := by simp [State.hbmWriteLine]
@[simp] theorem State.hbmWriteFrom_kept (fuel a bs bad) : (s.hbmWriteFrom fuel a bs bad).1.kept = s.kept := by
  induction fuel generalizing s a bs bad with
  | zero => simp [State.hbmWriteFrom]
  | succ n ih => cases bs <;> simp [State.hbmWriteFrom, ih]

@[simp] theorem State.hbmWrite_kept (a bs) : (s.hbmWrite a bs).1.kept = s.kept := by simp [State.hbmWrite]
@[simp] theorem State.backInv_kept (line) : (s.backInv line).kept = s.kept := by simp [State.backInv]
@[simp] theorem State.backInvAll_kept (ls) : (s.backInvAll ls).kept = s.kept := by simp [State.backInvAll]
@[simp] theorem State.sharedWrite_kept (a bs) : (s.sharedWrite a bs).1.kept = s.kept := by simp [State.sharedWrite]
@[simp] theorem State.toHost_kept (a bs) : (s.toHost a bs).kept = s.kept := by simp [State.toHost]

/-! ### Reads of the scratchpad -/

@[simp] theorem State.noteSp_kept (i off n) : (s.noteSp i off n).kept = s.kept := by simp [State.noteSp]
@[simp] theorem State.noteUe_kept (i) : (s.noteUe i).kept = s.kept := by simp [State.noteUe]

/-! ### Islands: faults, events, bundles -/

@[simp] theorem State.recordOn_kept (cq p opcode kind status detail r0 r1 r2) :
    (s.recordOn cq p opcode kind status detail r0 r1 r2).kept = s.kept := by
  simp [State.recordOn]
@[simp] theorem State.record_kept (p opcode kind status detail r0 r1 r2) :
    (s.record p opcode kind status detail r0 r1 r2).kept = s.kept := by
  simp [State.record]
@[simp] theorem State.complete_kept (c status detail r0 r1 r2) : (s.complete c status detail r0 r1 r2).kept = s.kept := by
  simp [State.complete]
@[simp] theorem State.completeAll_kept (p status detail) : (s.completeAll p status detail).kept = s.kept := by simp [State.completeAll]
@[simp] theorem State.pipeFault_kept (p) : (s.pipeFault p).kept = s.kept := by simp [State.pipeFault]
@[simp] theorem State.islandFault_kept (i f) : (s.islandFault i f).kept = s.kept := by simp [State.islandFault]
@[simp] theorem State.freePlace_kept : s.freePlace.2.kept = s.kept := by simp [State.freePlace]
@[simp] theorem State.looseFaultAt_kept (i code detail cycle) : (s.looseFaultAt i code detail cycle).kept = s.kept := by
  simp [State.looseFaultAt]
@[simp] theorem State.looseFault_kept (i code detail) : (s.looseFault i code detail).kept = s.kept := by simp [State.looseFault]
@[simp] theorem State.semIncAt_kept (i sem cycle) : (s.semIncAt i sem cycle).kept = s.kept := by simp [State.semIncAt]
@[simp] theorem State.semInc_kept (i sem) : (s.semInc i sem).kept = s.kept := by simp [State.semInc]
@[simp] theorem State.opFault_kept (i op code array detail cycle) : (s.opFault i op code array detail cycle).kept = s.kept := by
  simp [State.opFault]
@[simp] theorem State.evRow_kept (i op cycle o m) : (s.evRow i op cycle o m).kept = s.kept := by
  simp only [State.evRow]
  (repeat' split) <;> simp
@[simp] theorem State.evEnter_kept (i op cycle o m rows) : (s.evEnter i op cycle o m rows).kept = s.kept := by simp [State.evEnter]
@[simp] theorem State.evInject_kept (i op o) : (s.evInject i op o).kept = s.kept := by simp [State.evInject]
@[simp] theorem State.evFootIn_kept (i op cycle o m a cols parity) : (s.evFootIn i op cycle o m a cols parity).kept = s.kept := by
  simp only [State.evFootIn]
  split <;> simp
@[simp] theorem State.evFoot_kept (i o m a cols parity) : (s.evFoot i o m a cols parity).kept = s.kept := by simp [State.evFoot]
@[simp] theorem State.evFootBad_kept (i op cycle o a c m cols parity) : (s.evFootBad i op cycle o a c m cols parity).kept = s.kept := by
  simp [State.evFootBad]
@[simp] theorem State.evSeedRead_kept (i op cycle o m) : (s.evSeedRead i op cycle o m).kept = s.kept := by simp [State.evSeedRead]
@[simp] theorem State.evSeedRow_kept (i op cycle o m bytes bad) : (s.evSeedRow i op cycle o m bytes bad).kept = s.kept := by
  unfold State.evSeedRow
  (repeat' split) <;> simp
@[simp] theorem State.evLoadBlock_kept (i op cycle o b scales) : (s.evLoadBlock i op cycle o b scales).kept = s.kept := by
  simp [State.evLoadBlock]
@[simp] theorem State.evLoadPlane_kept (i op cycle o b j cells) : (s.evLoadPlane i op cycle o b j cells).kept = s.kept := by
  simp [State.evLoadPlane]
@[simp] theorem State.evDrainRow_kept (i op cycle o m) : (s.evDrainRow i op cycle o m).kept = s.kept := by
  simp only [State.evDrainRow]
  split <;> simp
@[simp] theorem State.evDrainWrite_kept (i op cycle ws beats) : (s.evDrainWrite i op cycle ws beats).kept = s.kept := by
  simp only [State.evDrainWrite]
  split <;> simp
@[simp] theorem State.evDrainEnd_kept (i cycle o) : (s.evDrainEnd i cycle o).kept = s.kept := by simp [State.evDrainEnd]
@[simp] theorem State.ofPass_kept (op) (f : PassOp → State) (h : ∀ o, (f o).kept = s.kept) : (s.ofPass op f).kept = s.kept := by
  unfold State.ofPass
  (repeat' split) <;> simp [h]
@[simp] theorem State.ofSeed_kept (op) (f : SeedOp → State) (h : ∀ o, (f o).kept = s.kept) : (s.ofSeed op f).kept = s.kept := by
  unfold State.ofSeed
  (repeat' split) <;> simp [h]
@[simp] theorem State.ofLoad_kept (op) (f : LoadOp → State) (h : ∀ o, (f o).kept = s.kept) : (s.ofLoad op f).kept = s.kept := by
  unfold State.ofLoad
  (repeat' split) <;> simp [h]
@[simp] theorem State.ofDrain_kept (op) (f : DrainOp → State) (h : ∀ o, (f o).kept = s.kept) : (s.ofDrain op f).kept = s.kept := by
  unfold State.ofDrain
  (repeat' split) <;> simp [h]
@[simp] theorem State.applyEv_kept (i e) : (s.applyEv i e).kept = s.kept := by
  simp only [State.applyEv]
  (repeat' split) <;> simp
@[simp] theorem State.runIsl_kept (i t p n) : (s.runIsl i t p n).kept = s.kept := by
  induction n generalizing s with
  | zero => simp [State.runIsl]
  | succ n ih => simp only [State.runIsl]; (repeat' split) <;> simp [ih]

@[simp] theorem State.advance_kept (i t) : (s.advance i t).kept = s.kept := by simp [State.advance]
@[simp] theorem State.runOut_kept (i) : (s.runOut i).kept = s.kept := by simp [State.runOut]
@[simp] theorem State.issue_kept (w) : (s.issue w).1.kept = s.kept := by
  simp only [State.issue]
  (repeat' split) <;> simp
@[simp] theorem State.slot_kept (w idx) (f : State → Nat → Nat → Nat → State) 
    (h : ∀ u i t k, (f u i t k).kept = u.kept) : (s.slot w idx f).kept = s.kept := by
  have e := s.issue_kept w
  unfold State.slot
  split <;> next hi => simpa [hi, h] using e

@[simp] theorem State.preciseFault_kept (i idx code array detail t) : (s.preciseFault i idx code array detail t).kept = s.kept := by
  simp [State.preciseFault]
@[simp] theorem State.access_kept (i idx t off n acc) (f : State → State) (h : ∀ u, (f u).kept = u.kept) :
    (s.access i idx t off n acc f).kept = s.kept := by
  unfold State.access
  (repeat' split) <;> simp [h]

/-! ### The scalar slot -/

@[simp] theorem State.result_kept (i op t a) : (s.result i op t a).kept = s.kept := by simp [State.result]
@[simp] theorem execAlu_keeps (w f xd xa xb) : Keeps (execAlu w f xd xa xb s) s := by simp [execAlu]
@[simp] theorem execAddi_keeps (w xd xa imm) : Keeps (execAddi w xd xa imm s) s := by simp [execAddi]
@[simp] theorem execLih_keeps (w xd h imm) : Keeps (execLih w xd h imm s) s := by simp [execLih]
@[simp] theorem execLd_keeps (w xd xa imm) : Keeps (execLd w xd xa imm s) s := by simp [execLd]
@[simp] theorem execSt_keeps (w xs xa imm) : Keeps (execSt w xs xa imm s) s := by simp [execSt]
@[simp] theorem execHmax_keeps (w hd xa xb acc) : Keeps (execHmax w hd xa xb acc s) s := by simp [execHmax]
@[simp] theorem execHset_keeps (w hd rec) : Keeps (execHset w hd rec s) s := by simp [execHset]
@[simp] theorem execStepOp_keeps (w o xa imm) : Keeps (execStepOp w o xa imm s) s := by simp [execStepOp]

/-! ### The branch slot and the waits -/

@[simp] theorem execLoop_keeps (w src count xa last) : Keeps (execLoop w src count xa last s) s := by simp [execLoop]
@[simp] theorem execJmp_keeps (w target) : Keeps (execJmp w target s) s := by simp [execJmp]
@[simp] theorem execBcc_keeps (w c xa xb target) : Keeps (execBcc w c xa xb target s) s := by simp [execBcc]
@[simp] theorem execWait_keeps (w sem count) : Keeps (execWait w sem count s) s := by simp [execWait]
@[simp] theorem State.endWait_kept (i w) : (s.endWait i w).kept = s.kept := by simp [State.endWait]
@[simp] theorem execWaitSatisfied_keeps (i) : Keeps (execWaitSatisfied i s) s := by
  simp only [execWaitSatisfied]
  split <;> simp
@[simp] theorem execWaitTimeout_keeps (i) : Keeps (execWaitTimeout i s) s := by
  simp only [execWaitTimeout]
  split <;> simp
@[simp] theorem execBarrive_keeps (w group sem) : Keeps (execBarrive w group sem s) s := by simp [execBarrive]
@[simp] theorem execDelay_keeps (w n) : Keeps (execDelay w n s) s := by simp [execDelay]
@[simp] theorem execEndRun_keeps (w) : Keeps (execEndRun w s) s := by simp [execEndRun]

/-! ### Array control, feeder and drain slots -/

@[simp] theorem State.checked_kept (i idx t c) (f : State → State) (h : ∀ u, (f u).kept = u.kept) :
    (s.checked i idx t c f).kept = s.kept := by
  unfold State.checked
  (repeat' split) <;> simp [h]
@[simp] theorem State.startPass_kept (i op t o swap) : (s.startPass i op t o swap).kept = s.kept := by simp [State.startPass]
@[simp] theorem execPass_keeps (w slotB arrays pd xk st sw slotAdd) : Keeps (execPass w slotB arrays pd xk st sw slotAdd s) s := by
  simp [execPass]
@[simp] theorem execSeed_keeps (w slotB array slotBase rowsM1 start xa) : Keeps (execSeed w slotB array slotBase rowsM1 start xa s) s := by
  simp [execSeed]
@[simp] theorem execAnch_keeps (w slotB arrays src xs) : Keeps (execAnch w slotB arrays src xs s) s := by simp [execAnch]
@[simp] theorem execLoadw_keeps (w arrays fd xa) : Keeps (execLoadw w arrays fd xa s) s := by
  unfold execLoadw
  split
  · simp
  · refine (keeps_next ..).mpr (State.slot_kept _ _ _ _ fun u i t k => State.checked_kept _ _ _ _ _ _ fun u => ?_)
    dsimp only
    (repeat' split) <;> simp

@[simp] theorem execDrain_keeps (w arrays dd slotAdd xd) : Keeps (execDrain w arrays dd slotAdd xd s) s := by
  unfold execDrain
  split
  · simp
  · exact (keeps_next ..).mpr (State.slot_kept _ _ _ _ fun u i t k => State.checked_kept _ _ _ _ _ _ fun u => State.modIsl_kept ..)

/-! ### Straits -/

@[simp] theorem execStraitBeatDepart_keeps (isl port cycle) : Keeps (execStraitBeatDepart isl port cycle s) s := by
  simp only [execStraitBeatDepart]
  split <;> simp
@[simp] theorem State.beatInto_kept (i p at_ b) : (s.beatInto i p at_ b).kept = s.kept := by simp [State.beatInto]
@[simp] theorem execStraitBeatArrive_keeps (isl port) : Keeps (execStraitBeatArrive isl port s) s := by
  unfold execStraitBeatArrive
  split <;> simp

/-! ### Packets and the switch -/

@[simp] theorem State.countDetour_kept : s.countDetour.kept = s.kept := by simp [State.countDetour]
@[simp] theorem State.countStale_kept : s.countStale.kept = s.kept := by simp [State.countStale]
@[simp] theorem State.countExpired_kept : s.countExpired.kept = s.kept := by simp [State.countExpired]
@[simp] theorem State.countFenceDrop_kept : s.countFenceDrop.kept = s.kept := by simp [State.countFenceDrop]
@[simp] theorem State.countBadHdr_kept : s.countBadHdr.kept = s.kept := by simp [State.countBadHdr]
@[simp] theorem State.countCircDrop_kept : s.countCircDrop.kept = s.kept := by simp [State.countCircDrop]
@[simp] theorem State.modFi_kept (port vc g) : (s.modFi port vc g).kept = s.kept := by simp [State.modFi]
@[simp] theorem State.judge_kept (port vc q) : (s.judge port vc q).1.kept = s.kept := by
  simp only [State.judge]
  (repeat' split) <;> simp
@[simp] theorem State.atHead_kept (port vc n) : (s.atHead port vc n).kept = s.kept := by
  induction n generalizing s with
  | zero => simp [State.atHead]
  | succ n ih =>
    simp only [State.atHead]
    split
    · rfl
    · split
      · rfl
      · next q _ _ _ =>
        have e := s.judge_kept port vc q
        split <;> next hj => simpa [hj, ih] using e

@[simp] theorem State.setQueue_kept (port vc l) : (s.setQueue port vc l).kept = s.kept := by simp [State.setQueue]
@[simp] theorem State.enqueue_kept (port p discard) : (s.enqueue port p discard).kept = s.kept := by simp [State.enqueue]
@[simp] theorem State.putBack_kept (port vc l) : (s.putBack port vc l).kept = s.kept := by simp [State.putBack]
@[simp] theorem State.releaseHeld_kept (port vc p) : (s.releaseHeld port vc p).kept = s.kept := by simp [State.releaseHeld]
@[simp] theorem State.depart_kept (port vc q) : (s.depart port vc q).kept = s.kept := by simp [State.depart]
@[simp] theorem State.switch_kept (p discard n) : (s.switch p discard n).kept = s.kept := by
  induction n generalizing s p discard with
  | zero => simp [State.switch]
  | succ n ih => simp only [State.switch]; (repeat' split) <;> simp [ih]

@[simp] theorem State.route_kept (p) : (s.route p).kept = s.kept := by simp [State.route]
@[simp] theorem State.respond_kept (p type aux arg payload) : (s.respond p type aux arg payload).kept = s.kept := by simp [State.respond]
@[simp] theorem State.ack_kept (p) : (s.ack p).kept = s.kept := by simp [State.ack]
@[simp] theorem State.nack_kept (p status detail) : (s.nack p status detail).kept = s.kept := by simp [State.nack]
@[simp] theorem State.forward_kept (port discard p) : (s.forward port discard p).kept = s.kept := by
  unfold State.forward
  (repeat' split) <;> simp
@[simp] theorem State.onCircuit_kept (k p) : (s.onCircuit k p).kept = s.kept := by simp [State.onCircuit]
@[simp] theorem State.transmit_kept (p) : (s.transmit p).kept = s.kept := by simp [State.transmit]

/-! ### The tracker -/

@[simp] theorem State.modChan_kept (i c f) : (s.modChan i c f).kept = s.kept := by simp [State.modChan]
@[simp] theorem State.sendTracked_kept (e p ch pieces owner) : (s.sendTracked e p ch pieces owner).kept = s.kept := by
  simp [State.sendTracked]
@[simp] theorem State.sendSnap_kept (i p owner item) : (s.sendSnap i p owner item).1.kept = s.kept := by
  unfold State.sendSnap
  split <;> simp
@[simp] theorem State.sendControl_kept (p owner) : (s.sendControl p owner).kept = s.kept := by
  unfold State.sendControl
  split <;> simp
@[simp] theorem State.drainWaitQ_kept (n) : (s.drainWaitQ n).kept = s.kept := by
  induction n generalizing s with
  | zero => simp [State.drainWaitQ]
  | succ n ih => simp only [State.drainWaitQ]; (repeat' split) <;> simp [ih]

@[simp] theorem State.ctrlEnd_kept (o piece p r) : (s.ctrlEnd o piece p r).kept = s.kept := by
  unfold State.ctrlEnd
  (repeat' split) <;> simp
@[simp] theorem State.endEntry_kept (e x r) : (s.endEntry e x r).kept = s.kept := by
  unfold State.endEntry
  (repeat' split) <;> simp
@[simp] theorem State.unreachable_kept (dst) : (s.unreachable dst).kept = s.kept := by simp [State.unreachable]
@[simp] theorem State.pieceSource_kept (i p) : (s.pieceSource i p).2.2.kept = s.kept := by
  unfold State.pieceSource
  split <;> simp
@[simp] theorem State.resource_kept (x : TrkEntry) : (s.resource x).2.2.kept = s.kept := by
  unfold State.resource
  (repeat' split) <;> simp

@[simp] theorem State.resend_kept (e x series tries mid) : (s.resend e x series tries mid).kept = s.kept := by simp [State.resend]
@[simp] theorem State.series2_kept (e x) : (s.series2 e x).kept = s.kept := by simp [State.series2]
@[simp] theorem State.giveUp_kept (e x) : (s.giveUp e x).kept = s.kept := by simp [State.giveUp]
@[simp] theorem State.tryAgain_kept (e x) : (s.tryAgain e x).kept = s.kept := by simp [State.tryAgain]
@[simp] theorem State.mcastSettle_kept (n m) : (s.mcastSettle n m).kept = s.kept := by simp [State.mcastSettle]
@[simp] theorem State.mcastUnicast_kept (m d series tries mid) : (s.mcastUnicast m d series tries mid).1.kept = s.kept := by
  simp [State.mcastUnicast]
@[simp] theorem State.mcastSeries_kept (m d series) : (s.mcastSeries m d series).1.kept = s.kept := by
  unfold State.mcastSeries
  split <;> simp
@[simp] theorem State.mcastTry_kept (m d) : (s.mcastTry m d).1.kept = s.kept := by
  simp only [State.mcastTry]
  split <;> simp
@[simp] theorem State.mcastTimeout_kept (n m) : (s.mcastTimeout n m).kept = s.kept := by
  simp [State.mcastTimeout]

@[simp] theorem State.mcastDetour_kept (n m node port) : (s.mcastDetour n m node port).kept = s.kept := by
  simp [State.mcastDetour]

@[simp] theorem execTrackerResendTimeout_keeps (e) : Keeps (execTrackerResendTimeout e s) s := by
  unfold execTrackerResendTimeout
  (repeat' split) <;> simp
@[simp] theorem State.late_kept : s.late.kept = s.kept := by simp [State.late]
@[simp] theorem State.mcastMark_kept (n m d r) : (s.mcastMark n m d r).kept = s.kept := by
  unfold State.mcastMark
  split <;> simp
@[simp] theorem State.crcOk_kept (p) (f : State → State) (h : ∀ u, (f u).kept = u.kept) : (s.crcOk p f).kept = s.kept := by
  simp [State.crcOk, h]
@[simp] theorem execAckReceived_keeps (p) : Keeps (execAckReceived p s) s := by
  refine (keeps_next ..).mpr (State.crcOk_kept _ _ _ fun u => ?_)
  (repeat' split) <;> simp

@[simp] theorem execNackReceived_keeps (p) : Keeps (execNackReceived p s) s := by
  refine (keeps_next ..).mpr (State.crcOk_kept _ _ _ fun u => ?_)
  (repeat' split) <;> simp

@[simp] theorem execReadRespReceived_keeps (p) : Keeps (execReadRespReceived p s) s := by
  refine (keeps_next ..).mpr (State.crcOk_kept _ _ _ fun u => ?_)
  (repeat' split) <;> simp

@[simp] theorem execDetourReceived_keeps (p) : Keeps (execDetourReceived p s) s := by
  refine (keeps_next ..).mpr (State.crcOk_kept _ _ _ fun u => ?_)
  dsimp only
  (repeat' split) <;> simp

@[simp] theorem State.settleEntries_kept : s.settleEntries.kept = s.kept := by
  unfold State.settleEntries
  dsimp only
  rw [foldl_kept, foldl_kept]
  all_goals intro u a; (repeat' split) <;> simp

@[simp] theorem State.filtered_kept (p) (f : State → State) (h : ∀ u, (f u).kept = u.kept) : (s.filtered p f).kept = s.kept := by
  unfold State.filtered
  (repeat' split) <;> simp [h]

/-! ### What a write does to the snapshot engine -/

@[simp] theorem State.copyBytes_kept (c) : (s.copyBytes c).2.2.kept = s.kept := by
  unfold State.copyBytes
  split <;> simp
@[simp] theorem State.keepPreImage_kept (t page) : (s.keepPreImage t page).kept = s.kept := by simp [State.keepPreImage]
@[simp] theorem State.touchPage_kept (page) : (s.touchPage page).kept = s.kept := by
  unfold State.touchPage
  split <;> simp
@[simp] theorem State.touch_kept (a n) : (s.touch a n).kept = s.kept := by simp [State.touch]
@[simp] theorem State.storeHbm_kept (a bs) : (s.storeHbm a bs).1.kept = s.kept := by simp [State.storeHbm]
@[simp] theorem State.snapPump_kept (n) : (s.snapPump n).kept = s.kept := by
  induction n generalizing s with
  | zero => simp [State.snapPump]
  | succ n ih => simp only [State.snapPump]; (repeat' split) <;> simp [ih]

/-! ### The memory frame -/

@[simp] theorem State.serveHbm_kept (r) : (s.serveHbm r).1.kept = s.kept := by
  unfold State.serveHbm
  split <;> simp
@[simp] theorem State.serveAt_kept (i slot) : (s.serveAt i slot).kept = s.kept := by
  simp only [State.serveAt, State.modIsl_kept]
  exact foldl_fst_kept _ (fun r a => by split <;> simp) _ _

@[simp] theorem State.serveTo_kept (bound) : (s.serveTo bound).kept = s.kept := by simp [State.serveTo]
@[simp] theorem State.hbmDone_kept (r) : (s.hbmDone r).kept = s.kept := by simp [State.hbmDone]
@[simp] theorem State.takeShared_kept (g slot) : (s.takeShared g slot).kept = s.kept := by simp [State.takeShared]
@[simp] theorem State.serveShared_kept (g slot) : (s.serveShared g slot).kept = s.kept := by
  unfold State.serveShared
  split <;> simp
@[simp] theorem State.sharedTurn_kept (g n) : (s.sharedTurn g n).kept = s.kept := by
  induction n generalizing s with
  | zero => simp [State.sharedTurn]
  | succ n ih => simp [State.sharedTurn, ih]

@[simp] theorem State.sharedTurns_kept (a n) : (s.sharedTurns a n).kept = s.kept := by simp [State.sharedTurns]
@[simp] theorem State.sharedRead_kept (a n) : (s.sharedRead a n).2.2.kept = s.kept := by simp [State.sharedRead]
@[simp] theorem State.storeShared_kept (a bs) : (s.storeShared a bs).1.kept = s.kept := by simp [State.storeShared]
@[simp] theorem execHbmSharedAccess_keeps (g) : Keeps (execHbmSharedAccess g s) s := by simp [execHbmSharedAccess]

/-! ### DMA channels -/

@[simp] theorem State.claim_kept (i bank c) : (s.claim i bank c).kept = s.kept := by simp [State.claim]
@[simp] theorem State.bankTouch_kept (i off n) : (s.bankTouch i off n).kept = s.kept := by simp [State.bankTouch]
@[simp] theorem State.semAt_kept (i sem c) : (s.semAt i sem c).kept = s.kept := by simp [State.semAt]
@[simp] theorem State.writeAt_kept (i off bs c) : (s.writeAt i off bs c).kept = s.kept := by simp [State.writeAt]
@[simp] theorem execDstart_keeps (w ch xa sem) : Keeps (execDstart w ch xa sem s) s := by simp [execDstart]
@[simp] theorem execDpause_keeps (w ch) : Keeps (execDpause w ch s) s := by simp [execDpause]
@[simp] theorem execDresume_keeps (w ch) : Keeps (execDresume w ch s) s := by simp [execDresume]
@[simp] theorem State.noRecord_kept (i ch sem c) : (s.noRecord i ch sem c).kept = s.kept := by simp [State.noRecord]
@[simp] theorem State.takeUpFails_kept (i ch sem status detail c) : (s.takeUpFails i ch sem status detail c).kept = s.kept := by
  simp [State.takeUpFails]
@[simp] theorem State.readHeader_kept (i off) : (s.readHeader i off).2.kept = s.kept := by
  simp only [State.readHeader]
  (repeat' split) <;> simp
@[simp] theorem State.takeUp_kept (i ch c) : (s.takeUp i ch c).kept = s.kept := by
  unfold State.takeUp
  split
  · rfl
  · dsimp only
    split
    · simp
    · split
      · simp
      · split <;> next h =>
          have e := congrArg (·.2.kept) h
          simp at e
          (repeat' split) <;> simp [← e]

@[simp] theorem execDmaDescriptorTakeUp_keeps (isl ch) : Keeps (execDmaDescriptorTakeUp isl ch s) s := by
  unfold execDmaDescriptorTakeUp
  split <;> simp
@[simp] theorem State.openRun_kept (i ch) : (s.openRun i ch).kept = s.kept := by
  simp only [State.openRun]
  (repeat' split) <;> simp
theorem State.bankPush_kept {j r} {t : State} (h : s.bankPush j r = some t) : t.kept = s.kept := by
  simp only [State.bankPush, Option.ite_none_left_eq_some, Option.some.injEq] at h
  simp [← h.2]

@[simp] theorem State.askPieces_kept (i ch last n) : (s.askPieces i ch last n).2.kept = s.kept := by
  induction n generalizing s last with
  | zero => simp [State.askPieces]
  | succ n ih => simp only [State.askPieces]; (repeat' split) <;> simp [ih]

theorem State.kickRead_kept {i ch c} {t : State} (h : s.kickRead i ch c = some t) : t.kept = s.kept := by
  simp only [State.kickRead] at h
  split at h
  · cases h
  · cases h; simp
  · split at h
    · obtain ⟨u, hu, rfl⟩ := Option.map_eq_some_iff.mp h
      simp [State.bankPush_kept _ hu]
    · obtain ⟨u, hu, rfl⟩ := Option.map_eq_some_iff.mp h
      simp [State.bankPush_kept _ hu]
    · cases h
    · split at h <;> cases h
      simp

theorem State.kickWrite_kept {i ch c} {t : State} (h : s.kickWrite i ch c = some t) : t.kept = s.kept := by
  simp only [State.kickWrite] at h
  split at h
  · cases h
  · split at h
    · cases h
    · split at h
      · cases h
      · replace h := (Option.ite_none_left_eq_some.mp h).2
        split at h <;> cases h
        simp
      · split at h
        · cases h
        · obtain ⟨u, hu, rfl⟩ := Option.map_eq_some_iff.mp (Option.ite_none_left_eq_some.mp h).2
          simp [State.bankPush_kept _ hu]

@[simp] theorem State.settle_kept (i ch c) : (s.settle i ch c).kept = s.kept := by
  simp only [State.settle]
  (repeat' split) <;> simp
@[simp] theorem State.kickChan_kept (i ch c n) : (s.kickChan i ch c n).kept = s.kept := by
  induction n generalizing s with
  | zero => simp [State.kickChan]
  | succ n ih =>
    simp only [State.kickChan]
    split
    · next h => rw [ih, State.kickWrite_kept _ h]
    · split
      · next h => rw [ih, State.kickRead_kept _ h]
      · simp

@[simp] theorem State.kick_kept (i c) : (s.kick i c).kept = s.kept := by simp [State.kick]
@[simp] theorem State.serveBank_kept (j r) : (s.serveBank j r).kept = s.kept := by simp [State.serveBank]
@[simp] theorem State.serveHead_kept (j bank c) : (s.serveHead j bank c).kept = s.kept := by
  unfold State.serveHead
  split <;> simp
@[simp] theorem execBankOpenCycleAccess_keeps (isl bank) : Keeps (execBankOpenCycleAccess isl bank s) s := by
  simp only [execBankOpenCycleAccess]
  split <;> simp
@[simp] theorem State.portTake_kept (i ch c) : (s.portTake i ch c).1.kept = s.kept := by
  simp only [State.portTake]
  (repeat' split) <;> simp
@[simp] theorem State.portRound_kept (i c l n) : (s.portRound i c l n).kept = s.kept := by
  induction l generalizing s n with
  | nil => simp [State.portRound]
  | cons ch l ih =>
    cases n with
    | zero => simp [State.portRound]
    | succ n => simp only [State.portRound]; (repeat' split) <;> simp [ih]

@[simp] theorem State.portCycle_kept (i c) : (s.portCycle i c).kept = s.kept := by simp [State.portCycle]
@[simp] theorem execMemoryPortAccept_keeps (isl) : Keeps (execMemoryPortAccept isl s) s := by simp [execMemoryPortAccept]
@[simp] theorem State.hbmLands_kept (i time) : (s.hbmLands i time).kept = s.kept := by simp [State.hbmLands]
@[simp] theorem execHbmIslandAccessComplete_keeps (isl) : Keeps (execHbmIslandAccessComplete isl s) s := by
  simp only [execHbmIslandAccessComplete]
  split <;> simp
@[simp] theorem State.writePi_kept (i ch cqOff pi sem refused c) : (s.writePi i ch cqOff pi sem refused c).kept = s.kept := by
  simp [State.writePi]
@[simp] theorem State.badHeader_kept (i ch r st c) : (s.badHeader i ch r st c).kept = s.kept := by simp [State.badHeader]
@[simp] theorem State.writeRecord_kept (i ch r c) : (s.writeRecord i ch r c).kept = s.kept := by
  unfold State.writeRecord
  dsimp only
  split <;> next h =>
    have e := congrArg (·.2.kept) h
    simp at e
    (repeat' split) <;> simp [← e]

@[simp] theorem State.completeRefused_kept (i ch r c) : (s.completeRefused i ch r c).kept = s.kept := by simp [State.completeRefused]
@[simp] theorem State.completeStep_kept (i ch c) : (s.completeStep i ch c).kept = s.kept := by
  simp only [State.completeStep]
  (repeat' split) <;> simp
@[simp] theorem execDmaCompletion_keeps (isl ch) : Keeps (execDmaCompletion isl ch s) s := by
  unfold execDmaCompletion
  split <;> simp
@[simp] theorem State.bankCycle_kept (j c n) : (s.bankCycle j c n).kept = s.kept := by
  induction n generalizing s with
  | zero => simp [State.bankCycle]
  | succ n ih => simp only [State.bankCycle]; split <;> simp [ih]

@[simp] theorem State.chanCycle_kept (i c ch) : (s.chanCycle i c ch).kept = s.kept := by simp [State.chanCycle]
@[simp] theorem State.asyncCycle_kept (i c) : (s.asyncCycle i c).kept = s.kept := by simp [State.asyncCycle]

/-! ### Captures and cuts -/

@[simp] theorem State.toPartner_kept (p off bs o) : (s.toPartner p off bs o).kept = s.kept := by
  simp only [State.toPartner]
  split <;> simp
@[simp] theorem State.cutEdge_kept (p n byCmd) : (s.cutEdge p n byCmd).kept = s.kept := by
  simp only [State.cutEdge]
  split
  · rfl
  · exact (State.toPartner_kept ..).trans (State.modSnap_kept ..)

set_option maxRecDepth 20000 in -- the equation of `latch` alone is beyond the default depth
@[simp] theorem State.latch_kept (p i n) : (s.latch p i n).kept = s.kept := by
  unfold State.latch
  extract_lets v bs inexact u
  have hu : u.kept = s.kept := by simp only [u, State.bankTouch_kept, State.setIsl_kept]
  clear_value u bs inexact
  split <;> simp only [State.modSnap_kept, hu]

@[simp] theorem State.lossRecord_kept (p m) : ∀ b t, State.lossRecord s p m = some (b, t) → t.kept = s.kept := by
  simp only [State.lossRecord]
  (repeat' split) <;> simp

/-! ### Power and clock levels -/

@[simp] theorem State.sendBar_kept (g dst payload) : (s.sendBar g dst payload).kept = s.kept := by simp [State.sendBar]
@[simp] theorem State.announce_kept (level) : (s.announce level).kept = s.kept := by simp [State.announce]
@[simp] theorem State.ramp_kept (goal) : (s.ramp goal).kept = s.kept := by simp [State.ramp]
@[simp] theorem State.decideLevel_kept (paced) : (s.decideLevel paced).kept = s.kept := by simp [State.decideLevel]
@[simp] theorem State.paceOut_kept (l) : (s.paceOut l).kept = s.kept := by simp [State.paceOut]
@[simp] theorem State.setLevel_kept (l) : (s.setLevel l).kept = s.kept := by simp [State.setLevel]
@[simp] theorem State.levelPoint_kept (paced) : (s.levelPoint paced).kept = s.kept := by simp [State.levelPoint]
@[simp] theorem execLevelChoice_keeps : Keeps (execLevelChoice s) s := by simp [execLevelChoice]
@[simp] theorem execVcoreRampReached_keeps : Keeps (execVcoreRampReached s) s := by simp [execVcoreRampReached]
@[simp] theorem execCapGraceExpiry_keeps : Keeps (execCapGraceExpiry s) s := by
  unfold execCapGraceExpiry
  split <;> simp
@[simp] theorem State.capChanged_kept (old) : (s.capChanged old).kept = s.kept := by simp [State.capChanged]
@[simp] theorem State.emergencyBegins_kept (bits) : (s.emergencyBegins bits).kept = s.kept := by simp [State.emergencyBegins]
@[simp] theorem State.emergencyClears_kept (bits) : (s.emergencyClears bits).kept = s.kept := by
  simp only [State.emergencyClears]
  split <;> simp
@[simp] theorem execPowerEstimateWindow_keeps (cores) : Keeps (execPowerEstimateWindow cores s) s := by simp [execPowerEstimateWindow]
@[simp] theorem execInputPowerSample_keeps (mA10 mV10) : Keeps (execInputPowerSample mA10 mV10 s) s := by simp [execInputPowerSample]
@[simp] theorem execGainUpdate_keeps : Keeps (execGainUpdate s) s := by simp [execGainUpdate]
@[simp] theorem execSensorSample_keeps (readings) : Keeps (execSensorSample readings s) s := by simp [execSensorSample]

/-! ### Barrier groups -/

@[simp] theorem State.recordRelease_kept (g n t last apply level) : (s.recordRelease g n t last apply level).kept = s.kept := by
  simp [State.recordRelease]
@[simp] theorem State.fixRelease_kept (g) : (s.fixRelease g).kept = s.kept := by
  simp only [State.fixRelease]
  (repeat' split) <;> simp
@[simp] theorem State.applyArrival_kept (g n a) : (s.applyArrival g n a).kept = s.kept := by simp [State.applyArrival]
@[simp] theorem State.sendArrival_kept (g a) : (s.sendArrival g a).kept = s.kept := by simp [State.sendArrival]
@[simp] theorem State.tryArrive_kept (g) : (s.tryArrive g).kept = s.kept := by
  unfold State.tryArrive
  (repeat' split) <;> simp
@[simp] theorem execBarriveArrival_keeps (isl) : Keeps (execBarriveArrival isl s) s := by
  simp only [execBarriveArrival]
  split <;> simp
@[simp] theorem State.barPacket_kept (p kind mine) (f : State → BarMsg → State) (h : ∀ u x, (f u x).kept = u.kept) :
    (s.barPacket p kind mine f).kept = s.kept := by
  simp [State.barPacket, h]
@[simp] theorem execArriveReceived_keeps (p) : Keeps (execArriveReceived p s) s := by simp [execArriveReceived]
@[simp] theorem execReleaseReceived_keeps (p) : Keeps (execReleaseReceived p s) s := by simp [execReleaseReceived]
@[simp] theorem execPaceReceived_keeps (p) : Keeps (execPaceReceived p s) s := by simp [execPaceReceived]
@[simp] theorem State.lossEdge_kept (p m) : (s.lossEdge p m).kept = s.kept := by
  unfold State.lossEdge
  split
  · rfl
  · next h =>
    have e := s.lossRecord_kept _ _ _ _ h
    dsimp only
    (repeat' split) <;> simp [e]

@[simp] theorem State.startEdge_kept (p e time) : (s.startEdge p e time).kept = s.kept := by simp [State.startEdge]
@[simp] theorem execReleaseEdge_keeps (group) : Keeps (execReleaseEdge group s) s := by
  simp only [execReleaseEdge]
  split <;> simp
@[simp] theorem State.pauseDone_kept (p) : (s.pauseDone p).kept = s.kept := by simp [State.pauseDone]
@[simp] theorem execIslandRelease_keeps (group isl) : Keeps (execIslandRelease group isl s) s := by
  refine (keeps_next ..).mpr ?_
  extract_lets g i b p
  split
  · rfl
  · split
    · rfl
    · split
      · rfl
      · extract_lets rest u1 u2 v w u3
        have h1 : u1.kept = s.kept := by simp [u1]
        have h2 : u2.kept = s.kept := by simp only [u2]; split <;> simp [h1]
        have h3 : u3.kept = s.kept := by simp only [u3]; (repeat' split) <;> simp [h1, h2]
        split <;> simp [h3]

/-! ### Sent flits -/

@[simp] theorem State.sendFlit_kept (port kind body rest) : (s.sendFlit port kind body rest).kept = s.kept := by simp [State.sendFlit]
@[simp] theorem State.nextFlit_kept (port) : (s.nextFlit port).kept = s.kept := by
  simp only [State.nextFlit]
  split <;> simp
@[simp] theorem State.tickFlits_kept (port) : (s.tickFlits port).kept = s.kept := by simp [State.tickFlits]

/-! ### Destinations, multicast, circuits, the epoch -/

@[simp] theorem State.countLines_kept (p n) : (s.countLines p n).kept = s.kept := by simp [State.countLines]
@[simp] theorem State.storeRegion_kept (part r bs) : (s.storeRegion part r bs).1.kept = s.kept := by
  unfold State.storeRegion
  split <;> simp
@[simp] theorem State.receive_kept (p refuse) (f : State → State) (h : ∀ u, (f u).kept = u.kept) :
    (s.receive p refuse f).kept = s.kept := by
  unfold State.receive
  (repeat' split) <;> simp [h]
@[simp] theorem State.acceptWrite_kept (p r) : (s.acceptWrite p r).kept = s.kept := by
  unfold State.acceptWrite
  split <;> simp
@[simp] theorem execWriteReceived_keeps (p) : Keeps (execWriteReceived p s) s := by simp [execWriteReceived]
@[simp] theorem execReadReqReceived_keeps (p) : Keeps (execReadReqReceived p s) s := by
  refine (keeps_next ..).mpr (State.crcOk_kept _ _ _ fun u => ?_)
  split
  · rfl
  · split
    · simp
    · split <;> simp

@[simp] theorem execNotifyReceived_keeps (p) : Keeps (execNotifyReceived p s) s := by
  refine (keeps_next ..).mpr (State.crcOk_kept _ _ _ fun u => State.receive_kept _ _ _ _ fun u => ?_)
  split <;> simp

@[simp] theorem State.copyTo_kept (p port) : (s.copyTo p port).kept = s.kept := by simp [State.copyTo]
@[simp] theorem State.mcastForward_kept (port p) : (s.mcastForward port p).kept = s.kept := by simp [State.mcastForward]
@[simp] theorem State.mcastDeliver_kept (p) : (s.mcastDeliver p).kept = s.kept := by
  refine State.crcOk_kept _ _ _ fun u => ?_
  dsimp only
  split
  · split <;> simp
  · simp
  · rfl

@[simp] theorem State.taken_kept (port p) : (s.taken port p).kept = s.kept := by simp [State.taken]
@[simp] theorem execMcastWriteReceived_keeps (port p) : Keeps (execMcastWriteReceived port p s) s := by simp [execMcastWriteReceived]
@[simp] theorem State.mcastOpen_kept (n p members) : (s.mcastOpen n p members).kept = s.kept := by simp [State.mcastOpen]
@[simp] theorem State.mcastSend_kept (p) : (s.mcastSend p).kept = s.kept := by
  unfold State.mcastSend
  split <;> simp
@[simp] theorem State.drainMcastQ_kept (n) : (s.drainMcastQ n).kept = s.kept := by
  induction n generalizing s with
  | zero => simp [State.drainMcastQ]
  | succ n ih => simp only [State.drainMcastQ]; split <;> simp [ih]

@[simp] theorem execPacketForward_keeps (port discard p) : Keeps (execPacketForward port discard p s) s := by simp [execPacketForward]
@[simp] theorem State.expireCircuit_kept (port) : (s.expireCircuit port).kept = s.kept := by
  simp only [State.expireCircuit]
  (repeat' split) <;> simp
@[simp] theorem execPacketQueueExpiry_keeps (port vc) : Keeps (execPacketQueueExpiry port vc s) s := by
  unfold execPacketQueueExpiry
  split <;> simp
@[simp] theorem execPacketAtQueueHead_keeps (port vc) : Keeps (execPacketAtQueueHead port vc s) s := by
  simp only [execPacketAtQueueHead]
  split <;> simp
@[simp] theorem execReorderHoldExpiry_keeps (port vc) : Keeps (execReorderHoldExpiry port vc s) s := by simp [execReorderHoldExpiry]
@[simp] theorem State.dropClaims_kept (feature) : (s.dropClaims feature).kept = s.kept := by simp [State.dropClaims]
@[simp] theorem execFiSchedulerFire_keeps : Keeps (execFiSchedulerFire s) s := by simp [execFiSchedulerFire]
@[simp] theorem State.circuitLost_kept (port p) : (s.circuitLost port p).kept = s.kept := by simp [State.circuitLost]
@[simp] theorem State.positionLost_kept (port ps) : (s.positionLost port ps).kept = s.kept := by simp [State.positionLost]
@[simp] theorem execCircuitLostReceived_keeps (p) : Keeps (execCircuitLostReceived p s) s := by simp [execCircuitLostReceived]
@[simp] theorem State.circArrive_kept (port c) : (s.circArrive port c).kept = s.kept := by
  simp only [State.circArrive]
  split <;> simp
@[simp] theorem State.circOnward_kept (ps) : (s.circOnward ps).1.kept = s.kept :=
  foldl_fst_kept _ (fun r c => by split <;> simp) _ _

@[simp] theorem execCircuitPositionReceive_keeps (port d) : Keeps (execCircuitPositionReceive port d s) s := by
  simp [execCircuitPositionReceive]
@[simp] theorem State.fillPosition_kept (port k m n) : (s.fillPosition port k m n).1.kept = s.kept := by
  induction n generalizing s m with
  | zero => simp [State.fillPosition]
  | succ n ih =>
    simp only [State.fillPosition]
    split
    · rfl
    · next q _ _ =>
      split
      · rfl
      · have e : (if q.seen then (s, some q) else s.judge port 6 q).1.kept = s.kept := by split <;> simp
        split
        · next hj => simpa [hj, ih] using e
        · next hj => rw [hj] at e; split <;> simpa [ih] using e

@[simp] theorem State.transitSegs_kept (port ps) : (s.transitSegs port ps).1.kept = s.kept := by
  refine foldl_fst_kept _ (fun r c => ?_) _ _
  dsimp only
  split
  · rfl
  · have e := r.1.judge_kept port 6 ⟨c.pkt, s.clk.now, false, false, none, none⟩
    split <;> next hj => simpa [hj] using e

@[simp] theorem State.sendPosition_kept (port pos epoch l) : (s.sendPosition port pos epoch l).kept = s.kept := by simp [State.sendPosition]
@[simp] theorem State.dispatchPosition_kept (port pos epoch l) : (s.dispatchPosition port pos epoch l).kept = s.kept := by
  simp [State.dispatchPosition]
@[simp] theorem execCircuitPositionSend_keeps (port pos) : Keeps (execCircuitPositionSend port pos s) s := by
  simp only [execCircuitPositionSend]
  (repeat' split) <;> simp
@[simp] theorem execEpochFlip_keeps : Keeps (execEpochFlip s) s := by
  unfold execEpochFlip
  split <;> simp
@[simp] theorem execEpochRetire_keeps : Keeps (execEpochRetire s) s := by simp [execEpochRetire]

/-! ### Ports -/

@[simp] theorem State.freeBlocks_kept (port vc n) : (s.freeBlocks port vc n).kept = s.kept := by simp [State.freeBlocks]
@[simp] theorem State.cutPacket_kept (port) : (s.cutPacket port).kept = s.kept := by
  simp only [State.cutPacket]
  (repeat' split) <;> simp
@[simp] theorem State.flitLost_kept (port) : (s.flitLost port).kept = s.kept := by simp [State.flitLost]
@[simp] theorem State.freeLost_kept (port first) : (s.freeLost port first).kept = s.kept := by
  simp only [State.freeLost]
  (repeat' split) <;> simp
@[simp] theorem State.takeBlock_kept (port first discard) (r : State × Bool) (ib) :
    (State.takeBlock port first discard r ib).1.kept = r.1.kept := by
  simp only [State.takeBlock]
  (repeat' split) <;> simp

@[simp] theorem State.peerNarrows_kept (port) : (s.peerNarrows port).kept = s.kept := by simp [State.peerNarrows]
@[simp] theorem State.goodFlit_kept (port flit fixed) : (s.goodFlit port flit fixed).kept = s.kept := by
  simp only [State.goodFlit]
  (repeat' split) <;> simp

@[simp] theorem execFlitReceive_keeps (port coded) : Keeps (execFlitReceive port coded s) s := by
  unfold execFlitReceive
  split <;> simp
@[simp] theorem State.widthChanged_kept (port) : (s.widthChanged port).kept = s.kept := by simp [State.widthChanged]
@[simp] theorem State.settlePort_kept (port) : (s.settlePort port).kept = s.kept := by simp [State.settlePort]
@[simp] theorem State.narrow_kept (port) : (s.narrow port).kept = s.kept := by simp [State.narrow]
@[simp] theorem State.failLanes_kept (port lanes) : (s.failLanes port lanes).kept = s.kept := by
  simp only [State.failLanes]
  (repeat' split) <;> simp
@[simp] theorem execLaneLossOfLock_keeps (port lane) : Keeps (execLaneLossOfLock port lane s) s := by simp [execLaneLossOfLock]
@[simp] theorem execLaneErrorWindow_keeps (port) : Keeps (execLaneErrorWindow port s) s := by simp [execLaneErrorWindow]
@[simp] theorem execNarrowingHandshakeEnd_keeps (port lanes) : Keeps (execNarrowingHandshakeEnd port lanes s) s := by
  simp [execNarrowingHandshakeEnd]
@[simp] theorem State.openPort_kept (port) : (s.openPort port).kept = s.kept := by simp [State.openPort]
@[simp] theorem State.exchange_kept (port) : (s.exchange port).kept = s.kept := by simp [State.exchange]
@[simp] theorem execTrainingStepDone_keeps (port info) : Keeps (execTrainingStepDone port info s) s := by simp [execTrainingStepDone]
@[simp] theorem execTrainingStepTimeout_keeps (port) : Keeps (execTrainingStepTimeout port s) s := by simp [execTrainingStepTimeout]
@[simp] theorem execTrainingRetry_keeps (port) : Keeps (execTrainingRetry port s) s := by simp [execTrainingRetry]
@[simp] theorem State.checkWiring_kept (port) : (s.checkWiring port).kept = s.kept := by simp [State.checkWiring]
@[simp] theorem execPeerExchange_keeps (port node peerPort attached doubled) :
    Keeps (execPeerExchange port node peerPort attached doubled s) s := by
  simp only [execPeerExchange]
  (repeat' split) <;> simp
@[simp] theorem State.recheckPorts_kept : s.recheckPorts.kept = s.kept := by simp [State.recheckPorts]
@[simp] theorem execMiswiredRetry_keeps (port) : Keeps (execMiswiredRetry port s) s := by simp [execMiswiredRetry]

/-! ### Claims -/

@[simp] theorem State.setClaim_kept (r h) : (s.setClaim r h).kept = s.kept := by simp [State.setClaim]
@[simp] theorem State.setClaims_kept (rs h) : (s.setClaims rs h).kept = s.kept := by simp [State.setClaims]
@[simp] theorem State.release_kept (h) : (s.release h).kept = s.kept := by simp [State.release]
@[simp] theorem State.releaseFeat_kept (feat) : (s.releaseFeat feat).kept = s.kept := by simp [State.releaseFeat]
@[simp] theorem State.takeComp_kept (h) : (s.takeComp h).kept = s.kept := by
  unfold State.takeComp
  split <;> simp
@[simp] theorem State.auxSettle_kept : s.auxSettle.kept = s.kept := by simp [State.auxSettle]
@[simp] theorem State.retainedClaims_kept : s.retainedClaims.kept = s.kept := by
  simp only [State.retainedClaims]
  split <;> simp

/-! ### Gating groups, scrub, log copies -/

@[simp] theorem State.setGroupSt_kept (g st) : (s.setGroupSt g st).kept = s.kept := by simp [State.setGroupSt]
@[simp] theorem State.wakeGroup_kept (g) : (s.wakeGroup g).kept = s.kept := by
  simp only [State.wakeGroup]
  (repeat' split) <;> simp
@[simp] theorem execGroupPowerGatingEntry_keeps (g) : Keeps (execGroupPowerGatingEntry g s) s := by simp [execGroupPowerGatingEntry]
@[simp] theorem execPowerGatingEntryDone_keeps (g) : Keeps (execPowerGatingEntryDone g s) s := by
  simp only [execPowerGatingEntryDone]
  split <;> simp
@[simp] theorem execGroupWakeComplete_keeps (g) : Keeps (execGroupWakeComplete g s) s := by
  simp only [execGroupWakeComplete]
  split <;> simp
@[simp] theorem State.takeScrub_kept (g slot) : (s.takeScrub g slot).kept = s.kept := by simp [State.takeScrub]
@[simp] theorem execPatrolScrub_keeps (g) : Keeps (execPatrolScrub g s) s := by
  simp only [execPatrolScrub]
  split <;> simp
@[simp] theorem execScrubRewrite_keeps (g) : Keeps (execScrubRewrite g s) s := by
  simp only [execScrubRewrite]
  (repeat' split) <;> simp
@[simp] theorem execRefreshSlot_keeps (_g) : Keeps (execRefreshSlot _g s) s := by simp [execRefreshSlot]
@[simp] theorem State.excPut_kept (p bs) : (s.excPut p bs).kept = s.kept := by
  unfold State.excPut
  split <;> simp
@[simp] theorem execExceptionLogCopy_keeps (i ci) : Keeps (execExceptionLogCopy i ci s) s := by simp [execExceptionLogCopy]
@[simp] theorem execFaultLogArchive_keeps : Keeps (execFaultLogArchive s) s := by simp [execFaultLogArchive]

/-! ### Images -/

@[simp] theorem State.readImage_kept (p a) : (s.readImage p a).2.kept = s.kept := by
  simp only [State.readImage]
  (repeat' split) <;> simp

/-! ### The command interpreter -/

@[simp] theorem State.refuse_keeps (t s : State) (st d) : (t.refuse st d).Keeps s ↔ t.kept = s.kept := Iff.rfl

@[simp] theorem State.wrong_keeps (t s : State) (d) : (t.wrong d).Keeps s ↔ t.kept = s.kept := Iff.rfl

@[simp] theorem State.leaveIdle_kept : s.leaveIdle.kept = s.kept := by simp [State.leaveIdle]
@[simp] theorem State.startLong_keeps (t s : State) (c op at_ plane) (f : State → State) (e : t.kept = s.kept)
    (h : ∀ u, (f u).kept = u.kept) : (t.startLong c op at_ plane f).Keeps s := by
  unfold State.startLong
  (repeat' split) <;> simp [e, h]

@[simp] theorem State.unlessBusy_keeps (t s : State) (b) (f : Unit → Run) (e : t.kept = s.kept) (h : (f ()).Keeps s) :
    (t.unlessBusy b f).Keeps s := by
  unfold State.unlessBusy
  split
  · simpa using e
  · exact h

@[simp] theorem State.breakRing_kept (r reason) : (s.breakRing r reason).kept = s.kept := by simp [State.breakRing]
@[simp] theorem State.settleRing_kept (r) : (s.settleRing r).kept = s.kept := by simp [State.settleRing]
@[simp] theorem State.settleStop_kept (r) : (s.settleStop r).kept = s.kept := by simp [State.settleStop]
@[simp] theorem State.advanceCi_kept (r n) : (s.advanceCi r n).kept = s.kept := by simp [State.advanceCi]
@[simp] theorem State.readSlots_kept (r n) : (s.readSlots r n).kept = s.kept := by simp [State.readSlots]
@[simp] theorem State.fetch_kept (p op) (start : Nat → State → State) (h : ∀ n u, (start n u).kept = u.kept) :
    (s.fetch p op start).kept = s.kept := by
  unfold State.fetch
  (repeat' split) <;> simp [h]
@[simp] theorem State.command_kept (c op extra) (body : Nat → State → Run) (h : ∀ n u, (body n u).Keeps u) :
    (s.command c op extra body).kept = s.kept := by
  unfold State.command
  split
  · rfl
  · refine State.fetch_kept _ _ _ _ fun n u => ?_
    split
    · simp
    · have e := h n u
      split <;> next hb => simp only [hb, Run.keeps_reply, Run.keeps_first, Run.keeps_long] at e; simp [e]

theorem keeps_command {s : State} {c op extra} {body : Nat → State → Run} (h : ∀ n u, (body n u).Keeps u) :
    Keeps (.next (s.command c op extra body)) s := (keeps_next ..).mpr (State.command_kept _ _ _ _ _ h)

@[simp] theorem State.simple_kept (c op) (body : State → Rep × State) (h : ∀ u, (body u).2.kept = u.kept) :
    (s.simple c op body).kept = s.kept := State.command_kept _ _ _ _ _ fun _ u => h u

theorem keeps_simple {s : State} {c op} {body : State → Rep × State} (h : ∀ u, (body u).2.kept = u.kept) :
    Keeps (.next (s.simple c op body)) s := (keeps_next ..).mpr (State.simple_kept _ _ _ _ h)

@[simp] theorem execUndefinedOpcode_keeps (opcode c) : Keeps (execUndefinedOpcode opcode c s) s := by simp [execUndefinedOpcode]
@[simp] theorem State.withdraw_kept (c) : (s.withdraw c).kept = s.kept := by simp [State.withdraw]
@[simp] theorem execCommandTimeout_keeps (ring tag) : Keeps (execCommandTimeout ring tag s) s := by
  unfold execCommandTimeout
  (repeat' split) <;> simp

/-! ### The host interface -/

@[simp] theorem State.saveSettings_kept : s.saveSettings.kept = s.kept := by simp [State.saveSettings]
@[simp] theorem State.linkWoken_kept : s.linkWoken.kept = s.kept := by simp [State.linkWoken]
@[simp] theorem State.barDiscarded_kept : s.barDiscarded.kept = s.kept := by simp [State.barDiscarded]
@[simp] theorem State.dropHeld_kept (r) : (s.dropHeld r).kept = s.kept := by simp [State.dropHeld]
@[simp] theorem State.dropRings_kept : s.dropRings.kept = s.kept := by simp [State.dropRings]
@[simp] theorem State.hostReset_kept : s.hostReset.kept = s.kept := by simp [State.hostReset]
@[simp] theorem execPerstAssert_keeps (cause) : Keeps (execPerstAssert cause s) s := by simp [execPerstAssert]
@[simp] theorem execRefclkLoss_keeps : Keeps (execRefclkLoss s) s := by simp [execRefclkLoss]
@[simp] theorem State.activateMem_kept : s.activateMem.kept = s.kept := by simp [State.activateMem]
@[simp] theorem State.memInvalid_kept : s.memInvalid.kept = s.kept := by simp [State.memInvalid]
@[simp] theorem execCxlLinkUp_keeps (l) : Keeps (execCxlLinkUp l s) s := by simp [execCxlLinkUp]
@[simp] theorem State.holdLine_kept (comp r a) : (s.holdLine comp r a).kept = s.kept := by simp [State.holdLine]
@[simp] theorem State.dropLine_kept (comp r) : (s.dropLine comp r).kept = s.kept := by simp [State.dropLine]
@[simp] theorem execCommandRingEnable_keeps (ring v) : Keeps (execCommandRingEnable ring v s) s := by simp [execCommandRingEnable]
@[simp] theorem execCommandRingDisable_keeps (ring v) : Keeps (execCommandRingDisable ring v s) s := by
  simp only [execCommandRingDisable]
  (repeat' split) <;> simp
@[simp] theorem execCompletionRingEnable_keeps (ring v) : Keeps (execCompletionRingEnable ring v s) s := by simp [execCompletionRingEnable]
@[simp] theorem execCompletionRingDisable_keeps (ring v) : Keeps (execCompletionRingDisable ring v s) s := by
  simp [execCompletionRingDisable]
@[simp] theorem State.ringsSettled_kept : s.ringsSettled.kept = s.kept := by simp [State.ringsSettled]
@[simp] theorem State.noticed_kept (poll x) : (s.noticed poll x).kept = s.kept := by simp [State.noticed]
@[simp] theorem execIndexLineInvalidation_keeps (r) : Keeps (execIndexLineInvalidation r s) s := by simp [execIndexLineInvalidation]
@[simp] theorem execIndexPoll_keeps (rs) : Keeps (execIndexPoll rs s) s := by simp [execIndexPoll]
@[simp] theorem execCompletionCoalesceTimeout_keeps (ring) : Keeps (execCompletionCoalesceTimeout ring s) s := by
  simp [execCompletionCoalesceTimeout]
@[simp] theorem State.hostRefused_kept : s.hostRefused.kept = s.kept := by simp [State.hostRefused]
@[simp] theorem State.grant_kept (line) : (s.grant line).kept = s.kept := by
  unfold State.grant
  (repeat' split) <;> simp
@[simp] theorem execCxlMemRead_keeps (hpa cacheable) : Keeps (execCxlMemRead hpa cacheable s) s := by
  simp only [execCxlMemRead]
  (repeat' split) <;> simp
@[simp] theorem execCxlMemWrite_keeps (hpa bytes poison) : Keeps (execCxlMemWrite hpa bytes poison s) s := by
  simp only [execCxlMemWrite]
  (repeat' split) <;> simp
@[simp] theorem execStCtrlWrite_keeps (v) : Keeps (execStCtrlWrite v s) s := by simp [execStCtrlWrite]
@[simp] theorem State.unmask_kept (r) : (s.unmask r).kept = s.kept := by simp [State.unmask]
@[simp] theorem State.writeMsix_kept (off v) : (s.writeMsix off v).kept = s.kept := by simp [State.writeMsix]
@[simp] theorem State.writeRing_kept (comp r k v) : (s.writeRing comp r k v).kept = s.kept := by simp [State.writeRing]
@[simp] theorem State.writeBar_kept (off v) : (s.writeBar off v).kept = s.kept := by simp [State.writeBar]

/-! ### Pins -/

@[simp] theorem execPwrbrkAssert_keeps : Keeps (execPwrbrkAssert s) s := by simp [execPwrbrkAssert]
@[simp] theorem execPwrbrkDeassert_keeps : Keeps (execPwrbrkDeassert s) s := by simp [execPwrbrkDeassert]
@[simp] theorem execPwrbrkHeldLog_keeps : Keeps (execPwrbrkHeldLog s) s := by simp [execPwrbrkHeldLog]
@[simp] theorem execPerstHeldLog_keeps : Keeps (execPerstHeldLog s) s := by simp [execPerstHeldLog]
@[simp] theorem execWakeReleaseTimeout_keeps : Keeps (execWakeReleaseTimeout s) s := by simp [execWakeReleaseTimeout]
@[simp] theorem execSmbusClockLowTimeout_keeps : Keeps (execSmbusClockLowTimeout s) s := by simp [execSmbusClockLowTimeout]

/-! ### Starts, restarts, trips -/

@[simp] theorem State.wiped_kept (warm) : (s.wiped warm).kept = s.kept := by simp [State.wiped]
@[simp] theorem State.beginStart_kept (kind keep other halt) : (s.beginStart kind keep other halt).kept = s.kept := by
  simp only [State.beginStart]
  (repeat' split) <;> simp
@[simp] theorem State.watchdogStart_kept : s.watchdogStart.kept = s.kept := by simp [State.watchdogStart]
@[simp] theorem execWatchdogExpiry_keeps (pc) : Keeps (execWatchdogExpiry pc s) s := by simp [execWatchdogExpiry]
@[simp] theorem State.recover_kept : s.recover.kept = s.kept := by simp [State.recover]
@[simp] theorem State.setStart_kept (x) : (s.setStart x).kept = s.kept := by simp [State.setStart]
@[simp] theorem State.otherSlot_kept (x) : (s.otherSlot x).kept = s.kept := by simp [State.otherSlot]
@[simp] theorem State.fillBegins_kept (x) : (s.fillBegins x).kept = s.kept := by simp [State.fillBegins]
@[simp] theorem State.goReady_kept (x) : (s.goReady x).kept = s.kept := by simp [State.goReady]
@[simp] theorem execStartStepDone_keeps (ok) : Keeps (execStartStepDone ok s) s := by
  unfold execStartStepDone
  (repeat' split) <;> simp
@[simp] theorem State.loseSnapshots_kept : s.loseSnapshots.kept = s.kept := by simp [State.loseSnapshots]
@[simp] theorem State.loseFabric_kept : s.loseFabric.kept = s.kept := by simp [State.loseFabric]
@[simp] theorem State.loseCommands_kept : s.loseCommands.kept = s.kept := by simp [State.loseCommands]
@[simp] theorem State.componentLoss_kept (c) : (s.componentLoss c).kept = s.kept := by
  unfold State.componentLoss
  split <;> simp
@[simp] theorem State.restartComponent_kept (c why) : (s.restartComponent c why).kept = s.kept := by simp [State.restartComponent]
@[simp] theorem execComponentHeartbeatMiss_keeps (c) : Keeps (execComponentHeartbeatMiss c s) s := by simp [execComponentHeartbeatMiss]
@[simp] theorem execComponentFault_keeps (c f) : Keeps (execComponentFault c f s) s := by simp [execComponentFault]
@[simp] theorem State.powerOff_kept : s.powerOff.kept = s.kept := by simp [State.powerOff]
@[simp] theorem execThermalTrip_keeps (sensor) : Keeps (execThermalTrip sensor s) s := by simp [execThermalTrip]
@[simp] theorem State.coldStart_kept : s.coldStart.kept = s.kept := by simp [State.coldStart]
@[simp] theorem State.clearTrip_kept : s.clearTrip.1.kept = s.kept := by
  unfold State.clearTrip
  (repeat' split) <;> simp
@[simp] theorem execInputVoltageSample_keeps (mV10) : Keeps (execInputVoltageSample mV10 s) s := by simp [execInputVoltageSample]
@[simp] theorem execInputFaultClear_keeps : Keeps (execInputFaultClear s) s := by simp [execInputFaultClear]
@[simp] theorem execStackSupplyFault_keeps (_stack) : Keeps (execStackSupplyFault _stack s) s := by simp [execStackSupplyFault]
@[simp] theorem execSelfRefreshExitUncommanded_keeps (_stack) : Keeps (execSelfRefreshExitUncommanded _stack s) s := by
  simp [execSelfRefreshExitUncommanded]

/-! ### Device and partition commands -/

@[simp] theorem execIdentify_keeps (c) : Keeps (execIdentify c s) s := by simp [execIdentify]
@[simp] theorem execSetNode_keeps (c) : Keeps (execSetNode c s) s :=
  keeps_simple fun u => by split <;> simp

@[simp] theorem execDeviceStatus_keeps (c) : Keeps (execDeviceStatus c s) s := by simp [execDeviceStatus]
@[simp] theorem execSetDefault_keeps (c) : Keeps (execSetDefault c s) s := by simp [execSetDefault]
@[simp] theorem execMemoryMode_keeps (c) : Keeps (execMemoryMode c s) s := by simp [execMemoryMode]
@[simp] theorem State.clearBegins_kept : s.clearBegins.kept = s.kept := by simp [State.clearBegins]
@[simp] theorem execMemoryClear_keeps (c) : Keeps (execMemoryClear c s) s := by
  refine keeps_command fun n u => ?_
  (repeat' split) <;> simp

@[simp] theorem execMemoryClearComplete_keeps : Keeps (execMemoryClearComplete s) s := by
  unfold execMemoryClearComplete
  split <;> simp
@[simp] theorem execReset_keeps (c) : Keeps (execReset c s) s := by
  refine keeps_command fun n u => ?_
  (repeat' split) <;> simp

@[simp] theorem execPartCreate_keeps (c) : Keeps (execPartCreate c s) s :=
  keeps_simple fun u => by dsimp only; split <;> simp

@[simp] theorem State.recheckLines_kept (a n) : (s.recheckLines a n).kept = s.kept := by simp [State.recheckLines]
@[simp] theorem State.freeGroups_kept (p) : (s.freeGroups p).kept = s.kept := by simp [State.freeGroups]
@[simp] theorem execPartDestroy_keeps (c) : Keeps (execPartDestroy c s) s := by
  refine keeps_command fun n u => State.unlessBusy_keeps _ _ _ _ rfl ?_
  dsimp only
  (repeat' split) <;> simp

@[simp] theorem State.putWindow_kept (p w x) : (s.putWindow p w x).kept = s.kept := by simp [State.putWindow]
@[simp] theorem State.windowChange_keeps (p w x) : (s.windowChange p w x).Keeps s := by
  simp [State.windowChange]

@[simp] theorem execWindowSet_keeps (c) : Keeps (execWindowSet c s) s := by simp [execWindowSet]
@[simp] theorem execWindowClear_keeps (c) : Keeps (execWindowClear c s) s := by simp [execWindowClear]
@[simp] theorem execPartStatus_keeps (c) : Keeps (execPartStatus c s) s := by simp [execPartStatus]

/-! ### Fabric time -/

@[simp] theorem execSyncPulse_keeps (widthNs arrival) : Keeps (execSyncPulse widthNs arrival s) s := by simp [execSyncPulse]
@[simp] theorem execSyncHoldover_keeps : Keeps (execSyncHoldover s) s := by simp [execSyncHoldover]
@[simp] theorem State.setTime_kept (t) : (s.setTime t).kept = s.kept := by simp [State.setTime]
@[simp] theorem State.takeTime_kept (t) : (s.takeTime t).kept = s.kept := by simp [State.takeTime]
@[simp] theorem execTimeReceived_keeps (port p) : Keeps (execTimeReceived port p s) s := by simp [execTimeReceived]
@[simp] theorem execTimeMessageSend_keeps : Keeps (execTimeMessageSend s) s := by simp [execTimeMessageSend]
@[simp] theorem execSyncTriggerPulse_keeps : Keeps (execSyncTriggerPulse s) s := by simp [execSyncTriggerPulse]

/-! ### Fabric commands -/

@[simp] theorem State.modTab_kept (e f) : (s.modTab e f).kept = s.kept := by simp [State.modTab]
@[simp] theorem State.onVersion_keeps (e) (f : Unit → Run) (h : (f ()).Keeps s) : (s.onVersion e f).Keeps s := by
  refine State.unlessBusy_keeps _ _ _ _ rfl ?_
  split
  · simp
  · exact h

@[simp] theorem execTableWrite_keeps (c) : Keeps (execTableWrite c s) s :=
  keeps_command fun n u => by simp

@[simp] theorem execTableCommit_keeps (c) : Keeps (execTableCommit c s) s :=
  keeps_command fun n u => by simp

@[simp] theorem execTableCommitComplete_keeps (ver) : Keeps (execTableCommitComplete ver s) s := by
  unfold execTableCommitComplete
  (repeat' split) <;> simp
@[simp] theorem execFlipArm_keeps (c) : Keeps (execFlipArm c s) s := by
  refine keeps_command fun n u => ?_
  (repeat' split) <;> simp

@[simp] theorem execFence_keeps (c) : Keeps (execFence c s) s := by simp [execFence]
@[simp] theorem execFabricStatus_keeps (c) : Keeps (execFabricStatus c s) s := by simp [execFabricStatus]
@[simp] theorem State.auxTaken_kept (port) : (s.auxTaken port).kept = s.kept := by simp [State.auxTaken]
@[simp] theorem State.portWrite_kept (k on allow thr) : (s.portWrite k on allow thr).kept = s.kept := by simp [State.portWrite]
@[simp] theorem State.portSetting_kept (c) : (s.portSetting c).kept = s.kept := by simp [State.portSetting]
@[simp] theorem onForm_kept (c off bit v) (s t : State) (h : t.kept = s.kept) : (onForm c off bit v s t).kept = s.kept := by
  simp [onForm, h]

@[simp] theorem execPortSet_keeps (c) : Keeps (execPortSet c s) s := by simp [execPortSet]
@[simp] theorem execPortRetest_keeps (c) : Keeps (execPortRetest c s) s := by simp [execPortRetest]
@[simp] theorem execAuxMode_keeps (c) : Keeps (execAuxMode c s) s := keeps_command fun n u => by simp

@[simp] theorem execResend_keeps (c) : Keeps (execResend c s) s := by simp [execResend]
@[simp] theorem State.syncClaims_kept (new) : (s.syncClaims new).kept = s.kept := by
  unfold State.syncClaims
  (repeat' split) <;> simp
@[simp] theorem execTimeCfg_keeps (c) : Keeps (execTimeCfg c s) s := by
  refine keeps_command fun n u => ?_
  dsimp only
  split <;> simp

@[simp] theorem State.rearrive_kept (g old) : (s.rearrive g old).kept = s.kept := by
  simp only [State.rearrive]
  split <;> simp
@[simp] theorem execBarrierCfg_keeps (c) : Keeps (execBarrierCfg c s) s := by
  refine keeps_command fun n u => ?_
  dsimp only
  split <;> simp

@[simp] theorem execBarrierFree_keeps (c) : Keeps (execBarrierFree c s) s := by
  refine keeps_command fun n u => ?_
  dsimp only
  split <;> simp

/-! ### Pipeline commands -/

@[simp] theorem execLoad_keeps (c) : Keeps (execLoad c s) s := keeps_command fun n u => by simp

@[simp] theorem State.failImage_kept (c st d f) : (s.failImage c st d f).kept = s.kept := by simp [State.failImage]
@[simp] theorem execLoadComplete_keeps (p) : Keeps (execLoadComplete p s) s := by
  refine (keeps_next ..).mpr ?_
  dsimp only
  split
  · rfl
  · next c _ =>
    have e := s.readImage_kept p.toNat (c.pkt.at_ 24 8)
    split
    · rfl
    · split <;> next hj => simpa [hj] using e

@[simp] theorem execUnload_keeps (c) : Keeps (execUnload c s) s := keeps_command fun n u => by simp

@[simp] theorem State.claimFor_kept (p im) : (s.claimFor p im).kept = s.kept := by simp [State.claimFor]
@[simp] theorem State.bindBegins_kept (p) : (s.bindBegins p).kept = s.kept := by
  have e := s.readImage_kept p (s.getPart p).image.toNat
  unfold State.bindBegins
  split
  · next hj => rw [hj] at e; split <;> simp [← e]
  · rfl

@[simp] theorem execBind_keeps (c) : Keeps (execBind c s) s := by
  refine keeps_command fun n u => State.unlessBusy_keeps _ _ _ _ rfl ?_
  dsimp only
  (repeat' split) <;> simp

@[simp] theorem State.flushLog_kept (i) : (s.flushLog i).kept = s.kept := by simp [State.flushLog]
@[simp] theorem State.place_kept (p im img) : (s.place p im img).kept = s.kept := by simp [State.place]
@[simp] theorem State.bindUndone_kept (p) : (s.bindUndone p).kept = s.kept := by simp [State.bindUndone]
@[simp] theorem State.unbindGroups_kept (p) : (s.unbindGroups p).kept = s.kept := by simp [State.unbindGroups]
@[simp] theorem State.bindPlaces_kept (k c im img) : (s.bindPlaces k c im img).kept = s.kept := by
  unfold State.bindPlaces
  split <;> simp
@[simp] theorem execBindComplete_keeps (p) : Keeps (execBindComplete p s) s := by
  refine (keeps_next ..).mpr ?_
  dsimp only
  split
  · rfl
  · split
    · split <;> simp
    · have e := s.readImage_kept p.toNat (s.getPart p.toNat).image.toNat
      split
      · next hj => simpa [hj] using e
      · next hj => simpa [hj] using e
      · next hj => rw [hj] at e; split <;> simp [← e]

@[simp] theorem State.startCmd_kept (c op from_) : (s.startCmd c op from_).kept = s.kept := by
  refine State.command_kept _ _ _ _ _ fun n u => ?_
  simp

@[simp] theorem execStart_keeps (c) : Keeps (execStart c s) s := by simp [execStart]
@[simp] theorem execResume_keeps (c) : Keeps (execResume c s) s := by simp [execResume]
@[simp] theorem execPause_keeps (c) : Keeps (execPause c s) s := by
  refine keeps_command fun n u => ?_
  (repeat' split) <;> simp

@[simp] theorem State.superseded_kept (p) : (s.superseded p).kept = s.kept := by simp [State.superseded]
@[simp] theorem State.abandon_kept (i) : (s.abandon i).kept = s.kept := by simp [State.abandon]
@[simp] theorem State.drainBegins_kept (p) : (s.drainBegins p).kept = s.kept := by simp [State.drainBegins]
@[simp] theorem execPipelineDrain_keeps (c) : Keeps (execPipelineDrain c s) s := keeps_command fun n u => by simp

@[simp] theorem execPipelineDrainComplete_keeps (p) : Keeps (execPipelineDrainComplete p s) s := by
  simp only [execPipelineDrainComplete]
  split <;> simp
@[simp] theorem execStatus_keeps (c) : Keeps (execStatus c s) s := by simp [execStatus]
@[simp] theorem execExcQueue_keeps (c) : Keeps (execExcQueue c s) s := by simp [execExcQueue]

/-! ### Snapshot commands -/

@[simp] theorem execSnapEnable_keeps (c) : Keeps (execSnapEnable c s) s := by
  refine (keeps_next ..).mpr (onForm_kept _ _ _ _ _ _ (State.command_kept _ _ _ _ _ fun n u =>
    State.unlessBusy_keeps _ _ _ _ rfl ?_))
  (repeat' split) <;> simp

@[simp] theorem execSnapDisable_keeps (c) : Keeps (execSnapDisable c s) s := by
  refine (keeps_next ..).mpr (onForm_kept _ _ _ _ _ _ (State.command_kept _ _ _ _ _ fun n u => ?_))
  simp

@[simp] theorem execSnapPolicy_keeps (c) : Keeps (execSnapPolicy c s) s := by
  refine keeps_command fun n u => ?_
  have e := u.sharedRead_kept (c.at_ 24 8) (64 + 32 * c.at_ 16 2)
  dsimp only
  split
  · simp
  · split <;> simp [e]

@[simp] theorem execSnapPartners_keeps (c tags) : Keeps (execSnapPartners c tags s) s := by
  refine keeps_command fun n u => State.unlessBusy_keeps _ _ _ _ rfl ?_
  dsimp only
  (repeat' split) <;> simp

@[simp] theorem execSnapCut_keeps (c) : Keeps (execSnapCut c s) s := by
  refine keeps_command fun n u => ?_
  (repeat' split) <;> simp

@[simp] theorem execSnapCopyComplete_keeps : Keeps (execSnapCopyComplete s) s := by
  unfold execSnapCopyComplete
  split <;> simp
@[simp] theorem execRestore_keeps (c) : Keeps (execRestore c s) s := keeps_command fun n u => by simp

@[simp] theorem State.putRestored_kept (x) : (s.putRestored x).kept = s.kept := by
  unfold State.putRestored
  split <;> simp
@[simp] theorem execRestoreComplete_keeps (p got) : Keeps (execRestoreComplete p got s) s := by
  simp only [execRestoreComplete]
  (repeat' split) <;> simp
@[simp] theorem execVerify_keeps (c) : Keeps (execVerify c s) s := keeps_command fun n u => by simp

@[simp] theorem execReplicaHashCompareDone_keeps (p other) : Keeps (execReplicaHashCompareDone p other s) s := by
  simp only [execReplicaHashCompareDone]
  split <;> simp
@[simp] theorem execSnapStatus_keeps (c) : Keeps (execSnapStatus c s) s := by simp [execSnapStatus]

/-! ### Power commands -/

@[simp] theorem execPowerStatus_keeps (c) : Keeps (execPowerStatus c s) s := by simp [execPowerStatus]
@[simp] theorem execHostCap_keeps (c) : Keeps (execHostCap c s) s := by simp [execHostCap]
@[simp] theorem execLevelLimit_keeps (c) : Keeps (execLevelLimit c s) s := by simp [execLevelLimit]
@[simp] theorem State.enterIdle_kept : s.enterIdle.kept = s.kept := by simp [State.enterIdle]
@[simp] theorem execDeepIdleEnter_keeps (c) : Keeps (execDeepIdleEnter c s) s := by
  refine (keeps_next ..).mpr (onForm_kept _ _ _ _ _ _ (State.command_kept _ _ _ _ _ fun n u => ?_))
  split <;> simp

@[simp] theorem execDeepIdleExit_keeps (c) : Keeps (execDeepIdleExit c s) s :=
  (keeps_next ..).mpr (onForm_kept _ _ _ _ _ _ (State.command_kept _ _ _ _ _ fun n u => by simp))

@[simp] theorem State.wakePort_kept (k) : (s.wakePort k).kept = s.kept := by simp [State.wakePort]
@[simp] theorem State.beginDeferred_kept (c) : (s.beginDeferred c).kept = s.kept := by
  simp only [State.beginDeferred]
  (repeat' split) <;> simp
@[simp] theorem execDeepIdleExitComplete_keeps : Keeps (execDeepIdleExitComplete s) s := by
  unfold execDeepIdleExitComplete
  split <;> simp
@[simp] theorem execEnergy_keeps (c) : Keeps (execEnergy c s) s := by simp [execEnergy]
@[simp] theorem execEnergyMode_keeps (c) : Keeps (execEnergyMode c s) s := by simp [execEnergyMode]
@[simp] theorem execEstimator_keeps (c) : Keeps (execEstimator c s) s := by simp [execEstimator]

/-! ### Firmware commands -/

@[simp] theorem execFwStage_keeps (c) : Keeps (execFwStage c s) s := keeps_command fun n u => by simp

@[simp] theorem execFwStageComplete_keeps : Keeps (execFwStageComplete s) s := by
  simp only [execFwStageComplete]
  (repeat' split) <;> simp
@[simp] theorem State.quiesced_kept : s.quiesced.kept = s.kept := by
  unfold State.quiesced
  split <;> simp
@[simp] theorem State.beginActivation_kept (byCmd at_) : (s.beginActivation byCmd at_).kept = s.kept := by simp [State.beginActivation]
@[simp] theorem State.endActivation_kept (status detail r0) : (s.endActivation status detail r0).kept = s.kept := by
  unfold State.endActivation
  split <;> simp
@[simp] theorem State.startFw_keeps (c op at_) (f : State → State) (h : ∀ u, (f u).kept = u.kept) :
    (s.startFw c op at_ f).Keeps s := by
  have e := s.startLong_keeps s c op at_ false f rfl h
  unfold State.startFw
  split
  · next hr => rw [hr] at e; split <;> exact e
  · exact e

@[simp] theorem State.armStart_kept (op fault) : (s.armStart op fault).kept = s.kept :=
  foldl_kept _ (fun u c => by split <;> simp) _ _

@[simp] theorem execFwActivate_keeps (c) : Keeps (execFwActivate c s) s := by
  refine keeps_command fun n u => ?_
  (repeat' split) <;> simp

@[simp] theorem execFwRollback_keeps (c) : Keeps (execFwRollback c s) s := by
  refine keeps_command fun n u => ?_
  (repeat' split) <;> simp

@[simp] theorem execActivationContinue_keeps : Keeps (execActivationContinue s) s := by
  unfold execActivationContinue
  (repeat' split) <;> simp
@[simp] theorem execActivationHoldExpiry_keeps : Keeps (execActivationHoldExpiry s) s := by
  unfold execActivationHoldExpiry
  split <;> simp
@[simp] theorem execActivationLoadDone_keeps : Keeps (execActivationLoadDone s) s := by
  unfold execActivationLoadDone
  (repeat' split) <;> simp
@[simp] theorem State.clearInjection_kept : s.clearInjection.kept = s.kept := by simp [State.clearInjection]
@[simp] theorem State.flipSide_kept (k) : (s.flipSide k).kept = s.kept := by simp [State.flipSide]
@[simp] theorem State.switched_kept : s.switched.kept = s.kept := by simp [State.switched]
@[simp] theorem State.handBack_kept (n) : (s.handBack n).kept = s.kept := foldl_kept _ (by simp) _ _

@[simp] theorem execHandOffDone_keeps (r) : Keeps (execHandOffDone r s) s := by
  unfold execHandOffDone
  (repeat' split) <;> simp
@[simp] theorem execTrialWindowClose_keeps : Keeps (execTrialWindowClose s) s := by simp [execTrialWindowClose]
@[simp] theorem execFwStatus_keeps (c) : Keeps (execFwStatus c s) s := by simp [execFwStatus]

/-! ### Diagnostic commands -/

@[simp] theorem execDiagModeEnter_keeps (c) : Keeps (execDiagModeEnter c s) s := by simp [execDiagModeEnter]
@[simp] theorem execDiagModeLeave_keeps (c) : Keeps (execDiagModeLeave c s) s := by simp [execDiagModeLeave]
@[simp] theorem execFiSet_keeps (c) : Keeps (execFiSet c s) s := by
  refine keeps_command fun n u => ?_
  dsimp only
  split
  · simp
  · split <;> simp

@[simp] theorem execFiKey_keeps (c) : Keeps (execFiKey c s) s := by
  refine keeps_command fun n u => ?_
  (repeat' split) <;> simp

@[simp] theorem execErrClear_keeps (c) : Keeps (execErrClear c s) s := by simp [execErrClear]
@[simp] theorem execLogRead_keeps (c) : Keeps (execLogRead c s) s := by simp [execLogRead]
@[simp] theorem execClaimQuery_keeps (c) : Keeps (execClaimQuery c s) s := by
  unfold execClaimQuery
  (repeat' split) <;> simp
@[simp] theorem execClaimTable_keeps (c) : Keeps (execClaimTable c s) s := by simp [execClaimTable]

/-! ### The management port -/

@[simp] theorem State.send_kept (x) : (s.send x).kept = s.kept := by simp [State.send]
@[simp] theorem State.answer_kept (c data) : (s.answer c data).kept = s.kept := by simp [State.answer]
@[simp] theorem State.onPort_kept (f : State → State) (h : ∀ u, (f u).kept = u.kept) : (s.onPort f).kept = s.kept := by
  simp [State.onPort, h]
@[simp] theorem State.pldm_kept (light) (f : State → State) (h : ∀ u, (f u).kept = u.kept) : (s.pldm light f).kept = s.kept := by
  simp [State.pldm, h]
@[simp] theorem execI3cBroadcastCcc_keeps : Keeps (execI3cBroadcastCcc s) s := by simp [execI3cBroadcastCcc]
@[simp] theorem execDynamicAddressAssign_keeps (addr) : Keeps (execDynamicAddressAssign addr s) s := by simp [execDynamicAddressAssign]
@[simp] theorem execSetEndpointId_keeps (eid) : Keeps (execSetEndpointId eid s) s := by simp [execSetEndpointId]
@[simp] theorem execGetEndpointId_keeps : Keeps (execGetEndpointId s) s := by simp [execGetEndpointId]
@[simp] theorem State.answerFree_kept (n) : (s.answerFree n).kept = s.kept := by simp [State.answerFree]
@[simp] theorem execGetMctpVersionSupport_keeps (type) : Keeps (execGetMctpVersionSupport type s) s := by simp [execGetMctpVersionSupport]
@[simp] theorem execGetMessageTypeSupport_keeps : Keeps (execGetMessageTypeSupport s) s := by simp [execGetMessageTypeSupport]
@[simp] theorem execUnsupportedManagementMessage_keeps (m) : Keeps (execUnsupportedManagementMessage m s) s := by
  unfold execUnsupportedManagementMessage
  split <;> simp
@[simp] theorem execGetTid_keeps : Keeps (execGetTid s) s := by simp [execGetTid]
@[simp] theorem execGetPldmVersion_keeps (type) : Keeps (execGetPldmVersion type s) s := by simp [execGetPldmVersion]
@[simp] theorem execGetPldmTypes_keeps : Keeps (execGetPldmTypes s) s := by simp [execGetPldmTypes]
@[simp] theorem execGetPldmCommands_keeps (type) : Keeps (execGetPldmCommands type s) s := by simp [execGetPldmCommands]
@[simp] theorem execGetPdr_keeps (handle) : Keeps (execGetPdr handle s) s := by
  unfold execGetPdr
  split <;> simp
@[simp] theorem State.answerSome_kept (x) : (s.answerSome x).kept = s.kept := by
  unfold State.answerSome
  split <;> simp
@[simp] theorem execGetNumericSensorReading_keeps (id) : Keeps (execGetNumericSensorReading id s) s := by simp [execGetNumericSensorReading]
@[simp] theorem execGetStateSensorReadings_keeps (id) : Keeps (execGetStateSensorReadings id s) s := by simp [execGetStateSensorReadings]
@[simp] theorem execSetManagementCap_keeps (v) : Keeps (execSetManagementCap v s) s := by simp [execSetManagementCap]
@[simp] theorem execSetFeedTag_keeps (v) : Keeps (execSetFeedTag v s) s := by simp [execSetFeedTag]
@[simp] theorem execGetNumericEffecterValue_keeps (id) : Keeps (execGetNumericEffecterValue id s) s := by simp [execGetNumericEffecterValue]
@[simp] theorem State.mgmtStart_kept (keep) : (s.mgmtStart keep).kept = s.kept := by simp [State.mgmtStart]
@[simp] theorem execWarmStartMemoryKept_keeps : Keeps (execWarmStartMemoryKept s) s := by simp [execWarmStartMemoryKept]
@[simp] theorem execWarmStartMemoryFilled_keeps : Keeps (execWarmStartMemoryFilled s) s := by simp [execWarmStartMemoryFilled]
@[simp] theorem execRestartAfterTrip_keeps : Keeps (execRestartAfterTrip s) s := by simp [execRestartAfterTrip]
@[simp] theorem execPollForPlatformEventMessage_keeps : Keeps (execPollForPlatformEventMessage s) s := by
  refine (keeps_next ..).mpr (State.pldm_kept _ _ _ fun u => ?_)
  (repeat' split) <;> simp

@[simp] theorem execGetFaultLog_keeps (first count) : Keeps (execGetFaultLog first count s) s := by simp [execGetFaultLog]
@[simp] theorem execGetEnergy_keeps (sel) : Keeps (execGetEnergy sel s) s := by simp [execGetEnergy]
@[simp] theorem State.updatePort_kept (f : State → State) (h : ∀ u, (f u).kept = u.kept) : (s.updatePort f).kept = s.kept := by
  simp [State.updatePort, h]
@[simp] theorem execRequestUpdate_keeps : Keeps (execRequestUpdate s) s := by simp [execRequestUpdate]
@[simp] theorem execFirmwareDataReceived_keeps (off bytes) : Keeps (execFirmwareDataReceived off bytes s) s := by
  simp [execFirmwareDataReceived]
@[simp] theorem execUpdateVerifyComplete_keeps : Keeps (execUpdateVerifyComplete s) s := by
  refine (keeps_next ..).mpr (State.onPort_kept _ _ fun u => ?_)
  (repeat' split) <;> simp

@[simp] theorem State.dropUpdate_kept : s.dropUpdate.kept = s.kept := by simp [State.dropUpdate]
@[simp] theorem execFdT1Timeout_keeps : Keeps (execFdT1Timeout s) s := by simp [execFdT1Timeout]
@[simp] theorem execCancelUpdate_keeps : Keeps (execCancelUpdate s) s := by simp [execCancelUpdate]
@[simp] theorem execActivateFirmware_keeps (selfContained) : Keeps (execActivateFirmware selfContained s) s := by
  simp [execActivateFirmware]
@[simp] theorem execGetStatus_keeps : Keeps (execGetStatus s) s := by simp [execGetStatus]
@[simp] theorem State.spdm_kept (f : State → State) (h : ∀ u, (f u).kept = u.kept) : (s.spdm f).kept = s.kept := by simp [State.spdm, h]
@[simp] theorem State.putConn_kept (c) : (s.putConn c).kept = s.kept := by simp [State.putConn]
@[simp] theorem State.dropConn_kept (ep) : (s.dropConn ep).kept = s.kept := by simp [State.dropConn]
@[simp] theorem State.inStage_kept (ep g) (f : State → SpdmConn → State) (h : ∀ u x, (f u x).kept = u.kept) :
    (s.inStage ep g f).kept = s.kept := by
  refine State.spdm_kept _ _ fun u => ?_
  (repeat' split) <;> simp [h]

@[simp] theorem State.respondSpdm_kept (c data) : (s.respondSpdm c data).kept = s.kept := by simp [State.respondSpdm]
@[simp] theorem execGetVersion_keeps (ep) : Keeps (execGetVersion ep s) s := by simp [execGetVersion]
@[simp] theorem execGetCapabilities_keeps (ep) : Keeps (execGetCapabilities ep s) s := by simp [execGetCapabilities]
@[simp] theorem execNegotiateAlgorithms_keeps (ep offer) : Keeps (execNegotiateAlgorithms ep offer s) s := by simp [execNegotiateAlgorithms]
@[simp] theorem execGetDigests_keeps (ep) : Keeps (execGetDigests ep s) s := by simp [execGetDigests]
@[simp] theorem execGetCertificate_keeps (ep slot off len) : Keeps (execGetCertificate ep slot off len s) s := by simp [execGetCertificate]
@[simp] theorem State.sign_kept (msg) : (s.sign msg).2.kept = s.kept := by simp [State.sign]
@[simp] theorem execChallenge_keeps (ep slot nonce) : Keeps (execChallenge ep slot nonce s) s := by simp [execChallenge]
@[simp] theorem execGetMeasurements_keeps (ep index sign nonce) : Keeps (execGetMeasurements ep index sign nonce s) s := by
  unfold execGetMeasurements
  split <;> simp
@[simp] theorem execChunkSend_keeps (ep last seq bytes) : Keeps (execChunkSend ep last seq bytes s) s := by
  refine (keeps_next ..).mpr (State.spdm_kept _ _ fun u => ?_)
  (repeat' split) <;> simp

@[simp] theorem execChunkGet_keeps (ep seq) : Keeps (execChunkGet ep seq s) s := by
  refine (keeps_next ..).mpr (State.spdm_kept _ _ fun u => ?_)
  (repeat' split) <;> simp

/-! ### Register reads -/

@[simp] theorem State.devRead_kept (a) : (s.devRead a).kept = s.kept := by
  unfold State.devRead
  split <;> simp

/-! ### Register writes and reads that clear -/

@[simp] theorem State.regDiscard_kept (i) : (s.regDiscard i).kept = s.kept := by simp [State.regDiscard]
@[simp] theorem State.writeIsland_kept (i o x) : (s.writeIsland i o x).kept = s.kept := by
  unfold State.writeIsland
  (repeat' split) <;> simp
@[simp] theorem State.writeChan_kept (i ch o x) : (s.writeChan i ch o x).kept = s.kept := by simp [State.writeChan]
@[simp] theorem State.regRefused_kept (a) : (s.regRefused a).kept = s.kept := by simp [State.regRefused]
@[simp] theorem State.writeDev_kept (a x) : (s.writeDev a x).kept = s.kept := by simp [State.writeDev]
@[simp] theorem execRegisterWrite_keeps (a v) : Keeps (execRegisterWrite a v s) s := by
  unfold execRegisterWrite
  split <;> simp
@[simp] theorem readOut_keeps (v : Dword) (t s : State) : Keeps (readOut v t) s ↔ t.kept = s.kept := by
  simp [readOut]

@[simp] theorem execLogLostRead_keeps (i) : Keeps (execLogLostRead i s) s := by simp [execLogLostRead]
@[simp] theorem execStraitDropRead_keeps (i) : Keeps (execStraitDropRead i s) s := by simp [execStraitDropRead]
@[simp] theorem execBskewWaitMaxRead_keeps (g) : Keeps (execBskewWaitMaxRead g s) s := by simp [execBskewWaitMaxRead]
@[simp] theorem execBskewLateRead_keeps (g) : Keeps (execBskewLateRead g s) s := by simp [execBskewLateRead]
@[simp] theorem execTrkResendsRead_keeps : Keeps (execTrkResendsRead s) s := by simp [execTrkResendsRead]
@[simp] theorem execTrkDupsRead_keeps : Keeps (execTrkDupsRead s) s := by simp [execTrkDupsRead]
@[simp] theorem execTrkLateRead_keeps : Keeps (execTrkLateRead s) s := by simp [execTrkLateRead]
@[simp] theorem execTrkUnreachRead_keeps : Keeps (execTrkUnreachRead s) s := by simp [execTrkUnreachRead]
@[simp] theorem execTrkFencedRead_keeps : Keeps (execTrkFencedRead s) s := by simp [execTrkFencedRead]
@[simp] theorem execPortCorrRead_keeps (port) : Keeps (execPortCorrRead port s) s := by simp [execPortCorrRead]
@[simp] theorem execPortDropRead_keeps (port) : Keeps (execPortDropRead port s) s := by simp [execPortDropRead]
@[simp] theorem execPortVoidRead_keeps (port) : Keeps (execPortVoidRead port s) s := by simp [execPortVoidRead]
@[simp] theorem execPortEventsRead_keeps (port) : Keeps (execPortEventsRead port s) s := by simp [execPortEventsRead]
@[simp] theorem execLaneErrRead_keeps (port lane) : Keeps (execLaneErrRead port lane s) s := by simp [execLaneErrRead]
@[simp] theorem execFiCountRead_keeps (port vc) : Keeps (execFiCountRead port vc s) s := by simp [execFiCountRead]
@[simp] theorem execFabDetoursRead_keeps : Keeps (execFabDetoursRead s) s := by simp [execFabDetoursRead]
@[simp] theorem execFabStaleRead_keeps : Keeps (execFabStaleRead s) s := by simp [execFabStaleRead]
@[simp] theorem execFabExpiredRead_keeps : Keeps (execFabExpiredRead s) s := by simp [execFabExpiredRead]
@[simp] theorem execFabCrcbadRead_keeps : Keeps (execFabCrcbadRead s) s := by simp [execFabCrcbadRead]
@[simp] theorem execFabFencedropRead_keeps : Keeps (execFabFencedropRead s) s := by simp [execFabFencedropRead]
@[simp] theorem execFabCircdropRead_keeps : Keeps (execFabCircdropRead s) s := by simp [execFabCircdropRead]
@[simp] theorem execFabBadhdrRead_keeps : Keeps (execFabBadhdrRead s) s := by simp [execFabBadhdrRead]
@[simp] theorem execBarCountRead_keeps (g) : Keeps (execBarCountRead g s) s := by simp [execBarCountRead]
@[simp] theorem execStWakesRead_keeps : Keeps (execStWakesRead s) s := by simp [execStWakesRead]
@[simp] theorem execStBarDiscardRead_keeps : Keeps (execStBarDiscardRead s) s := by simp [execStBarDiscardRead]
@[simp] theorem execStHostRefusedRead_keeps : Keeps (execStHostRefusedRead s) s := by simp [execStHostRefusedRead]
@[simp] theorem execStBiRead_keeps : Keeps (execStBiRead s) s := by simp [execStBiRead]
@[simp] theorem execSnapTouchRead_keeps : Keeps (execSnapTouchRead s) s := by simp [execSnapTouchRead]
@[simp] theorem execSnapHeldRead_keeps : Keeps (execSnapHeldRead s) s := by simp [execSnapHeldRead]
@[simp] theorem execSnapSkippedRead_keeps : Keeps (execSnapSkippedRead s) s := by simp [execSnapSkippedRead]
@[simp] theorem execSnapFailsRead_keeps : Keeps (execSnapFailsRead s) s := by simp [execSnapFailsRead]
@[simp] theorem execPwrEmergRead_keeps : Keeps (execPwrEmergRead s) s := by simp [execPwrEmergRead]
@[simp] theorem execPwrLevelsRead_keeps : Keeps (execPwrLevelsRead s) s := by simp [execPwrLevelsRead]
@[simp] theorem execPinFilteredRead_keeps : Keeps (execPinFilteredRead s) s := by simp [execPinFilteredRead]

/-! ### The vector slot -/

@[simp] theorem State.vresult_kept (i op t n a) : (s.vresult i op t n a).kept = s.kept := by simp [State.vresult]
@[simp] theorem State.drawLanes_kept : s.drawLanes.2.kept = s.kept := by simp [State.drawLanes]
@[simp] theorem execVld_keeps (w type port vd xa imm) : Keeps (execVld w type port vd xa imm s) s := by simp [execVld]
@[simp] theorem execVst_keeps (w type port vs xa imm) : Keeps (execVst w type port vs xa imm s) s := by simp [execVst]
@[simp] theorem execVopf_keeps (w fn b vd va vb vc) : Keeps (execVopf w fn b vd va vb vc s) s := by simp [execVopf]
@[simp] theorem execVopi_keeps (w fn vd va vb vc) : Keeps (execVopi w fn vd va vb vc s) s := by simp [execVopi]
@[simp] theorem execVcvt_keeps (w fn vd va vb) : Keeps (execVcvt w fn vd va vb s) s := by simp [execVcvt]
@[simp] theorem execVbcast_keeps (w vd xa) : Keeps (execVbcast w vd xa s) s :=
  (keeps_next ..).mpr (State.slot_kept _ _ _ _ fun _ _ _ _ => State.vresult_kept ..)

@[simp] theorem execVkadd_keeps (w vd va) : Keeps (execVkadd w vd va s) s := by simp [execVkadd]
@[simp] theorem State.lanesAfter_kept (i r) : (s.lanesAfter i r).2.kept = s.kept := by
  unfold State.lanesAfter
  split
  · exact s.drawLanes_kept
  · rfl

@[simp] theorem execVred_keeps (w fn vd va) : Keeps (execVred w fn vd va s) s := by
  unfold execVred
  split <;> simp
@[simp] theorem execVsf_keeps (w fn vd va) : Keeps (execVsf w fn vd va s) s := by simp [execVsf]
@[simp] theorem execVrand_keeps (w q uniform vd xk xs xe) : Keeps (execVrand w q uniform vd xk xs xe s) s := by simp [execVrand]
theorem State.countTick_kept : s.countTick.kept = (s.pending, s.id, s.clk.now + 1, s.clk.lit) := by
  simp only [State.countTick, State.modFab_kept, State.kept_mk]

/-! ### Every command -/

/-- The supply of the lighthouse is lost or comes back. -/
def Instr.isSupply : Instr → Bool
  | .lighthousePowerLoss | .lighthousePowerUp => true
  | _ => false

/-- The two supply events leave the queue and the part as they are, whatever becomes of the lighthouse's counter. -/
theorem exec_supply_keeps {i : Instr} {t : State} (hi : Instr.isSupply i = true) (h : exec i s = .next t) :
    t.pending = s.pending ∧ t.id = s.id := by
  cases i <;> simp only [Instr.isSupply, Bool.false_eq_true] at hi
  case lighthousePowerLoss =>
    cases h
    obtain ⟨hp, hi, -⟩ := kept_eq_iff.mp s.powerOff_kept
    exact ⟨hp, hi⟩
  case lighthousePowerUp =>
    by_cases hl : s.clk.lit = true <;> simp only [exec, execLighthousePowerUp, hl, if_true, if_false, Bool.false_eq_true] at h <;> cases h
    · exact ⟨rfl, rfl⟩
    · obtain ⟨hp, hi, -⟩ := kept_eq_iff.mp
        (State.beginStart_kept { s with clk := ⟨0, 0, 0, none, true⟩ } .cold false false false)
      exact ⟨hp, hi⟩

/-- Every other command keeps the counter and the supply too. -/
theorem exec_keeps {i : Instr} (hi : Instr.isSupply i = false) : Keeps (exec i s) s := by
  cases i
  case lighthousePowerLoss | lighthousePowerUp => cases hi
  all_goals simp [exec]

/-- No slot of a bundle holds a supply event. -/
theorem slotInstr_isSupply {k : Nat} {w : Site} {n : Nat} {i : Instr} (h : slotInstr k w n = some i) : Instr.isSupply i = false := by
  have all : (slotInstr k w n).all (!Instr.isSupply ·) = true := by
    simp only [slotInstr, scalarInstr, branchInstr, arrayInstr, vectorInstr]
    (repeat' split) <;> simp [Option.all_map, Instr.isSupply]
  simpa [h] using all

/-! ### The tick -/

@[simp] theorem State.runSlots_kept (i cont l) : (s.runSlots i cont l).kept = s.kept := by
  induction l generalizing s cont with
  | nil => simp [State.runSlots]
  | cons w l ih =>
    simp only [State.runSlots]
    split
    · simp
    · split
      · next hx =>
        obtain ⟨c, hw, hc⟩ := Option.map_eq_some_iff.mp hx
        rw [ih, exec_keeps _ (slotInstr_isSupply hw) _ hc]
      · exact ih ..

@[simp] theorem State.issueBundle_kept (i b mid) : (s.issueBundle i b mid).kept = s.kept := by simp [State.issueBundle]
@[simp] theorem State.runProgram_kept (i target n) : (s.runProgram i target n).kept = s.kept := by
  induction n generalizing s with
  | zero => simp [State.runProgram]
  | succ n ih => simp only [State.runProgram]; (repeat' split) <;> simp [ih]

@[simp] theorem State.endReady_kept (i) : (s.endReady i).kept = s.kept := by
  simp only [State.endReady]
  split <;> simp
@[simp] theorem State.cycleStep_kept (i c) : (s.cycleStep i c).kept = s.kept := by simp [State.cycleStep]
@[simp] theorem State.tickIsland_kept (i) : (s.tickIsland i).kept = s.kept := by simp [State.tickIsland]
@[simp] theorem State.tickIslands_kept : s.tickIslands.kept = s.kept := by simp [State.tickIslands]
@[simp] theorem State.sharedTick_kept (g n) : (s.sharedTick g n).kept = s.kept := by
  induction n generalizing s with
  | zero => simp [State.sharedTick]
  | succ n ih => simp only [State.sharedTick]; split <;> simp [ih]

@[simp] theorem State.tickSlots_kept : s.tickSlots.kept = s.kept := by simp [State.tickSlots]
/-- A tick of a supplied lighthouse adds one to its count (00 R12). -/
theorem State.tick_kept (h : s.clk.lit = true) : s.tick.kept = (s.pending, s.id, s.clk.now + 1, true) := by
  have work : ∀ u : State, u.kept = s.kept → u.countTick.kept = (s.pending, s.id, s.clk.now + 1, true) := fun u hu => by
    obtain ⟨hp, hi, hn, hl⟩ := kept_eq_iff.mp hu
    rw [State.countTick_kept, hp, hi, hn, hl, h]
  simp only [State.tick, h, Bool.not_true, Bool.false_eq_true, if_false, State.quiesced_kept]
  exact work _ (by simp)

end

/-! # The statements of the scope -/

/-! ### Writes of device registers (00 R8, 05 R128, 09 R209) -/

theorem exec_registerWrite_dev (s : State) {a n : Nat} (v : Dword) (ha : n = a) (h : a < 2 ^ 48) :
    exec (.registerWrite (.dev (BitVec.ofNat 48 n)) v) s = .next (s.writeDev a v) := by
  show Host.Outcome.next (s.writeDev (BitVec.ofNat 48 n).toNat v) = _
  rw [BitVec.toNat_ofNat, ha, Nat.mod_eq_of_lt h]

/-- The registers of island i start at 0x80000 of its control block (00 Table 0.6). -/
theorem devReg_island (s : State) {i o : Nat} (hi : i < 256) (ho : o < 0x80000) (hp : s.present i = true) :
    s.devReg (0x200000080000 + 0x100000 * i + o) = s.islandReg i o := by
  have hq : (0x200000080000 + 0x100000 * i + o - 0x200000000000) / 0x100000 = i := by omega
  have hr : (0x200000080000 + 0x100000 * i + o) % 0x100000 = 0x80000 + o := by omega
  have hn : ¬ 0x80000 + o < 0x40000 := by omega
  simp only [State.devReg, Bool.and_eq_true, decide_eq_true_eq]
  rw [if_pos (by omega), hq, hr]
  simp [State.controlWord, hp, hn]

/-- The channels of island i have 0x1000 of the DMA block. -/
theorem devReg_dma (s : State) {i o : Nat} (hi : i < 256) (ho : o < 0x1000) :
    s.devReg (0x300000100000 + 0x1000 * i + o) = s.dmaReg i o := by
  have hq : (0x300000100000 + 0x1000 * i + o - 0x300000100000) / 0x1000 = i := by omega
  have hr : (0x300000100000 + 0x1000 * i + o) % 0x1000 = o := by omega
  simp only [State.devReg, Bool.and_eq_true, decide_eq_true_eq]
  repeat rw [if_neg (by omega)]
  rw [if_pos (by omega), hq, hr]

/-- A write to a register of a present island. -/
theorem writeDev_island (s : State) {i o : Nat} (v : Dword) (hi : i < 256) (ho : o < 0x80000) (hp : s.present i = true)
    (hs : o % 8 = 0 ∨ o = 0x84) (hr : (s.islandReg i (o / 8 * 8)).isSome) :
    s.writeDev (0x200000080000 + 0x100000 * i + o) v = s.writeIsland i o v := by
  have hd : (0x200000080000 + 0x100000 * i + o) / 8 * 8 = 0x200000080000 + 0x100000 * i + o / 8 * 8 := by omega
  have hq : (0x200000080000 + 0x100000 * i + o - 0x200000000000) / 0x100000 = i := by omega
  have hm : (0x200000080000 + 0x100000 * i + o) % 0x100000 = 0x80000 + o := by omega
  have start : regStart (0x200000080000 + 0x100000 * i + o) = true := by
    simp only [regStart, Bool.or_eq_true, Bool.and_eq_true, decide_eq_true_eq, hm]
    omega
  have there : (s.devReg ((0x200000080000 + 0x100000 * i + o) / 8 * 8)).isNone = false := by
    rw [hd, devReg_island s hi (by omega) hp]
    simpa using hr
  simp only [State.writeDev, start, there, hq, hm, Bool.not_true, Bool.or_self, Bool.false_eq_true, if_false]
  rw [if_pos (by omega), if_pos (by omega), Nat.add_sub_cancel_left]

theorem exec_registerWrite_island {s : State} {i o n : Nat} {v : Dword} (hi : i < 256) (ho : o < 0x80000) (hp : s.present i = true)
    (hs : o % 8 = 0 ∨ o = 0x84) (hr : (s.islandReg i (o / 8 * 8)).isSome) (hx : n = 0x200000080000 + 0x100000 * i + o) :
    exec (.registerWrite (.dev (BitVec.ofNat 48 n)) v) s = .next (s.writeIsland i o v) := by
  rw [exec_registerWrite_dev s v hx (by omega), writeDev_island s v hi ho hp hs hr]

/-- A write to a register of a channel of a present island. -/
theorem writeDev_chan (s : State) {i ch o : Nat} (v : Dword) (hi : i < 256) (hc : ch < 4) (ho : o < 0xC0) (h8 : o % 8 = 0)
    (hn : o ≠ 0x38) (hp : s.present i = true) :
    s.writeDev (0x300000100000 + 0x1000 * i + (0x100 * ch + o)) v = s.writeChan i ch o v := by
  generalize ha : 0x300000100000 + 0x1000 * i + (0x100 * ch + o) = a
  have hd : a / 8 * 8 = a := by omega
  have start : regStart a = true := by
    simp only [regStart, Bool.or_eq_true, Bool.and_eq_true, decide_eq_true_eq]
    omega
  have there : (s.devReg a).isNone = false := by
    rw [← ha, devReg_dma s hi (by omega), State.dmaReg, if_pos ⟨hp, by omega⟩]
    rfl
  have hq : (a - 0x300000100000) / 0x1000 = i := by omega
  have hm : a % 0x1000 / 0x100 = ch := by omega
  have hl : a % 0x100 = o := by omega
  simp only [State.writeDev, start, hd, there, hq, hm, hl, Bool.not_true, Bool.or_self, Bool.false_eq_true, if_false]
  rw [if_neg (by omega), if_pos (by omega)]

/-- The scalar registers stand at 0x100 and are guarded (05 Table 5.13). -/
theorem guardedReg_x {k : Nat} (hk : k < 32) : guardedReg (0x100 + 8 * k) = true := by
  simp only [guardedReg, Bool.or_eq_true, decide_eq_true_eq]
  omega

theorem regWrite_x (u : Island) {k : Nat} (hk : k < 32) (v : Dword) :
    u.regWrite (0x100 + 8 * k) v = some (u.setX (BitVec.ofNat 5 k) v) := by
  have hq : (0x100 + 8 * k - 0x100) / 8 = k := by omega
  simp only [Island.regWrite]
  rw [if_neg (by omega), if_neg (by omega), if_neg (by omega), if_pos (by omega), hq]

theorem islandReg_x_isSome (s : State) (i : Nat) {o : Nat} (h : 0x100 ≤ o ∧ o < 0x200) : (s.islandReg i o).isSome := by
  simp [State.islandReg, h]

/-- A guarded register of an island that is BOUND or PAUSED takes the write. -/
theorem writeIsland_open {s : State} {i o : Nat} {v : Dword} {u : Island} (ho : s.regsOpen i = true) (hg : guardedReg o = true)
    (hu : (s.getIsl i).regWrite o v = some u) (h1 : o ≠ 0x28) (h2 : o ≠ 0x84) : s.writeIsland i o v = s.setIsl i u := by
  simp [State.writeIsland, h1, h2, hg, ho, hu]

/-- On an island in another state the write is discarded and logged. -/
theorem writeIsland_closed {s : State} {i o : Nat} {v : Dword} (ho : s.regsOpen i = false) (hg : guardedReg o = true)
    (h1 : o ≠ 0x28) (h2 : o ≠ 0x84) : s.writeIsland i o v = s.regDiscard i := by
  simp [State.writeIsland, h1, h2, hg, ho]

/-- A register of a channel takes the write where its island and the channel rest; else it is discarded and logged. -/
theorem exec_registerWrite_chan {s : State} {i ch o n : Nat} {v : Dword} (hi : i < 256) (hc : ch < 4) (hp : s.present i = true)
    (ho : o < 0xC0) (h8 : o % 8 = 0) (hn : o ≠ 0x38) (hg : chanReg o = true)
    (hx : n = 0x300000100000 + 0x1000 * i + (0x100 * ch + o)) :
    exec (.registerWrite (.dev (BitVec.ofNat 48 n)) v) s = .next (
      if (s.islSt i = stBound ∨ s.islSt i = stPaused) ∧
          (((s.getIsl i).getChan ch).state = 0 ∨ ((s.getIsl i).getChan ch).state = 3)
      then s.modChan i ch (fun c => c.regWrite o v) else s.regDiscard i) := by
  rw [exec_registerWrite_dev s v hx (by omega), writeDev_chan s v hi hc ho h8 hn hp]
  simp [State.writeChan, hg, State.regsOpen]

theorem chanReg_entry {k : Nat} (hk : k < 8) : chanReg (0x80 + 8 * k) = true := by
  simp only [chanReg, Bool.or_eq_true, decide_eq_true_eq]
  omega

theorem chanWrite_entry (c : Chan) {k : Nat} (v : Dword) :
    c.regWrite (0x80 + 8 * k) v = { c with queue := queueWrite c.queue k v } := by
  have hq : (0x80 + 8 * k - 0x80) / 8 = k := by omega
  simp only [Chan.regWrite]
  repeat rw [if_neg (by omega)]
  rw [hq]

/-- Settles O32: the address of each register leads to its guard, and the guard is the statement's. -/
theorem deviceRegisterWritesAreGuarded : Obligations.DeviceRegisterWritesAreGuarded := by
  refine ⟨fun s i k v hi hk hp => ?_, fun s i ch k v hi hc hk hp => ?_, fun s i v hi hp => ⟨?_, ?_⟩, fun s a v h => ?_,
    fun s a v w h8 hw hlo hout => ?_, fun s off v h => ?_, fun s v => ⟨_, rfl, rfl, rfl, rfl, rfl, rfl⟩⟩
  · have write := exec_registerWrite_island (v := v) (n := 0x200000000000 + 0x100000 * i + 0x80000 + 0x100 + 8 * k)
      (o := 0x100 + 8 * k) hi (by omega) hp (by omega) (islandReg_x_isSome s i (by omega)) (by omega)
    refine ⟨fun ho => write.trans ?_, fun hb hq => write.trans ?_⟩
    · rw [writeIsland_open (by simpa [State.regsOpen] using ho) (guardedReg_x hk) (regWrite_x _ hk v) (by omega) (by omega)]
    · rw [writeIsland_closed (by simp [State.regsOpen, hb, hq]) (guardedReg_x hk) (by omega) (by omega)]
      rfl
  · dsimp only
    have desc := exec_registerWrite_chan (v := v) (o := 0x08) (n := 0x300000100000 + 0x1000 * i + 0x100 * ch + 0x08) hi hc hp
      (by omega) (by omega) (by omega) rfl (by omega)
    have entry := exec_registerWrite_chan (v := v) (o := 0x80 + 8 * k) (n := 0x300000100000 + 0x1000 * i + 0x100 * ch + 0x80 + 8 * k)
      hi hc hp (by omega) (by omega) (by omega) (chanReg_entry hk) (by omega)
    refine ⟨fun ho => ⟨?_, ?_⟩, fun ho a ha => ?_⟩
    · rw [desc, if_pos ho]; rfl
    · rw [entry, if_pos ho]; simp only [chanWrite_entry]; rfl
    · rw [if_neg ho] at desc entry
      rcases ha with rfl | rfl
      · exact desc
      · exact entry
  · exact exec_registerWrite_island (o := 0x28) hi (by omega) hp (by omega) rfl (by omega)
  · exact exec_registerWrite_island (o := 0x84) hi (by omega) hp (by omega) rfl (by omega)
  · show Host.Outcome.next (s.writeDev a.toNat v) = _
    simp [State.writeDev, h, State.regRefused]
  · show Host.Outcome.next (s.writeDev a.toNat v) = _
    have hd : a.toNat / 8 * 8 = a.toNat := by omega
    have start : regStart a.toNat = true := by simp [regStart, h8]
    simp only [State.writeDev, start, hd, hw, Option.isNone_some, Bool.not_true, Bool.or_self, Bool.false_eq_true, if_false]
    rw [if_neg (by omega), if_neg (by omega)]
  · show Host.Outcome.next (s.writeBar off.toNat v) = _
    simp [State.writeBar, h, State.barDiscarded]

/-- A command leaves the queue and the part as they are. -/
theorem exec_pending_id {i : Instr} {s t : State} (h : exec i s = .next t) : t.pending = s.pending ∧ t.id = s.id := by
  by_cases hi : Instr.isSupply i = true
  · exact exec_supply_keeps s hi h
  · obtain ⟨hp, hid, -⟩ := kept_eq_iff.mp (exec_keeps s (by simpa using hi) t h)
    exact ⟨hp, hid⟩

/-- Without the lighthouse's supply a tick does nothing. -/
theorem State.tick_unlit {s : State} (h : s.clk.lit = false) : s.tick = s := by simp [State.tick, h]

/-- What a supplied tick does to the queue, the part and the lighthouse's clock. -/
theorem State.tick_fields {s : State} (h : s.clk.lit = true) :
    s.tick.pending = s.pending ∧ s.tick.id = s.id ∧ s.tick.clk.now = s.clk.now + 1 ∧ s.tick.clk.lit = true := by
  simpa only [State.kept, Prod.mk.injEq] using s.tick_kept h

/-- Settles O57: a command keeps the queue's rest and the part, and so does a tick, which runs on an empty queue. -/
theorem everyStepTakesOneCommandAndKeepsTheFuses : Obligations.EveryStepTakesOneCommandAndKeepsTheFuses := by
  intro s t h
  unfold step at h
  split at h
  next hp =>
    cases h
    cases hl : s.clk.lit with
    | true =>
      obtain ⟨hq, hi, -⟩ := State.tick_fields hl
      exact ⟨by rw [hq, hp, List.tail_nil], hi⟩
    | false => rw [State.tick_unlit hl, hp]; exact ⟨rfl, rfl⟩
  next c rest hp =>
    obtain ⟨hq, hi⟩ := exec_pending_id h
    exact ⟨by rw [hq, hp, List.tail_cons], hi⟩

/-- Settles O2: a step on an empty queue is a tick, whose last phase counts it. -/
theorem emptyQueueTicksTheLighthouseCounter : Obligations.EmptyQueueTicksTheLighthouseCounter := by
  have tick : ∀ s : State, s.pending = [] → step s = .next s.tick := fun s hp => by simp only [step, hp]
  refine ⟨fun s hp hl => ?_, fun s hp hl => ?_⟩
  · obtain ⟨hq, -, hn, hl'⟩ := State.tick_fields hl
    exact ⟨s.tick, tick s hp, hn, hl', hq.trans hp⟩
  · rw [tick s hp, State.tick_unlit hl]

/-- Settles O31: every arm of the table is one answer over one update; an absent island and channel 7 are refused. -/
theorem readsThatClearAnswerAndClear : Obligations.ReadsThatClearAnswerAndClear := by
  intro s
  refine ⟨rfl, rfl, rfl, rfl, rfl, rfl, rfl, rfl, rfl, rfl, rfl, rfl, rfl, rfl, rfl, rfl, rfl, rfl, rfl, rfl, rfl, rfl, rfl,
    fun i => ⟨fun h => ?_, fun h => ?_⟩, fun g => ⟨rfl, rfl, rfl⟩,
    fun k => ⟨rfl, rfl, rfl, rfl, fun l => rfl, fun vc => ⟨fun h => ?_, fun h => ?_⟩⟩⟩
  · exact ⟨if_pos h, if_pos h⟩
  · exact ⟨if_neg (by simp [h]), if_neg (by simp [h])⟩
  · exact if_neg h
  · exact if_pos h

/-- Settles O60: the fields of the reset state, read off; its first step is a tick. -/
theorem resetLeavesTheStatedValues : Obligations.ResetLeavesTheStatedValues := by
  refine ⟨rfl, rfl, rfl, rfl, rfl, rfl, rfl, rfl, rfl, rfl, fun _ _ _ => rfl, fun _ => ⟨rfl, rfl⟩, rfl, rfl, rfl, rfl, rfl, rfl,
    rfl, rfl, fun p => ?_, fun p => ?_, rfl, rfl, rfl, rfl, ⟨_, rfl⟩⟩
  · cases p <;> rfl
  · cases p <;> rfl

end Sys2Proof.Machine

/-! # Power gating (01 R22 to R25) -/

namespace Sys2Proof.Machine

theorem mem_groupIslands {g j : Nat} : j ∈ groupIslands g ↔ j / 16 = g := by
  simp only [groupIslands, List.mem_map, List.mem_range]
  exact ⟨fun ⟨k, hk, h⟩ => by omega, fun h => ⟨j % 16, by omega, by omega⟩⟩

theorem nodup_groupIslands (g : Nat) : (groupIslands g).Nodup :=
  List.nodup_range.map fun _ _ h => Nat.add_left_cancel h

theorem State.getGrp_setGrp_ne (s : State) {g k : Nat} (v : Group) (h : k ≠ g) : (s.setGrp g v).getGrp k = s.getGrp k := by
  simp only [getGrp, setGrp_grp, smGet_smSet_ne _ _ _ h]

/-! ### An update of the present islands of a list -/

/-- The update that both ends of a power gating make: at the entry's end of the islands' state, at the wake's of what
gating takes. -/
def State.modPresent (f : Island → Island) (l : List Nat) (s : State) : State :=
  l.foldl (fun s i => if s.present i then s.modIsl i f else s) s

theorem State.setGroupSt_eq (s : State) (g : Nat) (st : BitVec 4) :
    s.setGroupSt g st = s.modPresent (fun v => { v with st := st }) (groupIslands g) := rfl

theorem State.modPresent_cons (f : Island → Island) (i : Nat) (l : List Nat) (s : State) :
    s.modPresent f (i :: l) = (if s.present i then s.modIsl i f else s).modPresent f l := rfl

theorem State.modPresent_eq (f : Island → Island) (l : List Nat) (s : State) :
    s.modPresent f l = { s with isl := (s.modPresent f l).isl } := by
  induction l generalizing s with
  | nil => rfl
  | cons i l ih =>
    rw [modPresent_cons, ih]
    split <;> rfl

theorem State.getIsl_modPresent_of_notMem (f : Island → Island) {l : List Nat} {j : Nat} (hj : j ∉ l) (s : State) :
    (s.modPresent f l).getIsl j = s.getIsl j := by
  induction l generalizing s with
  | nil => rfl
  | cons i l ih =>
    obtain ⟨hne, hl⟩ := not_or.mp (mt List.mem_cons.mpr hj)
    rw [modPresent_cons, ih hl]
    split
    · exact getIsl_setIsl_ne s _ hne
    · rfl

theorem State.getIsl_modPresent_of_mem (f : Island → Island) {l : List Nat} (hl : l.Nodup) {j : Nat} (hj : j ∈ l) (s : State)
    (hp : s.present j = true) : (s.modPresent f l).getIsl j = f (s.getIsl j) := by
  induction l generalizing s with
  | nil => cases hj
  | cons i l ih =>
    obtain ⟨hi, hl⟩ := List.nodup_cons.mp hl
    rw [modPresent_cons]
    rcases List.mem_cons.mp hj with rfl | hj
    · rw [if_pos hp, getIsl_modPresent_of_notMem f hi, getIsl_modIsl]
    · have hne : j ≠ i := fun h => hi (h ▸ hj)
      split
      · rw [ih hl hj (s.modIsl i f) hp, State.modIsl, getIsl_setIsl_ne s _ hne]
      · exact ih hl hj s hp

/-- What an update of a group's present islands does, and that it leaves the rest of the device. -/
theorem State.modPresent_group (f : Island → Island) (g : Nat) (s : State) :
    (∀ j, j / 16 = g → s.present j = true → (s.modPresent f (groupIslands g)).getIsl j = f (s.getIsl j)) ∧
    (∀ j, j / 16 ≠ g → (s.modPresent f (groupIslands g)).getIsl j = s.getIsl j) ∧
    (s.modPresent f (groupIslands g)).mem = s.mem ∧ (s.modPresent f (groupIslands g)).fab = s.fab ∧
    (s.modPresent f (groupIslands g)).part = s.part := by
  refine ⟨fun j hj => getIsl_modPresent_of_mem f (nodup_groupIslands g) (mem_groupIslands.mpr hj) s,
    fun j hj => getIsl_modPresent_of_notMem f (mt mem_groupIslands.mp hj) s, ?_⟩
  rw [modPresent_eq]
  exact ⟨rfl, rfl, rfl⟩

/-! ### The commands of the gating controller -/

section
variable {s : State} {g : BitVec 4} {v : Nat}

theorem exec_groupPowerGatingEntry_of_free (hc : (s.getGrp g.toNat).gate = .clocked) (hf : s.groupFree g.toNat = true)
    (hu : (s.getGrp g.toNat).unbound + 25001 ≤ s.clk.now) :
    exec (.groupPowerGatingEntry g) s =
      .next (s.setGrp g.toNat ⟨.entering s.clk.now, (s.getGrp g.toNat).unbound, false⟩) :=
  congrArg Host.Outcome.next (if_pos ⟨hc, hf, hu⟩)

theorem exec_groupPowerGatingEntry_of_not_clocked (hc : (s.getGrp g.toNat).gate ≠ .clocked) :
    exec (.groupPowerGatingEntry g) s = .next s :=
  congrArg Host.Outcome.next (if_neg fun ⟨h, _⟩ => hc h)

theorem exec_powerGatingEntryDone_early (he : (s.getGrp g.toNat).gate = .entering v) (hn : s.clk.now < v + 5) :
    exec (.powerGatingEntryDone g) s = .next s := by
  show execPowerGatingEntryDone g s = _
  simp only [execPowerGatingEntryDone, he]
  rw [if_neg (by omega)]

theorem exec_powerGatingEntryDone_due (he : (s.getGrp g.toNat).gate = .entering v) (hn : v + 5 ≤ s.clk.now) :
    exec (.powerGatingEntryDone g) s = .next ((s.setGroupSt g.toNat stOff).setGrp g.toNat
      ⟨if (s.getGrp g.toNat).wakeReq then .waking s.clk.now else .off, (s.getGrp g.toNat).unbound, false⟩) := by
  show execPowerGatingEntryDone g s = _
  simp only [execPowerGatingEntryDone, he]
  rw [if_pos hn]

theorem exec_groupWakeComplete_of_not_waking (hw : ∀ w, (s.getGrp g.toNat).gate ≠ .waking w) :
    exec (.groupWakeComplete g) s = .next s := by
  show execGroupWakeComplete g s = _
  unfold execGroupWakeComplete
  dsimp only
  split
  next w h => exact absurd h (hw w)
  next => rfl

theorem exec_groupWakeComplete_early (hw : (s.getGrp g.toNat).gate = .waking v) (hn : s.clk.now < v + 50) :
    exec (.groupWakeComplete g) s = .next s := by
  show execGroupWakeComplete g s = _
  simp only [execGroupWakeComplete, hw]
  rw [if_neg (by omega)]

theorem exec_groupWakeComplete_due (hw : (s.getGrp g.toNat).gate = .waking v) (hn : v + 50 ≤ s.clk.now) :
    ∃ u wakeReq, exec (.groupWakeComplete g) s =
      .next ((s.modPresent Island.powered (groupIslands g.toNat)).setGrp g.toNat ⟨.clocked, u, wakeReq⟩) := by
  show ∃ u wakeReq, execGroupWakeComplete g s = _
  simp only [execGroupWakeComplete, hw]
  rw [if_pos hn]
  exact ⟨_, _, rfl⟩

/-! ### Requests to wake -/

variable {k : Nat}

theorem State.wakeGroup_of_entering (hp : s.groupPresent k = true) (he : (s.getGrp k).gate = .entering v) :
    s.wakeGroup k = s.setGrp k { s.getGrp k with wakeReq := true } := by
  simp only [wakeGroup, hp, he, Bool.not_true, Bool.false_eq_true, if_false]

theorem State.wakeGroup_of_waking (hw : (s.getGrp k).gate = .waking v) : s.wakeGroup k = s := by
  simp only [wakeGroup, hw, ite_self]

theorem State.wakeGroup_of_absent (hp : s.groupPresent k = false) : s.wakeGroup k = s := by
  simp only [wakeGroup, hp, Bool.not_false, if_true]

theorem State.getGrp_wakeGroup_ne {n : Nat} (h : k ≠ n) : (s.wakeGroup n).getGrp k = s.getGrp k := by
  simp only [wakeGroup]
  split
  · rfl
  · split
    · exact getGrp_setGrp_ne s _ h
    · exact getGrp_setGrp_ne s _ h
    · rfl

/-- During entry a request to wake a group is kept, and nothing else of it changes. -/
theorem State.getGrp_wakeGroup_of_entering (hp : s.groupPresent k = true) (he : (s.getGrp k).gate = .entering v) :
    (s.wakeGroup k).getGrp k = { s.getGrp k with wakeReq := true } := by
  rw [wakeGroup_of_entering hp he, getGrp_setGrp]

/-- No request to wake, of whatever group, ends an entry or drops the request that it keeps. -/
theorem State.wakeGroup_keeps_entering (he : (s.getGrp k).gate = .entering v) (n : Nat) :
    ((s.wakeGroup n).getGrp k).gate = .entering v ∧
      ((s.getGrp k).wakeReq = true → ((s.wakeGroup n).getGrp k).wakeReq = true) := by
  by_cases hn : k = n
  · subst hn
    cases hp : s.groupPresent k with
    | true =>
      rw [getGrp_wakeGroup_of_entering hp he]
      exact ⟨he, fun _ => rfl⟩
    | false =>
      rw [wakeGroup_of_absent hp]
      exact ⟨he, fun h => h⟩
  · rw [getGrp_wakeGroup_ne hn]
    exact ⟨he, fun h => h⟩

/-- No request to wake, of whatever group, moves a wake under way. -/
theorem State.wakeGroup_keeps_waking (hw : (s.getGrp k).gate = .waking v) (n : Nat) :
    ((s.wakeGroup n).getGrp k).gate = .waking v := by
  by_cases hn : k = n
  · subst hn
    rw [wakeGroup_of_waking hw, hw]
  · rw [getGrp_wakeGroup_ne hn, hw]

end

/-- Settles O59: in entry only `POWER_GATING_ENTRY_DONE` moves a group, and not before its five ticks; a request to wake sets
the flag that it then reads. -/
theorem powerGatingEntryTakesFiveTicks : Obligations.PowerGatingEntryTakesFiveTicks := by
  refine ⟨fun s g hc hf hu => ?_, fun s g v he => ⟨fun hp => ?_, State.wakeGroup_keeps_entering he, fun hn => ?_, fun hn => ?_⟩,
    fun s g w hw => ⟨exec_groupWakeComplete_early hw, fun hn => ?_, State.wakeGroup_keeps_waking hw⟩⟩
  · exact ⟨_, exec_groupPowerGatingEntry_of_free hc hf hu, by rw [State.getGrp_setGrp], by rw [State.getGrp_setGrp]⟩
  · rw [State.getGrp_wakeGroup_of_entering hp he]
    exact ⟨he, rfl⟩
  · exact ⟨exec_powerGatingEntryDone_early he hn, exec_groupWakeComplete_of_not_waking (by simp [he]),
      exec_groupPowerGatingEntry_of_not_clocked (by simp [he])⟩
  · exact ⟨_, exec_powerGatingEntryDone_due he hn.ge, by rw [State.getGrp_setGrp], by rw [State.getGrp_setGrp, hn]⟩
  · obtain ⟨u, r, h⟩ := exec_groupWakeComplete_due hw hn.ge
    exact ⟨_, h, by rw [State.getGrp_setGrp]⟩

/-- Settles O14: both ends of a gating are one update of the group's present islands, and one of the group. -/
theorem gatingGroupsEnterAndLeavePowerGating : Obligations.GatingGroupsEnterAndLeavePowerGating := by
  refine ⟨fun s g => exec_groupPowerGatingEntry_of_free, fun s g v he hn => ?_, fun s g v hw hn => ?_⟩
  · exact ⟨_, exec_powerGatingEntryDone_due he hn, State.getGrp_setGrp _ _ _, State.modPresent_group _ g.toNat s⟩
  · obtain ⟨u, r, h⟩ := exec_groupWakeComplete_due hw hn
    obtain ⟨inside, rest⟩ := State.modPresent_group Island.powered g.toNat s
    refine ⟨_, h, by rw [State.getGrp_setGrp], fun j hj hp => ?_, rest⟩
    have gated : ((s.modPresent Island.powered (groupIslands g.toNat)).setGrp g.toNat ⟨.clocked, u, r⟩).getIsl j =
        (s.getIsl j).powered := inside j hj hp
    rw [gated]
    exact ⟨rfl, rfl, rfl, rfl, rfl, rfl⟩

end Sys2Proof.Machine

/-! # The array operations start

One equation says what each array-control, feeder and drain slot does once its checks pass, and the laws of the slots
say what starting the operation leaves. -/

namespace Sys2Proof.Machine

/-! ### Bytes of a descriptor -/

theorem leNat_lt (bs : List Byte) : leNat bs < 256 ^ bs.length := by
  induction bs with
  | nil => exact Nat.one_pos
  | cons b t ih =>
    have hb : b.toNat < 256 := b.isLt
    simp only [leNat, List.length_cons, Nat.pow_succ]
    omega

theorem leBytes_leNat (bs : List Byte) : leBytes bs.length (leNat bs) = bs := by
  induction bs with
  | nil => rfl
  | cons b t ih =>
    have hb : b.toNat < 256 := b.isLt
    have hd : (b.toNat + 256 * leNat t) / 256 = leNat t := by omega
    have hm : BitVec.ofNat 8 (b.toNat + 256 * leNat t) = b := BitVec.eq_of_toNat_eq (by rw [BitVec.toNat_ofNat]; omega)
    simp only [List.length_cons, leNat, leBytes, hd, hm, ih]

/-- A format descriptor kept as one word is read back byte by byte. -/
theorem bvBytes_ofNat_leNat {bs : List Byte} (h : bs.length = 32) : bvBytes 32 (BitVec.ofNat 256 (leNat bs)) = bs := by
  have lt : leNat bs < 2 ^ 256 := by
    have := leNat_lt bs
    rwa [h, show (256 : Nat) ^ 32 = 2 ^ 256 by norm_num] at this
  rw [bvBytes, BitVec.toNat_ofNat, Nat.mod_eq_of_lt lt, ← h, leBytes_leNat]

theorem length_spRead (v : Island) (off n : Nat) : (v.spRead off n).length = n := by
  simp [Island.spRead, memRead]

/-! ### What opening a slot leaves -/

@[simp] theorem getIsl_withMem (s : State) (m : Mem) (i : Nat) : ({ s with mem := m } : State).getIsl i = s.getIsl i := rfl

theorem Island.SameRegs.trans {u v x : Island} (h : u.SameRegs v) (h' : v.SameRegs x) : u.SameRegs x := by
  obtain ⟨a1, a2, a3, a4, a5, a6, a7, a8, a9, a10, a11, a12⟩ := h
  obtain ⟨b1, b2, b3, b4, b5, b6, b7, b8, b9, b10, b11, b12⟩ := h'
  exact ⟨a1.trans b1, a2.trans b2, a3.trans b3, a4.trans b4, a5.trans b5, a6.trans b6, a7.trans b7, a8.trans b8,
    a9.trans b9, a10.trans b10, a11.trans b11, a12.trans b12⟩

theorem State.SameBut.trans {t q r : State} {i : Nat} (h : t.SameBut q i) (h' : q.SameBut r i) : t.SameBut r i := by
  obtain ⟨a1, a2, a3, a4, a5, a6, a7, a8, a9, a10, a11⟩ := h
  obtain ⟨b1, b2, b3, b4, b5, b6, b7, b8, b9, b10, b11⟩ := h'
  exact ⟨fun j hj => (a1 j hj).trans (b1 j hj), a2.trans b2, a3.trans b3, a4.trans b4, a5.trans b5, a6.trans b6, a7.trans b7,
    a8.trans b8, a9.trans b9, a10.trans b10, a11.trans b11⟩

section
variable {s r : State} {w : Site} {c : Nat}

theorem opened_sameRegs (r : State) (i : Nat) (idx : BitVec 3) : ((r.opened i idx).getIsl i).SameRegs (r.getIsl i) := by
  rw [opened_getIsl]
  exact ⟨rfl, rfl, rfl, rfl, rfl, rfl, rfl, rfl, rfl, rfl, rfl, rfl⟩

/-- An update of island i of an opened state, and of the error counters, leaves the rest of the state that issued. -/
theorem opened_sameBut (r : State) (i : Nat) (idx : BitVec 3) {m : Mem} (u : Island) (h : m.hbm = (r.opened i idx).mem.hbm) :
    (({ r.opened i idx with mem := m } : State).setIsl i u).SameBut r i :=
  (sameBut_mem (r.opened i idx) i m u h).trans (sameBut_set r i _)

@[simp] theorem opened_sched (i : Nat) (idx : BitVec 3) : ((r.opened i idx).getIsl i).sched = (r.getIsl i).sched := by
  rw [opened_getIsl]

@[simp] theorem opened_getArr (i : Nat) (idx : BitVec 3) (k : Nat) : ((r.opened i idx).getIsl i).getArr k = (r.getIsl i).getArr k := by
  rw [opened_getIsl]; rfl

@[simp] theorem opened_pd (i : Nat) (idx : BitVec 3) : ((r.opened i idx).getIsl i).pd = (r.getIsl i).pd := by
  rw [opened_getIsl]

@[simp] theorem opened_fd (i : Nat) (idx : BitVec 3) : ((r.opened i idx).getIsl i).fd = (r.getIsl i).fd := by
  rw [opened_getIsl]

@[simp] theorem opened_dd (i : Nat) (idx : BitVec 3) : ((r.opened i idx).getIsl i).dd = (r.getIsl i).dd := by
  rw [opened_getIsl]

@[simp] theorem opened_drainKey (i : Nat) (idx : BitVec 3) : ((r.opened i idx).getIsl i).drainKey = (r.getIsl i).drainKey := by
  rw [opened_getIsl]

@[simp] theorem opened_drainSeq (i : Nat) (idx : BitVec 3) : ((r.opened i idx).getIsl i).drainSeq = (r.getIsl i).drainSeq := by
  rw [opened_getIsl]

@[simp] theorem opened_curPc (i : Nat) (idx : BitVec 3) : ((r.opened i idx).getIsl i).curPc = (r.getIsl i).curPc := by
  rw [opened_getIsl]

@[simp] theorem opened_spRead (i : Nat) (idx : BitVec 3) (off n : Nat) :
    ((r.opened i idx).getIsl i).spRead off n = (r.getIsl i).spRead off n := by
  rw [opened_getIsl]; rfl

@[simp] theorem opened_spUe (i : Nat) (idx : BitVec 3) (off n : Nat) :
    ((r.opened i idx).getIsl i).spUe off n = (r.getIsl i).spUe off n := by
  rw [opened_getIsl]; rfl

@[simp] theorem opened_tableOf (i : Nat) (idx : BitVec 3) (k : Nat) (d : FmtDesc) :
    tableOf ((r.opened i idx).getIsl i) k d = tableOf (r.getIsl i) k d := by
  rw [opened_getIsl]; rfl

@[simp] theorem opened_passOf (i t : Nat) (idx k : BitVec 3) (arrays : Byte) (pd : BitVec 4) (xk : BitVec 5) (st swap : Bool)
    (a : BitVec 7) :
    passOf ((r.opened i idx).getIsl i) i t arrays pd xk st swap a k = passOf (r.getIsl i) i t arrays pd xk st swap a k := by
  rw [opened_getIsl]; rfl

@[simp] theorem opened_anchorOf (i : Nat) (idx : BitVec 3) (src : AnchSrc) :
    anchorOf ((r.opened i idx).getIsl i) src = anchorOf (r.getIsl i) src := by
  rw [opened_getIsl]; rfl

theorem opened_passMayIssue (i : Nat) (idx : BitVec 3) (o : PassOp) (swap : Bool) (inj : Nat) :
    PassMayIssue ((r.opened i idx).getIsl i) o swap inj ↔ PassMayIssue (r.getIsl i) o swap inj := by
  rw [opened_getIsl]; rfl

@[simp] theorem opened_seedModeBad (i : Nat) (idx : BitVec 3) (o : SeedOp) (a : Array) (k : Nat) :
    seedModeBad ((r.opened i idx).getIsl i) o a k = seedModeBad (r.getIsl i) o a k := by
  unfold seedModeBad
  rw [opened_spRead]

theorem opened_seedMayIssue (i : Nat) (idx : BitVec 3) (o : SeedOp) :
    SeedMayIssue ((r.opened i idx).getIsl i) o ↔ SeedMayIssue (r.getIsl i) o := by
  simp only [SeedMayIssue, opened_seedModeBad, opened_getArr]

theorem opened_loadMayIssue (i t : Nat) (idx : BitVec 3) (as : List Nat) :
    LoadMayIssue ((r.opened i idx).getIsl i) as t ↔ LoadMayIssue (r.getIsl i) as t := by
  simp only [LoadMayIssue, opened_getArr]

theorem opened_drainMayIssue (i : Nat) (idx : BitVec 3) (o : DrainOp) (d : DrainDesc) :
    DrainMayIssue ((r.opened i idx).getIsl i) o d ↔ DrainMayIssue (r.getIsl i) o d := by
  rw [opened_getIsl]; rfl

end

/-! ### What a slot whose checks pass does -/

/-- An island with more banks claimed for the accesses of a drain's end. -/
def Island.claimed (v : Island) (acc : List (Nat × Nat)) : Island := { v with banks := acc ++ v.banks }

@[simp] theorem claimed_sched (v : Island) (acc : List (Nat × Nat)) : (v.claimed acc).sched = v.sched := rfl
@[simp] theorem claimed_drainSeq (v : Island) (acc : List (Nat × Nat)) : (v.claimed acc).drainSeq = v.drainSeq := rfl
@[simp] theorem claimed_getArr (v : Island) (acc : List (Nat × Nat)) (k : Nat) : (v.claimed acc).getArr k = v.getArr k := rfl
theorem claimed_sameRegs (v : Island) (acc : List (Nat × Nat)) : (v.claimed acc).SameRegs v :=
  ⟨rfl, rfl, rfl, rfl, rfl, rfl, rfl, rfl, rfl, rfl, rfl, rfl⟩

/-- The checks of a load whose extents lie in the scratchpad. -/
theorem loadChecks_none {s : State} {v : Island} {i t : Nat} {as : List Nat} {ext : List (Nat × Nat)} (h : LoadMayIssue v as t)
    (hr : s.WithinScratchpad i ext) :
    firstCheck [ onArrays 0x01 v as fun a => match a.swapInj with
          | some j => decide (t + 4 < j + 256)
          | none => false,
        onArrays 0x04 v as fun a => decide (t < a.loadEnd), s.rangeCheck i ext ] = none := by
  rw [firstCheck_none]
  simp only [List.mem_cons, List.not_mem_nil, or_false]
  rintro x (rfl | rfl | rfl)
  · rw [onArrays_none]
    intro a ha
    split
    · next j hj => simpa using (h a ha).1 j hj
    · rfl
  · rw [onArrays_none]
    intro a ha
    simpa using (h a ha).2
  · rw [rangeCheck_none]; exact hr

/-- What a load reads in its issue cycle: its descriptor, and the codebook table where the format has one (05 R106). -/
def loadReads (i : Nat) (f : FeedDesc) (d : FmtDesc) : List (Nat × Nat) :=
  (f.fmtOff, 32) :: (if tableBytes d = 0 then [] else [(offsetIn i d.tableAddr, tableBytes d)])

theorem loadReads_clean {v : Island} {i : Nat} {f : FeedDesc} {d : FmtDesc} (hu : v.spUe f.fmtOff 32 = false)
    (ht : tableBytes d ≠ 0 → v.spUe (offsetIn i d.tableAddr) (tableBytes d) = false) :
    ∀ e ∈ loadReads i f d, v.spUe e.1 e.2 = false := by
  rw [loadReads, List.forall_mem_cons]
  refine ⟨hu, ?_⟩
  split
  · exact List.forall_mem_nil _
  · next h => exact List.forall_mem_singleton.mpr (ht h)

/-- An instruction whose conditions all hold goes on. -/
theorem checked_passed {s : State} {i t : Nat} {idx : BitVec 3} {k : Check} {f : State → State} (h : k = none) :
    s.checked i idx t k f = f s := by
  rw [h, checked_none]

section
variable {s r : State} {w : Site} {c i : Nat} {v : Island} (hi : s.issue w = (r, some c)) (hw : w.island.toNat = i) (hv : r.getIsl i = v)
include hi hw hv

/-- A pass that the array rules allow starts (05 R116); its format descriptor is judged by the start. -/
theorem exec_pass_admitted {b : Bool} {arrays : Byte} {pd : BitVec 4} {xk : BitVec 5} {st sw : Bool} {a : BitVec 7}
    {swap : Bool} {o : PassOp} (ha : arrays ≠ 0) (hs : swap = (sw || (PassDesc.parse (smGet 0 v.pd pd.toNat)).swap))
    (ho : o = passOf v i c arrays pd xk st swap a (ctlSlot b)) (hp : PassMayIssue v o swap (c + 4))
    (hr : r.WithinScratchpad i (passReads i o)) :
    exec (.pass w b arrays pd xk st sw a) s = .next ((r.opened i (ctlSlot b)).startPass i v.nextOp c o swap) := by
  subst hw hv
  show execPass w b arrays pd xk st sw a s = _
  rw [execPass, if_neg ha, slot_issued _ _ hi]
  simp only [opened_pd, opened_passOf, ← hs, ← ho]
  exact congrArg Host.Outcome.next (checked_passed (passChecks_none ((opened_passMayIssue ..).mpr hp) hr))

/-- A seed that the array rules allow starts (04 R96). Its rows' modes are judged in the issue cycle (log 15). -/
theorem exec_seed_admitted {b : Bool} {array : BitVec 3} {slotBase rowsM1 : BitVec 7} {start : Bool} {xa : BitVec 5} {o : SeedOp}
    (ho : o = ⟨c, array.toNat, slotBase.toNat, rowsM1.toNat + 1, start, (v.getX xa).toNat, v.curPc, ctlSlot b⟩)
    (hp : SeedMayIssue v o) (hr : r.WithinScratchpad i [(o.src, 2048 * o.rows)]) :
    exec (.seed w b array slotBase rowsM1 start xa) s =
      .next ((r.opened i (ctlSlot b)).setIsl i (((r.opened i (ctlSlot b)).getIsl i).seedStart v.nextOp o)) := by
  subst hw hv
  show execSeed w b array slotBase rowsM1 start xa s = _
  rw [execSeed, slot_issued _ _ hi]
  rw [← opened_getX _ (ctlSlot b), ← opened_curPc _ (ctlSlot b)] at ho
  subst ho
  exact congrArg Host.Outcome.next (checked_passed (seedChecks_none ((opened_seedMayIssue ..).mpr hp) hr))

/-- An anchor for slots that exist lands in the next cycle (04 R81). -/
theorem exec_anch_admitted {b : Bool} {arrays : Byte} {src : AnchSrc} {xs : BitVec 5} {first count : Nat} (ha : arrays ≠ 0)
    (hf : first = ((v.getX xs).extractLsb' 0 7).toNat) (hc : count = ((v.getX xs).extractLsb' 8 7).toNat + 1)
    (h : first + count ≤ 128) :
    exec (.anch w b arrays src xs) s = .next ((r.opened i (ctlSlot b)).scheduled i (c + 1) 0
      (.setNext arrays first count (anchorOf v src).1 (anchorOf v src).2)) := by
  subst hw hv
  show execAnch w b arrays src xs s = _
  rw [execAnch, if_neg ha, slot_issued _ _ hi, ← result_eq]
  simp only [opened_getX, opened_anchorOf, ← hf, ← hc]
  exact congrArg Host.Outcome.next (checked_passed (if_neg (by omega)))

/-- A drain that the array rules allow starts, with the banks of its end claimed (04 R93). -/
theorem exec_drain_admitted {arrays : Byte} {dd : BitVec 4} {a : BitVec 7} {xd : BitVec 5} {o : DrainOp} {d : DrainDesc}
    (ha : arrays ≠ 0) (hd : d = DrainDesc.parse (smGet 0 v.dd dd.toNat))
    (ho : o = { cycle := c, arrays := maskArrays arrays, dd := smGet 0 v.dd dd.toNat, slot := d.slot + a.toNat, rows := d.rows,
                off := (v.getX xd).toNat, key := v.drainKey, stepReg := v.stepReg, seq := v.drainSeq, kinds := 0, first := none,
                tileHwm := none, rowHwm := [], bundle := v.curPc, slotIdx := 5 })
    (hp : DrainMayIssue v o d) (hr : r.WithinScratchpad i (drainExtents o d)) :
    exec (.drain w arrays dd a xd) s = .next ((r.opened i 5).setIsl i
      ((((r.opened i 5).getIsl i).claimed (drainBanks o d)).drainStart v.nextOp d.w o)) := by
  subst hw hv
  show execDrain w arrays dd a xd s = _
  rw [execDrain, if_neg ha, slot_issued _ _ hi]
  simp only [opened_getX, opened_curPc, opened_dd, opened_drainKey, opened_drainSeq, opened_stepReg, ← hd, ← ho]
  exact congrArg Host.Outcome.next (checked_passed (drainChecks_none ((opened_drainMayIssue ..).mpr hp) hr))

/-- A load whose descriptor and codebook are legal and readable starts (05 R106); its reads leave at most error counts. -/
theorem exec_loadw_admitted {arrays : Byte} {fd xa : BitVec 5} {f : FeedDesc} {bytes : List Byte} {d : FmtDesc}
    (ha : arrays ≠ 0) (hf : f = FeedDesc.parse (smGet 0 v.fd fd.toNat)) (hb : bytes = v.spRead f.fmtOff 32)
    (hd : d = FmtDesc.parse bytes) (hp : LoadMayIssue v (maskArrays arrays) c) (hbad : loadDescBad i f bytes = false)
    (hr : r.WithinScratchpad i (((List.range (maskArrays arrays).length).zip (maskArrays arrays)).flatMap fun ra =>
      loadExtents i f d ((v.getX xa).toNat + ra.1 * f.array) (scaleBase i d (v.getX (BitVec.ofNat 5 f.scaleX))) ra.1))
    (hu : v.spUe f.fmtOff 32 = false) (ht : tableBytes d ≠ 0 → v.spUe (offsetIn i d.tableAddr) (tableBytes d) = false)
    (hc : fmtIsRounding d.format = false → codebookFault d (tableOf v i d) = none) :
    ∃ m o, exec (.loadw w arrays fd xa) s =
        .next (({ r.opened i 4 with mem := m } : State).setIsl i (((r.opened i 4).getIsl i).loadStart v.nextOp o)) ∧
      m.hbm = (r.opened i 4).mem.hbm ∧ o.cycle = c ∧ o.arrays = (maskArrays arrays).map (fun k => (k, !(v.getArr k).active)) ∧
      FmtDesc.parse (bvBytes 32 o.fmt) = d := by
  have hreads := loadReads_clean hu ht
  obtain ⟨m, hm, hh⟩ := notesSp_clean i (loadReads i f d) (r.opened i 4) fun e he => by
    rw [opened_spUe, hv]; exact hreads e he
  have hany : ((loadReads i f d).any fun e => v.spUe e.1 e.2) = false := by
    simpa only [List.any_eq_false, Bool.not_eq_true] using hreads
  have hcode : (if fmtIsRounding d.format then none else codebookFault d (tableOf v i d)) = none := by
    split
    · rfl
    · next h => exact hc (by simpa using h)
  refine ⟨m, { cycle := c, arrays := (maskArrays arrays).map fun k => (k, !(v.getArr k).active), fd := smGet 0 v.fd fd.toNat,
               fmt := BitVec.ofNat 256 (leNat bytes), table := tableOf v i d, base := (v.getX xa).toNat,
               scale := scaleBase i d (v.getX (BitVec.ofNat 5 f.scaleX)), bundle := v.curPc, slotIdx := 4 }, ?_, hh, rfl, rfl, ?_⟩
  · show execLoadw w arrays fd xa s = _
    rw [execLoadw, if_neg ha, slot_issued _ _ hi, hw]
    simp only [loadReads] at hm hany
    refine congrArg Host.Outcome.next ((checked_passed ?_).trans ?_)
    · simp only [opened_fd, opened_spRead, opened_getX, hv, ← hf, ← hb, ← hd, hbad, Bool.false_eq_true, if_false]
      exact loadChecks_none ((opened_loadMayIssue ..).mpr (hv ▸ hp)) hr
    · simp only [opened_fd, opened_spRead, opened_getX, opened_curPc, opened_getArr, opened_tableOf, opened_spUe, hv, ← hf, ← hb,
        ← hd, hbad, Bool.false_eq_true, if_false, hm, hany, hcode, State.modIsl, getIsl_withMem]
  · rw [bvBytes_ofNat_leNat (hb ▸ length_spRead _ _ _), hd]

end

/-- Settles O11: a slot whose checks pass starts its operation on the state opened for it, and the laws of the slots say
what that leaves. The cycles of a pass's rows and of a load's first block are the model's choice (logs 69, 21), and so is
that a seed's rows are judged in its issue cycle (log 15). -/
theorem arrayOperationsStartAfterTheirChecks : Obligations.ArrayOperationsStartAfterTheirChecks := by
  intro s r w c hi i v n
  refine ⟨?_, ?_, fun b arrays src xs ha h => exec_anch_admitted hi rfl rfl ha rfl rfl h, ?_, ?_⟩
  · intro b arrays pd xk st sw a ha swap o f hp hr h1 h2 h3
    obtain ⟨m, u, ht, hh, hops, hsched, harr, hrest, hregs⟩ := startPass_starts (s := r.opened i (ctlSlot b)) (op := n) (t := c)
      (swap := swap) (o := o) (maskArrays_nodup arrays) h1 h2 ((opened_spUe i (ctlSlot b) _ _).trans h3)
    simp only [opened_sched, opened_getArr] at hsched harr hrest
    refine ⟨_, (exec_pass_admitted hi rfl rfl ha rfl rfl hp hr).trans (congrArg _ ht), ?_⟩
    rw [State.getIsl_setIsl]
    refine ⟨by rw [hops, smGet_smSet_same], (hsched _).mpr (.inr (.inl rfl)), fun k hk => (hsched _).mpr (.inl ⟨k, hk, rfl⟩),
      fun e he => (hsched e).mpr (.inr (.inr he)), fun k hk => ?_, hrest, hregs.trans (opened_sameRegs r i _),
      opened_sameBut r i _ u hh⟩
    rw [harr k hk]
    exact ⟨rfl, rfl, rfl, rfl⟩
  · intro b array slotBase rowsM1 start xa o hp hr
    obtain ⟨hops, hsched, hacc, -, -, hrest, hregs⟩ := seedStart_starts ((r.opened i (ctlSlot b)).getIsl i) n o
    simp only [opened_sched, opened_getArr] at hsched hacc hrest
    refine ⟨_, exec_seed_admitted hi rfl rfl rfl hp hr, ?_⟩
    rw [State.getIsl_setIsl]
    refine ⟨by rw [hops, smGet_smSet_same], fun k hk => (hsched _).mpr (.inl ⟨k, hk, rfl⟩), fun e he => (hsched e).mpr (.inr he),
      hacc, hrest, hregs.trans (opened_sameRegs r i _), opened_sameBut r i _ _ rfl⟩
  · intro arrays fd xa ha as f bytes d base sBase hp hbad hr hu ht hc
    obtain ⟨m, o, he, hh, hcy, has, hd⟩ := exec_loadw_admitted hi rfl rfl ha rfl rfl rfl hp hbad hr hu ht hc
    have hmap : o.arrays.map (·.1) = as := by rw [has, List.map_map]; exact List.map_id as
    obtain ⟨hops, hsched, harr, hrest, hregs⟩ := loadStart_starts ((r.opened i 4).getIsl i) n o (hmap ▸ maskArrays_nodup arrays)
    simp only [opened_sched, opened_getArr, hmap, hcy, hd] at hsched harr hrest
    refine ⟨_, he, ?_⟩
    rw [State.getIsl_setIsl]
    refine ⟨⟨o, by rw [hops, smGet_smSet_same], hcy, has⟩, (hsched _).mpr (.inl rfl), fun e he => (hsched e).mpr (.inr he),
      fun k hk => ?_, hrest, hregs.trans (opened_sameRegs r i _), opened_sameBut r i _ _ hh⟩
    obtain ⟨x, hx⟩ := harr (k, !(v.getArr k).active) (has ▸ List.mem_map_of_mem hk)
    rw [hx]
    exact ⟨rfl, rfl, rfl, rfl, rfl⟩
  · intro arrays dd a xd ha bits d o hp hr
    obtain ⟨hops, hseq, hsched, harr, hrest, hregs⟩ :=
      drainStart_starts (((r.opened i 5).getIsl i).claimed (drainBanks o d)) n d.w o (maskArrays_nodup arrays)
    simp only [claimed_sched, claimed_drainSeq, claimed_getArr, opened_sched, opened_drainSeq, opened_getArr] at hseq hsched harr hrest
    refine ⟨_, exec_drain_admitted hi rfl rfl ha rfl rfl hp hr, ?_⟩
    rw [State.getIsl_setIsl]
    refine ⟨by rw [hops, smGet_smSet_same], fun k hk => (hsched _).mpr (.inr (.inl ⟨k, hk, rfl⟩)), (hsched _).mpr (.inl rfl),
      fun e he => (hsched e).mpr (.inr (.inr he)), hseq, fun k hk => ?_, hrest,
      hregs.trans ((claimed_sameRegs _ _).trans (opened_sameRegs r i _)), opened_sameBut r i _ _ rfl⟩
    obtain ⟨x, hx⟩ := harr k hk
    rw [hx]
    exact ⟨rfl, rfl⟩

end Sys2Proof.Machine

/-! # The island sequencer (05 R112 to R122) -/

namespace Sys2Proof.Machine

/-! ### Which commands are refused -/

theorem exec_next_of_wf {i : Instr} (s : State) (h : i.wf = true) : ∃ t, exec i s = .next t := by
  cases i
  case loop | wait | delay | pass | anch | loadw | drain | vld | vst | vkadd | vrand =>
    exact ⟨_, if_neg (by simpa [Instr.wf, or_iff_not_imp_left] using h)⟩
  case logLostRead | straitDropRead =>
    simp only [exec, execLogLostRead, execStraitDropRead, readOut]
    split <;> exact ⟨_, rfl⟩
  case fiCountRead =>
    simp only [exec, execFiCountRead, readOut]
    split <;> exact ⟨_, rfl⟩
  all_goals exact ⟨_, rfl⟩

theorem exec_refused_of_not_wf {i : Instr} (s : State) (h : i.wf = false) : ∃ m, exec i s = .refused (.illFormed m) := by
  cases i
  case loop | wait | delay | pass | anch | loadw | drain | vld | vst | vkadd | vrand =>
    exact ⟨_, if_pos (by simpa [Instr.wf] using h)⟩
  all_goals cases h

/-- Settles O3: an arm that can refuse is a test of the operands that no image can hold, and every other arm answers a state. -/
theorem everyWellFormedCommandAnswersANextState : Obligations.EveryWellFormedCommandAnswersANextState :=
  fun _ s => ⟨exec_next_of_wf s, exec_refused_of_not_wf s⟩

/-! ### An island with nothing scheduled -/

/-- An island brought to cycle t: what is over by then is forgotten, and a wait goes on. -/
def Island.atCycle (v : Island) (t : Nat) : Island :=
  { v.tidy t with seqCycle := max v.seqCycle t, cntWait := v.cntWait + BitVec.ofNat 64 (v.waited t) }

theorem State.advance_of_sched_nil {s : State} {i : Nat} (t : Nat) (h : (s.getIsl i).sched = []) :
    s.advance i t = s.setIsl i ((s.getIsl i).atCycle t) := by
  have hf : (s.getIsl i).fuel = 0 := by rw [Island.fuel, h]; rfl
  rw [State.advance, hf]
  rfl

/-- Whether an island may issue depends only on its state, its stop, its start and its wait. -/
theorem State.canIssue_setIsl {s : State} {i : Nat} {v : Island} (h1 : v.st = (s.getIsl i).st)
    (h2 : v.stopped = (s.getIsl i).stopped) (h3 : v.starting = (s.getIsl i).starting) (h4 : v.waiting = (s.getIsl i).waiting) :
    (s.setIsl i v).canIssue i = s.canIssue i := by
  simp only [State.canIssue, State.islSt, State.getIsl_setIsl, h1, h2, h3, h4]
  rfl

/-! ### The issue of a bundle -/

/-- The island that issues the bundle at its program counter in cycle t (05 R113, R121). -/
def Island.issuing (v : Island) (t : Nat) : Island :=
  { v with curPc := v.seqPc, curCycle := t, nextIssue := t + 1, loopsWas := v.loops,
           loops := (nextBundle v.seqPc v.loops).2, seqPc := (nextBundle v.seqPc v.loops).1 }

/-- The bundle at the program counter of island i opens in cycle t, and is read (05 R113, 08 R184). -/
def State.openBundle (s : State) (i t : Nat) : State × Option Nat :=
  let v := (s.getIsl i).issuing t
  let u : State := { s.setIsl i v with bundle := smSet s.bundle i v }
  if (List.range 4).any fun k => isUe (v.imemErrOf (4 * v.curPc.toNat + k)) then
    ((u.noteUe i).islandFault i ⟨0x0F, false, v.curPc, 0, 0, ueImem, t⟩, none)
  else
    let c := ((List.range 4).filter fun k => isCorr (v.imemErrOf (4 * v.curPc.toNat + k))).length
    (if c = 0 then u else u.modMem fun m => { m with imCorr := smSet m.imCorr i (satAdd 16 (smGet 0 m.imCorr i) c) }, some t)

/-- A slot that opens a bundle brings its island to the cycle of its next issue and opens the bundle there. -/
theorem State.issue_new (s : State) (i : BitVec 8) (n : Nat) :
    s.issue ⟨i, false, n⟩ =
      if !s.canIssue i.toNat || (s.getIsl i.toNat).ended then (s, none)
      else
        let v := (s.getIsl i.toNat).skip n
        let u := (s.setIsl i.toNat v).advance i.toNat v.nextIssue
        if !u.canIssue i.toNat then (u, none) else u.openBundle i.toNat v.nextIssue := rfl

theorem Island.imemErrOf_clean {v : Island} (h : v.imemErr = []) (h' : v.imemHard = []) (k : Nat) : v.imemErrOf k = none := by
  rw [Island.imemErrOf, h, h']
  rfl

/-- A bundle of an instruction memory without errors just opens. -/
theorem State.openBundle_clean {s : State} {i : Nat} (t : Nat) (h : (s.getIsl i).imemErr = []) (h' : (s.getIsl i).imemHard = []) :
    s.openBundle i t = ({ s.setIsl i ((s.getIsl i).issuing t) with bundle := smSet s.bundle i ((s.getIsl i).issuing t) }, some t) := by
  have clean : ∀ k, ((s.getIsl i).issuing t).imemErrOf k = none := Island.imemErrOf_clean h h'
  have hu : (List.range 4).any (fun k => isUe (((s.getIsl i).issuing t).imemErrOf (4 * ((s.getIsl i).issuing t).curPc.toNat + k))) = false := by
    simp [clean, isUe]
  have hc : ((List.range 4).filter fun k =>
      isCorr (((s.getIsl i).issuing t).imemErrOf (4 * ((s.getIsl i).issuing t).curPc.toNat + k))).length = 0 := by
    simp [clean, isCorr]
  simp only [State.openBundle, hu, hc, Bool.false_eq_true, if_false, if_true]

/-- An island with nothing scheduled comes to its next issue cycle as it is, and opens its bundle there. -/
theorem State.issue_of_sched_nil {s : State} {i : BitVec 8} {v : Island} (hv : s.getIsl i.toNat = v) (hc : s.canIssue i.toNat = true)
    (he : v.ended = false) (hs : v.sched = []) (h1 : v.imemErr = []) (h2 : v.imemHard = []) :
    let u := (v.atCycle v.nextIssue).issuing v.nextIssue
    s.issue ⟨i, false, 0⟩ = ({ s.setIsl i.toNat u with bundle := smSet s.bundle i.toNat u }, some v.nextIssue) := by
  have hadv : (s.setIsl i.toNat v).advance i.toNat v.nextIssue = s.setIsl i.toNat (v.atCycle v.nextIssue) := by
    rw [State.advance_of_sched_nil _ (by rwa [State.getIsl_setIsl]), State.getIsl_setIsl, State.setIsl_setIsl]
  have hcan : (s.setIsl i.toNat (v.atCycle v.nextIssue)).canIssue i.toNat = true := by
    subst hv
    rwa [State.canIssue_setIsl] <;> rfl
  rw [State.issue_new, hc, hv, he]
  simp only [Bool.not_true, Bool.or_self, Bool.false_eq_true, if_false, Island.skip, hadv, hcan]
  rw [State.openBundle_clean _ (by rwa [State.getIsl_setIsl]) (by rwa [State.getIsl_setIsl]), State.getIsl_setIsl,
    State.setIsl_setIsl]
  rfl

/-- Settles O4: the island keeps its registers and scratchpad, and takes its place from the bundle it opens. -/
theorem aBundleIssuesAtTheNextIssueCycle : Obligations.ABundleIssuesAtTheNextIssueCycle := by
  intro s i hc he hs h1 h2
  have isl (u : Island) (b : SMap Island) : ({ s.setIsl i.toNat u with bundle := b } : State).getIsl i.toNat = u :=
    State.getIsl_setIsl s i.toNat u
  refine ⟨_, State.issue_of_sched_nil rfl hc he hs h1 h2, ?_⟩
  rw [isl]
  exact ⟨rfl, rfl, rfl, rfl, rfl, rfl, rfl⟩

/-! ### An island that may not issue -/

theorem State.issue_eq_none {s : State} {w : Site} (h : s.canIssue w.island.toNat = false)
    (h' : w.cont = false ∨ s.canContinue w.island.toNat = false) : s.issue w = (s, none) := by
  rw [State.issue, h]
  rcases h' with h' | h' <;> simp [h']

theorem State.slot_stopped {s : State} {w : Site} {idx : BitVec 3} {f : State → Nat → Nat → Nat → State}
    (h : s.canIssue w.island.toNat = false) (h' : w.cont = false ∨ s.canContinue w.island.toNat = false) : Host.Outcome.next (s.slot w idx f) = (.next s : Out) :=
  congrArg _ (slot_idle idx f (State.issue_eq_none h h'))

/-- Settles O5: no slot changes a state whose island answers no issue cycle (that this is no error is log 24). -/
theorem aStoppedIslandIssuesNothing : Obligations.AStoppedIslandIssuesNothing :=
  fun _ _ h h' => ⟨fun _ _ _ _ => State.slot_stopped h h', fun _ _ _ => State.slot_stopped h h',
    fun _ _ _ => State.slot_stopped h h', fun _ => State.slot_stopped h h', State.slot_stopped h h',
    fun _ _ _ => State.slot_stopped h h', fun _ _ _ _ _ _ => State.slot_stopped h h'⟩

/-! ### Slots that schedule one result -/

section
variable {s r : State} {w : Site} {c : Nat}

/-- A slot whose only effect is one result schedules its landing. -/
theorem slot_result (idx : BitVec 3) (a : Island → Act) (hi : s.issue w = (r, some c)) :
    s.slot w idx (fun s i t op => s.result i op t (a (s.getIsl i))) =
      (r.opened w.island.toNat idx).scheduled w.island.toNat (c + 1) 0
        (a ((r.opened w.island.toNat idx).getIsl w.island.toNat)) :=
  (slot_issued _ _ hi).trans (result_eq _ _ _ _)

theorem exec_alu_issued (hi : s.issue w = (r, some c)) (f : AluOp) (xd xa xb : BitVec 5) :
    exec (.alu w f xd xa xb) s = .next ((r.opened w.island.toNat 0).scheduled w.island.toNat (c + 1) 0
      (.setX xd (aluOp f ((r.getIsl w.island.toNat).getX xa) ((r.getIsl w.island.toNat).getX xb)))) := by
  have e := slot_result 0 (fun v => .setX xd (aluOp f (v.getX xa) (v.getX xb))) hi
  rw [opened_getX, opened_getX] at e
  exact congrArg _ e

/-- Settles O6: each of the five slots is one result, and schedules its landing. -/
theorem scalarResultsLandInTheNextCycle : Obligations.ScalarResultsLandInTheNextCycle := by
  intro s r w c hi i v
  refine ⟨exec_alu_issued hi, fun xd xa imm => ?_, fun xd h imm => ?_, fun hd rec => ?_, fun o xa imm => ?_⟩
  · have e := slot_result 0 (fun v => .setX xd (v.getX xa + imm.signExtend 64)) hi
    rw [opened_getX] at e
    exact congrArg _ e
  · exact congrArg _ (slot_result 0 (fun _ => .setXPart xd h imm) hi)
  · exact congrArg _ (slot_result 0 (fun _ => .setH hd rec) hi)
  · have e := slot_result 0 (fun v => .setStep (if o then v.stepReg + imm.zeroExtend 32 else (v.getX xa).extractLsb' 0 32)) hi
    rw [opened_getX, opened_stepReg] at e
    exact congrArg _ e

theorem Island.getX_setX_same (v : Island) (x : BitVec 5) (d : Dword) : (v.setX x d).getX x = if x = 0 then 0 else d := by
  simp only [Island.getX, Island.setX]
  split
  · rfl
  · exact smGet_smSet_same ..

theorem Island.getX_setX_ne (v : Island) {x y : BitVec 5} (d : Dword) (h : y ≠ x) : (v.setX x d).getX y = v.getX y := by
  simp only [Island.getX, Island.setX]
  split
  · rfl
  · split
    · rfl
    · exact smGet_smSet_ne _ _ _ (mt BitVec.eq_of_toNat_eq h)

/-- A landing that is all an island has scheduled happens by its cycle. -/
theorem State.advance_of_sched_landing {s : State} {i t op : Nat} {a : Act} (h : (s.getIsl i).sched = [⟨t, 0, op, a⟩])
    (ha : a.weight = 1) :
    s.advance i t = ((s.setIsl i { s.getIsl i with sched := [] }).applyEv i ⟨t, 0, op, a⟩).modIsl i (·.atCycle t) := by
  have hf : (s.getIsl i).fuel = 1 := by rw [Island.fuel, h]; exact ha
  rw [State.advance, hf, State.runIsl, h]
  simp only [decide_true, Nat.le_refl, Bool.and_self, Bool.or_true, if_true, State.runIsl]
  rfl

/-- What a slot on an island without a schedule lands in the next cycle has landed when the island comes to it. -/
theorem scheduled_landed {i : Nat} {idx : BitVec 3} {a : Act} (h : (r.getIsl i).sched = []) (ha : a.weight = 1) :
    ((r.opened i idx).scheduled i c 0 a).advance i c =
      ((r.opened i idx).applyEv i ⟨c, 0, (r.getIsl i).nextOp, a⟩).modIsl i (·.atCycle c) := by
  have hs : (((r.opened i idx).scheduled i c 0 a).getIsl i).sched = [⟨c, 0, (r.getIsl i).nextOp, a⟩] := by
    rw [State.scheduled, State.getIsl_modIsl, opened_nextOp, Island.push, opened_sched, h]
    rfl
  have he : ((r.opened i idx).scheduled i c 0 a).setIsl i { ((r.opened i idx).scheduled i c 0 a).getIsl i with sched := [] } =
      r.opened i idx := by
    rw [State.scheduled, State.getIsl_modIsl, State.modIsl, State.setIsl_setIsl, opened_getIsl, ← h]
    simp [State.opened, Island.push]
  rw [State.advance_of_sched_landing hs ha, he]

/-- Settles O7: the landing scheduled at issue is all that happens until the next cycle. -/
theorem anAluResultIsReadFromTheNextCycle : Obligations.AnAluResultIsReadFromTheNextCycle := by
  intro s r w c f xd xa xb hi hs
  refine ⟨_, exec_alu_issued hi f xd xa xb, ?_⟩
  rw [scheduled_landed hs (a := .setX _ _) rfl]
  simp only [State.getIsl_modIsl, State.applyEv, State.getIsl_setIsl]
  exact ⟨Island.getX_setX_same _ _ _, fun x hx => (Island.getX_setX_ne _ _ hx).trans (opened_getX _ _ _)⟩
/-! ### Accesses of the scalar slot -/

/-- An admitted access claims its banks and is counted (05 R104). -/
theorem access_claims {i : Nat} {idx : BitVec 3} {t off n : Nat} {acc : List (Nat × Nat)} {f : State → State}
    (h1 : (r.opened i idx).spOutside i off n = none) (h2 : bankCheck (r.getIsl i).banks acc = none) :
    (r.opened i idx).access i idx t off n acc f = f ((r.opened i idx).modIsl i fun u => (u.claimed acc).count 1 acc.length) :=
  access_admitted i idx t off n acc f h1 (by rwa [opened_getIsl])

@[simp] theorem opened_loopsWas (i : Nat) (idx : BitVec 3) : ((r.opened i idx).getIsl i).loopsWas = (r.getIsl i).loopsWas := by
  rw [opened_getIsl]

/-- Settles O8: an admitted access goes on with its banks claimed. -/
theorem scalarMemorySlotsScheduleTheirAccesses : Obligations.ScalarMemorySlotsScheduleTheirAccesses := by
  intro s r w c hi i v q claim
  refine ⟨?_, ?_, ?_, ?_⟩
  · intro xd xa imm off acc h1 h2
    show execLd w xd xa imm s = _
    rw [execLd, slot_issued _ _ hi, opened_getX]
    exact congrArg _ (access_claims h1 h2)
  · intro xs xa imm off acc h1 h2
    show execSt w xs xa imm s = _
    rw [execSt, slot_issued _ _ hi, opened_getX]
    refine congrArg _ ((access_claims h1 h2).trans ?_)
    have hx : (((r.opened i 0).modIsl i fun u => (u.claimed acc).count 1 acc.length).getIsl i).getX xs = v.getX xs := by
      rw [State.getIsl_modIsl]
      exact opened_getX i 0 xs
    rw [State.modIsl, hx]
    rfl
  · intro hd xa xb a h
    show execHmax w hd xa xb a s = _
    rw [execHmax, slot_issued _ _ hi]
    simp only [opened_getX, opened_getH]
    exact congrArg _ (if_pos h)
  · intro hd xa xb a off n bs h h1 h2
    show execHmax w hd xa xb a s = _
    rw [execHmax, slot_issued _ _ hi]
    simp only [opened_getX, opened_getH]
    exact congrArg _ ((if_neg h).trans (access_claims h1 h2))

/-- Settles O9: each branch instruction is one update of the island opened for it. -/
theorem theBranchSlotSetsTheNextBundle : Obligations.TheBranchSlotSetsTheNextBundle := by
  intro s r w c hi i v q
  refine ⟨?_, ?_, ?_, ?_, ?_, ?_, ?_, ?_⟩
  · intro src count xa last n hw h hn hl
    show execLoop w src count xa last s = _
    rw [execLoop, if_neg (by simpa [or_iff_not_imp_left] using hw), slot_issued _ _ hi]
    simp only [opened_getX, opened_curPc, opened_loopsWas]
    exact congrArg _ ((if_neg (BitVec.not_le.mpr h)).trans ((if_neg hn).trans (if_neg (Nat.not_le.mpr hl))))
  · intro count xa last h hn
    show execLoop w true count xa last s = _
    rw [execLoop, if_neg (by simp), slot_issued _ _ hi]
    simp only [opened_getX, opened_curPc, opened_loopsWas]
    exact congrArg _ ((if_neg (BitVec.not_le.mpr h)).trans (if_pos hn))
  · intro target
    show execJmp w target s = _
    rw [execJmp, slot_issued _ _ hi]
    simp only [opened_loopsWas]
    rfl
  · intro k xa xb target
    show execBcc w k xa xb target s = _
    rw [execBcc, slot_issued _ _ hi]
    simp only [opened_getX, opened_loopsWas, State.modIsl]
    split <;> rfl
  · intro sem count h
    show execWait w sem count s = _
    rw [execWait, if_neg h, slot_issued _ _ hi]
    simp only [State.modIsl, opened_getSem, Island.takeSem]
    rfl
  · intro group sem
    exact congrArg _ (slot_issued _ _ hi)
  · intro n h
    show execDelay w n s = _
    rw [execDelay, if_neg h, slot_issued _ _ hi]
  · exact congrArg _ (slot_issued _ _ hi)

end

end Sys2Proof.Machine

/-! # Waits (05 R120, R122) -/

namespace Sys2Proof.Machine

/-- Settles O10: each of the three events is its rule's condition and, where it holds, one update. -/
theorem waitsEndOrTimeOut : Obligations.WaitsEndOrTimeOut := by
  refine ⟨?_, ?_, ?_⟩
  · intro s i w v hr hs hw ha hc
    refine ⟨s.endWait i.toNat w, ?_, ?_⟩
    · show execWaitSatisfied i s = _
      rw [execWaitSatisfied]
      simp only [v] at hs hw hc
      simp only [hw, hr, hs, ha, hc, Bool.not_false, and_self, if_true]
    · have hi : (s.endWait i.toNat w).getIsl i.toNat = _ := State.getIsl_setIsl s i.toNat _
      rw [hi]
      exact ⟨rfl, smGet_smSet_same .., rfl, rfl, rfl, rfl⟩
  · intro s i w v hr hw hl ht hn
    simp only [v] at hw hl ht hn
    show execWaitTimeout i s = _
    simp only [execWaitTimeout, hw]
    exact congrArg _ (if_pos ⟨hr, hl, ht, hn⟩)
  · intro s i w g v hr hs hw hg ha
    obtain ⟨sem, n, since, c, grp, arrived⟩ := w
    simp only at hg ha
    subst hg ha
    simp only [v] at hs hw
    have e : exec (.barriveArrival i) s = execBarriveArrival i s := rfl
    rw [e]
    simp only [execBarriveArrival, hw]
    constructor
    · intro hq
      simp only [v] at hq
      rw [if_neg (by simp [hr, hs, hq])]
    · intro hq
      simp only [v] at hq
      rw [if_pos (by simp [hq])]

end Sys2Proof.Machine

/-! # The DMA slot (05 R110, R117, 09 R188, R201) -/

namespace Sys2Proof.Machine

@[simp] theorem Island.getChan_modChan (v : Island) (k : Nat) (f : Chan → Chan) : (v.modChan k f).getChan k = f (v.getChan k) :=
  smMod_get ..

theorem Island.getChan_modChan_ne (v : Island) {k j : Nat} (f : Chan → Chan) (h : j ≠ k) :
    (v.modChan k f).getChan j = v.getChan j :=
  smGet_smSet_ne _ _ _ h

@[simp] theorem Chan.starts_enqueue (x : Chan) (sem : BitVec 5) (desc : BitVec 22) (c : Nat) :
    (x.enqueue sem desc c).starts = x.starts ++ [(sem, desc)] := by
  simp [Chan.enqueue, Chan.starts, List.filterMap_map]

@[simp] theorem opened_getChan (r : State) (i : Nat) (idx : BitVec 3) (k : Nat) :
    ((r.opened i idx).getIsl i).getChan k = (r.getIsl i).getChan k := by
  rw [opened_getIsl]; rfl

@[simp] theorem opened_origin (r : State) (i : Nat) (idx : BitVec 3) : ((r.opened i idx).getIsl i).origin = (r.getIsl i).origin := by
  rw [opened_getIsl]

/-- The pause bit that `DPAUSE` or `DRESUME` lands is its channel's alone. -/
theorem Island.paused_setPause (v : Island) (ch : BitVec 2) (on : Bool) :
    ((v.setPause ch on).getChan ch.toNat).paused = on ∧
      ∀ k, k ≠ ch.toNat → ((v.setPause ch on).getChan k).paused = (v.getChan k).paused :=
  ⟨by rw [show v.setPause ch on = v.modChan ch.toNat fun c => { c with paused := on } from rfl, Island.getChan_modChan],
    fun _ hk => congrArg Chan.paused (v.getChan_modChan_ne (fun c => { c with paused := on }) hk)⟩

section
variable {s r : State} {w : Site} {c : Nat}

/-- A start whose descriptor lies in the scratchpad is queued while fewer than eight wait, else refused (09 R188). -/
theorem exec_dstart_issued (hi : s.issue w = (r, some c)) (ch : BitVec 2) {xa : BitVec 5} (sem : BitVec 5)
    (h : ((r.getIsl w.island.toNat).getX xa).toNat < if r.stagingHeld w.island.toNat then stagingOff else spSize) :
    exec (.dstart w ch xa sem) s =
      let i := w.island.toNat
      let d := BitVec.ofNat 22 ((r.getIsl i).getX xa).toNat
      .next (if ((r.getIsl i).getChan ch.toNat).starts.length < 8
        then (r.opened i 7).modChan i ch.toNat fun x => x.enqueue sem d ((r.getIsl i).origin + c + 1)
        else (r.opened i 7).scheduled i (c + 1) 2 (.dmaRefuse ch sem d)) := by
  show execDstart w ch xa sem s = _
  rw [execDstart, slot_issued _ _ hi]
  simp only [opened_getX, opened_getChan]
  have hq : (r.opened w.island.toNat 7).setIsl w.island.toNat (((r.opened w.island.toNat 7).getIsl w.island.toNat).push (c + 1) 2
        (r.getIsl w.island.toNat).nextOp (.dmaRefuse ch sem (BitVec.ofNat 22 ((r.getIsl w.island.toNat).getX xa).toNat))) =
      (r.opened w.island.toNat 7).scheduled w.island.toNat (c + 1) 2
        (.dmaRefuse ch sem (BitVec.ofNat 22 ((r.getIsl w.island.toNat).getX xa).toNat)) := by
    rw [State.scheduled, State.modIsl, opened_nextOp]
    rfl
  rw [hq, opened_origin]
  exact congrArg _ (if_neg (Nat.not_le.mpr h))

/-- Settles O13: a start is one update of its channel, a pause one landing that nothing else precedes. -/
theorem dmaSlotsQueueAndPause : Obligations.DmaSlotsQueueAndPause := by
  intro s r w c hi i v n
  refine ⟨?_, ?_, ?_, ?_, ?_⟩
  · intro ch xa sem hx hl
    refine ⟨_, (exec_dstart_issued hi ch sem hx).trans (congrArg _ (if_pos hl)), ?_⟩
    have hu : ((r.opened i 7).modChan i ch.toNat fun x => x.enqueue sem (BitVec.ofNat 22 (v.getX xa).toNat) (v.origin + c + 1)).getIsl i =
      ((r.opened i 7).getIsl i).modChan ch.toNat fun x => x.enqueue sem (BitVec.ofNat 22 (v.getX xa).toNat) (v.origin + c + 1) :=
      State.getIsl_modIsl ..
    dsimp only
    rw [hu, Island.getChan_modChan, opened_getChan, Chan.starts_enqueue]
    obtain ⟨sameX, -, -, -, -, -, -, -, sameSp, -⟩ := opened_sameRegs r i 7
    refine ⟨rfl, rfl, rfl, fun k hk => ?_, sameX, sameSp, opened_sched i 7, opened_sameBut r i 7 _ rfl⟩
    rw [Island.getChan_modChan_ne _ _ hk, opened_getChan]
  · intro ch xa sem hx hl
    exact (exec_dstart_issued hi ch sem hx).trans (congrArg _ (if_neg (Nat.not_lt.mpr hl)))
  · intro ch
    exact congrArg _ ((slot_issued _ _ hi).trans (result_eq _ _ _ _))
  · intro ch
    exact congrArg _ ((slot_issued _ _ hi).trans (result_eq _ _ _ _))
  · intro hs ch on
    rw [scheduled_landed hs (a := .dmaPause ch on) rfl]
    simp only [State.getIsl_modIsl, State.applyEv, State.getIsl_setIsl]
    obtain ⟨h1, h2⟩ := Island.paused_setPause ((r.opened i 7).getIsl i) ch on
    exact ⟨h1, fun k hk => (h2 k hk).trans (by rw [opened_getChan])⟩
end

end Sys2Proof.Machine

/-! # Strait beats (07 R160, R161, 05 R109) -/

namespace Sys2Proof.Machine

/-- The slot found is one of the mask's, follows u, and no slot of the mask comes before it. -/
theorem slotAfter_some {slots : Byte} {u t : Nat} (h : slotAfter slots u = some t) :
    u < t ∧ slots.getLsbD (t % 8) = true ∧ ∀ n, u < n → n < t → slots.getLsbD (n % 8) = false := by
  obtain ⟨k, hk, rfl⟩ := Option.map_eq_some_iff.mp h
  obtain ⟨hslot, -, hfirst⟩ := List.find?_range_eq_some.mp hk
  refine ⟨by omega, hslot, fun n hn hlt => ?_⟩
  have hearlier := hfirst (n - (u + 1)) (by omega)
  rwa [Nat.add_sub_cancel' hn, Bool.not_eq_true'] at hearlier

theorem Island.departs_some {v : Island} {k : Circuit} {p cycle : Nat} {b : Nat × List Byte} {rest : List (Nat × List Byte)}
    (htx : v.tx p = b :: rest) (h : v.departs k p = some cycle) :
    b.1 < cycle ∧ k.slots.getLsbD (cycle % 8) = true ∧
      (v.lastDep.find? (·.1 = p) = none → ∀ u, b.1 < u → u < cycle → k.slots.getLsbD (u % 8) = false) := by
  rw [Island.departs, htx, List.head?_cons, Option.bind_some] at h
  obtain ⟨hlt, hslot, hfirst⟩ := slotAfter_some h
  cases hd : v.lastDep.find? (·.1 = p) with
  | none =>
    rw [hd] at hlt hfirst
    exact ⟨hlt, hslot, fun _ => hfirst⟩
  | some d =>
    rw [hd] at hlt
    exact ⟨(le_max_left b.1 d.2).trans_lt hlt, hslot, nofun⟩

/-- The island whose head beat of port p has left in a frame cycle, with the beats behind it. -/
def Island.sentBeat (v : Island) (p cycle : Nat) (rest : List (Nat × List Byte)) : Island :=
  ({ v with txq := smSet v.txq p rest, lastDep := smSet v.lastDep p cycle } : Island).count 4 1

section
variable {s : State} {i : BitVec 8} {p : BitVec 2}

theorem exec_straitBeatDepart_due {cycle : Nat} {k : Circuit} {b : Nat × List Byte} {rest : List (Nat × List Byte)}
    (hk : s.circuitFrom i.toNat p.toNat = some k) (htx : (s.getIsl i.toNat).tx p.toNat = b :: rest)
    (hd : (s.getIsl i.toNat).departs k p.toNat = some cycle) (hc : cycle < s.clk.frame + s.tickCycles) :
    exec (.straitBeatDepart i p cycle) s = .next { s.setIsl i.toNat ((s.getIsl i.toNat).sentBeat p.toNat cycle rest) with
      beats := s.beats ++ [⟨k.dst, BitVec.ofNat 2 k.dstPort, cycle + k.latency, b.2⟩] } := by
  show execStraitBeatDepart i p cycle s = _
  simp only [execStraitBeatDepart, hk, htx]
  rw [if_pos ⟨hd, hc⟩, State.modIsl_setIsl]
  rfl

theorem exec_straitBeatDepart_not_due {cycle : Nat} {k : Circuit} {b : Nat × List Byte} {rest : List (Nat × List Byte)}
    (hk : s.circuitFrom i.toNat p.toNat = some k) (htx : (s.getIsl i.toNat).tx p.toNat = b :: rest)
    (hd : (s.getIsl i.toNat).departs k p.toNat ≠ some cycle) : exec (.straitBeatDepart i p cycle) s = .next s := by
  show execStraitBeatDepart i p cycle s = _
  simp only [execStraitBeatDepart, hk, htx]
  rw [if_neg fun h => hd h.1]

theorem exec_straitBeatArrive_due {f : BeatFlight} {rest : List BeatFlight}
    (hf : takeFirst (fun f : BeatFlight => f.island = i && f.port = p) s.beats = some (f, rest))
    (ha : f.arrives < s.clk.frame + s.tickCycles) :
    exec (.straitBeatArrive i p) s = .next (({ s with beats := rest } : State).beatInto i.toNat p.toNat f.arrives f.beat) := by
  show execStraitBeatArrive i p s = _
  simp only [execStraitBeatArrive, hf, ha, if_true]

end

theorem State.beatInto_running {s : State} {i p : Nat} (t : Nat) (b : List Byte) (hr : s.islSt i = stRunning)
    (hroom : ((s.getIsl i).rx p).length < 64) :
    s.beatInto i p t b = s.modIsl i fun v => { v with rxq := smSet v.rxq p (v.rx p ++ [(t, b)]) } := by
  rw [State.beatInto, if_neg (not_not.mpr hr), if_neg (Nat.not_le.mpr hroom)]
  rfl

theorem State.beatInto_not_running {s : State} {i : Nat} (p t : Nat) (b : List Byte) (hr : s.islSt i ≠ stRunning) :
    s.beatInto i p t b = s.modIsl i fun v => { v with straitDrop := dropCount v.straitDrop p } := by
  rw [State.beatInto, if_pos hr]
  rfl

/-- Settles O15: the cycle of a departure is the first slot found after the offer; a departure and an arrival are one update
each. -/
theorem aStraitBeatDepartsInItsSlotAndArrives : Obligations.AStraitBeatDepartsInItsSlotAndArrives := by
  refine ⟨fun v k p cycle b rest => Island.departs_some, ?_, ?_⟩
  · intro s i p cycle k b rest hk htx hc
    refine ⟨fun hd => ⟨_, exec_straitBeatDepart_due hk htx hd hc, ?_⟩, exec_straitBeatDepart_not_due hk htx⟩
    have isl (l : List BeatFlight) (u : Island) : ({ s.setIsl i.toNat u with beats := l } : State).getIsl i.toNat = u :=
      State.getIsl_setIsl s i.toNat u
    rw [isl]
    exact ⟨smGet_smSet_same .., rfl, ⟨rfl, rfl, rfl, rfl, rfl, rfl, rfl, rfl, rfl, rfl, rfl, rfl⟩, sameBut_set s i.toNat _⟩
  · intro s i p f rest hf ha
    rw [exec_straitBeatArrive_due hf ha]
    exact ⟨fun hr hroom => congrArg _ (State.beatInto_running _ _ hr hroom), fun hr => congrArg _ (State.beatInto_not_running _ _ _ hr)⟩

end Sys2Proof.Machine

/-! # Copies of the logs (05 R129, 18 R406) -/

namespace Sys2Proof.Machine

section
variable {s : State} {p : Nat} {q : ExcQueue}

theorem State.excPut_of_none (bs : List Byte) (h : (s.getPart p).exc = none) : s.excPut p bs = s := by
  simp only [excPut, h]

/-- A record enters a queue that has room: its bytes go to slot `PI`, and the index is told to the host (14 Table 14.6). -/
theorem State.excPut_of_room (bs : List Byte) (h : (s.getPart p).exc = some q) (hroom : (q.pi - q.ci).toNat < 2 ^ q.log2) :
    s.excPut p bs = ((s.out (.data (q.base + BitVec.ofNat 64 (32 * (q.pi.toNat % 2 ^ q.log2))) bs)).modPart p
      fun t => { t with exc := some { q with pi := q.pi + 1 } }).out (.index q.piAddr (q.pi + 1)) := by
  simp only [excPut, h]
  rw [if_neg (Nat.not_le.mpr hroom)]

theorem State.excPut_of_full (bs : List Byte) (h : (s.getPart p).exc = some q) (hfull : 2 ^ q.log2 ≤ (q.pi - q.ci).toNat) :
    s.excPut p bs = s.modPart p fun t => { t with exc := some { q with dropped := satAdd 32 q.dropped 1 } } := by
  simp only [excPut, h]
  rw [if_pos hfull]
  rfl
end

theorem satAdd_one_of_lt {x : Word} (h : x.toNat < 2 ^ 32 - 1) : satAdd 32 x 1 = x + 1 := by
  rw [satAdd, min_eq_right (by omega)]
  exact BitVec.eq_of_toNat_eq (by simp)

/-- A fault-log record changes the log's next number by one, or by two after an overrun. -/
theorem State.logFault_flog_ne (s : State) (k : LogKind) (source severity : Byte) (d : Word) :
    (s.logFault k source severity d).flog ≠ s.flog := by
  intro h
  have hseq := congrArg FaultLog.seq h
  have hpush : ∀ (l : FaultLog) source severity k t d, (l.push source severity k t d).seq = l.seq + 1 := by
    intro l source severity k t d
    simp only [FaultLog.push]
    split
    · rfl
    · split <;> rfl
  simp only [State.logFault, hpush] at hseq
  split at hseq
  · bv_omega
  · rw [hpush] at hseq
    have : s.flog.seq + 1 + 1 = s.flog.seq := hseq
    bv_omega

@[simp] theorem State.getPart_modPart (s : State) (p : Nat) (f : Part → Part) : (s.modPart p f).getPart p = f (s.getPart p) :=
  getPart_setPart ..
@[simp] theorem State.getPart_setIsl (s : State) (i p : Nat) (v : Island) : (s.setIsl i v).getPart p = s.getPart p := rfl
@[simp] theorem State.getPart_out (s : State) (p : Nat) (x : HostOut) : (s.out x).getPart p = s.getPart p := rfl

@[simp] theorem State.getIsl_logFault (s : State) (k : LogKind) (source severity : Byte) (d : Word) (i : Nat) :
    (s.logFault k source severity d).getIsl i = s.getIsl i := rfl

/-- The consumer index of partition p's exception queue is read. -/
def State.excRead (s : State) (p : Nat) (ci : Word) : State :=
  s.modPart p fun t => { t with exc := t.exc.map fun q => { q with ci := ci } }

/-- The pending records of island k go to its partition's queue, whose consumer index is `ci`, and its tail moves on. -/
def State.excCopied (s : State) (k : Nat) (ci : Word) : State :=
  let v := s.getIsl k
  let p := v.partition.toNat
  let u := v.excPending.foldl (fun u r => u.excPut p (r.bytes k)) (s.excRead p ci)
  u.setIsl k { u.getIsl k with logTail := v.logHead }

theorem State.exc_excRead (s : State) (p : Nat) (ci : Word) :
    ((s.excRead p ci).getPart p).exc = (s.getPart p).exc.map fun q => { q with ci := ci } := by
  rw [excRead, getPart_modPart]

section
variable {s : State} {i : BitVec 8} {ci : Word} {v : Island} (hv : s.getIsl i.toNat = v)
include hv

theorem exec_exceptionLogCopy_undropped
    (h : ((s.excCopied i.toNat ci).getPart v.partition.toNat).exc.map (·.dropped) = (s.getPart v.partition.toNat).exc.map (·.dropped)) :
    exec (.exceptionLogCopy i ci) s = .next (s.excCopied i.toNat ci) := by
  subst hv
  refine congrArg Host.Outcome.next (if_pos (h.trans ?_))
  show _ = ((s.excRead _ ci).getPart _).exc.map _
  rw [State.exc_excRead, Option.map_map]
  rfl

theorem exec_exceptionLogCopy_dropped
    (h : ((s.excCopied i.toNat ci).getPart v.partition.toNat).exc.map (·.dropped) ≠ (s.getPart v.partition.toNat).exc.map (·.dropped)) :
    exec (.exceptionLogCopy i ci) s =
      .next ((s.excCopied i.toNat ci).logFault .excDropped srcInterp 0 (BitVec.ofNat 32 v.partition.toNat)) := by
  subst hv
  refine congrArg Host.Outcome.next (if_neg fun he => h (he.trans ?_))
  show ((s.excRead _ ci).getPart _).exc.map _ = _
  rw [State.exc_excRead, Option.map_map]
  rfl

theorem State.excCopied_of_none (h : (s.getPart v.partition.toNat).exc = none) :
    s.excCopied i.toNat ci = (s.excRead v.partition.toNat ci).setIsl i.toNat { v with logTail := v.logHead } := by
  have hr : ((s.excRead v.partition.toNat ci).getPart v.partition.toNat).exc = none := by rw [exc_excRead, h]; rfl
  subst hv
  rw [excCopied, List.foldl_fixed' fun r => excPut_of_none _ hr]
  rfl

/-- One pending record: the queue as `excPut` leaves it. -/
theorem State.excCopied_of_one {r : ExcRec} (h : v.excPending = [r]) {u : State}
    (hu : (s.excRead v.partition.toNat ci).excPut v.partition.toNat (r.bytes i.toNat) = u) :
    s.excCopied i.toNat ci = u.setIsl i.toNat { u.getIsl i.toNat with logTail := v.logHead } := by
  subst hv hu
  rw [excCopied, h]
  rfl
end

/-- Settles O39: a copy of at most one record is the queue as `excPut` leaves it, and an interval that dropped one is logged. -/
theorem logsAreCopiedToTheQueueAndTheArchive : Obligations.LogsAreCopiedToTheQueueAndTheArchive := by
  refine ⟨?_, ?_, fun s => rfl⟩
  · intro s i ci v h
    have e := State.excCopied_of_none (i := i) (ci := ci) rfl h
    have hx : ((s.excCopied i.toNat ci).getPart v.partition.toNat).exc = none := by
      rw [e, State.getPart_setIsl, State.exc_excRead, h]
      rfl
    refine ⟨_, exec_exceptionLogCopy_undropped rfl (by rw [hx, h]), ?_⟩
    rw [e]
    exact ⟨State.getIsl_setIsl .., rfl, rfl, rfl⟩
  · intro s i ci q r v p hq hr
    have hread : ((s.excRead p ci).getPart p).exc = some { q with ci := ci } := by rw [State.exc_excRead, hq]; rfl
    constructor
    · intro hroom
      have e := State.excCopied_of_one rfl hr (State.excPut_of_room (r.bytes i.toNat) hread hroom)
      have hx : ((s.excCopied i.toNat ci).getPart p).exc = some { q with ci := ci, pi := q.pi + 1 } := by
        rw [e, State.getPart_setIsl, State.getPart_out, State.getPart_modPart]
      refine ⟨_, exec_exceptionLogCopy_undropped rfl (by rw [hx, hq]; rfl), hx, ?_⟩
      rw [e]
      refine ⟨by rw [State.getIsl_setIsl], ?_, ?_⟩ <;> simp [State.excRead]
    · intro hfull hd
      have e := State.excCopied_of_one rfl hr (State.excPut_of_full (r.bytes i.toNat) hread hfull)
      have hx : ((s.excCopied i.toNat ci).getPart p).exc = some { q with ci := ci, dropped := q.dropped + 1 } := by
        rw [e, ← satAdd_one_of_lt hd, State.getPart_setIsl, State.getPart_modPart]
      have hne : q.dropped + 1 ≠ q.dropped := by bv_omega
      have hlog : (s.excCopied i.toNat ci).flog = s.flog := by simp [e, State.excRead]
      refine ⟨_, exec_exceptionLogCopy_dropped rfl (by rw [hx, hq]; exact fun h => hne (Option.some.inj h)), hx, ?_,
        by rw [← hlog]; exact State.logFault_flog_ne _ _ _ _ _⟩
      rw [State.getIsl_logFault, e, State.getIsl_setIsl]

end Sys2Proof.Machine

/-! # DMA through banks and HBM (05 R103, 08 R172 to R174, 09 R188 to R200) -/

namespace Sys2Proof.Machine

/-! ### Open cycles, the memory port and HBM slots -/

theorem State.bankFrom_of_running {s : State} {i : Nat} (bank c : Nat) (hr : s.islSt i = stRunning) (hs : (s.getIsl i).starting = false)
    (ho : (s.getIsl i).origin ≤ c) :
    (s.bankFrom i bank c - (s.getIsl i).origin) % 8 = 7 ∧ c ≤ s.bankFrom i bank c ∧
      smGet 0 (s.getIsl i).bankAt bank ≤ s.bankFrom i bank c := by
  simp only [State.bankFrom, State.openFrom, hr, hs, Bool.not_false, and_self, if_true]
  omega

theorem slotFrom_some {p : Nat → Bool} {fuel slot t : Nat} (h : slotFrom p fuel slot = some t) : p t = true ∧ slot ≤ t := by
  induction fuel generalizing slot with
  | zero => cases h
  | succ n ih =>
    rw [slotFrom] at h
    split at h
    · next hp =>
      cases h
      exact ⟨hp, le_rfl⟩
    · obtain ⟨hp, hle⟩ := ih h
      exact ⟨hp, by omega⟩

/-- The slot of a request is its island's own and begins at least 40 ns after the request was accepted (08 R172). -/
theorem State.slotFor_some {s : State} {i g at_ slot : Nat} (h : s.slotFor i g at_ = some slot) :
    s.useOf g slot = some (.island i) ∧ at_ + tickUnits ≤ slot * slotUnits := by
  obtain ⟨hp, hle⟩ := slotFrom_some h
  refine ⟨of_decide_eq_true hp, ?_⟩
  have hceil : ceilDiv (at_ + tickUnits) slotUnits ≤ slot := (le_max_left _ _).trans hle
  simp only [ceilDiv, slotUnits] at hceil ⊢
  omega

/-- A read that the port takes for a channel on which the island owns slots (08 R172). -/
theorem State.portTake_read {s q : State} {i ch c slot : Nat} {p : Piece} {a : Nat} (hq : s.openRun i ch = q)
    (ho : q.portOffer i ch = some (.read p a)) (hr : q.offerRefused i (.read p a) = none)
    (hn : slotCount q.mem.mode i (hbmMap q.mem.mode a).1 ≠ 0)
    (hroom : q.recent i (hbmMap q.mem.mode a).1 (q.unitsOf c) < slotCount q.mem.mode i (hbmMap q.mem.mode a).1)
    (hs : q.slotFor i (hbmMap q.mem.mode a).1 (q.unitsOf c) = some slot) :
    s.portTake i ch c = ((q.modChan i ch (·.offered (.read p a))).modIsl i fun v =>
      ({ v with inFlight := v.inFlight ++ [(Offer.read p a).req i ch slot (q.unitsOf c + 84 * tickUnits)],
                portHist := (v.portHist.filter fun h => decide (q.unitsOf c < h.1 + 80 * tickUnits)) ++
                  [(q.unitsOf c, (hbmMap q.mem.mode a).1)] } : Island).count 5 1, true) := by
  have hroom' := Nat.not_le.mpr hroom
  simp only [State.portTake, hq, ho, hr, Offer.addr, hn, hroom', hs, if_false]

section
variable {s : State} {i : BitVec 8}

theorem exec_memoryPortAccept_due (hb : stBound ≤ s.islSt i.toNat) (hf : s.frameHeld = false) {c : Nat}
    (hc : c = max (s.getIsl i.toNat).portAt (s.reached i.toNat)) (ht : c < s.tickEnd i.toNat) :
    exec (.memoryPortAccept i) s = .next ((s.portCycle i.toNat c).kick i.toNat c) := by
  subst hc
  refine congrArg Host.Outcome.next (if_neg ?_)
  rintro (h | h | h)
  · exact absurd hb (BitVec.not_le.mpr h)
  · exact absurd hf (by simp [h])
  · exact absurd ht (Nat.not_lt.mpr h)

theorem exec_hbmIslandAccessComplete_due {r : HbmReq} {rest : List HbmReq}
    (h : takeFirst (fun r : HbmReq => r.served && decide (r.due < tickUnits * (s.clk.now + 1))) (s.getIsl i.toNat).inFlight = some (r, rest)) :
    exec (.hbmIslandAccessComplete i) s =
      .next (((s.modIsl i.toNat fun v => { v with inFlight := rest }).hbmDone r).kick i.toNat (s.cycleAt r.due)) := by
  show execHbmIslandAccessComplete i s = _
  simp only [execHbmIslandAccessComplete, h]

theorem exec_hbmSharedAccess_due {g : Byte} (hf : s.frameHeld = false) (hs : s.sharedSlot g.toNat < 50 * s.clk.now + 50) :
    exec (.hbmSharedAccess g) s = .next (s.serveShared g.toNat (s.sharedSlot g.toNat)) :=
  congrArg Host.Outcome.next (if_neg (by simp [hf, hs]))

theorem exec_bankOpenCycleAccess_due {bank : BitVec 4} {r : BankReq} {rest : List BankReq} {c : Nat}
    (hq : smGet [] (s.getIsl i.toNat).bankQ bank.toNat = r :: rest) (ha : s.bankHeadAt i.toNat bank.toNat = some c)
    (hc : c < s.tickEnd i.toNat) :
    exec (.bankOpenCycleAccess i bank) s = .next ((s.serveHead i.toNat bank.toNat c).kick r.island.toNat c) := by
  show execBankOpenCycleAccess i bank s = _
  simp only [execBankOpenCycleAccess, ha, hq, hc, if_true]

end

/-! ### What the accesses of a channel leave -/

@[simp] theorem State.getIsl_noteSp (s : State) (i off n j : Nat) : (s.noteSp i off n).getIsl j = s.getIsl j := by
  simp only [noteSp]
  split
  · rfl
  · split
    · rfl
    · exact getIsl_logFault ..

@[simp] theorem State.noteSp_hbm (s : State) (i off n : Nat) : (s.noteSp i off n).mem.hbm = s.mem.hbm := by
  simp only [noteSp]
  split
  · rfl
  · split <;> rfl

theorem State.getIsl_modChan_same (s : State) (i k : Nat) (f : Chan → Chan) :
    (s.modChan i k f).getIsl i = (s.getIsl i).modChan k f := getIsl_modIsl ..

/-- A channel's progress leaves the rest of every island. -/
theorem State.getIsl_modChan (s : State) (i k : Nat) (f : Chan → Chan) (j : Nat) :
    ∃ m, (s.modChan i k f).getIsl j = { s.getIsl j with chan := m } := by
  by_cases h : j = i
  · subst h
    exact ⟨_, getIsl_modIsl ..⟩
  · exact ⟨(s.getIsl j).chan, getIsl_setIsl_ne _ _ h⟩

@[simp] theorem State.modChan_mem (s : State) (i k : Nat) (f : Chan → Chan) : (s.modChan i k f).mem = s.mem := rfl

section
variable (s : State) (i k : Nat) (f : Chan → Chan) (j : Nat)

@[simp] theorem State.modChan_sp : ((s.modChan i k f).getIsl j).sp = (s.getIsl j).sp := by
  obtain ⟨m, h⟩ := s.getIsl_modChan i k f j; rw [h]
@[simp] theorem State.modChan_x : ((s.modChan i k f).getIsl j).x = (s.getIsl j).x := by
  obtain ⟨m, h⟩ := s.getIsl_modChan i k f j; rw [h]
@[simp] theorem State.modChan_bankQ : ((s.modChan i k f).getIsl j).bankQ = (s.getIsl j).bankQ := by
  obtain ⟨m, h⟩ := s.getIsl_modChan i k f j; rw [h]
@[simp] theorem State.modChan_spRead (off n : Nat) : ((s.modChan i k f).getIsl j).spRead off n = (s.getIsl j).spRead off n := by
  obtain ⟨m, h⟩ := s.getIsl_modChan i k f j; rw [h]; rfl
@[simp] theorem State.modChan_spUe (off n : Nat) : ((s.modChan i k f).getIsl j).spUe off n = (s.getIsl j).spUe off n := by
  obtain ⟨m, h⟩ := s.getIsl_modChan i k f j; rw [h]; rfl
@[simp] theorem State.getChan_modChan : ((s.modChan i k f).getIsl i).getChan k = f ((s.getIsl i).getChan k) := by
  rw [getIsl_modChan_same, Island.getChan_modChan]
end

/-- Writes of a request change a scratchpad and its stored errors only. -/
theorem Island.foldl_spWrite (l : List (Nat × List Byte)) (v : Island) :
    ∃ e, l.foldl (fun v w => v.spWrite w.1 w.2) v =
      { v with sp := l.foldl (fun m w => memWrite m w.1 w.2) v.sp, spErr := e } := by
  induction l generalizing v with
  | nil => exact ⟨v.spErr, rfl⟩
  | cons w l ih => exact ih (v.spWrite w.1 w.2)

/-- The island after one of its banks has been taken in cycle c, and after the head of that bank's queue has left it. -/
def Island.bankTaken (v : Island) (bank c : Nat) : Island := ({ v with bankAt := smSet v.bankAt bank (c + 1) } : Island).count 1 1
def Island.headTaken (v : Island) (bank c : Nat) (rest : List BankReq) : Island :=
  { v.bankTaken bank c with bankQ := smSet v.bankQ bank rest }

theorem State.claim_eq (s : State) (i bank c : Nat) : s.claim i bank c = s.setIsl i ((s.getIsl i).bankTaken bank c) := rfl

/-- An update of an island that leaves its channels leaves those of every island. -/
theorem State.getChan_setIsl {s : State} {j : Nat} {v : Island} (h : v.chan = (s.getIsl j).chan) (i k : Nat) :
    ((s.setIsl j v).getIsl i).getChan k = (s.getIsl i).getChan k := by
  by_cases hi : i = j
  · subst hi
    rw [getIsl_setIsl, Island.getChan, h]
    rfl
  · rw [getIsl_setIsl_ne _ _ hi]

theorem State.serveHead_of_not_cycling {s : State} {j bank c : Nat} {r : BankReq} {rest : List BankReq}
    (hq : smGet [] (s.getIsl j).bankQ bank = r :: rest) (hc : s.cycling j = false) :
    s.serveHead j bank c = (s.setIsl j ((s.getIsl j).headTaken bank c rest)).serveBank j r := by
  simp only [serveHead, hq, hc, Bool.false_eq_true, if_false]
  rw [claim_eq, modIsl_setIsl]
  rfl

theorem State.serveBank_read {s : State} {j : Nat} {r : BankReq} (h : r.writes = []) (hu : (s.getIsl j).spUe r.off r.len = false) :
    s.serveBank j r = ((s.modChan r.island.toNat r.ch.toNat fun c => { c with inFlight := c.inFlight - 1 }).noteSp j r.off
      r.len).modChan r.island.toNat r.ch.toNat fun c => c.landed (r.pieces.headD 0) ((s.getIsl j).spRead r.off r.len) := by
  simp only [serveBank, h, List.isEmpty_nil, if_true, getIsl_noteSp, modChan_spUe, modChan_spRead, hu, Bool.false_eq_true, if_false]

/-- A read of a bank changes a channel at most, and error counts. -/
theorem State.serveBank_read_keeps {s : State} {j : Nat} {r : BankReq} (h : r.writes = []) :
    ((s.serveBank j r).getIsl j).bankQ = (s.getIsl j).bankQ ∧ ((s.serveBank j r).getIsl j).sp = (s.getIsl j).sp ∧
      ((s.serveBank j r).getIsl j).x = (s.getIsl j).x ∧ (s.serveBank j r).mem.hbm = s.mem.hbm := by
  simp only [serveBank, h, List.isEmpty_nil, if_true]
  split <;> simp

theorem State.serveBank_write_keeps {s : State} {j : Nat} {r : BankReq} (h : r.writes ≠ []) :
    ((s.serveBank j r).getIsl j).bankQ = (s.getIsl j).bankQ ∧
      ((s.serveBank j r).getIsl j).sp = r.writes.foldl (fun m w => memWrite m w.1 w.2) (s.getIsl j).sp ∧
      ((s.serveBank j r).getIsl j).x = (s.getIsl j).x ∧ (s.serveBank j r).mem.hbm = s.mem.hbm := by
  have he : r.writes.isEmpty = false := by simpa using h
  simp only [serveBank, he, Bool.false_eq_true, if_false, modChan_bankQ, modChan_sp, modChan_x, getIsl_modIsl, modChan_mem, modIsl_mem,
    and_true]
  obtain ⟨e, hw⟩ := Island.foldl_spWrite r.writes
    ((s.modChan r.island.toNat r.ch.toNat fun c => { c with inFlight := c.inFlight - 1 }).getIsl j)
  simp [hw]

/-- The head of a bank's queue of a waiting island is served in one step (05 R103). -/
theorem State.serveHead_waiting {s : State} {j bank c : Nat} {r : BankReq} {rest : List BankReq}
    (hq : smGet [] (s.getIsl j).bankQ bank = r :: rest) (hc : s.cycling j = false) :
    let t := s.serveHead j bank c
    smGet [] (t.getIsl j).bankQ bank = rest ∧
      (r.writes = [] → (t.getIsl j).sp = (s.getIsl j).sp ∧
        ((s.getIsl j).spUe r.off r.len = false →
          ((t.getIsl r.island.toNat).getChan r.ch.toNat).pieces =
            (((s.getIsl r.island.toNat).getChan r.ch.toNat).landed (r.pieces.headD 0) ((s.getIsl j).spRead r.off r.len)).pieces)) ∧
      (∀ off bs, r.writes = [(off, bs)] → (t.getIsl j).sp = memWrite (s.getIsl j).sp off bs) ∧
      (t.getIsl j).x = (s.getIsl j).x ∧ t.mem.hbm = s.mem.hbm := by
  rw [serveHead_of_not_cycling hq hc]
  have hj : (s.setIsl j ((s.getIsl j).headTaken bank c rest)).getIsl j = (s.getIsl j).headTaken bank c rest := getIsl_setIsl ..
  by_cases hw : r.writes = []
  · obtain ⟨hbq, hsp, hx, hh⟩ := serveBank_read_keeps (s := s.setIsl j ((s.getIsl j).headTaken bank c rest)) (j := j) hw
    rw [hj] at hbq hsp hx
    refine ⟨?_, fun _ => ⟨hsp, fun hu => ?_⟩, fun off bs h => ?_, hx, hh⟩
    · rw [hbq]; exact smGet_smSet_same ..
    · rw [serveBank_read hw (by rw [hj]; exact hu), getChan_modChan, getIsl_noteSp, getChan_modChan, hj,
        getChan_setIsl (v := (s.getIsl j).headTaken bank c rest) rfl]
      rfl
    · rw [hw] at h; cases h
  · obtain ⟨hbq, hsp, hx, hh⟩ := serveBank_write_keeps (s := s.setIsl j ((s.getIsl j).headTaken bank c rest)) (j := j) hw
    rw [hj] at hbq hsp hx
    refine ⟨?_, fun h => absurd h hw, fun off bs h => ?_, hx, hh⟩
    · rw [hbq]; exact smGet_smSet_same ..
    · rw [hsp, h]; rfl

/-! ### The progress of a channel -/

/-- The island but for channels, bank times and activity counts, which are another's. -/
def Island.LikeBut (u v : Island) : Prop := ∃ c b a, u = { v with chan := c, bankAt := b, acts := a }

/-- A channel of island i has gone on: its scratchpad and registers, every other island and HBM are as before. -/
structure State.Progresses (t s : State) (i : Nat) : Prop where
  rest : t = { s with isl := t.isl, mem := t.mem }
  others : ∀ j, j ≠ i → t.getIsl j = s.getIsl j
  own : (t.getIsl i).LikeBut (s.getIsl i)
  hbm : t.mem.hbm = s.mem.hbm

namespace State.Progresses
variable {s t u : State} {i : Nat}

theorem refl (s : State) (i : Nat) : s.Progresses s i := ⟨rfl, fun _ _ => rfl, ⟨_, _, _, rfl⟩, rfl⟩

theorem trans (h : u.Progresses t i) (h' : t.Progresses s i) : u.Progresses s i := by
  obtain ⟨c, b, a, hu⟩ := h.own
  obtain ⟨c', b', a', ht⟩ := h'.own
  refine ⟨?_, fun j hj => (h.others j hj).trans (h'.others j hj), ⟨c, b, a, by rw [hu, ht]⟩, h.hbm.trans h'.hbm⟩
  rw [h.rest, h'.rest]

theorem setIsl {v : Island} (h : v.LikeBut (s.getIsl i)) : (s.setIsl i v).Progresses s i :=
  ⟨rfl, fun _ hj => getIsl_setIsl_ne s v hj, by rwa [getIsl_setIsl], rfl⟩

theorem claim (s : State) (i bank c : Nat) : (s.claim i bank c).Progresses s i := setIsl ⟨_, _, _, rfl⟩

theorem modChan (s : State) (i k : Nat) (f : Chan → Chan) : (s.modChan i k f).Progresses s i := setIsl ⟨_, _, _, rfl⟩

theorem noteSp {off n : Nat} (h : (s.getIsl i).spUe off n = false) : (s.noteSp i off n).Progresses s i := by
  obtain ⟨m, hm, hh⟩ := noteSp_clean s i off n h
  rw [hm]
  exact ⟨rfl, fun _ _ => rfl, ⟨_, _, _, rfl⟩, hh⟩

variable (h : t.Progresses s i)
include h

theorem like (j : Nat) : (t.getIsl j).LikeBut (s.getIsl j) := by
  by_cases hj : j = i
  · exact hj ▸ h.own
  · rw [h.others j hj]
    exact ⟨_, _, _, rfl⟩

theorem spRead (off n : Nat) : (t.getIsl i).spRead off n = (s.getIsl i).spRead off n := by
  obtain ⟨c, b, a, hv⟩ := h.own; rw [hv]; rfl
theorem spUe (off n : Nat) : (t.getIsl i).spUe off n = (s.getIsl i).spUe off n := by
  obtain ⟨c, b, a, hv⟩ := h.own; rw [hv]; rfl
theorem sp : (t.getIsl i).sp = (s.getIsl i).sp := by obtain ⟨c, b, a, hv⟩ := h.own; rw [hv]
theorem x : (t.getIsl i).x = (s.getIsl i).x := by obtain ⟨c, b, a, hv⟩ := h.own; rw [hv]
theorem sem : (t.getIsl i).sem = (s.getIsl i).sem := by obtain ⟨c, b, a, hv⟩ := h.own; rw [hv]
theorem partition (j : Nat) : (t.getIsl j).partition = (s.getIsl j).partition := by
  obtain ⟨c, b, a, hv⟩ := h.like j; rw [hv]
theorem pipeline (j : Nat) : (t.getIsl j).pipeline = (s.getIsl j).pipeline := by
  obtain ⟨c, b, a, hv⟩ := h.like j; rw [hv]
theorem present (j : Nat) : t.present j = s.present j := by rw [h.rest]; rfl
theorem islSt (j : Nat) : t.islSt j = s.islSt j := by
  obtain ⟨c, b, a, hv⟩ := h.like j
  rw [State.islSt, h.present, hv]
  rfl
theorem cycling (j : Nat) : t.cycling j = s.cycling j := by
  obtain ⟨c, b, a, hv⟩ := h.like j
  rw [State.cycling, h.islSt, hv]
  rfl
theorem admits (p a n : Nat) : t.admits p a n = s.admits p a n := by rw [h.rest]; rfl
theorem stagingHeld (j : Nat) : t.stagingHeld j = s.stagingHeld j := by rw [h.rest]; rfl

theorem sameBut : t.SameBut s i := by
  refine ⟨h.others, h.hbm, ?_⟩
  rw [h.rest]
  exact ⟨rfl, rfl, rfl, rfl, rfl, rfl, rfl, rfl, rfl⟩

theorem samePipe (j k : Nat) : t.samePipe j k = s.samePipe j k := by
  simp only [State.samePipe, h.present, h.islSt, h.partition, h.pipeline]

theorem extent (j : Nat) (lo hi : Int) : t.extent j lo hi = s.extent j lo hi := by
  simp only [State.extent, h.admits, h.partition, h.samePipe, h.stagingHeld]

theorem descCheck (j : Nat) (bs : List Byte) : t.descCheck j bs = s.descCheck j bs := by
  simp only [State.descCheck, State.sideCheck, h.extent]

theorem cqHeader (j : Nat) (bs : List Byte) : t.cqHeader j bs = s.cqHeader j bs := by
  simp only [State.cqHeader, h.admits, h.partition]

/-- A usable queue header is read as it stood before (09 R194). -/
theorem readHeader {off : Nat} {hd : CqHeader × Region} (ha : off % 32 = 0) (hu : (s.getIsl i).spUe off 32 = false)
    (hq : s.cqHeader i ((s.getIsl i).spRead off 32) = some hd) : t.readHeader i off = (.ok hd, t.noteSp i off 32) := by
  have hp := (noteSp ((h.spUe off 32).trans hu)).trans h
  simp only [State.readHeader, ha, ne_eq, not_true_eq_false, if_false, h.spUe, h.spRead, hu, Bool.false_eq_true, hp.cqHeader, hq]

end State.Progresses

@[simp] theorem State.getChan_claim (s : State) (i bank c j k : Nat) :
    ((s.claim i bank c).getIsl j).getChan k = (s.getIsl j).getChan k :=
  getChan_setIsl (v := (s.getIsl i).bankTaken bank c) rfl j k

theorem State.getChan_modChan_ne (s : State) (i : Nat) {k n : Nat} (f : Chan → Chan) (h : n ≠ k) :
    ((s.modChan i k f).getIsl i).getChan n = (s.getIsl i).getChan n := by
  rw [getIsl_modChan_same, Island.getChan_modChan_ne _ _ h]

/-! ### Take-up of a descriptor (09 R193, R194) -/

/-- A channel that has taken a start from its queue. -/
def Chan.tookStart (x : Chan) (sem : BitVec 5) (desc : BitVec 22) (rest : List (BitVec 5 × BitVec 22)) : Chan :=
  { x with queue := rest.map some, desc := desc, sem := sem, err := 0, pos := 0, sub := 0, pieces := [], runOff := none,
           allRead := false, notified := false }

/-- What the take-up of a start does once the channel has taken it from its queue: the reads of the descriptor and of its
queue's header, and the checks. -/
def State.takeUpRead (s : State) (i ch c : Nat) (desc : BitVec 22) (sem : BitVec 5) : State :=
  if desc.toNat % 64 ≠ 0 then s.takeUpFails i ch sem sBadParam 0xFFFF c
  else
    let bs := (s.getIsl i).spRead desc.toNat 64
    let u := s.noteSp i desc.toNat 64
    if (s.getIsl i).spUe desc.toNat 64 then u.takeUpFails i ch sem sMemoryError 0 c
    else
      let hd := (Desc.parse bs).cqOff
      let c := u.bankFrom i (bankOf hd) (c + 1)
      let u := (u.claim i (bankOf hd) c).modChan i ch fun x => { x with dcopy := BitVec.ofNat 512 (leNat bs), since := c + 1 }
      match u.readHeader i hd with
      | (.error st, u) => u.takeUpFails i ch sem st 4 c
      | (.ok _, u) =>
        match u.descCheck i bs with
        | some (st, d) => u.modChan i ch fun x => { x with st := 4, err := d ++ st }
        | none => u.modChan i ch fun x => { x with st := 1 }

theorem Chan.starts_map_some {x : Chan} {l : List (BitVec 5 × BitVec 22)} (h : x.queue = l.map some) : x.starts = l := by
  simp [Chan.starts, h, List.filterMap_map]

section
variable {s : State} {i ch c : Nat} {sem : BitVec 5} {desc : BitVec 22} {rest : List (BitVec 5 × BitVec 22)} {bs : List Byte} {hd : Nat}

/-- A start whose descriptor breaks no rule and whose queue header is usable makes the channel active; nothing but the
channel's own progress changes. -/
theorem State.takeUp_accepted {h : CqHeader × Region} (hs : ((s.getIsl i).getChan ch).starts = (sem, desc) :: rest)
    (ha : desc.toNat % 64 = 0) (hu : (s.getIsl i).spUe desc.toNat 64 = false) (hb : bs = (s.getIsl i).spRead desc.toNat 64)
    (hh : hd = (Desc.parse bs).cqOff) (ha' : hd % 32 = 0) (hu' : (s.getIsl i).spUe hd 32 = false)
    (hq : s.cqHeader i ((s.getIsl i).spRead hd 32) = some h) (hd' : s.descCheck i bs = none) :
    (s.takeUp i ch c).Progresses s i ∧
      (∃ n, ((s.takeUp i ch c).getIsl i).getChan ch =
        { ((s.getIsl i).getChan ch).tookStart sem desc rest with dcopy := BitVec.ofNat 512 (leNat bs), since := n, st := 1 }) ∧
      ∀ k, k ≠ ch → ((s.takeUp i ch c).getIsl i).getChan k = (s.getIsl i).getChan k := by
  have p1 := (Progresses.modChan (s.claim i (bankOf desc.toNat) c) i ch (·.tookStart sem desc rest)).trans
    (Progresses.claim s i (bankOf desc.toNat) c)
  have p2 := (Progresses.noteSp ((p1.spUe desc.toNat 64).trans hu)).trans p1
  generalize hs2 : ((s.claim i (bankOf desc.toNat) c).modChan i ch (·.tookStart sem desc rest)).noteSp i desc.toNat 64 = s2 at p2
  have p3 (n : Nat) := ((Progresses.modChan (s2.claim i (bankOf hd) n) i ch fun x =>
    { x with dcopy := BitVec.ofNat 512 (leNat bs), since := n + 1 }).trans (Progresses.claim s2 i (bankOf hd) n)).trans p2
  have p4 (n : Nat) := (Progresses.noteSp (((p3 n).spUe hd 32).trans hu')).trans (p3 n)
  have ht : ∃ n, s.takeUp i ch c = (((s2.claim i (bankOf hd) n).modChan i ch fun x =>
      { x with dcopy := BitVec.ofNat 512 (leNat bs), since := n + 1 }).noteSp i hd 32).modChan i ch fun x => { x with st := 1 } := by
    refine ⟨s2.bankFrom i (bankOf hd) (c + 1), ?_⟩
    have took : s.takeUp i ch c = (((s.claim i (bankOf desc.toNat) c).modChan i ch (·.tookStart sem desc rest))).takeUpRead i ch c desc sem := by
      rw [takeUp, hs]
      rfl
    rw [took, takeUpRead, if_neg (not_not.mpr ha)]
    simp only [p1.spUe, hu, p1.spRead, ← hb, hs2, ← hh, Bool.false_eq_true, if_false, (p3 _).readHeader ha' hu' hq]
    rw [(p4 _).descCheck, hd']
  obtain ⟨n, ht⟩ := ht
  rw [ht]
  refine ⟨(Progresses.modChan _ i ch _).trans (p4 n), ⟨n + 1, ?_⟩, fun k hk => ?_⟩
  · rw [getChan_modChan, getIsl_noteSp, getChan_modChan, getChan_claim, ← hs2, getIsl_noteSp, getChan_modChan, getChan_claim]
  · rw [getChan_modChan_ne _ _ _ hk, getIsl_noteSp, getChan_modChan_ne _ _ _ hk, getChan_claim, ← hs2, getIsl_noteSp,
      getChan_modChan_ne _ _ _ hk, getChan_claim]
end

/-! ### What an island fault leaves: registers, scratchpads and memory -/

/-- The islands and the memory of the module, which records, events and completions leave. -/
def State.onDie (s : State) : SMap Island × Mem := (s.isl, s.mem)

@[simp] theorem State.onDie_ite (c : Prop) [Decidable c] (a b : State) :
    (if c then a else b).onDie = if c then a.onDie else b.onDie := apply_ite State.onDie c a b

section
variable (s : State)

@[simp] theorem State.logFault_onDie (k : LogKind) (source severity : Byte) (d : Word) : (s.logFault k source severity d).onDie = s.onDie := rfl
@[simp] theorem State.out_onDie (x : HostOut) : (s.out x).onDie = s.onDie := rfl
@[simp] theorem State.setQr_onDie (r : Nat) (q : CompRing) : (s.setQr r q).onDie = s.onDie := rfl
@[simp] theorem State.modHost_onDie (f : HostIf → HostIf) : (s.modHost f).onDie = s.onDie := rfl
@[simp] theorem State.modPins_onDie (f : Pins → Pins) : (s.modPins f).onDie = s.onDie := rfl
@[simp] theorem State.modMgmt_onDie (f : Mgmt → Mgmt) : (s.modMgmt f).onDie = s.onDie := rfl
@[simp] theorem State.setPart_onDie (p : Nat) (v : Part) : (s.setPart p v).onDie = s.onDie := rfl
@[simp] theorem State.raiseMsix_onDie (r : Nat) : (s.raiseMsix r).onDie = s.onDie := by simp [raiseMsix]
@[simp] theorem State.wakeHost_onDie : s.wakeHost.onDie = s.onDie := by simp [wakeHost]
@[simp] theorem State.putRecord_onDie (ring : Nat) (r : Record) : (s.putRecord ring r).onDie = s.onDie := by simp [putRecord]
@[simp] theorem State.post_onDie (ring : Nat) (r : Record) : (s.post ring r).onDie = s.onDie := by simp [post]
@[simp] theorem State.platformEvent_onDie (r : Record) : (s.platformEvent r).onDie = s.onDie := by simp [platformEvent]
@[simp] theorem State.event_onDie (code status detail : Half) (r0 r1 r2 : Word) : (s.event code status detail r0 r1 r2).onDie = s.onDie := by
  simp [event]
@[simp] theorem State.recordOn_onDie (cq : Nat) (p : Packet) (opcode : Half) (kind : BitVec 2) (status detail : Half) (r0 r1 r2 : Word) :
    (s.recordOn cq p opcode kind status detail r0 r1 r2).onDie = s.onDie := by simp [recordOn]
@[simp] theorem State.complete_onDie (c : LongCmd) (status detail : Half) (r0 r1 r2 : Word) :
    (s.complete c status detail r0 r1 r2).onDie = s.onDie := recordOn_onDie ..

@[simp] theorem State.completeAll_onDie (p : LongCmd → Bool) (status detail : Half) : (s.completeAll p status detail).onDie = s.onDie := by
  unfold completeAll
  induction s.cmds.long.filter p generalizing s with
  | nil => rfl
  | cons c l ih => rw [List.foldl_cons, ih, complete_onDie]

@[simp] theorem State.pipeFault_onDie (p : Nat) : (s.pipeFault p).onDie = s.onDie := by simp [pipeFault]
end

theorem State.getIsl_of_onDie {s t : State} (h : t.onDie = s.onDie) (j : Nat) : t.getIsl j = s.getIsl j :=
  congrArg (fun d : SMap Island × Mem => smGet Island.reset d.1 j) h

theorem State.mem_of_onDie {s t : State} (h : t.onDie = s.onDie) : t.mem = s.mem := congrArg Prod.snd h

@[simp] theorem Island.logExc_sp (v : Island) (r : ExcRec) : (v.logExc r).sp = v.sp := by
  unfold logExc; split <;> rfl
@[simp] theorem Island.logExc_x (v : Island) (r : ExcRec) : (v.logExc r).x = v.x := by
  unfold logExc; split <;> rfl

/-- The island that a first fault stops, its exception record logged (05 R126). -/
def Island.stoppedBy (v : Island) (f : FaultInfo) (r : ExcRec) : Island :=
  { v.pauseChans.logExc r with stopped := true, st := stFaulted, fault := f.word, faultAt := f.cycle, waiting := none }

/-- A fault of an island is, on the die, an update of that island that leaves its scratchpad and its X registers. -/
theorem State.islandFault_onDie (s : State) (i : Nat) (f : FaultInfo) :
    ∃ v : Island, v.sp = (s.getIsl i).sp ∧ v.x = (s.getIsl i).x ∧ (s.islandFault i f).onDie = (s.setIsl i v).onDie := by
  let r : ExcRec := ⟨f.word, s.now, 1, (s.getIsl i).pipeline, f.bundle, f.slot, BitVec.ofNat 32 f.cycle⟩
  by_cases h : (s.getIsl i).fault.msb = true
  · exact ⟨(s.getIsl i).logExc r, Island.logExc_sp .., Island.logExc_x .., congrArg onDie (if_pos h)⟩
  · refine ⟨(s.getIsl i).stoppedBy f r, Island.logExc_sp .., Island.logExc_x .., (congrArg onDie (if_neg h)).trans ?_⟩
    rw [pipeFault_onDie, logFault_onDie, event_onDie]
    rfl

/-- A fault of an island leaves its scratchpad, its X registers and the memory. -/
theorem State.islandFault_keeps (s : State) (i : Nat) (f : FaultInfo) :
    ((s.islandFault i f).getIsl i).sp = (s.getIsl i).sp ∧ ((s.islandFault i f).getIsl i).x = (s.getIsl i).x ∧
      (s.islandFault i f).mem = s.mem := by
  obtain ⟨v, hsp, hx, h⟩ := s.islandFault_onDie i f
  rw [getIsl_of_onDie h, mem_of_onDie h, getIsl_setIsl]
  exact ⟨hsp, hx, rfl⟩

/-- An increment adds 1 to a semaphore below its bound; at the bound it is a fault of the island (05 R120). Either leaves
the scratchpad, the X registers and the memory. -/
theorem State.semInc_keeps (s : State) (i : Nat) (sem : BitVec 5) :
    ((s.getIsl i).getSem sem ≠ 0xFFFF → ((s.semInc i sem).getIsl i).getSem sem = (s.getIsl i).getSem sem + 1) ∧
      ((s.semInc i sem).getIsl i).sp = (s.getIsl i).sp ∧ ((s.semInc i sem).getIsl i).x = (s.getIsl i).x ∧
      (s.semInc i sem).mem = s.mem := by
  by_cases h : (s.getIsl i).getSem sem = 0xFFFF
  · rw [show s.semInc i sem = s.looseFaultAt i 0x12 sem.toNat (s.getIsl i).seqCycle from if_pos h]
    exact ⟨fun hn => absurd h hn, islandFault_keeps ..⟩
  · rw [show s.semInc i sem = s.setIsl i ((s.getIsl i).setSem sem ((s.getIsl i).getSem sem + 1)) from if_neg h, getIsl_setIsl]
    exact ⟨fun _ => smGet_smSet_same .., rfl, rfl, rfl⟩

/-! ### The completion of a transfer (09 R195) -/

@[simp] theorem Island.spWrite_sp (v : Island) (off : Nat) (bs : List Byte) : (v.spWrite off bs).sp = memWrite v.sp off bs := rfl

/-- The state after a write of an island's scratchpad. -/
def State.written (s : State) (i off : Nat) (bs : List Byte) : State := s.setIsl i ((s.getIsl i).spWrite off bs)

theorem State.getIsl_written (s : State) (i off : Nat) (bs : List Byte) : (s.written i off bs).getIsl i = (s.getIsl i).spWrite off bs :=
  getIsl_setIsl ..

theorem State.cycling_written (s : State) (i off : Nat) (bs : List Byte) : (s.written i off bs).cycling i = s.cycling i := by
  simp only [cycling, islSt, getIsl_written]
  rfl

section
variable {s : State} {i : Nat}

/-- Two updates of one island are one. -/
theorem State.modIsl_modIsl (s : State) (i : Nat) (f g : Island → Island) : (s.modIsl i f).modIsl i g = s.modIsl i fun v => g (f v) :=
  modIsl_setIsl ..

/-- The island after the last write of a channel's record, in cycle d (09 R195). -/
def Island.recordWritten (v : Island) (ch hd d : Nat) : Island :=
  ({ v with cqAt := smSet v.cqAt hd (d + 1) } : Island).modChan ch (·.recordDone false d)

theorem Island.recordWritten_keeps (v : Island) (ch hd d : Nat) (sem : BitVec 5) :
    (v.recordWritten ch hd d).sp = v.sp ∧ (v.recordWritten ch hd d).x = v.x ∧ (v.recordWritten ch hd d).getSem sem = v.getSem sem :=
  ⟨rfl, rfl, rfl⟩

theorem Island.recordWritten_frees (v : Island) (ch hd d : Nat) :
    ((v.recordWritten ch hd d).getChan ch).st = 0 ∧ ((v.recordWritten ch hd d).getChan ch).dcopy = 0 := by
  rw [recordWritten, getChan_modChan]
  exact ⟨rfl, rfl⟩

/-- On an island that waits, a write takes place at once, and so does an increment. -/
theorem State.writeAt_waiting (h : s.cycling i = false) (off : Nat) (bs : List Byte) (c : Nat) : s.writeAt i off bs c = s.written i off bs := by
  simp only [writeAt, h, Bool.false_eq_true, if_false, modIsl, written]

theorem State.semAt_waiting (h : s.cycling i = false) (sem : BitVec 5) (c : Nat) : s.semAt i sem c = s.semInc i sem := by
  simp only [semAt, h, Bool.false_eq_true, if_false]

/-- `PI` + 1 is written into the header, the semaphore incremented, and the channel free (09 R195). -/
theorem State.writePi_waiting (h : s.cycling i = false) (ch hd : Nat) (pi : Word) (sem : BitVec 5) (c : Nat) :
    (((s.writePi i ch hd pi sem false c).getIsl i).getChan ch).st = 0 ∧ (((s.writePi i ch hd pi sem false c).getIsl i).getChan ch).dcopy = 0 ∧
      ((s.writePi i ch hd pi sem false c).getIsl i).sp = memWrite (s.getIsl i).sp (hd + 12) (leBytes 4 (pi + 1).toNat) ∧
      ((s.getIsl i).getSem sem ≠ 0xFFFF → ((s.writePi i ch hd pi sem false c).getIsl i).getSem sem = (s.getIsl i).getSem sem + 1) ∧
      ((s.writePi i ch hd pi sem false c).getIsl i).x = (s.getIsl i).x ∧ (s.writePi i ch hd pi sem false c).mem.hbm = s.mem.hbm := by
  have hclaim := Progresses.claim s i (bankOf hd) (s.bankFrom i (bankOf hd) (c + 1))
  generalize hd' : s.bankFrom i (bankOf hd) (c + 1) = d at hclaim
  have hcyc := (hclaim.cycling i).trans h
  obtain ⟨hsem, hsp, hx, hm⟩ := semInc_keeps ((s.claim i (bankOf hd) d).written i (hd + 12) (leBytes 4 (pi + 1).toNat)) i sem
  have ht : s.writePi i ch hd pi sem false c =
      ((((s.claim i (bankOf hd) d).written i (hd + 12) (leBytes 4 (pi + 1).toNat)).semInc i sem).modIsl i
        (·.recordWritten ch hd d)) := by
    rw [writePi, hd', writeAt_waiting hcyc, semAt_waiting ((cycling_written ..).trans hcyc), modChan, modIsl_modIsl]
    rfl
  generalize ((s.claim i (bankOf hd) d).written i (hd + 12) (leBytes 4 (pi + 1).toNat)).semInc i sem = u at ht hsem hsp hx hm
  obtain ⟨keptSp, keptX, keptSem⟩ := (u.getIsl i).recordWritten_keeps ch hd d sem
  obtain ⟨freed, dcopyOff⟩ := (u.getIsl i).recordWritten_frees ch hd d
  rw [getIsl_written] at hsem hsp hx
  rw [ht, getIsl_modIsl, keptSp, keptX, keptSem, hsp, hx, ← hclaim.sp, ← hclaim.x, modIsl_mem, hm]
  refine ⟨freed, dcopyOff, rfl, fun hn => ?_, rfl, hclaim.hbm⟩
  have hold : (((s.claim i (bankOf hd) d).getIsl i).spWrite (hd + 12) (leBytes 4 (pi + 1).toNat)).getSem sem = (s.getIsl i).getSem sem :=
    congrArg (fun m => smGet 0 m sem.toNat) hclaim.sem
  rw [hold] at hsem
  exact hsem hn

/-- The record of a transfer goes to its slot of a queue in the scratchpad that has room; what follows writes `PI` (09 R195). -/
theorem State.writeRecord_waiting {h : CqHeader} {off : Nat} {r : RecordOf} (ch c : Nat) (ha : r.cqOff % 32 = 0)
    (hu : (s.getIsl i).spUe r.cqOff 32 = false) (hq : s.cqHeader i ((s.getIsl i).spRead r.cqOff 32) = some (h, .sp i off))
    (hroom : (h.pi - h.ci).toNat ≠ 2 ^ h.log2) (hc : s.cycling i = false) :
    ∃ (t : State) (w : Nat) (k : Dword), t.Progresses s i ∧ s.writeRecord i ch r c =
      (t.written i (off + 32 * (h.pi.toNat % 2 ^ h.log2)) (r.bytes k)).writePi i ch r.cqOff h.pi r.sem r.refused w := by
  have p1 := Progresses.claim s i (bankOf r.cqOff) c
  have p2 := (Progresses.noteSp ((p1.spUe r.cqOff 32).trans hu)).trans p1
  generalize hn : (s.claim i (bankOf r.cqOff) c).noteSp i r.cqOff 32 = u at p2
  generalize hw : 32 * (h.pi.toNat % 2 ^ h.log2) = w
  have p3 := (Progresses.claim u i (bankOf (off + w)) (u.bankFrom i (bankOf (off + w)) (c + 1))).trans p2
  refine ⟨_, u.bankFrom i (bankOf (off + w)) (c + 1), BitVec.ofNat 64 (u.unitsOf (u.bankFrom i (bankOf (off + w)) (c + 1)) / tickUnits), p3, ?_⟩
  simp only [writeRecord, p1.readHeader ha hu hq, hn, hw, hroom, if_false, writeAt_waiting ((p3.cycling i).trans hc)]

theorem Chan.record_bytes (x : Chan) (ch : BitVec 2) (k : Dword) : (x.record ch.toNat).bytes k =
    dmaRecord (x.err.extractLsb' 0 16) (x.err.extractLsb' 16 16) ch x.sem x.desc x.elements k := by
  rw [record, BitVec.ofNat_toNat, BitVec.setWidth_eq]

theorem exec_dmaCompletion_due {i : BitVec 8} {ch : BitVec 2} {c : Nat} (h : s.completeAt i.toNat ch.toNat = some c)
    (hc : c < s.tickEnd i.toNat) : exec (.dmaCompletion i ch) s = .next (s.completeStep i.toNat ch.toNat c) := by
  show execDmaCompletion i ch s = _
  simp only [execDmaCompletion, h, hc, if_true]

/-- With no record on its way to HBM and no refused start, a completion step begins the record of the transfer. -/
theorem State.completeStep_transfer {ch : Nat} (c : Nat) (hr : ((s.getIsl i).getChan ch).recOut = none)
    (hf : ((s.getIsl i).getChan ch).refused = []) :
    s.completeStep i ch c = s.writeRecord i ch (((s.getIsl i).getChan ch).record ch) c := by
  simp only [completeStep, hr, Chan.refusedFirst, hf]

end

/-! ### The take-up of a waiting start -/

theorem exec_dmaDescriptorTakeUp_due {s : State} {i : BitVec 8} {ch : BitVec 2} {c : Nat} (h : s.takeUpAt i.toNat ch.toNat = some c)
    (hc : c < s.tickEnd i.toNat) : exec (.dmaDescriptorTakeUp i ch) s = .next (s.takeUp i.toNat ch.toNat c) := by
  show execDmaDescriptorTakeUp i ch s = _
  simp only [execDmaDescriptorTakeUp, h, hc, if_true]

/-- An idle, unpaused channel of a bound island takes up its first waiting start as the descriptor's bank is open and idle. -/
theorem State.takeUpAt_waiting {s : State} {i ch : Nat} {sem : BitVec 5} {desc : BitVec 22} {rest : List (BitVec 5 × BitVec 22)}
    (hs : ((s.getIsl i).getChan ch).starts = (sem, desc) :: rest) (hst : ((s.getIsl i).getChan ch).st = 0)
    (hp : ((s.getIsl i).getChan ch).paused = false) (hr : ((s.getIsl i).getChan ch).recOut = none) (hb : stBound ≤ s.islSt i)
    (hq : smGet [] (s.getIsl i).bankQ (bankOf desc.toNat) = []) :
    s.takeUpAt i ch = some (s.bankFrom i (bankOf desc.toNat) (max ((s.getIsl i).getChan ch).since (s.reached i))) := by
  simp [takeUpAt, hs, hst, hp, hr, BitVec.not_lt.mpr hb, Island.bankIdle, hq]

/-! ### The obligation -/

/-- Settles O16: each command serves what is due in its cycle or slot. A channel that goes on changes its own progress alone
(`State.Progresses`); the record of a transfer is two writes of the scratchpad and an increment. That transfers move in
pieces, that a completion clears `CH_DCOPY` and how a record reaches its queue are the model's choices (log 20, 37, 88). -/
theorem dmaMovesBytesThroughBanksAndHbm : Obligations.DmaMovesBytesThroughBanksAndHbm := by
  refine ⟨fun s i bank c hr hs ho => State.bankFrom_of_running bank c hr hs ho, ?_, ?_, ?_, ?_, ?_, ?_, ?_⟩
  · intro s i ch sem desc rest h v x bs hd hs hst hp hr hb hq hc ha hu ha' hu' hh hd'
    have hexec := exec_dmaDescriptorTakeUp_due (State.takeUpAt_waiting hs hst hp hr hb hq) hc
    generalize s.bankFrom i.toNat (bankOf desc.toNat) (max x.since (s.reached i.toNat)) = c at hexec
    obtain ⟨progress, ⟨n, taken⟩, other⟩ := State.takeUp_accepted (c := c) hs ha hu rfl rfl ha' hu' hh hd'
    refine ⟨_, hexec, ?_⟩
    dsimp only
    rw [taken]
    exact ⟨rfl, rfl, rfl, rfl, Chan.starts_map_some rfl, other, progress.x, progress.sp, progress.sem, progress.sameBut⟩
  · exact fun s j bank r rest c hq ha hc => ⟨exec_bankOpenCycleAccess_due hq ha hc, fun hcyc => State.serveHead_waiting hq hcyc⟩
  · exact fun s i hb hf hc => exec_memoryPortAccept_due hb hf rfl hc
  · intro s i ch c slot p a q g ho hr hn hroom hs
    have ht := State.portTake_read (c := c) (q := q) rfl ho hr hn hroom hs
    rw [ht]
    exact ⟨rfl, by rw [State.getIsl_modIsl, State.modChan, State.getIsl_modIsl]; rfl, State.slotFor_some hs⟩
  · exact fun s i r rest h => exec_hbmIslandAccessComplete_due h
  · exact fun s g r rest _ hf hs => exec_hbmSharedAccess_due hf hs
  · intro s i ch c off h v x hd w hr hf _ hat hc ha hu hq hroom hcyc
    obtain ⟨t, w', k, progress, ht⟩ := State.writeRecord_waiting (r := x.record ch.toNat) ch.toNat c ha hu hq hroom hcyc
    have hexec : exec (.dmaCompletion i ch) s =
        .next ((t.written i.toNat (off + w) ((x.record ch.toNat).bytes k)).writePi i.toNat ch.toNat hd h.pi x.sem false w') := by
      rw [exec_dmaCompletion_due hat hc, State.completeStep_transfer c hr hf, ht]
      rfl
    have hcyc' := (State.cycling_written t i.toNat (off + w) ((x.record ch.toNat).bytes k)).trans ((progress.cycling i.toNat).trans hcyc)
    obtain ⟨freed, dcopyOff, hsp, hsem, hx, hm⟩ := State.writePi_waiting hcyc' ch.toNat hd h.pi x.sem w'
    have hold : ((t.getIsl i.toNat).spWrite (off + w) ((x.record ch.toNat).bytes k)).getSem x.sem = v.getSem x.sem :=
      congrArg (fun m => smGet 0 m x.sem.toNat) progress.sem
    rw [State.getIsl_written] at hsp hsem hx
    rw [hold] at hsem
    rw [hexec]
    refine ⟨_, k, rfl, freed, dcopyOff, hsp.trans ?_, hsem, hx.trans progress.x, hm.trans progress.hbm⟩
    rw [Island.spWrite_sp, progress.sp, Chan.record_bytes]

end Sys2Proof.Machine

/-! # The vector slot (06 R131 to R147, Table 6.4) -/

namespace Sys2Proof.Machine

section
variable {s r : State} {w : Site} {c : Nat}

/-- The vector result that a slot reads off its island's registers, which opening the slot keeps, lands n cycles on. -/
theorem slot_vresult (n : Nat) (a : Island → Act) (hi : s.issue w = (r, some c))
    (ha : a ((r.opened w.island.toNat 6).getIsl w.island.toNat) = a (r.getIsl w.island.toNat)) :
    s.slot w 6 (fun s i t op => s.vresult i op t n (a (s.getIsl i))) =
      (r.opened w.island.toNat 6).vresult w.island.toNat (r.getIsl w.island.toNat).nextOp c n (a (r.getIsl w.island.toNat)) := by
  rw [slot_issued _ _ hi, ha]

/-- A reduction of VA in the tree of R137 lands its lane in 14 cycles. -/
theorem slot_reduction (f : Word → Word → Word) (vd va : BitVec 5) (hi : s.issue w = (r, some c)) :
    s.slot w 6 (fun s i t op => s.vresult i op t 14 (.setV vd (lane0 (reduceLanes f ((s.getIsl i).getV va))))) =
      (r.opened w.island.toNat 6).vresult w.island.toNat (r.getIsl w.island.toNat).nextOp c 14
        (.setV vd (lane0 (reduceLanes f ((r.getIsl w.island.toNat).getV va)))) :=
  slot_vresult 14 (fun v => .setV vd (lane0 (reduceLanes f (v.getV va)))) hi (by rw [opened_getV])

theorem lanesAfter_of_ne {i : Nat} {x : BitVec 5} (h : x ≠ 31) : s.lanesAfter i x = ((s.getIsl i).getV (x + 1), s) :=
  if_neg h

theorem vecOffset_opened (i : Nat) (idx : BitVec 3) (xa : BitVec 5) (imm : BitVec 11) :
    vecOffset ((r.opened i idx).getIsl i) xa imm = vecOffset (r.getIsl i) xa imm :=
  congrArg (offsetOf · 64 imm) (opened_getX i idx xa)

theorem ne_four_of_toNat_lt {type : BitVec 3} (h : type.toNat < 4) : type ≠ 4 :=
  fun e => absurd h (by rw [e]; decide)

end

/-- Settles O12: a slot that only computes is one result, read off registers that opening it keeps; an access is one event
behind its claim, or the beats of its port. That KSUM takes its error terms as R137's pseudocode writes them is log 14. -/
theorem vectorResultsLandAfterTheirLatency : Obligations.VectorResultsLandAfterTheirLatency := by
  intro s r w c hi i v n q land
  refine ⟨?vopf, ?vopi, ?vcvt, ?vbcast, ?vkadd, ?fmax, ?fmin, ?isum, ?ksum, ?vsf, ?vrand, ?vld, ?vldBeats, ?vst, ?vstBeats⟩
  case vopf =>
    exact fun fn b vd va vb vc => congrArg _ (slot_vresult 4
      (fun v => .setV vd (mapLanes (vopfLane fn b) (v.getV va) (v.getV vb) (v.getV vc))) hi (by simp only [opened_getV]))
  case vopi =>
    exact fun fn vd va vb vc => congrArg _ (slot_vresult 2
      (fun v => .setV vd (mapLanes (vopiLane fn) (v.getV va) (v.getV vb) (v.getV vc))) hi (by simp only [opened_getV]))
  case vcvt =>
    exact fun fn vd va vb => congrArg _ (slot_vresult 3
      (fun v => .setV vd (List.zipWith (vcvtLane fn) (v.getV va) (v.getV vb))) hi (by simp only [opened_getV]))
  case vbcast =>
    exact fun vd xa => congrArg _ (slot_vresult 2
      (fun v => .setV vd (List.replicate 256 (Word.lo (v.getX xa)))) hi (by simp only [opened_getX]))
  case vkadd =>
    intro vd va hvd l
    show execVkadd w vd va s = _
    rw [execVkadd, if_neg hvd, slot_issued _ _ hi]
    simp only [opened_getV]
    rfl
  case fmax => exact fun vd va => congrArg _ (slot_reduction (w32 F32.max) vd va hi)
  case fmin => exact fun vd va => congrArg _ (slot_reduction (w32 F32.min) vd va hi)
  case isum => exact fun vd va => congrArg _ (slot_reduction (· + ·) vd va hi)
  case ksum =>
    intro vd va hva hvd x
    show execVred w .ksum vd va s = _
    rw [execVred, slot_issued _ _ hi]
    simp only [lanesAfter_of_ne hva, opened_getV, if_neg hvd]
    rfl
  case vsf =>
    exact fun fn vd va => congrArg _ (slot_vresult (vsfLatency fn)
      (fun v => .setV vd ((v.getV va).map (vsfLane fn))) hi (by simp only [opened_getV]))
  case vrand =>
    intro k uni vd xk xs xe hxk key e0
    show execVrand w k uni vd xk xs xe s = _
    rw [execVrand, if_neg hxk, slot_issued _ _ hi]
    simp only [opened_getX, opened_stepReg]
    rfl
  case vld =>
    intro type port vd xa imm off acc ht h64 hin hb
    show execVld w type port vd xa imm s = _
    rw [execVld, if_neg (Nat.lt_asymm ht), slot_issued _ _ hi, if_neg (ne_four_of_toNat_lt ht), vecOffset_opened]
    exact congrArg _ ((access_claims hin hb).trans (if_pos h64))
  case vldBeats =>
    exact fun port vd xa imm => congrArg _ (slot_issued _ _ hi)
  case vst =>
    intro type port vs xa imm off acc ht h64 hin hb
    show execVst w type port vs xa imm s = _
    rw [execVst, if_neg (Nat.lt_asymm ht), slot_issued _ _ hi, if_neg (ne_four_of_toNat_lt ht), vecOffset_opened, opened_getV]
    exact congrArg _ ((access_claims hin hb).trans (if_pos h64))
  case vstBeats =>
    intro port vs xa imm
    show execVst w 4 port vs xa imm s = _
    rw [execVst, if_neg (by decide), slot_issued _ _ hi, if_pos rfl, opened_getV]
    rfl

end Sys2Proof.Machine

namespace Sys2Proof.Machine

/-! # What leaves the barrier groups and the partitions -/

/-- The barrier groups and the partitions, which records, packets, accesses to memory and clock levels leave. -/
def State.plans (s : State) : SMap Barrier × SMap Part := (s.bar, s.part)

theorem State.bar_of_plans {s t : State} (h : t.plans = s.plans) : t.bar = s.bar := congrArg Prod.fst h
theorem State.getPart_of_plans {s t : State} (h : t.plans = s.plans) (p : Nat) : t.getPart p = s.getPart p :=
  congrArg (fun x : SMap Barrier × SMap Part => smGet Part.reset x.2 p) h

@[simp] theorem State.plans_ite (c : Prop) [Decidable c] (a b : State) :
    (if c then a else b).plans = if c then a.plans else b.plans := apply_ite State.plans c a b

/-- A fold whose steps leave a view of the state leaves it. -/
theorem foldl_keeps {α β σ : Type*} (view : σ → β) {f : σ → α → σ} (h : ∀ u a, view (f u a) = view u) (l : List α) (s : σ) :
    view (l.foldl f s) = view s := by
  rw [← List.foldl_hom view (g₂ := fun v _ => v) fun u a => (h u a).symm, List.foldl_fixed]

theorem foldl_plans {α : Type*} {f : State → α → State} (h : ∀ u a, (f u a).plans = u.plans) (l : List α) (s : State) :
    (l.foldl f s).plans = s.plans := foldl_keeps State.plans h l s

section
variable (s : State)

@[simp] theorem State.modIsl_plans (i : Nat) (f : Island → Island) : (s.modIsl i f).plans = s.plans := rfl
@[simp] theorem State.modPort_plans (p : Nat) (f : Port → Port) : (s.modPort p f).plans = s.plans := rfl
@[simp] theorem State.modMem_plans (f : Mem → Mem) : (s.modMem f).plans = s.plans := rfl
@[simp] theorem State.modHost_plans (f : HostIf → HostIf) : (s.modHost f).plans = s.plans := rfl
@[simp] theorem State.modTrk_plans (f : Tracker → Tracker) : (s.modTrk f).plans = s.plans := rfl
@[simp] theorem State.modFab_plans (f : Fabric → Fabric) : (s.modFab f).plans = s.plans := rfl
@[simp] theorem State.modSnap_plans (f : Snap → Snap) : (s.modSnap f).plans = s.plans := rfl
@[simp] theorem State.modPwr_plans (f : Power → Power) : (s.modPwr f).plans = s.plans := rfl
@[simp] theorem State.modMgmt_plans (f : Mgmt → Mgmt) : (s.modMgmt f).plans = s.plans := rfl
@[simp] theorem State.modPins_plans (f : Pins → Pins) : (s.modPins f).plans = s.plans := rfl
@[simp] theorem State.setQr_plans (r : Nat) (q : CompRing) : (s.setQr r q).plans = s.plans := rfl
@[simp] theorem State.emit_plans (x : Sent) : (s.emit x).plans = s.plans := rfl
@[simp] theorem State.out_plans (x : HostOut) : (s.out x).plans = s.plans := rfl
@[simp] theorem State.drawBytes_plans (n : Nat) : (s.drawBytes n).2.plans = s.plans := rfl

/-! ### Records and completions -/

@[simp] theorem State.logFault_plans (k : LogKind) (source severity : Byte) (d : Word) : (s.logFault k source severity d).plans = s.plans := rfl
@[simp] theorem State.raiseMsix_plans (r : Nat) : (s.raiseMsix r).plans = s.plans := by simp [raiseMsix]
@[simp] theorem State.wakeHost_plans : s.wakeHost.plans = s.plans := by simp [wakeHost]
@[simp] theorem State.putRecord_plans (ring : Nat) (r : Record) : (s.putRecord ring r).plans = s.plans := by simp [putRecord]
@[simp] theorem State.post_plans (ring : Nat) (r : Record) : (s.post ring r).plans = s.plans := by simp [post]
@[simp] theorem State.platformEvent_plans (r : Record) : (s.platformEvent r).plans = s.plans := by simp [platformEvent]
@[simp] theorem State.event_plans (code status detail : Half) (r0 r1 r2 : Word) : (s.event code status detail r0 r1 r2).plans = s.plans := by
  simp [event]
@[simp] theorem State.recordOn_plans (cq : Nat) (p : Packet) (opcode : Half) (kind : BitVec 2) (status detail : Half) (r0 r1 r2 : Word) :
    (s.recordOn cq p opcode kind status detail r0 r1 r2).plans = s.plans := by simp [recordOn]
@[simp] theorem State.complete_plans (c : LongCmd) (status detail : Half) (r0 r1 r2 : Word) :
    (s.complete c status detail r0 r1 r2).plans = s.plans := recordOn_plans ..
@[simp] theorem State.completeAll_plans (p : LongCmd → Bool) (status detail : Half) : (s.completeAll p status detail).plans = s.plans :=
  foldl_plans (fun u c => u.complete_plans c status detail 0 0 0) ..

/-! ### Clock levels -/

@[simp] theorem State.ramp_plans (goal : Nat) : (s.ramp goal).plans = s.plans := rfl
@[simp] theorem State.paceOut_plans (l : BitVec 3) : (s.paceOut l).plans = s.plans := by simp [paceOut]
@[simp] theorem State.setLevel_plans (l : BitVec 3) : (s.setLevel l).plans = s.plans := by simp [setLevel]
@[simp] theorem State.levelPoint_plans (paced : Nat) : (s.levelPoint paced).plans = s.plans := by simp [levelPoint]

/-! ### Packets -/

@[simp] theorem State.judge_plans (port vc : Nat) (q : Queued) : (s.judge port vc q).1.plans = s.plans := by
  simp only [judge, modFi]
  (repeat' split) <;> rfl
@[simp] theorem State.atHead_plans (port vc n : Nat) : (s.atHead port vc n).plans = s.plans := by
  induction n generalizing s with
  | zero => rfl
  | succ n ih =>
    simp only [atHead]
    split
    · rfl
    · next q rest _ =>
      have e := s.judge_plans port vc q
      split
      · rfl
      · split <;> next hj => simpa [hj, ih] using e
@[simp] theorem State.enqueue_plans (port : Nat) (p : Pkt) (discard : Bool) : (s.enqueue port p discard).plans = s.plans :=
  atHead_plans ..
@[simp] theorem State.switch_plans (p : Pkt) (discard : Bool) (n : Nat) : (s.switch p discard n).plans = s.plans := by
  induction n generalizing s p discard with
  | zero => rfl
  | succ n ih =>
    simp only [switch]
    (repeat' split) <;> simp [ih, countExpired, countFenceDrop, countDetour]
@[simp] theorem State.transmit_plans (p : Pkt) : (s.transmit p).plans = s.plans := by simp [transmit, onCircuit, route]
@[simp] theorem State.sendTracked_plans (e : EntryId) (p : Pkt) (ch : Option (BitVec 2)) (pieces : List Nat) (owner : Option CtrlOwner) :
    (s.sendTracked e p ch pieces owner).plans = s.plans := by simp [sendTracked]
@[simp] theorem State.sendControl_plans (p : Pkt) (owner : CtrlOwner) : (s.sendControl p owner).plans = s.plans := by
  unfold sendControl
  split <;> simp
@[simp] theorem State.toPartner_plans (p off : Nat) (bs : List Byte) (o : CtrlOwner) : (s.toPartner p off bs o).plans = s.plans := by
  simp only [toPartner]
  split <;> simp

/-! ### Accesses to memory -/

@[simp] theorem State.noteLine_plans (line : Nat) : (s.noteLine line).plans = s.plans := by
  unfold noteLine
  split <;> rfl
@[simp] theorem State.hbmRead_plans (a n : Nat) : (s.hbmRead a n).2.2.plans = s.plans := foldl_plans noteLine_plans ..
@[simp] theorem State.hbmWriteLine_plans (a : Nat) (bs : List Byte) : (s.hbmWriteLine a bs).1.plans = s.plans := by simp [hbmWriteLine]
@[simp] theorem State.hbmWriteFrom_plans (fuel a : Nat) (bs : List Byte) (bad : Bool) :
    (s.hbmWriteFrom fuel a bs bad).1.plans = s.plans := by
  induction fuel generalizing s a bs bad with
  | zero => rfl
  | succ n ih => cases bs with
    | nil => rfl
    | cons b bs => exact (ih ..).trans (hbmWriteLine_plans ..)
@[simp] theorem State.hbmWrite_plans (a : Nat) (bs : List Byte) : (s.hbmWrite a bs).1.plans = s.plans := hbmWriteFrom_plans ..
@[simp] theorem State.keepPreImage_plans (t : Policy) (page : Nat) : (s.keepPreImage t page).plans = s.plans := by
  have hr := s.hbmRead_plans (page * pageSize) pageSize -- the read stays opaque: the kernel would evaluate its lines
  unfold keepPreImage
  generalize s.hbmRead (page * pageSize) pageSize = r at hr ⊢
  obtain ⟨old, bad, u⟩ := r
  simpa using hr
@[simp] theorem State.touchPage_plans (page : Nat) : (s.touchPage page).plans = s.plans := by
  unfold touchPage
  split
  · rfl
  · simp [foldl_plans]
@[simp] theorem State.storeHbm_plans (a : Nat) (bs : List Byte) : (s.storeHbm a bs).1.plans = s.plans :=
  (hbmWrite_plans ..).trans (foldl_plans touchPage_plans ..)
@[simp] theorem State.backInv_plans (line : Nat) : (s.backInv line).plans = s.plans := by simp [backInv]
@[simp] theorem State.backInvAll_plans (ls : List Nat) : (s.backInvAll ls).plans = s.plans := foldl_plans backInv_plans ..
@[simp] theorem State.serveHbm_plans (r : HbmReq) : (s.serveHbm r).1.plans = s.plans := by
  unfold serveHbm
  split <;> simp
@[simp] theorem State.serveAt_plans (i slot : Nat) : (s.serveAt i slot).plans = s.plans :=
  foldl_keeps (fun r : State × List HbmReq => r.1.plans) (fun r a => by split <;> simp) ..
@[simp] theorem State.serveTo_plans (bound : Nat) : (s.serveTo bound).plans = s.plans := by simp [serveTo, foldl_plans]
@[simp] theorem State.takeShared_plans (g slot : Nat) : (s.takeShared g slot).plans = s.plans := serveTo_plans ..
@[simp] theorem State.serveShared_plans (g slot : Nat) : (s.serveShared g slot).plans = s.plans := by
  unfold serveShared
  split <;> simp [hbmDone, modChan]
@[simp] theorem State.sharedTurn_plans (g n : Nat) : (s.sharedTurn g n).plans = s.plans := by
  induction n generalizing s with
  | zero => exact takeShared_plans ..
  | succ n ih => exact (ih _).trans (serveShared_plans ..)
@[simp] theorem State.sharedRead_plans (a n : Nat) : (s.sharedRead a n).2.2.plans = s.plans := by
  simp [sharedRead, sharedTurns, foldl_plans]
theorem State.claim_plans (i bank c : Nat) : (s.claim i bank c).plans = s.plans := rfl
@[simp] theorem State.bankTouch_plans (i off n : Nat) : (s.bankTouch i off n).plans = s.plans := foldl_plans (fun u _ => u.claim_plans ..) ..
@[simp] theorem State.noteSp_plans (i off n : Nat) : (s.noteSp i off n).plans = s.plans := by simp [noteSp]
end

end Sys2Proof.Machine

namespace Sys2Proof.Machine

/-! # The release edge (07 R164 to R166, 12 R274) -/

/-! ### A start or resume at E -/

theorem Island.released_st (v : Island) (e ramp i : Nat) : (v.released e ramp i).st = stRunning := by
  simp only [released]
  split <;> rfl

theorem released_keeps_running (e : Nat) (x : Stage) (s : State) {i : Nat} (h : i = x.island.toNat ∨ (s.getIsl i).st = stRunning) :
    ((s.modIsl x.island.toNat fun v => v.released e s.pwr.level.toNat x.island.toNat).getIsl i).st = stRunning := by
  by_cases hi : i = x.island.toNat
  · rw [hi, State.getIsl_modIsl, Island.released_st]
  · rw [State.modIsl, State.getIsl_setIsl_ne _ _ hi]
    exact h.resolve_left hi

theorem foldl_released_running (e : Nat) {i : Nat} (l : List Stage) (s : State)
    (h : (∃ x ∈ l, i = x.island.toNat) ∨ (s.getIsl i).st = stRunning) :
    ((l.foldl (fun s x => s.modIsl x.island.toNat fun v => v.released e s.pwr.level.toNat x.island.toNat) s).getIsl i).st = stRunning := by
  induction l generalizing s with
  | nil => simpa using h
  | cons x l ih =>
    refine ih _ ?_
    rw [List.exists_mem_cons_iff, or_assoc, or_left_comm] at h
    exact h.imp_right (released_keeps_running e x s)

section
variable (s : State) (p e : Nat) (time : Dword)

/-- The partition as a start or resume leaves it. -/
def Part.started (q : Part) : Part :=
  { q with pipe := .running, starting := false, startGrp := none, startT := none,
           releases := if q.pipe = .bound then q.restored.getD 0 else q.releases }

theorem State.startEdge_plans : (s.startEdge p e time).plans = (s.setPart p (s.getPart p).started).plans :=
  (foldl_plans (fun u c => u.complete_plans c _ _ _ _ _) _ _).trans (foldl_plans (fun u (_ : Stage) => u.modIsl_plans ..) _ _)

theorem State.startEdge_bar : (s.startEdge p e time).bar = s.bar := by
  rw [bar_of_plans (startEdge_plans ..), setPart_bar]

theorem State.startEdge_part : (s.startEdge p e time).getPart p = (s.getPart p).started :=
  (getPart_of_plans (startEdge_plans ..) p).trans (getPart_setPart ..)

theorem State.startEdge_running {x : Stage} (hx : x ∈ (s.getPart p).stages) :
    ((s.startEdge p e time).getIsl x.island.toNat).st = stRunning := by
  simp only [startEdge]
  rw [getIsl_of_onDie (foldl_keeps State.onDie (fun u c => u.complete_onDie c _ _ _ _ _) ..)]
  exact foldl_released_running e _ _ (.inl ⟨x, hx, rfl⟩)
end

/-! ### A release of the step group at E -/

section
variable {s : State} (p : Nat) (m : Word)

theorem State.lossRecord_plans {bs : List Byte} {t : State} (h : s.lossRecord p m = some (bs, t)) : t.plans = s.plans := by
  simp only [lossRecord] at h
  (repeat' split at h) <;> cases h <;> simp

/-- The loss record and the judgement of a replay change no group, and of the partitions at most the armed check. -/
theorem State.lossEdge_plans : (s.lossEdge p m).plans = s.plans ∨
    (s.lossEdge p m).plans = (s.setPart p { s.getPart p with verifyArmed := false }).plans := by
  unfold lossEdge
  split
  · exact .inl rfl
  · next bs t h =>
    have e : (t.toPartner p (0x4000 + 64 * (m.toNat % 256)) bs .loss).plans = s.plans :=
      (toPartner_plans ..).trans (lossRecord_plans p m h)
    have w : ∀ v, ((t.toPartner p (0x4000 + 64 * (m.toNat % 256)) bs .loss).setPart p v).plans = (s.setPart p v).plans :=
      fun v => congrArg (fun x : SMap Barrier × SMap Part => (x.1, smSet x.2 p v)) e
    dsimp only
    split
    · exact .inl e
    · refine .inr ?_
      rw [← getPart_of_plans e, ← w]
      (repeat' split) <;> exact foldl_plans (fun u c => u.complete_plans ..) ..

variable (s)

theorem State.lossEdge_bar : (s.lossEdge p m).bar = s.bar :=
  (lossEdge_plans p m).elim bar_of_plans bar_of_plans

theorem State.lossEdge_releases : ((s.lossEdge p m).getPart p).releases = (s.getPart p).releases := by
  obtain h | h := lossEdge_plans (s := s) p m
  · rw [getPart_of_plans h]
  · rw [getPart_of_plans h, getPart_setPart]

@[simp] theorem State.cutEdge_plans (byCmd : Bool) : (s.cutEdge p m byCmd).plans = s.plans := by
  simp only [cutEdge]
  split
  · rfl
  · exact (toPartner_plans ..).trans (modSnap_plans ..)

/-- Release m of the step group, which cuts the pipeline: the cut begins, or is refused or skipped while one runs (16 R357). -/
def State.cutAt : State :=
  let byCmd := s.snap.armed.any fun a => a.1.toNat = p && a.2.1 = m
  let s := s.modSnap fun x => { x with armed := if byCmd then none else x.armed }
  if s.snap.cut.isSome then
    if byCmd then s.completeAll (fun c => c.opcode = opCut) sWrongState opCut
    else s.modSnap fun x => { x with skipped := satAdd 32 x.skipped 1 }
  else s.cutEdge p m byCmd

theorem State.cutAt_plans : (s.cutAt p m).plans = s.plans := by
  simp only [cutAt]
  (repeat' split) <;> simp

/-- A release of the step group takes effect on partition p (07 R166, 16 R357, R368). -/
def State.stepEdge (cut : Bool) : State :=
  let q := s.getPart p
  let s := (s.setPart p { q with releases := q.releases + 1 }).lossEdge p (q.releases + 1)
  if !cut then s else s.cutAt p (q.releases + 1)

theorem State.stepEdge_plans (cut : Bool) : (s.stepEdge p cut).plans =
    ((s.setPart p { s.getPart p with releases := (s.getPart p).releases + 1 }).lossEdge p ((s.getPart p).releases + 1)).plans := by
  simp only [stepEdge, plans_ite, cutAt_plans, ite_self]

theorem State.stepEdge_releases (cut : Bool) : ((s.stepEdge p cut).getPart p).releases = (s.getPart p).releases + 1 := by
  rw [getPart_of_plans (stepEdge_plans ..), lossEdge_releases, getPart_setPart]

theorem State.stepEdge_bar (cut : Bool) : (s.stepEdge p cut).bar = s.bar :=
  (bar_of_plans (stepEdge_plans ..)).trans (lossEdge_bar ..)
end

/-! ### The edge -/

/-- The level point of E, for a group that a pipeline uses (17 R382). -/
def State.levelAtEdge (s : State) (g : Nat) (pd : Pending) : State :=
  if s.groupUsed g then s.levelPoint (if pd.apply then pd.level.toNat else 0) else s

/-- The module at E: the level is set, and a new one divides the tick at hand (07 R166). -/
def State.atEdge (s : State) (g : Nat) (pd : Pending) : State :=
  let u := s.levelAtEdge g pd
  if u.pwr.level = s.pwr.level ∨ u.clk.split.isSome then u
  else { u with clk := { u.clk with split := some (s.edgeCycle pd.local_ - u.clk.frame, s.tickCycles) } }

section
variable (s : State) (g : Nat) (pd : Pending)

theorem State.levelAtEdge_plans : (s.levelAtEdge g pd).plans = s.plans := by simp [levelAtEdge]

theorem State.atEdge_plans : (s.atEdge g pd).plans = s.plans := by
  simp only [atEdge]
  split <;> exact levelAtEdge_plans ..

theorem State.atEdge_level : (s.atEdge g pd).pwr.level = (s.levelAtEdge g pd).pwr.level := by
  simp only [atEdge]
  split <;> rfl
end

/-- The release starts a pipeline that waits to start, or is one of a group that a running pipeline uses (07 R164, R165). -/
def Pending.starts (pd : Pending) (q : Part) : Bool := pd.start && q.starting
def Pending.runs (pd : Pending) (q : Part) (g : Nat) : Bool :=
  !pd.start && (q.pipe = .running || q.pipe = .pauseArmed || q.pipe = .faulted) && q.uses g

/-- The islands that await their own cycle of the release (07 R165). -/
def Pending.awaiting (pd : Pending) (q : Part) (g : Nat) (arrived : List Nat) : List Nat :=
  if pd.starts q then q.stages.map (·.island.toNat)
  else if pd.runs q g then (q.stages.map (·.island.toNat)).filter arrived.contains else []

/-- The group at E: it moves to its next release, and E is kept for the islands that await theirs (12 R274). -/
def Barrier.advanced (b : Barrier) (pd : Pending) (e : Nat) (level : BitVec 3) (waiting : List Nat) : Barrier :=
  { b with
    pending := if waiting.isEmpty then none else some { pd with edge := some e, ramp := level, waiting := waiting },
    arrived := [], ownTime := none, ownNode := none, fixed := false, next := b.next + 1,
    arrivals := b.early, early := [], releases := b.releases + 1 }

/-- The group's advance at E, by the level set there. -/
def State.advanceGroup (s : State) (g : Nat) (pd : Pending) : State :=
  let b := s.getBar g
  let u := s.atEdge g pd
  u.setBar g (b.advanced pd (s.edgeCycle pd.local_) u.pwr.level (pd.awaiting (u.getPart b.owner.toNat) g b.arrived))

section
variable (s : State) (g : Nat) (pd : Pending)

theorem State.getPart_advanceGroup (p : Nat) : (s.advanceGroup g pd).getPart p = s.getPart p :=
  getPart_of_plans (atEdge_plans s g pd) p

theorem State.getBar_advanceGroup : (s.advanceGroup g pd).getBar g =
    (s.getBar g).advanced pd (s.edgeCycle pd.local_) (s.levelAtEdge g pd).pwr.level
      (pd.awaiting (s.getPart (s.getBar g).owner.toNat) g (s.getBar g).arrived) := by
  simp only [advanceGroup, getBar_setBar, atEdge_level, getPart_of_plans (atEdge_plans s g pd)]
end

/-- What a release of group g does at E on the owner's pipeline: a start, or a release of its step group, takes effect. -/
def State.releasePart (s : State) (p g e : Nat) (pd : Pending) : State :=
  let q := s.getPart p
  if pd.starts q then s.startEdge p e pd.local_
  else if pd.runs q g ∧ q.stepGroup.toNat = g then s.stepEdge p pd.cut else s

section
variable {s : State} {p g e : Nat} {pd : Pending}

theorem State.releasePart_starts (h : pd.starts (s.getPart p) = true) : s.releasePart p g e pd = s.startEdge p e pd.local_ := if_pos h

theorem State.releasePart_steps (hn : pd.starts (s.getPart p) = false) (hr : pd.runs (s.getPart p) g = true)
    (hg : (s.getPart p).stepGroup.toNat = g) : s.releasePart p g e pd = s.stepEdge p pd.cut := by
  simp only [releasePart, hn, hr, hg, Bool.false_eq_true, and_self, if_true, if_false]

theorem State.releasePart_bar : (s.releasePart p g e pd).bar = s.bar := by
  simp only [releasePart]
  split
  · exact startEdge_bar ..
  · split
    · exact stepEdge_bar ..
    · rfl
end

theorem exec_releaseEdge_due {s : State} {g : Byte} {pd : Pending} (hb : (s.getBar g.toNat).pending = some pd)
    (he : pd.edge = none) (hd : s.edgeCycle pd.local_ < s.clk.frame + s.tickCycles) :
    exec (.releaseEdge g) s = .next
      ((s.advanceGroup g.toNat pd).releasePart (s.getBar g.toNat).owner.toNat g.toNat (s.edgeCycle pd.local_) pd) := by
  have hn : ¬ (pd.edge.isSome = true ∨ s.clk.frame + s.tickCycles ≤ s.edgeCycle pd.local_) :=
    not_or.mpr ⟨by simp [he], Nat.not_le.mpr hd⟩
  show execReleaseEdge g s = _
  simp only [execReleaseEdge, hb]
  rw [if_neg hn]
  rfl

/-- Settles O28: what follows the group's advance at E leaves the groups, so the group reads as it advanced; a start and a
release of the step group are the two ways in which the edge then goes on. -/
theorem theReleaseEdgeAdvancesTheGroup : Obligations.TheReleaseEdgeAdvancesTheGroup := by
  intro s g pd b p q level hb he hd
  refine ⟨_, exec_releaseEdge_due hb he hd, ?_⟩
  have hq : (s.advanceGroup g.toNat pd).getPart p = q := s.getPart_advanceGroup ..
  have hbar : ((s.advanceGroup g.toNat pd).releasePart p g.toNat (s.edgeCycle pd.local_) pd).getBar g.toNat =
      b.advanced pd (s.edgeCycle pd.local_) level (pd.awaiting q g.toNat b.arrived) :=
    (congrArg (smGet Barrier.reset · g.toNat) State.releasePart_bar).trans (s.getBar_advanceGroup ..)
  rw [hbar]
  refine ⟨rfl, rfl, rfl, rfl, rfl, rfl, fun hs hstarting => ?start, fun hs hp hu hg => ?step⟩
  case start =>
    have starts : pd.starts q = true := Bool.and_eq_true_iff.mpr ⟨hs, hstarting⟩
    rw [State.releasePart_starts (by rw [hq, starts]), State.startEdge_part, hq]
    refine ⟨rfl, rfl, fun x hx => State.startEdge_running _ _ _ _ (hq ▸ hx), fun hne => ?_⟩
    simp [Barrier.advanced, Pending.awaiting, starts, hne]
  case step =>
    have starts : pd.starts q = false := by simp [Pending.starts, hs]
    have runs : pd.runs q g.toNat = true := by simpa [Pending.runs, hs, hu, or_assoc] using hp
    rw [State.releasePart_steps (by rw [hq, starts]) (by rw [hq, runs]) (by rw [hq, hg]), State.stepEdge_releases, hq]

end Sys2Proof.Machine

/-! # The tide ramp of a release (07 R164 to R166, R157, 16 R358) -/

namespace Sys2Proof.Machine

/-! ### An island's own cycle of a release -/

/-- Island i leaves the waiting list of the release pd of group g; the release ends with the last one. -/
def State.leaveRelease (s : State) (g i : Nat) (pd : Pending) : State :=
  let rest := pd.waiting.filter (· ≠ i)
  s.setBar g { s.getBar g with pending := if rest.isEmpty then none else some { pd with waiting := rest } }

/-- Island i latches its capture set first where the release cuts its partition p (16 R358). -/
def State.latchForCut (s : State) (p i : Nat) (pd : Pending) : State :=
  if pd.cut && s.snap.cut.any (fun c => c.part.toNat = p) then s.latch p i (s.getPart p).releases else s

/-- The turn of a RUNNING island i in a release of group g and partition p (07 R165, R157, 05 R122). -/
def State.takeTurn (s : State) (g p i : Nat) (pd : Pending) : State :=
  let v := s.getIsl i
  if pd.pause ∧ (s.getPart p).pipe = .pauseArmed then s.setIsl i { v.pauseAll with st := stPaused }
  else
    if !pd.start then (match v.barSem.find? (·.1 = g) with
      | some b => s.semInc i b.2
      | none => s)
    else match v.waiting with
    | some w => s.semInc i w.sem
    | none => s.setIsl i { v with starting := false }

section
variable {s : State} {g p i : Nat} {pd : Pending}

theorem takeTurn_pause (hp : pd.pause = true) (ha : (s.getPart p).pipe = .pauseArmed) :
    s.takeTurn g p i pd = s.setIsl i { (s.getIsl i).pauseAll with st := stPaused } := if_pos ⟨hp, ha⟩

theorem takeTurn_start_waiting {w : Waiting} (hp : pd.pause = false) (hs : pd.start = true) (hw : (s.getIsl i).waiting = some w) :
    s.takeTurn g p i pd = s.semInc i w.sem := by
  simp [State.takeTurn, hp, hs, hw]

theorem takeTurn_start (hp : pd.pause = false) (hs : pd.start = true) (hw : (s.getIsl i).waiting = none) :
    s.takeTurn g p i pd = s.setIsl i { s.getIsl i with starting := false } := by
  simp [State.takeTurn, hp, hs, hw]

theorem takeTurn_step {x : Nat × BitVec 5} (hp : pd.pause = false) (hs : pd.start = false)
    (hx : (s.getIsl i).barSem.find? (·.1 = g) = some x) : s.takeTurn g p i pd = s.semInc i x.2 := by
  simp [State.takeTurn, hp, hs, hx]

theorem pauseDone_armed (h : (s.getPart p).pipe = .pauseArmed) :
    s.pauseDone p = (s.cmds.long.filter fun c => c.part.toNat = p && c.opcode = opPause).foldl
      (fun t x => t.complete x sOk 0 (s.getPart p).releases 0 0)
      (s.setPart p { s.getPart p with pipe := .paused, pauseAt := none }) := if_neg (not_not_intro h)
end

section
variable {s : State} {g : Byte} {i : BitVec 8} {pd : Pending} {e : Nat}

theorem exec_islandRelease_early (hb : (s.getBar g.toNat).pending = some pd) (he : pd.edge = some e)
    (h : pd.waiting.contains i.toNat = false ∨ s.clk.frame + s.tickCycles ≤ e + rampCycles pd.ramp.toNat i.toNat) :
    exec (.islandRelease g i) s = .next s := by
  show execIslandRelease g i s = _
  simp only [execIslandRelease, hb, he]
  rw [if_pos (h.imp_left (Bool.not_eq_true _).mpr)]

variable (hb : (s.getBar g.toNat).pending = some pd) (he : pd.edge = some e) (hw : pd.waiting.contains i.toNat = true)
  (hd : e + rampCycles pd.ramp.toNat i.toNat < s.clk.frame + s.tickCycles)
include hb he hw hd

/-- At its own cycle an island leaves the waiting list, takes its turn where it is RUNNING, and the last one ends a pause. -/
theorem exec_islandRelease_due : exec (.islandRelease g i) s = .next (
    let p := (s.getBar g.toNat).owner.toNat
    let u := s.leaveRelease g.toNat i.toNat pd
    let t := if s.islSt i.toNat ≠ stRunning then u else (u.latchForCut p i.toNat pd).takeTurn g.toNat p i.toNat pd
    if (pd.waiting.filter (· ≠ i.toNat)).isEmpty && pd.pause then t.pauseDone p else t) := by
  have hn : ¬ (¬ pd.waiting.contains i.toNat = true ∨ s.clk.frame + s.tickCycles ≤ e + rampCycles pd.ramp.toNat i.toNat) :=
    not_or.mpr ⟨not_not_intro hw, Nat.not_le.mpr hd⟩
  show execIslandRelease g i s = _
  simp only [execIslandRelease, hb, he, State.leaveRelease, State.latchForCut, State.takeTurn, if_neg hn]
  rfl

end

theorem exec_release_of_none {s : State} {g : Byte} (hb : (s.getBar g.toNat).pending = none) (i : BitVec 8) :
    exec (.releaseEdge g) s = .next s ∧ exec (.islandRelease g i) s = .next s := by
  constructor
  · show execReleaseEdge g s = _
    simp only [execReleaseEdge, hb]
  · show execIslandRelease g i s = _
    simp only [execIslandRelease, hb]

theorem exec_releaseEdge_early {s : State} {g : Byte} {pd : Pending} (hb : (s.getBar g.toNat).pending = some pd)
    (h : pd.edge.isSome = true ∨ s.clk.frame + s.tickCycles ≤ s.edgeCycle pd.local_) : exec (.releaseEdge g) s = .next s := by
  show execReleaseEdge g s = _
  simp only [execReleaseEdge, hb, if_pos h]

/-- Settles O27: before its own cycle nothing happens to an island; at it the island leaves the waiting list and takes its turn,
which is one of the four of `takeTurn`; the last one of a pause ends it. -/
theorem aReleaseStartsIslandsAtTheirRampCycles : Obligations.AReleaseStartsIslandsAtTheirRampCycles := by
  refine ⟨fun s g i pd e => exec_islandRelease_early, ?due, fun s g pd => exec_releaseEdge_early, fun s g i hb => exec_release_of_none hb i⟩
  intro s g i pd e b p rest hb he hw hd u c
  have hc : u.latchForCut p i.toNat pd = c := if_congr (Bool.and_eq_true ..).to_iff rfl rfl
  have turn : exec (.islandRelease g i) s = .next (
      let t := if s.islSt i.toNat ≠ stRunning then u else c.takeTurn g.toNat p i.toNat pd
      if rest.isEmpty && pd.pause then t.pauseDone p else t) := hc ▸ exec_islandRelease_due hb he hw hd
  refine ⟨fun hp => ?released, fun hp ha hr => ?paused⟩
  case released =>
    simp only [hp, Bool.and_false, Bool.false_eq_true, if_false] at turn
    refine ⟨fun hn => turn.trans (congrArg _ (if_pos hn)), fun w hr hs hv => ?_, fun hr hs hv => ?_, fun x hr hs hx => ?_⟩
    all_goals refine turn.trans (congrArg _ ((if_neg (not_not_intro hr)).trans ?_))
    · exact takeTurn_start_waiting hp hs hv
    · exact takeTurn_start hp hs hv
    · exact takeTurn_step hp hs hx
  case paused =>
    intro w
    have hw : (if s.islSt i.toNat ≠ stRunning then u else c.takeTurn g.toNat p i.toNat pd) = w :=
      (if_neg (not_not_intro hr)).trans (takeTurn_pause hp ha)
    simp only [hw, hp, Bool.and_true, List.isEmpty_iff] at turn
    refine ⟨fun h => turn.trans (congrArg _ (if_neg h)), fun h => turn.trans (congrArg _ ((if_pos h).trans ?_))⟩
    exact pauseDone_armed ha

end Sys2Proof.Machine

/-! # HBM keeps its canonical form (08 R169, R185)

Three operations change the bytes of HBM: a write of bytes of one line, the fill and the reset. Every other operation leaves
them, and a lemma for each says so, in the order of the model's files (as "What every step keeps" does for the queue). The
operations that may store keep the canonical form, because a write does. -/

namespace Sys2Proof.Machine

/-! ## What leaves HBM -/

/-- The bytes that HBM holds, under a name of its own, so that `simp` moves updates past it. -/
def State.hbm (s : State) : Memory := s.mem.hbm

theorem State.mem_hbm (s : State) : s.mem.hbm = s.hbm := by simp only [State.hbm]
@[simp] theorem State.hbm_mk (a0 a1 a2 a3 a4 a5 a6 a7 a8 a9 a10 a11 a12 a13 a14 a15 a16 a17 a18 a19 a20 a21 a22 a23 a24 a25) :
    (State.mk a0 a1 a2 a3 a4 a5 a6 a7 a8 a9 a10 a11 a12 a13 a14 a15 a16 a17 a18 a19 a20 a21 a22 a23 a24 a25).hbm = a8.hbm := by
  simp only [State.hbm]
@[simp] theorem State.hbm_ite (c : Prop) [Decidable c] (a b : State) :
    (if c then a else b).hbm = if c then a.hbm else b.hbm := by split <;> rfl

@[simp] theorem foldl_hbm {α : Type*} (f : State → α → State) (h : ∀ u a, (f u a).hbm = u.hbm) (l : List α) (s : State) :
    (l.foldl f s).hbm = s.hbm := foldl_keeps State.hbm h l s
@[simp] theorem foldl_fst_hbm {α β : Type*} (f : State × β → α → State × β) (h : ∀ r a, (f r a).1.hbm = r.1.hbm)
    (l : List α) (r : State × β) : (l.foldl f r).1.hbm = r.1.hbm := foldl_keeps (·.1.hbm) h l r
@[simp] theorem foldl_snd_snd_hbm {α β γ : Type*} (f : β × γ × State → α → β × γ × State)
    (h : ∀ r a, (f r a).2.2.hbm = r.2.2.hbm) (l : List α) (r : β × γ × State) :
    (l.foldl f r).2.2.hbm = r.2.2.hbm := foldl_keeps (·.2.2.hbm) h l r

/-- Every next state that a command answers holds the HBM of s. -/
def LeavesHbm (o : Out) (s : State) : Prop := ∀ t, o = .next t → t.hbm = s.hbm
@[simp] theorem leavesHbm_next (t s : State) : LeavesHbm (.next t) s ↔ t.hbm = s.hbm := by simp [LeavesHbm]
@[simp] theorem leavesHbm_refused (r s) : LeavesHbm (.refused r) s := by simp [LeavesHbm]
@[simp] theorem leavesHbm_ite (c : Prop) [Decidable c] (a b : Out) (s : State) :
    LeavesHbm (if c then a else b) s ↔ if c then LeavesHbm a s else LeavesHbm b s := by split <;> rfl

/-- What the body of a host command answers leaves HBM: the state replied with, and what is done after the reply. -/
def Run.LeavesHbm (r : Run) (s : State) : Prop :=
  match r with
  | .reply _ t => t.hbm = s.hbm
  | .first _ t f => t.hbm = s.hbm ∧ ∀ u, (f u).hbm = u.hbm
  | .long _ _ f => ∀ u, (f u).hbm = u.hbm
@[simp] theorem Run.leavesHbm_reply (r t s) : (Run.reply r t).LeavesHbm s ↔ t.hbm = s.hbm := Iff.rfl
@[simp] theorem Run.leavesHbm_first (r t f s) :
    (Run.first r t f).LeavesHbm s ↔ t.hbm = s.hbm ∧ ∀ u, (f u).hbm = u.hbm := Iff.rfl
@[simp] theorem Run.leavesHbm_long (r c f s) : (Run.long r c f).LeavesHbm s ↔ ∀ u, (f u).hbm = u.hbm := Iff.rfl
@[simp] theorem Run.leavesHbm_ite (c : Prop) [Decidable c] (a b : Run) (s : State) :
    (if c then a else b).LeavesHbm s ↔ if c then a.LeavesHbm s else b.LeavesHbm s := by split <;> rfl

section
variable (s : State)

/-! ### The updates of the state -/

@[simp] theorem State.setIsl_hbm (i v) : (s.setIsl i v).hbm = s.hbm := by simp only [State.hbm, State.setIsl_mem]
@[simp] theorem State.modIsl_hbm (i f) : (s.modIsl i f).hbm = s.hbm := by simp only [State.hbm, State.modIsl_mem]
@[simp] theorem State.setPart_hbm (i v) : (s.setPart i v).hbm = s.hbm := by simp only [State.hbm, State.setPart_mem]
@[simp] theorem State.modPart_hbm (i f) : (s.modPart i f).hbm = s.hbm := by simp only [State.hbm, State.modPart_mem]
@[simp] theorem State.setPort_hbm (i v) : (s.setPort i v).hbm = s.hbm := by simp only [State.hbm, State.setPort_mem]
@[simp] theorem State.modPort_hbm (i f) : (s.modPort i f).hbm = s.hbm := by simp only [State.hbm, State.modPort_mem]
@[simp] theorem State.setBar_hbm (i v) : (s.setBar i v).hbm = s.hbm := by simp only [State.hbm, State.setBar_mem]
@[simp] theorem State.modBar_hbm (i f) : (s.modBar i f).hbm = s.hbm := by simp only [State.hbm, State.modBar_mem]
@[simp] theorem State.setGrp_hbm (i v) : (s.setGrp i v).hbm = s.hbm := by simp only [State.hbm, State.setGrp_mem]
@[simp] theorem State.modHost_hbm (f) : (s.modHost f).hbm = s.hbm := by simp only [State.hbm, State.modHost_mem]
@[simp] theorem State.modTrk_hbm (f) : (s.modTrk f).hbm = s.hbm := by simp only [State.hbm, State.modTrk_mem]
@[simp] theorem State.modFab_hbm (f) : (s.modFab f).hbm = s.hbm := by simp only [State.hbm, State.modFab_mem]
@[simp] theorem State.modSnap_hbm (f) : (s.modSnap f).hbm = s.hbm := by simp only [State.hbm, State.modSnap_mem]
@[simp] theorem State.modPwr_hbm (f) : (s.modPwr f).hbm = s.hbm := by simp only [State.hbm, State.modPwr_mem]
@[simp] theorem State.modFw_hbm (f) : (s.modFw f).hbm = s.hbm := by simp only [State.hbm, State.modFw_mem]
@[simp] theorem State.modMgmt_hbm (f) : (s.modMgmt f).hbm = s.hbm := by simp only [State.hbm, State.modMgmt_mem]
@[simp] theorem State.modPins_hbm (f) : (s.modPins f).hbm = s.hbm := by simp only [State.hbm, State.modPins_mem]
@[simp] theorem State.setCr_hbm (r v) : (s.setCr r v).hbm = s.hbm := by simp only [State.hbm, State.setCr_mem]
@[simp] theorem State.setQr_hbm (r v) : (s.setQr r v).hbm = s.hbm := by simp only [State.hbm, State.setQr_mem]
@[simp] theorem State.emit_hbm (x) : (s.emit x).hbm = s.hbm := by simp only [State.hbm, State.emit_mem]
@[simp] theorem State.out_hbm (x) : (s.out x).hbm = s.hbm := by simp only [State.hbm, State.out_mem]
@[simp] theorem State.modMem_hbm (f) : (s.modMem f).hbm = (f s.mem).hbm := by simp only [State.hbm, State.modMem_mem]

@[simp] theorem State.hbm_noteSp (i off n) : (s.noteSp i off n).hbm = s.hbm := State.noteSp_hbm ..

/-! ### Shared operations -/

@[simp] theorem State.drawBytes_hbm (n) : (s.drawBytes n).2.hbm = s.hbm := by simp [State.mem_hbm, State.drawBytes]
@[simp] theorem State.logFault_hbm (k source severity detail) : (s.logFault k source severity detail).hbm = s.hbm := by
  simp [State.mem_hbm, State.logFault]
@[simp] theorem State.raiseMsix_hbm (r) : (s.raiseMsix r).hbm = s.hbm := by simp [State.raiseMsix]
@[simp] theorem State.wakeHost_hbm : s.wakeHost.hbm = s.hbm := by simp [State.wakeHost]
@[simp] theorem State.putRecord_hbm (ring rec) : (s.putRecord ring rec).hbm = s.hbm := by simp [State.putRecord]
@[simp] theorem State.post_hbm (ring rec) : (s.post ring rec).hbm = s.hbm := by simp [State.post]
@[simp] theorem State.postHeld_hbm (ring fuel) : (s.postHeld ring fuel).hbm = s.hbm := by
  induction fuel generalizing s with
  | zero => simp [State.postHeld]
  | succ n ih => simp only [State.postHeld]; (repeat' split) <;> simp [ih]

@[simp] theorem State.platformEvent_hbm (r) : (s.platformEvent r).hbm = s.hbm := by simp [State.platformEvent]
@[simp] theorem State.event_hbm (code status detail r0 r1 r2) : (s.event code status detail r0 r1 r2).hbm = s.hbm := by
  simp [State.event]
@[simp] theorem State.noteLine_hbm (line) : (s.noteLine line).hbm = s.hbm := by
  unfold State.noteLine
  split <;> simp [State.mem_hbm]
@[simp] theorem State.hbmRead_hbm (a n) : (s.hbmRead a n).2.2.hbm = s.hbm := by simp [State.hbmRead]
@[simp] theorem State.backInv_hbm (line) : (s.backInv line).hbm = s.hbm := by simp [State.backInv]
@[simp] theorem State.backInvAll_hbm (ls) : (s.backInvAll ls).hbm = s.hbm := by simp [State.backInvAll]
@[simp] theorem State.toHost_hbm (a bs) : (s.toHost a bs).hbm = s.hbm := by simp [State.toHost]

/-! ### Reads of the scratchpad -/

@[simp] theorem State.noteUe_hbm (i) : (s.noteUe i).hbm = s.hbm := by simp [State.mem_hbm, State.noteUe]

/-! ### Islands: faults, events, bundles -/

@[simp] theorem State.recordOn_hbm (cq p opcode kind status detail r0 r1 r2) :
    (s.recordOn cq p opcode kind status detail r0 r1 r2).hbm = s.hbm := by
  simp [State.recordOn]
@[simp] theorem State.record_hbm (p opcode kind status detail r0 r1 r2) :
    (s.record p opcode kind status detail r0 r1 r2).hbm = s.hbm := by
  simp [State.record]
@[simp] theorem State.complete_hbm (c status detail r0 r1 r2) : (s.complete c status detail r0 r1 r2).hbm = s.hbm := by
  simp [State.mem_hbm, State.complete]
@[simp] theorem State.completeAll_hbm (p status detail) : (s.completeAll p status detail).hbm = s.hbm := by simp [State.completeAll]
@[simp] theorem State.pipeFault_hbm (p) : (s.pipeFault p).hbm = s.hbm := by simp [State.pipeFault]
@[simp] theorem State.islandFault_hbm (i f) : (s.islandFault i f).hbm = s.hbm := by simp [State.islandFault]
@[simp] theorem State.freePlace_hbm : s.freePlace.2.hbm = s.hbm := by simp [State.freePlace]
@[simp] theorem State.looseFaultAt_hbm (i code detail cycle) : (s.looseFaultAt i code detail cycle).hbm = s.hbm := by
  simp [State.looseFaultAt]
@[simp] theorem State.looseFault_hbm (i code detail) : (s.looseFault i code detail).hbm = s.hbm := by simp [State.looseFault]
@[simp] theorem State.semIncAt_hbm (i sem cycle) : (s.semIncAt i sem cycle).hbm = s.hbm := by simp [State.semIncAt]
@[simp] theorem State.semInc_hbm (i sem) : (s.semInc i sem).hbm = s.hbm := by simp [State.semInc]
@[simp] theorem State.opFault_hbm (i op code array detail cycle) : (s.opFault i op code array detail cycle).hbm = s.hbm := by
  simp [State.opFault]
@[simp] theorem State.evRow_hbm (i op cycle o m) : (s.evRow i op cycle o m).hbm = s.hbm := by
  simp only [State.evRow]
  (repeat' split) <;> simp
@[simp] theorem State.evEnter_hbm (i op cycle o m rows) : (s.evEnter i op cycle o m rows).hbm = s.hbm := by
  simp [State.mem_hbm, State.evEnter]
@[simp] theorem State.evInject_hbm (i op o) : (s.evInject i op o).hbm = s.hbm := by simp [State.evInject]
@[simp] theorem State.evFootIn_hbm (i op cycle o m a cols parity) : (s.evFootIn i op cycle o m a cols parity).hbm = s.hbm := by
  simp only [State.evFootIn]
  split <;> simp
@[simp] theorem State.evFoot_hbm (i o m a cols parity) : (s.evFoot i o m a cols parity).hbm = s.hbm := by simp [State.mem_hbm, State.evFoot]
@[simp] theorem State.evFootBad_hbm (i op cycle o a c m cols parity) : (s.evFootBad i op cycle o a c m cols parity).hbm = s.hbm := by
  simp [State.evFootBad]
@[simp] theorem State.evSeedRead_hbm (i op cycle o m) : (s.evSeedRead i op cycle o m).hbm = s.hbm := by simp [State.evSeedRead]
@[simp] theorem State.evSeedRow_hbm (i op cycle o m bytes bad) : (s.evSeedRow i op cycle o m bytes bad).hbm = s.hbm := by
  unfold State.evSeedRow
  (repeat' split) <;> simp [State.mem_hbm]
@[simp] theorem State.evLoadBlock_hbm (i op cycle o b scales) : (s.evLoadBlock i op cycle o b scales).hbm = s.hbm := by
  simp [State.mem_hbm, State.evLoadBlock]
@[simp] theorem State.evLoadPlane_hbm (i op cycle o b j cells) : (s.evLoadPlane i op cycle o b j cells).hbm = s.hbm := by
  simp [State.evLoadPlane]
@[simp] theorem State.evDrainRow_hbm (i op cycle o m) : (s.evDrainRow i op cycle o m).hbm = s.hbm := by
  simp only [State.evDrainRow]
  split <;> simp [State.mem_hbm]
@[simp] theorem State.evDrainWrite_hbm (i op cycle ws beats) : (s.evDrainWrite i op cycle ws beats).hbm = s.hbm := by
  simp only [State.evDrainWrite]
  split <;> simp
@[simp] theorem State.evDrainEnd_hbm (i cycle o) : (s.evDrainEnd i cycle o).hbm = s.hbm := by simp [State.evDrainEnd]
@[simp] theorem State.ofPass_hbm (op) (f : PassOp → State) (h : ∀ o, (f o).hbm = s.hbm) : (s.ofPass op f).hbm = s.hbm := by
  unfold State.ofPass
  (repeat' split) <;> simp [h]
@[simp] theorem State.ofSeed_hbm (op) (f : SeedOp → State) (h : ∀ o, (f o).hbm = s.hbm) : (s.ofSeed op f).hbm = s.hbm := by
  unfold State.ofSeed
  (repeat' split) <;> simp [h]
@[simp] theorem State.ofLoad_hbm (op) (f : LoadOp → State) (h : ∀ o, (f o).hbm = s.hbm) : (s.ofLoad op f).hbm = s.hbm := by
  unfold State.ofLoad
  (repeat' split) <;> simp [h]
@[simp] theorem State.ofDrain_hbm (op) (f : DrainOp → State) (h : ∀ o, (f o).hbm = s.hbm) : (s.ofDrain op f).hbm = s.hbm := by
  unfold State.ofDrain
  (repeat' split) <;> simp [h]
@[simp] theorem State.applyEv_hbm (i e) : (s.applyEv i e).hbm = s.hbm := by
  simp only [State.applyEv]
  (repeat' split) <;> simp
@[simp] theorem State.runIsl_hbm (i t p n) : (s.runIsl i t p n).hbm = s.hbm := by
  induction n generalizing s with
  | zero => simp [State.runIsl]
  | succ n ih => simp only [State.runIsl]; (repeat' split) <;> simp [ih]

@[simp] theorem State.advance_hbm (i t) : (s.advance i t).hbm = s.hbm := by simp [State.advance]
@[simp] theorem State.runOut_hbm (i) : (s.runOut i).hbm = s.hbm := by simp [State.runOut]
@[simp] theorem State.issue_hbm (w) : (s.issue w).1.hbm = s.hbm := by
  simp only [State.issue]
  (repeat' split) <;> simp [State.mem_hbm]
@[simp] theorem State.slot_hbm (w idx) (f : State → Nat → Nat → Nat → State) 
    (h : ∀ u i t k, (f u i t k).hbm = u.hbm) : (s.slot w idx f).hbm = s.hbm := by
  have e := s.issue_hbm w
  unfold State.slot
  split <;> next hi => simpa [hi, h] using e

@[simp] theorem State.preciseFault_hbm (i idx code array detail t) : (s.preciseFault i idx code array detail t).hbm = s.hbm := by
  simp [State.preciseFault]
@[simp] theorem State.access_hbm (i idx t off n acc) (f : State → State) (h : ∀ u, (f u).hbm = u.hbm) :
    (s.access i idx t off n acc f).hbm = s.hbm := by
  unfold State.access
  (repeat' split) <;> simp [h]

/-! ### The scalar slot -/

@[simp] theorem State.result_hbm (i op t a) : (s.result i op t a).hbm = s.hbm := by simp [State.result]
/-! ### The branch slot and the waits -/

@[simp] theorem State.endWait_hbm (i w) : (s.endWait i w).hbm = s.hbm := by simp [State.mem_hbm, State.endWait]
@[simp] theorem execWaitSatisfied_leavesHbm (i) : LeavesHbm (execWaitSatisfied i s) s := by
  simp only [execWaitSatisfied]
  split <;> simp
@[simp] theorem execWaitTimeout_leavesHbm (i) : LeavesHbm (execWaitTimeout i s) s := by
  simp only [execWaitTimeout]
  split <;> simp
/-! ### Array control, feeder and drain slots -/

@[simp] theorem State.checked_hbm (i idx t c) (f : State → State) (h : ∀ u, (f u).hbm = u.hbm) :
    (s.checked i idx t c f).hbm = s.hbm := by
  unfold State.checked
  (repeat' split) <;> simp [h]
@[simp] theorem State.startPass_hbm (i op t o swap) : (s.startPass i op t o swap).hbm = s.hbm := by simp [State.startPass]
@[simp] theorem execLoadw_leavesHbm (w arrays fd xa) : LeavesHbm (execLoadw w arrays fd xa s) s := by
  unfold execLoadw
  split
  · simp
  · refine (leavesHbm_next ..).mpr (State.slot_hbm _ _ _ _ fun u i t k => State.checked_hbm _ _ _ _ _ _ fun u => ?_)
    dsimp only
    (repeat' split) <;> simp

@[simp] theorem execDrain_leavesHbm (w arrays dd slotAdd xd) : LeavesHbm (execDrain w arrays dd slotAdd xd s) s := by
  unfold execDrain
  split
  · simp
  · exact (leavesHbm_next ..).mpr (State.slot_hbm _ _ _ _ fun u i t k => State.checked_hbm _ _ _ _ _ _ fun u => State.modIsl_hbm ..)

/-! ### Straits -/

@[simp] theorem execStraitBeatDepart_leavesHbm (isl port cycle) : LeavesHbm (execStraitBeatDepart isl port cycle s) s := by
  simp only [execStraitBeatDepart]
  split <;> simp [State.mem_hbm]
@[simp] theorem State.beatInto_hbm (i p at_ b) : (s.beatInto i p at_ b).hbm = s.hbm := by simp [State.beatInto]
@[simp] theorem execStraitBeatArrive_leavesHbm (isl port) : LeavesHbm (execStraitBeatArrive isl port s) s := by
  unfold execStraitBeatArrive
  split <;> simp [State.mem_hbm]

/-! ### Packets and the switch -/

@[simp] theorem State.countDetour_hbm : s.countDetour.hbm = s.hbm := by simp [State.countDetour]
@[simp] theorem State.countStale_hbm : s.countStale.hbm = s.hbm := by simp [State.countStale]
@[simp] theorem State.countExpired_hbm : s.countExpired.hbm = s.hbm := by simp [State.countExpired]
@[simp] theorem State.countFenceDrop_hbm : s.countFenceDrop.hbm = s.hbm := by simp [State.countFenceDrop]
@[simp] theorem State.countBadHdr_hbm : s.countBadHdr.hbm = s.hbm := by simp [State.countBadHdr]
@[simp] theorem State.countCircDrop_hbm : s.countCircDrop.hbm = s.hbm := by simp [State.countCircDrop]
@[simp] theorem State.modFi_hbm (port vc g) : (s.modFi port vc g).hbm = s.hbm := by simp [State.modFi]
@[simp] theorem State.judge_hbm (port vc q) : (s.judge port vc q).1.hbm = s.hbm := by
  simp only [State.judge]
  (repeat' split) <;> simp
@[simp] theorem State.atHead_hbm (port vc n) : (s.atHead port vc n).hbm = s.hbm := by
  induction n generalizing s with
  | zero => simp [State.atHead]
  | succ n ih =>
    simp only [State.atHead]
    split
    · rfl
    · split
      · rfl
      · next q _ _ _ =>
        have e := s.judge_hbm port vc q
        split <;> next hj => simpa [hj, ih] using e

@[simp] theorem State.setQueue_hbm (port vc l) : (s.setQueue port vc l).hbm = s.hbm := by simp [State.setQueue]
@[simp] theorem State.enqueue_hbm (port p discard) : (s.enqueue port p discard).hbm = s.hbm := by simp [State.enqueue]
@[simp] theorem State.putBack_hbm (port vc l) : (s.putBack port vc l).hbm = s.hbm := by simp [State.putBack]
@[simp] theorem State.releaseHeld_hbm (port vc p) : (s.releaseHeld port vc p).hbm = s.hbm := by simp [State.releaseHeld]
@[simp] theorem State.depart_hbm (port vc q) : (s.depart port vc q).hbm = s.hbm := by simp [State.depart]
@[simp] theorem State.switch_hbm (p discard n) : (s.switch p discard n).hbm = s.hbm := by
  induction n generalizing s p discard with
  | zero => simp [State.switch]
  | succ n ih => simp only [State.switch]; (repeat' split) <;> simp [ih]

@[simp] theorem State.route_hbm (p) : (s.route p).hbm = s.hbm := by simp [State.route]
@[simp] theorem State.respond_hbm (p type aux arg payload) : (s.respond p type aux arg payload).hbm = s.hbm := by simp [State.respond]
@[simp] theorem State.ack_hbm (p) : (s.ack p).hbm = s.hbm := by simp [State.ack]
@[simp] theorem State.nack_hbm (p status detail) : (s.nack p status detail).hbm = s.hbm := by simp [State.nack]
@[simp] theorem State.forward_hbm (port discard p) : (s.forward port discard p).hbm = s.hbm := by
  unfold State.forward
  (repeat' split) <;> simp
@[simp] theorem State.onCircuit_hbm (k p) : (s.onCircuit k p).hbm = s.hbm := by simp [State.onCircuit]
@[simp] theorem State.transmit_hbm (p) : (s.transmit p).hbm = s.hbm := by simp [State.transmit]

/-! ### The tracker -/

@[simp] theorem State.modChan_hbm (i c f) : (s.modChan i c f).hbm = s.hbm := by simp [State.modChan]
@[simp] theorem State.sendTracked_hbm (e p ch pieces owner) : (s.sendTracked e p ch pieces owner).hbm = s.hbm := by
  simp [State.sendTracked]
@[simp] theorem State.sendSnap_hbm (i p owner item) : (s.sendSnap i p owner item).1.hbm = s.hbm := by
  unfold State.sendSnap
  split <;> simp
@[simp] theorem State.sendControl_hbm (p owner) : (s.sendControl p owner).hbm = s.hbm := by
  unfold State.sendControl
  split <;> simp
@[simp] theorem State.drainWaitQ_hbm (n) : (s.drainWaitQ n).hbm = s.hbm := by
  induction n generalizing s with
  | zero => simp [State.drainWaitQ]
  | succ n ih => simp only [State.drainWaitQ]; (repeat' split) <;> simp [ih]

@[simp] theorem State.ctrlEnd_hbm (o piece p r) : (s.ctrlEnd o piece p r).hbm = s.hbm := by
  unfold State.ctrlEnd
  (repeat' split) <;> simp
@[simp] theorem State.endEntry_hbm (e x r) : (s.endEntry e x r).hbm = s.hbm := by
  unfold State.endEntry
  (repeat' split) <;> simp
@[simp] theorem State.unreachable_hbm (dst) : (s.unreachable dst).hbm = s.hbm := by simp [State.unreachable]
@[simp] theorem State.pieceSource_hbm (i p) : (s.pieceSource i p).2.2.hbm = s.hbm := by
  unfold State.pieceSource
  split <;> simp
@[simp] theorem State.resource_hbm (x : TrkEntry) : (s.resource x).2.2.hbm = s.hbm := by
  unfold State.resource
  (repeat' split) <;> simp

@[simp] theorem State.resend_hbm (e x series tries mid) : (s.resend e x series tries mid).hbm = s.hbm := by simp [State.resend]
@[simp] theorem State.series2_hbm (e x) : (s.series2 e x).hbm = s.hbm := by simp [State.series2]
@[simp] theorem State.giveUp_hbm (e x) : (s.giveUp e x).hbm = s.hbm := by simp [State.giveUp]
@[simp] theorem State.tryAgain_hbm (e x) : (s.tryAgain e x).hbm = s.hbm := by simp [State.tryAgain]
@[simp] theorem State.mcastSettle_hbm (n m) : (s.mcastSettle n m).hbm = s.hbm := by simp [State.mcastSettle]
@[simp] theorem State.mcastUnicast_hbm (m d series tries mid) : (s.mcastUnicast m d series tries mid).1.hbm = s.hbm := by
  simp [State.mcastUnicast]
@[simp] theorem State.mcastSeries_hbm (m d series) : (s.mcastSeries m d series).1.hbm = s.hbm := by
  unfold State.mcastSeries
  split <;> simp
@[simp] theorem State.mcastTry_hbm (m d) : (s.mcastTry m d).1.hbm = s.hbm := by
  simp only [State.mcastTry]
  split <;> simp
@[simp] theorem State.mcastTimeout_hbm (n m) : (s.mcastTimeout n m).hbm = s.hbm := by
  simp [State.mcastTimeout]

@[simp] theorem State.mcastDetour_hbm (n m node port) : (s.mcastDetour n m node port).hbm = s.hbm := by
  simp [State.mcastDetour]

@[simp] theorem execTrackerResendTimeout_leavesHbm (e) : LeavesHbm (execTrackerResendTimeout e s) s := by
  unfold execTrackerResendTimeout
  (repeat' split) <;> simp
@[simp] theorem State.late_hbm : s.late.hbm = s.hbm := by simp [State.late]
@[simp] theorem State.mcastMark_hbm (n m d r) : (s.mcastMark n m d r).hbm = s.hbm := by
  unfold State.mcastMark
  split <;> simp
@[simp] theorem State.crcOk_hbm (p) (f : State → State) (h : ∀ u, (f u).hbm = u.hbm) : (s.crcOk p f).hbm = s.hbm := by
  simp [State.crcOk, h]
@[simp] theorem execAckReceived_leavesHbm (p) : LeavesHbm (execAckReceived p s) s := by
  refine (leavesHbm_next ..).mpr (State.crcOk_hbm _ _ _ fun u => ?_)
  (repeat' split) <;> simp

@[simp] theorem execNackReceived_leavesHbm (p) : LeavesHbm (execNackReceived p s) s := by
  refine (leavesHbm_next ..).mpr (State.crcOk_hbm _ _ _ fun u => ?_)
  (repeat' split) <;> simp

@[simp] theorem execReadRespReceived_leavesHbm (p) : LeavesHbm (execReadRespReceived p s) s := by
  refine (leavesHbm_next ..).mpr (State.crcOk_hbm _ _ _ fun u => ?_)
  (repeat' split) <;> simp

@[simp] theorem execDetourReceived_leavesHbm (p) : LeavesHbm (execDetourReceived p s) s := by
  refine (leavesHbm_next ..).mpr (State.crcOk_hbm _ _ _ fun u => ?_)
  dsimp only
  (repeat' split) <;> simp

@[simp] theorem State.settleEntries_hbm : s.settleEntries.hbm = s.hbm := by
  unfold State.settleEntries
  dsimp only
  rw [foldl_hbm, foldl_hbm]
  all_goals intro u a; (repeat' split) <;> simp

@[simp] theorem State.filtered_hbm (p) (f : State → State) (h : ∀ u, (f u).hbm = u.hbm) : (s.filtered p f).hbm = s.hbm := by
  unfold State.filtered
  (repeat' split) <;> simp [h]

/-! ### What a write does to the snapshot engine -/

@[simp] theorem State.copyBytes_hbm (c) : (s.copyBytes c).2.2.hbm = s.hbm := by
  unfold State.copyBytes
  split <;> simp
@[simp] theorem State.snapPump_hbm (n) : (s.snapPump n).hbm = s.hbm := by
  induction n generalizing s with
  | zero => simp [State.snapPump]
  | succ n ih => simp only [State.snapPump]; (repeat' split) <;> simp [ih]

/-! ### The memory frame -/

@[simp] theorem State.hbmDone_hbm (r) : (s.hbmDone r).hbm = s.hbm := by simp [State.hbmDone]
/-! ### DMA channels -/

@[simp] theorem State.claim_hbm (i bank c) : (s.claim i bank c).hbm = s.hbm := by simp [State.claim]
@[simp] theorem State.bankTouch_hbm (i off n) : (s.bankTouch i off n).hbm = s.hbm := by simp [State.bankTouch]
@[simp] theorem State.semAt_hbm (i sem c) : (s.semAt i sem c).hbm = s.hbm := by simp [State.semAt]
@[simp] theorem State.writeAt_hbm (i off bs c) : (s.writeAt i off bs c).hbm = s.hbm := by simp [State.writeAt]
@[simp] theorem State.noRecord_hbm (i ch sem c) : (s.noRecord i ch sem c).hbm = s.hbm := by simp [State.noRecord]
@[simp] theorem State.takeUpFails_hbm (i ch sem status detail c) : (s.takeUpFails i ch sem status detail c).hbm = s.hbm := by
  simp [State.takeUpFails]
@[simp] theorem State.readHeader_hbm (i off) : (s.readHeader i off).2.hbm = s.hbm := by
  simp only [State.readHeader]
  (repeat' split) <;> simp
@[simp] theorem State.takeUp_hbm (i ch c) : (s.takeUp i ch c).hbm = s.hbm := by
  unfold State.takeUp
  split
  · rfl
  · dsimp only
    split
    · simp
    · split
      · simp
      · split <;> next h =>
          have e := congrArg (·.2.hbm) h
          simp at e
          (repeat' split) <;> simp [← e]

@[simp] theorem execDmaDescriptorTakeUp_leavesHbm (isl ch) : LeavesHbm (execDmaDescriptorTakeUp isl ch s) s := by
  unfold execDmaDescriptorTakeUp
  split <;> simp
@[simp] theorem State.openRun_hbm (i ch) : (s.openRun i ch).hbm = s.hbm := by
  simp only [State.openRun]
  (repeat' split) <;> simp
theorem State.bankPush_hbm {j r} {t : State} (h : s.bankPush j r = some t) : t.hbm = s.hbm := by
  simp only [State.bankPush, Option.ite_none_left_eq_some, Option.some.injEq] at h
  simp [← h.2]

@[simp] theorem State.askPieces_hbm (i ch last n) : (s.askPieces i ch last n).2.hbm = s.hbm := by
  induction n generalizing s last with
  | zero => simp [State.askPieces]
  | succ n ih => simp only [State.askPieces]; (repeat' split) <;> simp [ih]

theorem State.kickRead_hbm {i ch c} {t : State} (h : s.kickRead i ch c = some t) : t.hbm = s.hbm := by
  simp only [State.kickRead] at h
  split at h
  · cases h
  · cases h; simp
  · split at h
    · obtain ⟨u, hu, rfl⟩ := Option.map_eq_some_iff.mp h
      simp [State.bankPush_hbm _ hu]
    · obtain ⟨u, hu, rfl⟩ := Option.map_eq_some_iff.mp h
      simp [State.bankPush_hbm _ hu]
    · cases h
    · split at h <;> cases h
      simp

theorem State.kickWrite_hbm {i ch c} {t : State} (h : s.kickWrite i ch c = some t) : t.hbm = s.hbm := by
  simp only [State.kickWrite] at h
  split at h
  · cases h
  · split at h
    · cases h
    · split at h
      · cases h
      · replace h := (Option.ite_none_left_eq_some.mp h).2
        split at h <;> cases h
        simp
      · split at h
        · cases h
        · obtain ⟨u, hu, rfl⟩ := Option.map_eq_some_iff.mp (Option.ite_none_left_eq_some.mp h).2
          simp [State.bankPush_hbm _ hu]

@[simp] theorem State.settle_hbm (i ch c) : (s.settle i ch c).hbm = s.hbm := by
  simp only [State.settle]
  (repeat' split) <;> simp
@[simp] theorem State.kickChan_hbm (i ch c n) : (s.kickChan i ch c n).hbm = s.hbm := by
  induction n generalizing s with
  | zero => simp [State.kickChan]
  | succ n ih =>
    simp only [State.kickChan]
    split
    · next h => rw [ih, State.kickWrite_hbm _ h]
    · split
      · next h => rw [ih, State.kickRead_hbm _ h]
      · simp

@[simp] theorem State.kick_hbm (i c) : (s.kick i c).hbm = s.hbm := by simp [State.kick]
@[simp] theorem State.serveBank_hbm (j r) : (s.serveBank j r).hbm = s.hbm := by simp [State.serveBank]
@[simp] theorem State.serveHead_hbm (j bank c) : (s.serveHead j bank c).hbm = s.hbm := by
  unfold State.serveHead
  split <;> simp
@[simp] theorem execBankOpenCycleAccess_leavesHbm (isl bank) : LeavesHbm (execBankOpenCycleAccess isl bank s) s := by
  simp only [execBankOpenCycleAccess]
  split <;> simp
@[simp] theorem State.hbmLands_hbm (i time) : (s.hbmLands i time).hbm = s.hbm := by simp [State.hbmLands]
@[simp] theorem execHbmIslandAccessComplete_leavesHbm (isl) : LeavesHbm (execHbmIslandAccessComplete isl s) s := by
  simp only [execHbmIslandAccessComplete]
  split <;> simp
@[simp] theorem State.writePi_hbm (i ch cqOff pi sem refused c) : (s.writePi i ch cqOff pi sem refused c).hbm = s.hbm := by
  simp [State.writePi]
@[simp] theorem State.badHeader_hbm (i ch r st c) : (s.badHeader i ch r st c).hbm = s.hbm := by simp [State.badHeader]
@[simp] theorem State.writeRecord_hbm (i ch r c) : (s.writeRecord i ch r c).hbm = s.hbm := by
  unfold State.writeRecord
  dsimp only
  split <;> next h =>
    have e := congrArg (·.2.hbm) h
    simp at e
    (repeat' split) <;> simp [← e]

@[simp] theorem State.completeRefused_hbm (i ch r c) : (s.completeRefused i ch r c).hbm = s.hbm := by simp [State.completeRefused]
@[simp] theorem State.completeStep_hbm (i ch c) : (s.completeStep i ch c).hbm = s.hbm := by
  simp only [State.completeStep]
  (repeat' split) <;> simp
@[simp] theorem execDmaCompletion_leavesHbm (isl ch) : LeavesHbm (execDmaCompletion isl ch s) s := by
  unfold execDmaCompletion
  split <;> simp
@[simp] theorem State.bankCycle_hbm (j c n) : (s.bankCycle j c n).hbm = s.hbm := by
  induction n generalizing s with
  | zero => simp [State.bankCycle]
  | succ n ih => simp only [State.bankCycle]; split <;> simp [ih]

@[simp] theorem State.chanCycle_hbm (i c ch) : (s.chanCycle i c ch).hbm = s.hbm := by simp [State.chanCycle]
/-! ### Captures and cuts -/

@[simp] theorem State.toPartner_hbm (p off bs o) : (s.toPartner p off bs o).hbm = s.hbm := by
  simp only [State.toPartner]
  split <;> simp
@[simp] theorem State.cutEdge_hbm (p n byCmd) : (s.cutEdge p n byCmd).hbm = s.hbm := by
  simp only [State.cutEdge]
  split
  · rfl
  · exact (State.toPartner_hbm ..).trans (State.modSnap_hbm ..)

set_option maxRecDepth 20000 in -- the equation of `latch` alone is beyond the default depth
@[simp] theorem State.latch_hbm (p i n) : (s.latch p i n).hbm = s.hbm := by
  unfold State.latch
  extract_lets v bs inexact u
  have hu : u.hbm = s.hbm := by simp only [u, State.bankTouch_hbm, State.setIsl_hbm]
  clear_value u bs inexact
  split <;> simp only [State.modSnap_hbm, hu]

/-! ### Power and clock levels -/

@[simp] theorem State.sendBar_hbm (g dst payload) : (s.sendBar g dst payload).hbm = s.hbm := by simp [State.sendBar]
@[simp] theorem State.announce_hbm (level) : (s.announce level).hbm = s.hbm := by simp [State.announce]
@[simp] theorem State.ramp_hbm (goal) : (s.ramp goal).hbm = s.hbm := by simp [State.ramp]
@[simp] theorem State.decideLevel_hbm (paced) : (s.decideLevel paced).hbm = s.hbm := by simp [State.decideLevel]
@[simp] theorem State.paceOut_hbm (l) : (s.paceOut l).hbm = s.hbm := by simp [State.paceOut]
@[simp] theorem State.setLevel_hbm (l) : (s.setLevel l).hbm = s.hbm := by simp [State.setLevel]
@[simp] theorem State.levelPoint_hbm (paced) : (s.levelPoint paced).hbm = s.hbm := by simp [State.levelPoint]
@[simp] theorem execCapGraceExpiry_leavesHbm : LeavesHbm (execCapGraceExpiry s) s := by
  unfold execCapGraceExpiry
  split <;> simp
@[simp] theorem State.capChanged_hbm (old) : (s.capChanged old).hbm = s.hbm := by simp [State.capChanged]
@[simp] theorem State.emergencyBegins_hbm (bits) : (s.emergencyBegins bits).hbm = s.hbm := by simp [State.emergencyBegins]
@[simp] theorem State.emergencyClears_hbm (bits) : (s.emergencyClears bits).hbm = s.hbm := by
  simp only [State.emergencyClears]
  split <;> simp
/-! ### Barrier groups -/

@[simp] theorem State.recordRelease_hbm (g n t last apply level) : (s.recordRelease g n t last apply level).hbm = s.hbm := by
  simp [State.recordRelease]
@[simp] theorem State.fixRelease_hbm (g) : (s.fixRelease g).hbm = s.hbm := by
  simp only [State.fixRelease]
  (repeat' split) <;> simp
@[simp] theorem State.applyArrival_hbm (g n a) : (s.applyArrival g n a).hbm = s.hbm := by simp [State.applyArrival]
@[simp] theorem State.sendArrival_hbm (g a) : (s.sendArrival g a).hbm = s.hbm := by simp [State.sendArrival]
@[simp] theorem State.tryArrive_hbm (g) : (s.tryArrive g).hbm = s.hbm := by
  unfold State.tryArrive
  (repeat' split) <;> simp
@[simp] theorem execBarriveArrival_leavesHbm (isl) : LeavesHbm (execBarriveArrival isl s) s := by
  simp only [execBarriveArrival]
  split <;> simp
@[simp] theorem State.barPacket_hbm (p kind mine) (f : State → BarMsg → State) (h : ∀ u x, (f u x).hbm = u.hbm) :
    (s.barPacket p kind mine f).hbm = s.hbm := by
  simp [State.barPacket, h]
@[simp] theorem State.startEdge_hbm (p e time) : (s.startEdge p e time).hbm = s.hbm := by simp [State.startEdge]
@[simp] theorem State.pauseDone_hbm (p) : (s.pauseDone p).hbm = s.hbm := by simp [State.pauseDone]
@[simp] theorem execIslandRelease_leavesHbm (group isl) : LeavesHbm (execIslandRelease group isl s) s := by
  refine (leavesHbm_next ..).mpr ?_
  extract_lets g i b p
  split
  · rfl
  · split
    · rfl
    · split
      · rfl
      · extract_lets rest u1 u2 v w u3
        have h1 : u1.hbm = s.hbm := by simp [u1]
        have h2 : u2.hbm = s.hbm := by simp only [u2]; split <;> simp [h1]
        have h3 : u3.hbm = s.hbm := by simp only [u3]; (repeat' split) <;> simp [h1, h2]
        split <;> simp [h3]

/-! ### Sent flits -/

@[simp] theorem State.sendFlit_hbm (port kind body rest) : (s.sendFlit port kind body rest).hbm = s.hbm := by simp [State.sendFlit]
@[simp] theorem State.nextFlit_hbm (port) : (s.nextFlit port).hbm = s.hbm := by
  simp only [State.nextFlit]
  split <;> simp
@[simp] theorem State.tickFlits_hbm (port) : (s.tickFlits port).hbm = s.hbm := by simp [State.tickFlits]

/-! ### Destinations, multicast, circuits, the epoch -/

@[simp] theorem State.countLines_hbm (p n) : (s.countLines p n).hbm = s.hbm := by simp [State.countLines]
@[simp] theorem State.receive_hbm (p refuse) (f : State → State) (h : ∀ u, (f u).hbm = u.hbm) :
    (s.receive p refuse f).hbm = s.hbm := by
  unfold State.receive
  (repeat' split) <;> simp [h]
@[simp] theorem execNotifyReceived_leavesHbm (p) : LeavesHbm (execNotifyReceived p s) s := by
  refine (leavesHbm_next ..).mpr (State.crcOk_hbm _ _ _ fun u => State.receive_hbm _ _ _ _ fun u => ?_)
  split <;> simp

@[simp] theorem State.copyTo_hbm (p port) : (s.copyTo p port).hbm = s.hbm := by simp [State.copyTo]
@[simp] theorem State.mcastForward_hbm (port p) : (s.mcastForward port p).hbm = s.hbm := by simp [State.mcastForward]
@[simp] theorem State.taken_hbm (port p) : (s.taken port p).hbm = s.hbm := by simp [State.taken]
@[simp] theorem State.expireCircuit_hbm (port) : (s.expireCircuit port).hbm = s.hbm := by
  simp only [State.expireCircuit]
  (repeat' split) <;> simp
@[simp] theorem execPacketQueueExpiry_leavesHbm (port vc) : LeavesHbm (execPacketQueueExpiry port vc s) s := by
  unfold execPacketQueueExpiry
  split <;> simp
@[simp] theorem execPacketAtQueueHead_leavesHbm (port vc) : LeavesHbm (execPacketAtQueueHead port vc s) s := by
  simp only [execPacketAtQueueHead]
  split <;> simp
@[simp] theorem State.dropClaims_hbm (feature) : (s.dropClaims feature).hbm = s.hbm := by simp [State.mem_hbm, State.dropClaims]
@[simp] theorem State.circuitLost_hbm (port p) : (s.circuitLost port p).hbm = s.hbm := by simp [State.circuitLost]
@[simp] theorem State.positionLost_hbm (port ps) : (s.positionLost port ps).hbm = s.hbm := by simp [State.positionLost]
@[simp] theorem State.circArrive_hbm (port c) : (s.circArrive port c).hbm = s.hbm := by
  simp only [State.circArrive]
  split <;> simp
@[simp] theorem State.circOnward_hbm (ps) : (s.circOnward ps).1.hbm = s.hbm :=
  foldl_fst_hbm _ (fun r c => by split <;> simp) _ _

@[simp] theorem State.fillPosition_hbm (port k m n) : (s.fillPosition port k m n).1.hbm = s.hbm := by
  induction n generalizing s m with
  | zero => simp [State.fillPosition]
  | succ n ih =>
    simp only [State.fillPosition]
    split
    · rfl
    · next q _ _ =>
      split
      · rfl
      · have e : (if q.seen then (s, some q) else s.judge port 6 q).1.hbm = s.hbm := by split <;> simp
        split
        · next hj => simpa [hj, ih] using e
        · next hj => rw [hj] at e; split <;> simpa [ih] using e

@[simp] theorem State.transitSegs_hbm (port ps) : (s.transitSegs port ps).1.hbm = s.hbm := by
  refine foldl_fst_hbm _ (fun r c => ?_) _ _
  dsimp only
  split
  · rfl
  · have e := r.1.judge_hbm port 6 ⟨c.pkt, s.clk.now, false, false, none, none⟩
    split <;> next hj => simpa [hj] using e

@[simp] theorem State.sendPosition_hbm (port pos epoch l) : (s.sendPosition port pos epoch l).hbm = s.hbm := by simp [State.sendPosition]
@[simp] theorem State.dispatchPosition_hbm (port pos epoch l) : (s.dispatchPosition port pos epoch l).hbm = s.hbm := by
  simp [State.dispatchPosition]
@[simp] theorem execCircuitPositionSend_leavesHbm (port pos) : LeavesHbm (execCircuitPositionSend port pos s) s := by
  simp only [execCircuitPositionSend]
  (repeat' split) <;> simp
@[simp] theorem execEpochFlip_leavesHbm : LeavesHbm (execEpochFlip s) s := by
  unfold execEpochFlip
  split <;> simp
/-! ### Ports -/

@[simp] theorem State.freeBlocks_hbm (port vc n) : (s.freeBlocks port vc n).hbm = s.hbm := by simp [State.freeBlocks]
@[simp] theorem State.cutPacket_hbm (port) : (s.cutPacket port).hbm = s.hbm := by
  simp only [State.cutPacket]
  (repeat' split) <;> simp
@[simp] theorem State.flitLost_hbm (port) : (s.flitLost port).hbm = s.hbm := by simp [State.flitLost]
@[simp] theorem State.freeLost_hbm (port first) : (s.freeLost port first).hbm = s.hbm := by
  simp only [State.freeLost]
  (repeat' split) <;> simp
@[simp] theorem State.takeBlock_hbm (port first discard) (r : State × Bool) (ib) :
    (State.takeBlock port first discard r ib).1.hbm = r.1.hbm := by
  simp only [State.takeBlock]
  (repeat' split) <;> simp

@[simp] theorem State.peerNarrows_hbm (port) : (s.peerNarrows port).hbm = s.hbm := by simp [State.peerNarrows]
@[simp] theorem State.goodFlit_hbm (port flit fixed) : (s.goodFlit port flit fixed).hbm = s.hbm := by
  simp only [State.goodFlit]
  (repeat' split) <;> simp

@[simp] theorem execFlitReceive_leavesHbm (port coded) : LeavesHbm (execFlitReceive port coded s) s := by
  unfold execFlitReceive
  split <;> simp
@[simp] theorem State.widthChanged_hbm (port) : (s.widthChanged port).hbm = s.hbm := by simp [State.widthChanged]
@[simp] theorem State.settlePort_hbm (port) : (s.settlePort port).hbm = s.hbm := by simp [State.settlePort]
@[simp] theorem State.narrow_hbm (port) : (s.narrow port).hbm = s.hbm := by simp [State.narrow]
@[simp] theorem State.failLanes_hbm (port lanes) : (s.failLanes port lanes).hbm = s.hbm := by
  simp only [State.failLanes]
  (repeat' split) <;> simp
@[simp] theorem State.openPort_hbm (port) : (s.openPort port).hbm = s.hbm := by simp [State.openPort]
@[simp] theorem State.exchange_hbm (port) : (s.exchange port).hbm = s.hbm := by simp [State.exchange]
@[simp] theorem State.checkWiring_hbm (port) : (s.checkWiring port).hbm = s.hbm := by simp [State.checkWiring]
@[simp] theorem execPeerExchange_leavesHbm (port node peerPort attached doubled) :
    LeavesHbm (execPeerExchange port node peerPort attached doubled s) s := by
  simp only [execPeerExchange]
  (repeat' split) <;> simp
@[simp] theorem State.recheckPorts_hbm : s.recheckPorts.hbm = s.hbm := by simp [State.mem_hbm, State.recheckPorts]
/-! ### Claims -/

@[simp] theorem State.setClaim_hbm (r h) : (s.setClaim r h).hbm = s.hbm := by simp [State.mem_hbm, State.setClaim]
@[simp] theorem State.setClaims_hbm (rs h) : (s.setClaims rs h).hbm = s.hbm := by simp [State.setClaims]
@[simp] theorem State.release_hbm (h) : (s.release h).hbm = s.hbm := by simp [State.mem_hbm, State.release]
@[simp] theorem State.releaseFeat_hbm (feat) : (s.releaseFeat feat).hbm = s.hbm := by simp [State.releaseFeat]
@[simp] theorem State.takeComp_hbm (h) : (s.takeComp h).hbm = s.hbm := by
  unfold State.takeComp
  split <;> simp
@[simp] theorem State.auxSettle_hbm : s.auxSettle.hbm = s.hbm := by simp [State.mem_hbm, State.auxSettle]
@[simp] theorem State.retainedClaims_hbm : s.retainedClaims.hbm = s.hbm := by
  simp only [State.retainedClaims]
  split <;> simp [State.mem_hbm]

/-! ### Gating groups, scrub, log copies -/

@[simp] theorem State.setGroupSt_hbm (g st) : (s.setGroupSt g st).hbm = s.hbm := by simp [State.setGroupSt]
@[simp] theorem State.wakeGroup_hbm (g) : (s.wakeGroup g).hbm = s.hbm := by
  simp only [State.wakeGroup]
  (repeat' split) <;> simp
@[simp] theorem execPowerGatingEntryDone_leavesHbm (g) : LeavesHbm (execPowerGatingEntryDone g s) s := by
  simp only [execPowerGatingEntryDone]
  split <;> simp
@[simp] theorem execGroupWakeComplete_leavesHbm (g) : LeavesHbm (execGroupWakeComplete g s) s := by
  simp only [execGroupWakeComplete]
  split <;> simp
@[simp] theorem State.excPut_hbm (p bs) : (s.excPut p bs).hbm = s.hbm := by
  unfold State.excPut
  split <;> simp

/-! ### The command interpreter -/

@[simp] theorem State.refuse_leavesHbm (t s : State) (st d) : (t.refuse st d).LeavesHbm s ↔ t.hbm = s.hbm := Iff.rfl

@[simp] theorem State.wrong_leavesHbm (t s : State) (d) : (t.wrong d).LeavesHbm s ↔ t.hbm = s.hbm := Iff.rfl

@[simp] theorem State.leaveIdle_hbm : s.leaveIdle.hbm = s.hbm := by simp [State.leaveIdle]
@[simp] theorem State.startLong_leavesHbm (t s : State) (c op at_ plane) (f : State → State) (e : t.hbm = s.hbm)
    (h : ∀ u, (f u).hbm = u.hbm) : (t.startLong c op at_ plane f).LeavesHbm s := by
  unfold State.startLong
  (repeat' split) <;> simp [e, h]

@[simp] theorem State.unlessBusy_leavesHbm (t s : State) (b) (f : Unit → Run) (e : t.hbm = s.hbm) (h : (f ()).LeavesHbm s) :
    (t.unlessBusy b f).LeavesHbm s := by
  unfold State.unlessBusy
  split
  · simpa using e
  · exact h

@[simp] theorem State.breakRing_hbm (r reason) : (s.breakRing r reason).hbm = s.hbm := by simp [State.breakRing]
@[simp] theorem State.settleRing_hbm (r) : (s.settleRing r).hbm = s.hbm := by simp [State.settleRing]
@[simp] theorem State.settleStop_hbm (r) : (s.settleStop r).hbm = s.hbm := by simp [State.settleStop]
@[simp] theorem State.advanceCi_hbm (r n) : (s.advanceCi r n).hbm = s.hbm := by simp [State.advanceCi]
@[simp] theorem State.readSlots_hbm (r n) : (s.readSlots r n).hbm = s.hbm := by simp [State.readSlots]
@[simp] theorem State.fetch_hbm (p op) (start : Nat → State → State) (h : ∀ n u, (start n u).hbm = u.hbm) :
    (s.fetch p op start).hbm = s.hbm := by
  unfold State.fetch
  (repeat' split) <;> simp [State.mem_hbm, h]
@[simp] theorem State.command_hbm (c op extra) (body : Nat → State → Run) (h : ∀ n u, (body n u).LeavesHbm u) :
    (s.command c op extra body).hbm = s.hbm := by
  unfold State.command
  split
  · rfl
  · refine State.fetch_hbm _ _ _ _ fun n u => ?_
    split
    · simp
    · have e := h n u
      split <;> next hb => simp only [hb, Run.leavesHbm_reply, Run.leavesHbm_first, Run.leavesHbm_long] at e; simp [State.mem_hbm, e]

theorem leavesHbm_command {s : State} {c op extra} {body : Nat → State → Run} (h : ∀ n u, (body n u).LeavesHbm u) :
    LeavesHbm (.next (s.command c op extra body)) s := (leavesHbm_next ..).mpr (State.command_hbm _ _ _ _ _ h)

@[simp] theorem State.simple_hbm (c op) (body : State → Rep × State) (h : ∀ u, (body u).2.hbm = u.hbm) :
    (s.simple c op body).hbm = s.hbm := State.command_hbm _ _ _ _ _ fun _ u => h u

theorem leavesHbm_simple {s : State} {c op} {body : State → Rep × State} (h : ∀ u, (body u).2.hbm = u.hbm) :
    LeavesHbm (.next (s.simple c op body)) s := (leavesHbm_next ..).mpr (State.simple_hbm _ _ _ _ h)

@[simp] theorem State.withdraw_hbm (c) : (s.withdraw c).hbm = s.hbm := by simp [State.withdraw]
@[simp] theorem execCommandTimeout_leavesHbm (ring tag) : LeavesHbm (execCommandTimeout ring tag s) s := by
  unfold execCommandTimeout
  (repeat' split) <;> simp [State.mem_hbm]

/-! ### The host interface -/

@[simp] theorem State.saveSettings_hbm : s.saveSettings.hbm = s.hbm := by simp [State.saveSettings]
@[simp] theorem State.linkWoken_hbm : s.linkWoken.hbm = s.hbm := by simp [State.linkWoken]
@[simp] theorem State.barDiscarded_hbm : s.barDiscarded.hbm = s.hbm := by simp [State.barDiscarded]
@[simp] theorem State.dropHeld_hbm (r) : (s.dropHeld r).hbm = s.hbm := by simp [State.dropHeld]
@[simp] theorem State.dropRings_hbm : s.dropRings.hbm = s.hbm := by simp [State.mem_hbm, State.dropRings]
@[simp] theorem State.hostReset_hbm : s.hostReset.hbm = s.hbm := by simp [State.hostReset]
@[simp] theorem State.activateMem_hbm : s.activateMem.hbm = s.hbm := by simp [State.activateMem]
@[simp] theorem State.memInvalid_hbm : s.memInvalid.hbm = s.hbm := by simp [State.mem_hbm, State.memInvalid]
@[simp] theorem State.holdLine_hbm (comp r a) : (s.holdLine comp r a).hbm = s.hbm := by simp [State.holdLine]
@[simp] theorem State.dropLine_hbm (comp r) : (s.dropLine comp r).hbm = s.hbm := by simp [State.dropLine]
@[simp] theorem execCommandRingDisable_leavesHbm (ring v) : LeavesHbm (execCommandRingDisable ring v s) s := by
  simp only [execCommandRingDisable]
  (repeat' split) <;> simp
@[simp] theorem State.ringsSettled_hbm : s.ringsSettled.hbm = s.hbm := by simp [State.ringsSettled]
@[simp] theorem State.noticed_hbm (poll x) : (s.noticed poll x).hbm = s.hbm := by simp [State.noticed]
@[simp] theorem State.hostRefused_hbm : s.hostRefused.hbm = s.hbm := by simp [State.hostRefused]
@[simp] theorem State.grant_hbm (line) : (s.grant line).hbm = s.hbm := by
  unfold State.grant
  (repeat' split) <;> simp
@[simp] theorem State.unmask_hbm (r) : (s.unmask r).hbm = s.hbm := by simp [State.unmask]
@[simp] theorem State.writeMsix_hbm (off v) : (s.writeMsix off v).hbm = s.hbm := by simp [State.writeMsix]
@[simp] theorem State.writeRing_hbm (comp r k v) : (s.writeRing comp r k v).hbm = s.hbm := by simp [State.writeRing]
@[simp] theorem State.writeBar_hbm (off v) : (s.writeBar off v).hbm = s.hbm := by simp [State.writeBar]

/-! ### Pins -/

/-! ### Starts, restarts, trips -/

@[simp] theorem State.recover_hbm : s.recover.hbm = s.hbm := by simp [State.recover]
@[simp] theorem State.setStart_hbm (x) : (s.setStart x).hbm = s.hbm := by simp [State.setStart]
@[simp] theorem State.otherSlot_hbm (x) : (s.otherSlot x).hbm = s.hbm := by simp [State.otherSlot]
@[simp] theorem State.fillBegins_hbm (x) : (s.fillBegins x).hbm = s.hbm := by simp [State.mem_hbm, State.fillBegins]
@[simp] theorem State.goReady_hbm (x) : (s.goReady x).hbm = s.hbm := by simp [State.mem_hbm, State.goReady]
@[simp] theorem State.loseSnapshots_hbm : s.loseSnapshots.hbm = s.hbm := by simp [State.loseSnapshots]
@[simp] theorem State.loseFabric_hbm : s.loseFabric.hbm = s.hbm := by simp [State.loseFabric]
@[simp] theorem State.loseCommands_hbm : s.loseCommands.hbm = s.hbm := by simp [State.mem_hbm, State.loseCommands]
@[simp] theorem State.componentLoss_hbm (c) : (s.componentLoss c).hbm = s.hbm := by
  unfold State.componentLoss
  split <;> simp
/-! ### Device and partition commands -/

@[simp] theorem execSetNode_leavesHbm (c) : LeavesHbm (execSetNode c s) s :=
  leavesHbm_simple fun u => by split <;> simp

@[simp] theorem State.clearBegins_hbm : s.clearBegins.hbm = s.hbm := by simp [State.mem_hbm, State.clearBegins]
@[simp] theorem execMemoryClear_leavesHbm (c) : LeavesHbm (execMemoryClear c s) s := by
  refine leavesHbm_command fun n u => ?_
  (repeat' split) <;> simp

@[simp] theorem execPartCreate_leavesHbm (c) : LeavesHbm (execPartCreate c s) s :=
  leavesHbm_simple fun u => by dsimp only; split <;> simp

@[simp] theorem State.recheckLines_hbm (a n) : (s.recheckLines a n).hbm = s.hbm := by simp [State.recheckLines]
@[simp] theorem State.freeGroups_hbm (p) : (s.freeGroups p).hbm = s.hbm := by simp [State.mem_hbm, State.freeGroups]
@[simp] theorem execPartDestroy_leavesHbm (c) : LeavesHbm (execPartDestroy c s) s := by
  refine leavesHbm_command fun n u => State.unlessBusy_leavesHbm _ _ _ _ rfl ?_
  dsimp only
  (repeat' split) <;> simp [State.mem_hbm]

@[simp] theorem State.putWindow_hbm (p w x) : (s.putWindow p w x).hbm = s.hbm := by simp [State.putWindow]
@[simp] theorem State.windowChange_leavesHbm (p w x) : (s.windowChange p w x).LeavesHbm s := by
  simp [State.windowChange]

/-! ### Fabric time -/

@[simp] theorem State.setTime_hbm (t) : (s.setTime t).hbm = s.hbm := by simp [State.setTime]
@[simp] theorem State.takeTime_hbm (t) : (s.takeTime t).hbm = s.hbm := by simp [State.takeTime]
/-! ### Fabric commands -/

@[simp] theorem State.modTab_hbm (e f) : (s.modTab e f).hbm = s.hbm := by simp [State.modTab]
@[simp] theorem State.onVersion_leavesHbm (e) (f : Unit → Run) (h : (f ()).LeavesHbm s) : (s.onVersion e f).LeavesHbm s := by
  refine State.unlessBusy_leavesHbm _ _ _ _ rfl ?_
  split
  · simp
  · exact h

@[simp] theorem execTableCommit_leavesHbm (c) : LeavesHbm (execTableCommit c s) s :=
  leavesHbm_command fun n u => by simp

@[simp] theorem execTableCommitComplete_leavesHbm (ver) : LeavesHbm (execTableCommitComplete ver s) s := by
  unfold execTableCommitComplete
  (repeat' split) <;> simp
@[simp] theorem execFlipArm_leavesHbm (c) : LeavesHbm (execFlipArm c s) s := by
  refine leavesHbm_command fun n u => ?_
  (repeat' split) <;> simp

@[simp] theorem State.auxTaken_hbm (port) : (s.auxTaken port).hbm = s.hbm := by simp [State.auxTaken]
@[simp] theorem State.portWrite_hbm (k on allow thr) : (s.portWrite k on allow thr).hbm = s.hbm := by simp [State.portWrite]
@[simp] theorem State.portSetting_hbm (c) : (s.portSetting c).hbm = s.hbm := by simp [State.portSetting]
@[simp] theorem onForm_hbm (c off bit v) (s t : State) (h : t.hbm = s.hbm) : (onForm c off bit v s t).hbm = s.hbm := by
  simp [onForm, h]

@[simp] theorem execAuxMode_leavesHbm (c) : LeavesHbm (execAuxMode c s) s := leavesHbm_command fun n u => by simp [State.mem_hbm]

@[simp] theorem State.syncClaims_hbm (new) : (s.syncClaims new).hbm = s.hbm := by
  unfold State.syncClaims
  (repeat' split) <;> simp
@[simp] theorem execTimeCfg_leavesHbm (c) : LeavesHbm (execTimeCfg c s) s := by
  refine leavesHbm_command fun n u => ?_
  dsimp only
  split <;> simp [State.mem_hbm]

@[simp] theorem State.rearrive_hbm (g old) : (s.rearrive g old).hbm = s.hbm := by
  simp only [State.rearrive]
  split <;> simp
@[simp] theorem execBarrierFree_leavesHbm (c) : LeavesHbm (execBarrierFree c s) s := by
  refine leavesHbm_command fun n u => ?_
  dsimp only
  split <;> simp

/-! ### Pipeline commands -/

@[simp] theorem execLoad_leavesHbm (c) : LeavesHbm (execLoad c s) s := leavesHbm_command fun n u => by simp

@[simp] theorem State.failImage_hbm (c st d f) : (s.failImage c st d f).hbm = s.hbm := by simp [State.failImage]
@[simp] theorem execUnload_leavesHbm (c) : LeavesHbm (execUnload c s) s := leavesHbm_command fun n u => by simp

@[simp] theorem State.claimFor_hbm (p im) : (s.claimFor p im).hbm = s.hbm := by simp [State.claimFor]
@[simp] theorem State.flushLog_hbm (i) : (s.flushLog i).hbm = s.hbm := by simp [State.flushLog]
@[simp] theorem State.place_hbm (p im img) : (s.place p im img).hbm = s.hbm := by simp [State.mem_hbm, State.place]
@[simp] theorem State.bindUndone_hbm (p) : (s.bindUndone p).hbm = s.hbm := by simp [State.bindUndone]
@[simp] theorem State.unbindGroups_hbm (p) : (s.unbindGroups p).hbm = s.hbm := by simp [State.unbindGroups]
@[simp] theorem State.bindPlaces_hbm (k c im img) : (s.bindPlaces k c im img).hbm = s.hbm := by
  unfold State.bindPlaces
  split <;> simp
@[simp] theorem State.startCmd_hbm (c op from_) : (s.startCmd c op from_).hbm = s.hbm := by
  refine State.command_hbm _ _ _ _ _ fun n u => ?_
  simp

@[simp] theorem execPause_leavesHbm (c) : LeavesHbm (execPause c s) s := by
  refine leavesHbm_command fun n u => ?_
  (repeat' split) <;> simp

@[simp] theorem State.superseded_hbm (p) : (s.superseded p).hbm = s.hbm := by simp [State.superseded]
@[simp] theorem State.abandon_hbm (i) : (s.abandon i).hbm = s.hbm := by simp [State.abandon]
@[simp] theorem State.drainBegins_hbm (p) : (s.drainBegins p).hbm = s.hbm := by simp [State.drainBegins]
@[simp] theorem execPipelineDrain_leavesHbm (c) : LeavesHbm (execPipelineDrain c s) s := leavesHbm_command fun n u => by simp

@[simp] theorem execPipelineDrainComplete_leavesHbm (p) : LeavesHbm (execPipelineDrainComplete p s) s := by
  simp only [execPipelineDrainComplete]
  split <;> simp [State.mem_hbm]
/-! ### Snapshot commands -/

@[simp] theorem execSnapEnable_leavesHbm (c) : LeavesHbm (execSnapEnable c s) s := by
  refine (leavesHbm_next ..).mpr (onForm_hbm _ _ _ _ _ _ (State.command_hbm _ _ _ _ _ fun n u =>
    State.unlessBusy_leavesHbm _ _ _ _ rfl ?_))
  (repeat' split) <;> simp

@[simp] theorem execSnapDisable_leavesHbm (c) : LeavesHbm (execSnapDisable c s) s := by
  refine (leavesHbm_next ..).mpr (onForm_hbm _ _ _ _ _ _ (State.command_hbm _ _ _ _ _ fun n u => ?_))
  simp

@[simp] theorem execSnapPartners_leavesHbm (c tags) : LeavesHbm (execSnapPartners c tags s) s := by
  refine leavesHbm_command fun n u => State.unlessBusy_leavesHbm _ _ _ _ rfl ?_
  dsimp only
  (repeat' split) <;> simp

@[simp] theorem execSnapCut_leavesHbm (c) : LeavesHbm (execSnapCut c s) s := by
  refine leavesHbm_command fun n u => ?_
  (repeat' split) <;> simp

@[simp] theorem execSnapCopyComplete_leavesHbm : LeavesHbm (execSnapCopyComplete s) s := by
  unfold execSnapCopyComplete
  split <;> simp
@[simp] theorem execRestore_leavesHbm (c) : LeavesHbm (execRestore c s) s := leavesHbm_command fun n u => by simp

@[simp] theorem execVerify_leavesHbm (c) : LeavesHbm (execVerify c s) s := leavesHbm_command fun n u => by simp

@[simp] theorem execReplicaHashCompareDone_leavesHbm (p other) : LeavesHbm (execReplicaHashCompareDone p other s) s := by
  simp only [execReplicaHashCompareDone]
  split <;> simp
/-! ### Power commands -/

@[simp] theorem State.enterIdle_hbm : s.enterIdle.hbm = s.hbm := by simp [State.mem_hbm, State.enterIdle]
@[simp] theorem execDeepIdleEnter_leavesHbm (c) : LeavesHbm (execDeepIdleEnter c s) s := by
  refine (leavesHbm_next ..).mpr (onForm_hbm _ _ _ _ _ _ (State.command_hbm _ _ _ _ _ fun n u => ?_))
  split <;> simp

@[simp] theorem execDeepIdleExit_leavesHbm (c) : LeavesHbm (execDeepIdleExit c s) s :=
  (leavesHbm_next ..).mpr (onForm_hbm _ _ _ _ _ _ (State.command_hbm _ _ _ _ _ fun n u => by simp))

@[simp] theorem State.wakePort_hbm (k) : (s.wakePort k).hbm = s.hbm := by simp [State.wakePort]
/-! ### Firmware commands -/

@[simp] theorem execFwStage_leavesHbm (c) : LeavesHbm (execFwStage c s) s := leavesHbm_command fun n u => by simp

@[simp] theorem State.quiesced_hbm : s.quiesced.hbm = s.hbm := by
  unfold State.quiesced
  split <;> simp
@[simp] theorem State.beginActivation_hbm (byCmd at_) : (s.beginActivation byCmd at_).hbm = s.hbm := by simp [State.beginActivation]
@[simp] theorem State.endActivation_hbm (status detail r0) : (s.endActivation status detail r0).hbm = s.hbm := by
  unfold State.endActivation
  split <;> simp
@[simp] theorem State.startFw_leavesHbm (c op at_) (f : State → State) (h : ∀ u, (f u).hbm = u.hbm) :
    (s.startFw c op at_ f).LeavesHbm s := by
  have e := s.startLong_leavesHbm s c op at_ false f rfl h
  unfold State.startFw
  split
  · next hr => rw [hr] at e; split <;> exact e
  · exact e

@[simp] theorem State.armStart_hbm (op fault) : (s.armStart op fault).hbm = s.hbm :=
  foldl_hbm _ (fun u c => by split <;> simp) _ _

@[simp] theorem execFwActivate_leavesHbm (c) : LeavesHbm (execFwActivate c s) s := by
  refine leavesHbm_command fun n u => ?_
  (repeat' split) <;> simp

@[simp] theorem execFwRollback_leavesHbm (c) : LeavesHbm (execFwRollback c s) s := by
  refine leavesHbm_command fun n u => ?_
  (repeat' split) <;> simp

@[simp] theorem execActivationContinue_leavesHbm : LeavesHbm (execActivationContinue s) s := by
  unfold execActivationContinue
  (repeat' split) <;> simp
@[simp] theorem execActivationHoldExpiry_leavesHbm : LeavesHbm (execActivationHoldExpiry s) s := by
  unfold execActivationHoldExpiry
  split <;> simp
@[simp] theorem execActivationLoadDone_leavesHbm : LeavesHbm (execActivationLoadDone s) s := by
  unfold execActivationLoadDone
  (repeat' split) <;> simp
@[simp] theorem State.clearInjection_hbm : s.clearInjection.hbm = s.hbm := by simp [State.mem_hbm, State.clearInjection]
@[simp] theorem State.flipSide_hbm (k) : (s.flipSide k).hbm = s.hbm := by simp [State.flipSide]
@[simp] theorem State.switched_hbm : s.switched.hbm = s.hbm := by simp [State.switched]
@[simp] theorem State.handBack_hbm (n) : (s.handBack n).hbm = s.hbm := foldl_hbm _ (by simp) _ _

@[simp] theorem execHandOffDone_leavesHbm (r) : LeavesHbm (execHandOffDone r s) s := by
  unfold execHandOffDone
  (repeat' split) <;> simp
/-! ### Diagnostic commands -/

@[simp] theorem execFiSet_leavesHbm (c) : LeavesHbm (execFiSet c s) s := by
  refine leavesHbm_command fun n u => ?_
  dsimp only
  split
  · simp
  · split <;> simp

@[simp] theorem execFiKey_leavesHbm (c) : LeavesHbm (execFiKey c s) s := by
  refine leavesHbm_command fun n u => ?_
  (repeat' split) <;> simp

@[simp] theorem execClaimQuery_leavesHbm (c) : LeavesHbm (execClaimQuery c s) s := by
  unfold execClaimQuery
  (repeat' split) <;> simp
/-! ### The management port -/

@[simp] theorem State.send_hbm (x) : (s.send x).hbm = s.hbm := by simp [State.send]
@[simp] theorem State.answer_hbm (c data) : (s.answer c data).hbm = s.hbm := by simp [State.answer]
@[simp] theorem State.onPort_hbm (f : State → State) (h : ∀ u, (f u).hbm = u.hbm) : (s.onPort f).hbm = s.hbm := by
  simp [State.onPort, h]
@[simp] theorem State.pldm_hbm (light) (f : State → State) (h : ∀ u, (f u).hbm = u.hbm) : (s.pldm light f).hbm = s.hbm := by
  simp [State.pldm, h]
@[simp] theorem State.answerFree_hbm (n) : (s.answerFree n).hbm = s.hbm := by simp [State.answerFree]
@[simp] theorem execUnsupportedManagementMessage_leavesHbm (m) : LeavesHbm (execUnsupportedManagementMessage m s) s := by
  unfold execUnsupportedManagementMessage
  split <;> simp
@[simp] theorem execGetPdr_leavesHbm (handle) : LeavesHbm (execGetPdr handle s) s := by
  unfold execGetPdr
  split <;> simp
@[simp] theorem State.answerSome_hbm (x) : (s.answerSome x).hbm = s.hbm := by
  unfold State.answerSome
  split <;> simp
@[simp] theorem execPollForPlatformEventMessage_leavesHbm : LeavesHbm (execPollForPlatformEventMessage s) s := by
  refine (leavesHbm_next ..).mpr (State.pldm_hbm _ _ _ fun u => ?_)
  (repeat' split) <;> simp

@[simp] theorem State.updatePort_hbm (f : State → State) (h : ∀ u, (f u).hbm = u.hbm) : (s.updatePort f).hbm = s.hbm := by
  simp [State.updatePort, h]
@[simp] theorem execUpdateVerifyComplete_leavesHbm : LeavesHbm (execUpdateVerifyComplete s) s := by
  refine (leavesHbm_next ..).mpr (State.onPort_hbm _ _ fun u => ?_)
  (repeat' split) <;> simp

@[simp] theorem State.dropUpdate_hbm : s.dropUpdate.hbm = s.hbm := by simp [State.dropUpdate]
@[simp] theorem State.spdm_hbm (f : State → State) (h : ∀ u, (f u).hbm = u.hbm) : (s.spdm f).hbm = s.hbm := by simp [State.spdm, h]
@[simp] theorem State.putConn_hbm (c) : (s.putConn c).hbm = s.hbm := by simp [State.putConn]
@[simp] theorem State.dropConn_hbm (ep) : (s.dropConn ep).hbm = s.hbm := by simp [State.dropConn]
@[simp] theorem State.inStage_hbm (ep g) (f : State → SpdmConn → State) (h : ∀ u x, (f u x).hbm = u.hbm) :
    (s.inStage ep g f).hbm = s.hbm := by
  refine State.spdm_hbm _ _ fun u => ?_
  (repeat' split) <;> simp [h]

@[simp] theorem State.respondSpdm_hbm (c data) : (s.respondSpdm c data).hbm = s.hbm := by simp [State.respondSpdm]
@[simp] theorem State.sign_hbm (msg) : (s.sign msg).2.hbm = s.hbm := by simp [State.mem_hbm, State.sign]
@[simp] theorem execGetMeasurements_leavesHbm (ep index sign nonce) : LeavesHbm (execGetMeasurements ep index sign nonce s) s := by
  unfold execGetMeasurements
  split <;> simp
@[simp] theorem execChunkSend_leavesHbm (ep last seq bytes) : LeavesHbm (execChunkSend ep last seq bytes s) s := by
  refine (leavesHbm_next ..).mpr (State.spdm_hbm _ _ fun u => ?_)
  (repeat' split) <;> simp

@[simp] theorem execChunkGet_leavesHbm (ep seq) : LeavesHbm (execChunkGet ep seq s) s := by
  refine (leavesHbm_next ..).mpr (State.spdm_hbm _ _ fun u => ?_)
  (repeat' split) <;> simp

/-! ### Register writes and reads that clear -/

@[simp] theorem State.regDiscard_hbm (i) : (s.regDiscard i).hbm = s.hbm := by simp [State.regDiscard]
@[simp] theorem State.writeIsland_hbm (i o x) : (s.writeIsland i o x).hbm = s.hbm := by
  unfold State.writeIsland
  (repeat' split) <;> simp
@[simp] theorem State.writeChan_hbm (i ch o x) : (s.writeChan i ch o x).hbm = s.hbm := by simp [State.writeChan]
@[simp] theorem State.regRefused_hbm (a) : (s.regRefused a).hbm = s.hbm := by simp [State.regRefused]
@[simp] theorem State.writeDev_hbm (a x) : (s.writeDev a x).hbm = s.hbm := by simp [State.writeDev]
@[simp] theorem execRegisterWrite_leavesHbm (a v) : LeavesHbm (execRegisterWrite a v s) s := by
  unfold execRegisterWrite
  split <;> simp
@[simp] theorem readOut_leavesHbm (v : Dword) (t s : State) : LeavesHbm (readOut v t) s ↔ t.hbm = s.hbm := by
  simp [readOut]

/-! ### The vector slot -/

@[simp] theorem State.vresult_hbm (i op t n a) : (s.vresult i op t n a).hbm = s.hbm := by simp [State.vresult]
@[simp] theorem State.drawLanes_hbm : s.drawLanes.2.hbm = s.hbm := by simp [State.drawLanes]
@[simp] theorem execVbcast_leavesHbm (w vd xa) : LeavesHbm (execVbcast w vd xa s) s :=
  (leavesHbm_next ..).mpr (State.slot_hbm _ _ _ _ fun _ _ _ _ => State.vresult_hbm ..)

@[simp] theorem State.lanesAfter_hbm (i r) : (s.lanesAfter i r).2.hbm = s.hbm := by
  unfold State.lanesAfter
  split
  · exact s.drawLanes_hbm
  · rfl

@[simp] theorem execVred_leavesHbm (w fn vd va) : LeavesHbm (execVred w fn vd va s) s := by
  unfold execVred
  split <;> simp
end

/-! ## What keeps the canonical form -/

/-- HBM is in its canonical form: strictly rising addresses, no zero byte. -/
def State.Canon (s : State) : Prop := Memory.wf s.hbm = true

section
variable {s t : State}

theorem State.Canon.of_hbm (h : s.Canon) (e : t.hbm = s.hbm) : t.Canon := (congrArg (Memory.wf · = true) e).mpr h

theorem State.Canon.foldl {α : Type*} {f : State → α → State} (hf : ∀ u a, u.Canon → (f u a).Canon) (l : List α) (h : s.Canon) :
    (l.foldl f s).Canon := by
  induction l generalizing s with
  | nil => exact h
  | cons a l ih => exact ih (hf s a h)

theorem State.Canon.ite {c : Prop} [Decidable c] (hs : s.Canon) (ht : t.Canon) : (if c then s else t).Canon := by
  split
  · exact hs
  · exact ht

/-! ### Writes -/

theorem State.hbmWriteLine_hbm (s : State) (a : Nat) (bs : List Byte) : (s.hbmWriteLine a bs).1.hbm = memWrite s.hbm a bs := by
  simp [State.hbmWriteLine, State.mem_hbm]

theorem State.Canon.hbmWriteLine (h : s.Canon) (a : Nat) (bs : List Byte) : (s.hbmWriteLine a bs).1.Canon := by
  rw [State.Canon, State.hbmWriteLine_hbm]
  exact memWrite_wf _ _ _ h

theorem State.Canon.hbmWriteFrom {fuel a : Nat} {bs : List Byte} {bad : Bool} (h : s.Canon) : (s.hbmWriteFrom fuel a bs bad).1.Canon := by
  induction fuel generalizing s a bs bad with
  | zero => exact h
  | succ n ih =>
    cases bs with
    | nil => exact h
    | cons b bs => exact ih (h.hbmWriteLine ..)

theorem State.Canon.sharedWrite (h : s.Canon) (a : Nat) (bs : List Byte) : (s.sharedWrite a bs).1.Canon :=
  (h.of_hbm (s.backInvAll_hbm _)).hbmWriteFrom

/-! ### The snapshot engine's touch -/

theorem State.Canon.keepPreImage (h : s.Canon) (t : Policy) (page : Nat) : (s.keepPreImage t page).Canon := by
  simp only [State.keepPreImage]
  split
  · exact (h.of_hbm (by simp)).hbmWriteFrom
  · exact h.of_hbm (by simp)

theorem State.Canon.touchPage (h : s.Canon) (page : Nat) : (s.touchPage page).Canon := by
  unfold State.touchPage
  split
  · exact h
  · extract_lets first u v
    have hu : u.Canon := .ite h h
    have hv : v.Canon := .ite (.ite (hu.keepPreImage ..) hu) hu
    exact .ite (hv.of_hbm (foldl_hbm _ (fun u _ => u.hbmRead_hbm ..) _ _)) hv

theorem State.Canon.touch (h : s.Canon) (a n : Nat) : (s.touch a n).Canon := h.foldl (fun _ _ hu => hu.touchPage _) _

theorem State.Canon.storeHbm (h : s.Canon) (a : Nat) (bs : List Byte) : (s.storeHbm a bs).1.Canon := (h.touch ..).hbmWriteFrom

/-! ### The memory frame -/

theorem State.Canon.serveHbm (h : s.Canon) (r : HbmReq) : (s.serveHbm r).1.Canon := by
  unfold State.serveHbm
  split
  · exact h.of_hbm (s.hbmRead_hbm ..)
  · exact h.storeHbm ..

theorem State.Canon.serveAt (h : s.Canon) (i slot : Nat) : (s.serveAt i slot).Canon := by
  have served : ∀ (l : List HbmReq) (r : State × List HbmReq), r.1.Canon → (l.foldl (fun (a : State × List HbmReq) r =>
      if r.served || r.slot ≠ slot then (a.1, a.2 ++ [r]) else ((a.1.serveHbm r).1, a.2 ++ [(a.1.serveHbm r).2])) r).1.Canon := by
    intro l
    induction l with
    | nil => exact fun _ h => h
    | cons x l ih =>
      refine fun r h => ih _ ?_
      dsimp only
      split
      · exact h
      · exact h.serveHbm _
  exact served _ (s, []) h

theorem State.Canon.serveTo (h : s.Canon) (bound : Nat) : (s.serveTo bound).Canon := .ite h (h.foldl (fun _ _ hu => hu.serveAt ..) _)
theorem State.Canon.takeShared (h : s.Canon) (g slot : Nat) : (s.takeShared g slot).Canon := h.serveTo _

theorem State.Canon.serveShared (h : s.Canon) (g slot : Nat) : (s.serveShared g slot).Canon := by
  unfold State.serveShared
  split
  · exact h
  · extract_lets u v
    have hv : v.Canon := .ite (h.takeShared g slot) ((h.takeShared g slot).of_hbm (State.backInvAll_hbm ..))
    exact (hv.serveHbm _).of_hbm (State.hbmDone_hbm ..)

theorem State.Canon.sharedTurn {g n : Nat} (h : s.Canon) : (s.sharedTurn g n).Canon := by
  induction n generalizing s with
  | zero => exact h.takeShared ..
  | succ n ih => exact ih (h.serveShared ..)

theorem State.Canon.sharedTurns (h : s.Canon) (a n : Nat) : (s.sharedTurns a n).Canon := .ite h (h.foldl (fun _ _ hu => hu.sharedTurn) _)

theorem State.Canon.sharedRead (h : s.Canon) (a n : Nat) : (s.sharedRead a n).2.2.Canon := (h.sharedTurns a n).of_hbm (State.hbmRead_hbm ..)

theorem State.Canon.storeShared (h : s.Canon) (a : Nat) (bs : List Byte) : (s.storeShared a bs).1.Canon :=
  ((h.sharedTurns ..).touch ..).sharedWrite ..

/-! ### The memory port -/

theorem State.Canon.portTake (h : s.Canon) (i ch c : Nat) : (s.portTake i ch c).1.Canon := by
  have ho : (s.openRun i ch).Canon := h.of_hbm (s.openRun_hbm ..)
  simp only [State.portTake]
  split
  · exact ho
  · split
    · exact ho
    · next o _ _ _ =>
      have taken : (match o with
          | .write p a => (s.openRun i ch).touch a p.len
          | _ => s.openRun i ch).Canon := by
        split
        · exact ho.touch ..
        · exact ho
      split
      · split
        · exact ho
        · exact taken
      · split
        · exact ho
        · split
          · exact ho
          · exact taken

theorem State.Canon.portRound {i c n : Nat} {l : List Nat} (h : s.Canon) : (s.portRound i c l n).Canon := by
  induction l generalizing s n with
  | nil => exact h
  | cons ch l ih =>
    cases n with
    | zero => exact h
    | succ n =>
      have ha := h.portTake i ch c
      have hb := ha.portTake i ch c
      simp only [State.portRound]
      exact .ite (ih h) (.ite (ih ha) (.ite ha (.ite (ih hb) (ih hb))))

theorem State.Canon.portCycle (h : s.Canon) (i c : Nat) : (s.portCycle i c).Canon := h.portRound

theorem State.Canon.asyncCycle (h : s.Canon) (i c : Nat) : (s.asyncCycle i c).Canon := by
  unfold State.asyncCycle
  extract_lets u v w
  have hv : v.Canon := h.of_hbm (by simp [v, u])
  have hw : w.Canon := .ite hv (hv.portCycle ..)
  exact hw.of_hbm (w.kick_hbm ..)

/-! ### Barrier groups, destinations, multicast -/

theorem State.Canon.lossRecord {p : Nat} {m : Word} {bs : List Byte} (h : s.Canon) (e : s.lossRecord p m = some (bs, t)) : t.Canon := by
  simp only [State.lossRecord] at e
  split at e
  · cases e
  · split at e
    · cases e
      exact h.sharedRead ..
    · split at e <;> cases e
      exact h.of_hbm (by simp)
    · cases e

theorem State.Canon.lossEdge (h : s.Canon) (p : Nat) (m : Word) : (s.lossEdge p m).Canon := by
  unfold State.lossEdge
  split
  · exact h
  · next e =>
    refine (h.lossRecord e).of_hbm ?_
    dsimp only
    (repeat' split) <;> simp

theorem State.Canon.storeRegion (h : s.Canon) (part : Nat) (r : Region) (bs : List Byte) : (s.storeRegion part r bs).1.Canon := by
  unfold State.storeRegion
  split
  · exact (h.of_hbm (s.countLines_hbm ..)).storeShared ..
  · exact h.of_hbm (by simp)
  · exact h

theorem State.Canon.ack (h : s.Canon) (p : Pkt) : (s.ack p).Canon := h.of_hbm (s.ack_hbm _)
theorem State.Canon.nack (h : s.Canon) (p : Pkt) (st d : Half) : (s.nack p st d).Canon := h.of_hbm (s.nack_hbm ..)

theorem State.Canon.acceptWrite (h : s.Canon) (p : Pkt) (r : Except Half Region) : (s.acceptWrite p r).Canon := by
  unfold State.acceptWrite
  split
  · exact h
  · exact .ite ((h.storeRegion ..).nack ..) ((h.storeRegion ..).ack _)

theorem State.Canon.crcOk {p : Pkt} {f : State → State} (h : s.Canon) (hf : s.Canon → (f s).Canon) : (s.crcOk p f).Canon :=
  .ite (hf h) (h.of_hbm (by simp))

theorem State.Canon.mcastDeliver (h : s.Canon) (p : Pkt) : (s.mcastDeliver p).Canon := by
  refine h.crcOk fun _ => ?_
  dsimp only
  split
  · split
    · exact h.nack ..
    · next r _ => exact State.Canon.acceptWrite (s := s.modTrk _) h p (.ok r)
  · exact h.of_hbm (by simp)
  · exact h

theorem State.Canon.mcastOpen (h : s.Canon) (n : Nat) (p : Pkt) (l : List NodeId) : (s.mcastOpen n p l).Canon := by
  unfold State.mcastOpen
  extract_lets g seq q u v
  have hv : v.Canon := h.of_hbm (by simp [v, u])
  exact .ite (hv.mcastDeliver _) hv

theorem State.Canon.drainMcastQ {n : Nat} (h : s.Canon) : (s.drainMcastQ n).Canon := by
  induction n generalizing s with
  | zero => exact h
  | succ n ih =>
    unfold State.drainMcastQ
    split
    · exact ih (State.Canon.mcastOpen (s := s.modTrk _) h ..)
    · exact h

/-! ### Images -/

theorem State.Canon.readImage (h : s.Canon) (p a : Nat) : (s.readImage p a).2.Canon := by
  have h1 := h.sharedRead a 256
  simp only [State.readImage, apply_ite Prod.snd, ite_self]
  exact .ite h1 (.ite h1 (h1.sharedRead ..))

theorem State.Canon.bindBegins (h : s.Canon) (p : Nat) : (s.bindBegins p).Canon := by
  have hr := h.readImage p (s.getPart p).image.toNat
  unfold State.bindBegins
  split
  · next e =>
    rw [e] at hr
    split
    · exact h
    · exact hr.of_hbm (by simp)
  · exact h

theorem State.Canon.beginDeferred (h : s.Canon) (c : LongCmd) : (s.beginDeferred c).Canon := by
  unfold State.beginDeferred
  extract_lets p cmds u d
  have hu : u.Canon := h
  refine .ite ?_ (hu.of_hbm (by (repeat' split) <;> simp))
  split
  · split
    · exact hu.of_hbm (u.complete_hbm ..)
    · exact hu.bindBegins _
  · exact hu.bindBegins _

/-! ### Starts and the loss of power -/

theorem Mem.restarted_wf (m : Mem) (warm : Bool) (h : Memory.wf m.hbm = true) : Memory.wf (m.restarted warm).hbm = true := by
  unfold Mem.restarted
  split
  · have e : (m.inMode m.staged).hbm = m.hbm := by unfold Mem.inMode; split <;> rfl
    simpa [e] using h
  · rfl

theorem State.Canon.wiped (h : s.Canon) (warm : Bool) : (s.wiped warm).Canon := Mem.restarted_wf _ _ h

theorem State.Canon.beginStart (h : s.Canon) (kind : StartKind) (keep other halt : Bool) : (s.beginStart kind keep other halt).Canon := by
  unfold State.beginStart
  extract_lets warm u v slot w x
  have hx : x.Canon := (h.wiped warm).of_hbm (by simp [x, w, v, u])
  exact .ite (hx.of_hbm (x.emergencyBegins_hbm _)) hx

theorem State.Canon.watchdogStart (h : s.Canon) : s.watchdogStart.Canon :=
  State.Canon.beginStart (h.of_hbm (by simp)) ..

theorem State.Canon.restartComponent (h : s.Canon) (c : Component) (why : Word) : (s.restartComponent c why).Canon := by
  unfold State.restartComponent
  refine .ite h ?_
  extract_lets k seq u v times w
  have hw : w.Canon := h.of_hbm (by simp [w, v, u])
  exact .ite hw.watchdogStart hw

theorem State.Canon.powerOff (h : s.Canon) : s.powerOff.Canon := h.wiped false

theorem State.Canon.coldStart (h : s.Canon) : s.coldStart.Canon := .ite h (h.beginStart ..)

theorem State.Canon.clearTrip (h : s.Canon) : s.clearTrip.1.Canon := by
  unfold State.clearTrip
  split
  · exact h
  · split
    · exact h.of_hbm (s.logFault_hbm ..)
    · exact State.Canon.coldStart h

end

/-- Every next state that a command answers has its HBM in canonical form. -/
def AnswersCanon (o : Out) : Prop := ∀ t, o = .next t → t.Canon

/-- What the body of a host command answers keeps the canonical form: the state replied with, and what is done after the reply. -/
def Run.Canon : Run → Prop
  | .reply _ t => t.Canon
  | .first _ t f => t.Canon ∧ ∀ u, u.Canon → (f u).Canon
  | .long _ _ f => ∀ u, u.Canon → (f u).Canon

section
variable {s t : State}

theorem answersCanon_next : AnswersCanon (.next t) ↔ t.Canon := by simp [AnswersCanon]

theorem LeavesHbm.answersCanon {o : Out} (ho : LeavesHbm o s) (h : s.Canon) : AnswersCanon o := fun t e => h.of_hbm (ho t e)

/-! ### Host commands -/

theorem State.Canon.record (h : s.Canon) {c : Packet} {op : Half} {k : BitVec 2} {st d : Half} {r0 r1 r2 : Word} :
    (s.record c op k st d r0 r1 r2).Canon := h.of_hbm (s.record_hbm ..)

theorem State.Canon.complete (h : s.Canon) {c : LongCmd} {st d : Half} {r0 r1 r2 : Word} : (s.complete c st d r0 r1 r2).Canon :=
  h.of_hbm (s.complete_hbm ..)

theorem State.Canon.fetch {c : Packet} {op : Half} {start : Nat → State → State} (h : s.Canon)
    (hf : ∀ n u, u.Canon → (start n u).Canon) : (s.fetch c op start).Canon := by
  unfold State.fetch
  extract_lets r q cmds n left u v
  have hu : u.Canon := h.of_hbm (s.readSlots_hbm ..)
  have hv : v.Canon := hu
  refine .ite h ?_
  split
  · exact .ite (.of_hbm (hf _ _ (by exact h)) (State.settleStop_hbm ..)) h
  · refine .ite h (.ite (hu.of_hbm (u.breakRing_hbm ..)) (.ite (hu.record.of_hbm (State.breakRing_hbm ..)) (.ite ?_ (.ite ?_ ?_))))
    · exact .ite (hu.of_hbm (by simp)) hu
    · exact hv.of_hbm (by simp [State.mem_hbm])
    · exact (hf _ v hv).of_hbm (State.advanceCi_hbm ..)

theorem State.Canon.command {c : Packet} {op : Half} {extra : State → List (Nat × Half × Half)} {body : Nat → State → Run}
    (h : s.Canon) (hb : ∀ n u, u.Canon → (body n u).Canon) : (s.command c op extra body).Canon := by
  unfold State.command
  split
  · exact h
  · refine h.fetch fun n u hu => ?_
    split
    · exact hu.record
    · have hr := hb n u hu
      split
      · next e => exact (e ▸ hr : (Run.reply ..).Canon).record
      · next e =>
        obtain ⟨ht, hf⟩ : (Run.first ..).Canon := e ▸ hr
        exact hf _ ht.record
      · next e => exact (e ▸ hr : (Run.long ..).Canon) _ (State.Canon.record (by exact hu))

theorem State.Canon.startLong {c : Packet} {op : Half} {n : Nat} {plane : Bool} {f : State → State} (h : s.Canon)
    (hf : ∀ u, u.Canon → (f u).Canon) : (s.startLong c op n plane f).Canon := by
  unfold State.startLong
  split
  · exact h
  · split
    · exact h
    · exact h
    · split
      · exact fun u hu => hu.of_hbm u.leaveIdle_hbm
      · exact hf

theorem State.Canon.unlessBusy {b : Option Half} {f : Unit → Run} (h : s.Canon) (hf : (f ()).Canon) : (s.unlessBusy b f).Canon := by
  unfold State.unlessBusy
  split
  · exact h
  · exact hf

end

section
variable {s t : State}

theorem State.Canon.answers (h : t.Canon) : AnswersCanon (.next t) := answersCanon_next.mpr h

/-! ### HBM, the barrier and the fabric -/

theorem execHbmSharedAccess_canon (h : s.Canon) (g : Byte) : AnswersCanon (execHbmSharedAccess g s) :=
  .answers (.ite h (h.serveShared ..))

theorem execMemoryPortAccept_canon (h : s.Canon) (i : BitVec 8) : AnswersCanon (execMemoryPortAccept i s) :=
  .answers (.ite h (.of_hbm (h.portCycle ..) (State.kick_hbm ..)))

theorem execPatrolScrub_canon (h : s.Canon) (g : Byte) : AnswersCanon (execPatrolScrub g s) := by
  refine .answers ?_
  dsimp only
  split
  · next slot _ _ => exact (h.serveTo slot).of_hbm (by simp [State.takeScrub, State.mem_hbm])
  · exact h

theorem execScrubRewrite_canon (h : s.Canon) (g : Byte) : AnswersCanon (execScrubRewrite g s) := by
  refine .answers ?_
  dsimp only
  split
  · split
    · exact h.serveTo _
    · exact (State.Canon.serveTo (h.serveTo _) _).of_hbm (State.modMem_hbm ..)
  · exact h

theorem State.advanceGroup_hbm (s : State) (g : Nat) (pd : Pending) : (s.advanceGroup g pd).hbm = s.hbm := by
  simp only [State.advanceGroup, State.atEdge, State.levelAtEdge, State.setBar_hbm]
  (repeat' split) <;> simp [State.mem_hbm]

theorem State.cutAt_hbm (s : State) (p : Nat) (m : Word) : (s.cutAt p m).hbm = s.hbm := by
  simp only [State.cutAt]
  (repeat' split) <;> simp

theorem State.Canon.stepEdge (h : s.Canon) (p : Nat) (cut : Bool) : (s.stepEdge p cut).Canon := by
  have hl : ∀ q m, ((s.setPart p q).lossEdge p m).Canon := fun q m => State.Canon.lossEdge (h.of_hbm (s.setPart_hbm ..)) ..
  exact .ite (hl _ _) ((hl _ _).of_hbm (State.cutAt_hbm ..))

theorem State.Canon.releasePart (h : s.Canon) (p g e : Nat) (pd : Pending) : (s.releasePart p g e pd).Canon :=
  .ite (h.of_hbm (s.startEdge_hbm ..)) (.ite (h.stepEdge ..) h)

theorem exec_releaseEdge_canon (h : s.Canon) (g : Byte) : AnswersCanon (exec (.releaseEdge g) s) := by
  cases hb : (s.getBar g.toNat).pending with
  | none => exact (exec_release_of_none hb 0).1 ▸ h.answers
  | some pd =>
    by_cases he : pd.edge.isSome = true ∨ s.clk.frame + s.tickCycles ≤ s.edgeCycle pd.local_
    · exact exec_releaseEdge_early hb he ▸ h.answers
    · obtain ⟨hn, hd⟩ := not_or.mp he
      rw [exec_releaseEdge_due hb (by simpa using hn) (Nat.not_le.mp hd)]
      exact State.Canon.answers (State.Canon.releasePart (h.of_hbm (s.advanceGroup_hbm ..)) ..)

theorem State.Canon.filtered {p : Pkt} {f : State → State} (h : s.Canon) (hf : ∀ u, u.Canon → (f u).Canon) :
    (s.filtered p f).Canon := by
  unfold State.filtered
  split
  · exact hf _ (by exact h)
  · exact h.of_hbm (by simp)
  · exact h

theorem State.Canon.receive {p : Pkt} {r : Option Half} {f : State → State} (h : s.Canon) (hf : ∀ u, u.Canon → (f u).Canon) :
    (s.receive p r f).Canon := by
  unfold State.receive
  split
  · exact h.nack ..
  · exact h.filtered hf

theorem execWriteReceived_canon (h : s.Canon) (p : Pkt) : AnswersCanon (execWriteReceived p s) :=
  .answers (h.crcOk fun _ => .ite h (h.receive fun _ hu => hu.acceptWrite ..))

theorem execReadReqReceived_canon (h : s.Canon) (p : Pkt) : AnswersCanon (execReadReqReceived p s) := by
  refine .answers (h.crcOk fun _ => .ite h (.ite (h.nack ..) ?_))
  split
  · exact h.nack ..
  · next a _ =>
    have hr : ∀ m n, ((s.countLines p.partition.toNat m).sharedRead a n).2.2.Canon := fun m n =>
      (h.of_hbm (s.countLines_hbm ..)).sharedRead ..
    exact .ite ((hr _ _).nack ..) ((hr _ _).of_hbm (State.respond_hbm ..))
  · exact h.of_hbm (by simp)
  · exact h

theorem execMcastWriteReceived_canon (h : s.Canon) (port : BitVec 5) (p : Pkt) : AnswersCanon (execMcastWriteReceived port p s) := by
  refine .answers ?_
  extract_lets unicast u e v
  have hu : u.Canon := .ite h (h.of_hbm (s.taken_hbm ..))
  have hv : v.Canon := hu.of_hbm (u.mcastForward_hbm ..)
  exact .ite h (.ite (hu.of_hbm u.countStale_hbm) (.ite hu (.ite (hu.mcastDeliver _) (.ite hu (.ite (hv.mcastDeliver _) hv)))))

/-! ### The host -/

theorem execCxlMemRead_canon (h : s.Canon) (hpa : Dword) (c : Bool) : AnswersCanon (execCxlMemRead hpa c s) := by
  refine .answers ?_
  extract_lets u
  have hu : u.Canon := h.of_hbm s.linkWoken_hbm
  refine .ite (hu.of_hbm (by simp)) ?_
  split
  · exact hu
  · next line _ =>
    refine .ite (hu.of_hbm (by simp)) (.ite hu ?_)
    exact (hu.sharedRead line 64).of_hbm (by dsimp only; (repeat' split) <;> simp)

theorem execCxlMemWrite_canon (h : s.Canon) (hpa : Dword) (bs : List Byte) (poison : Bool) :
    AnswersCanon (execCxlMemWrite hpa bs poison s) := by
  refine .answers ?_
  extract_lets u a put v
  have hu : u.Canon := h.of_hbm s.linkWoken_hbm
  refine .ite (hu.of_hbm (by simp)) ?_
  split
  · exact hu
  · have hv : v.Canon := ((hu.sharedTurns ..).touch ..).hbmWriteLine ..
    exact .ite (hu.of_hbm (by simp)) (.ite hu (.ite hv hv))

/-! ### Starts, trips and the supply -/

theorem execWatchdogExpiry_canon (h : s.Canon) (pc : Word) : AnswersCanon (execWatchdogExpiry pc s) :=
  .answers (.ite h (State.Canon.watchdogStart (h.of_hbm (s.logFault_hbm ..))))

theorem execStartStepDone_canon (h : s.Canon) (ok : Bool) : AnswersCanon (execStartStepDone ok s) := by
  refine .answers ?_
  split
  · exact h
  · split
    case h_5 => exact State.Canon.of_hbm (s := if s.mem.filling then s.modMem Mem.fill else s) (.ite rfl h) (State.setStart_hbm ..)
    all_goals exact h.of_hbm (by (repeat' split) <;> simp)

theorem execThermalTrip_canon (h : s.Canon) (k : Byte) : AnswersCanon (execThermalTrip k s) :=
  .answers (.ite h (h.powerOff.of_hbm (by simp)))

theorem execInputVoltageSample_canon (h : s.Canon) (v : Half) : AnswersCanon (execInputVoltageSample v s) := by
  refine .answers ?_
  extract_lets n run u p w
  have hw : w.Canon := h.of_hbm (by simp [w, u])
  exact .ite (hw.powerOff.of_hbm (by simp)) (.ite (h.of_hbm (by simp [u])) h)

theorem execInputFaultClear_canon (h : s.Canon) : AnswersCanon (execInputFaultClear s) :=
  .answers (.ite (State.Canon.coldStart h) h)

theorem execLighthousePowerLoss_canon (h : s.Canon) : AnswersCanon (execLighthousePowerLoss s) :=
  .answers (h.powerOff.of_hbm (by simp only [State.hbm_mk, State.mem_hbm]))

theorem execLighthousePowerUp_canon (h : s.Canon) : AnswersCanon (execLighthousePowerUp s) :=
  .answers (.ite h (State.Canon.beginStart (s := { s with clk := ⟨0, 0, 0, none, true⟩ }) h .cold false false false))

theorem State.Canon.mgmtStart (h : s.Canon) (keep : Bool) : (s.mgmtStart keep).Canon := by
  have ha : ∀ c bs, (s.answer c bs).Canon := fun c bs => h.of_hbm (s.answer_hbm ..)
  exact .ite (.ite (ha ..) ((ha ..).beginStart ..)) h

theorem execRestartAfterTrip_canon (h : s.Canon) : AnswersCanon (execRestartAfterTrip s) :=
  .answers (.ite (.ite (h.of_hbm (s.answer_hbm ..)) (h.clearTrip.of_hbm (State.answer_hbm ..))) h)

/-! ### Commands of the rings -/

theorem execMemoryClearComplete_canon (h : s.Canon) : AnswersCanon (execMemoryClearComplete s) := by
  refine .answers ?_
  split
  · exact h
  · exact .ite (State.Canon.complete (.of_hbm (s := s.modMem Mem.fill) rfl (State.activateMem_hbm _))) h

theorem execReset_canon (h : s.Canon) (c : Packet) : AnswersCanon (execReset c s) := by
  refine .answers (h.command fun n u hu => ?_)
  split
  · exact hu
  · exact ⟨hu, fun v hv => hv.beginStart ..⟩

theorem execTableWrite_canon (h : s.Canon) (c : Packet) : AnswersCanon (execTableWrite c s) := by
  refine .answers (h.command fun n u hu => hu.unlessBusy ?_)
  have hr := hu.sharedRead (c.at_ 24 8) (c.at_ 32 4)
  split
  · exact hu
  · dsimp only
    split
    · exact hr
    · exact hr.of_hbm (State.modTab_hbm ..)

theorem execBarrierCfg_canon (h : s.Canon) (c : Packet) : AnswersCanon (execBarrierCfg c s) := by
  refine .answers (h.command fun n u hu => ?_)
  have hr := hu.sharedRead (c.at_ 24 8) 512
  dsimp only
  split
  · exact hu
  · split
    · exact hr
    · exact ⟨hr, fun v hv => hv.of_hbm (v.rearrive_hbm ..)⟩

theorem State.Canon.failImage (h : s.Canon) {c : LongCmd} {st d : Half} {f : ImgFault} : (s.failImage c st d f).Canon :=
  h.of_hbm (s.failImage_hbm ..)

theorem execLoadComplete_canon (h : s.Canon) (p : BitVec 6) : AnswersCanon (execLoadComplete p s) := by
  refine .answers ?_
  dsimp only
  split
  · exact h
  · next c _ =>
    refine .ite h ?_
    have hr := h.readImage p.toNat (c.pkt.at_ 24 8)
    split
    · next e => exact (e ▸ hr : State.Canon (_, _).2).failImage
    · next e => exact (e ▸ hr : State.Canon (_, _).2).failImage
    · next e => exact State.Canon.complete (.of_hbm (e ▸ hr : State.Canon (_, _).2) (State.modPart_hbm ..))

theorem execBind_canon (h : s.Canon) (c : Packet) : AnswersCanon (execBind c s) := by
  refine .answers (h.command fun n u hu => hu.unlessBusy ?_)
  have begun : ∀ v : State, v.Canon → (v.bindBegins c.part).Canon := fun v hv => hv.bindBegins _
  dsimp only
  split
  · exact hu
  · split
    · split
      · exact hu
      · exact hu.startLong begun
    · exact hu.startLong begun

theorem State.Canon.bindPlaces (h : s.Canon) {k : Nat} {c : LongCmd} {im : Image} {img : List Byte} : (s.bindPlaces k c im img).Canon :=
  h.of_hbm (s.bindPlaces_hbm ..)

theorem execBindComplete_canon (h : s.Canon) (p : BitVec 6) : AnswersCanon (execBindComplete p s) := by
  refine .answers ?_
  dsimp only
  split
  · exact h
  · split
    · split
      · exact h.bindPlaces
      · exact h.of_hbm (by simp)
    · have hr := h.readImage p.toNat (s.getPart p.toNat).image.toNat
      split
      · next e => exact (e ▸ hr : State.Canon (_, _).2).failImage
      · next e => exact (e ▸ hr : State.Canon (_, _).2).failImage
      · next e =>
        split
        · exact (e ▸ hr : State.Canon (_, _).2).complete
        · exact (h.bindBegins _).bindPlaces

theorem execSnapPolicy_canon (h : s.Canon) (c : Packet) : AnswersCanon (execSnapPolicy c s) := by
  refine .answers (h.command fun n u hu => ?_)
  have hr := hu.sharedRead (c.at_ 24 8) (64 + 32 * c.at_ 16 2)
  dsimp only
  split
  · exact hr
  · split
    · exact hr
    · refine hr.unlessBusy ?_
      split
      · exact hr
      · exact hr

theorem State.Canon.putRestored (h : s.Canon) (x : DevAddr × List Byte) : (s.putRestored x).Canon := by
  unfold State.putRestored
  split
  · exact h.storeShared ..
  · exact h

theorem execRestoreComplete_canon (h : s.Canon) (p : BitVec 6) (got : Option Restored) : AnswersCanon (execRestoreComplete p got s) := by
  refine .answers ?_
  dsimp only
  split
  · exact h
  · split
    · exact .ite h (State.Canon.complete (by exact h))
    · next r _ =>
      have hr : (r.data.foldl State.putRestored s).Canon := h.foldl (fun _ _ hu => hu.putRestored _) _
      exact .ite (State.Canon.complete (by exact hr)) (State.Canon.complete (by exact hr))

theorem execDeepIdleExitComplete_canon (h : s.Canon) : AnswersCanon (execDeepIdleExitComplete s) := by
  refine .answers ?_
  split
  · exact h
  · extract_lets u v w
    have hw : w.Canon := h.of_hbm (by simp [w, v, u, State.mem_hbm])
    exact .ite h (hw.foldl (fun _ _ hu => hu.beginDeferred _) _)

theorem execFwStageComplete_canon (h : s.Canon) : AnswersCanon (execFwStageComplete s) := by
  refine .answers ?_
  split
  · exact h
  · next c _ =>
    have hr := h.sharedRead (c.pkt.at_ 24 8) (c.pkt.at_ 20 4)
    refine .ite h ?_
    dsimp only
    split
    · exact State.Canon.complete (by exact hr)
    · split <;> exact State.Canon.complete (by exact hr)

end

/-- The commands that may store to HBM, clear it or restart the module. -/
def Instr.mayChangeHbm : Instr → Bool
  | .hbmSharedAccess _ | .memoryPortAccept _ | .patrolScrub _ | .scrubRewrite _ | .releaseEdge _ | .writeReceived _
  | .readReqReceived _ | .mcastWriteReceived .. | .cxlMemRead .. | .cxlMemWrite .. | .watchdogExpiry _ | .startStepDone _
  | .componentHeartbeatMiss _ | .componentFault .. | .thermalTrip _ | .inputVoltageSample _ | .inputFaultClear
  | .lighthousePowerLoss | .lighthousePowerUp | .warmStartMemoryKept | .warmStartMemoryFilled | .restartAfterTrip
  | .memoryClearComplete | .reset _ | .tableWrite _ | .barrierCfg _ | .loadComplete _ | .bind _ | .bindComplete _ | .snapPolicy _
  | .restoreComplete .. | .deepIdleExitComplete | .fwStageComplete => true
  | _ => false

section
variable {s t : State}

/-- Every other command leaves HBM. -/
theorem exec_leavesHbm {i : Instr} (hi : Instr.mayChangeHbm i = false) : LeavesHbm (exec i s) s := by
  cases i
  case hbmSharedAccess | memoryPortAccept | patrolScrub | scrubRewrite | releaseEdge | writeReceived | readReqReceived |
      mcastWriteReceived | cxlMemRead | cxlMemWrite | watchdogExpiry | startStepDone | componentHeartbeatMiss | componentFault |
      thermalTrip | inputVoltageSample | inputFaultClear | lighthousePowerLoss | lighthousePowerUp | warmStartMemoryKept |
      warmStartMemoryFilled | restartAfterTrip | memoryClearComplete | reset | tableWrite | barrierCfg | loadComplete | bind |
      bindComplete | snapPolicy | restoreComplete | deepIdleExitComplete | fwStageComplete => cases hi
  all_goals simp [State.mem_hbm, exec, execAlu, execAddi, execLih, execLd, execSt, execHmax, execHset, execStepOp, execLoop,
    execJmp, execBcc, execWait, execBarrive, execDelay, execEndRun, execPass, execSeed, execAnch, execDstart, execDpause,
    execDresume, execLevelChoice, execVcoreRampReached, execPowerEstimateWindow, execInputPowerSample, execGainUpdate,
    execSensorSample, execArriveReceived, execReleaseReceived, execPaceReceived, execPacketForward, execReorderHoldExpiry,
    execFiSchedulerFire, execCircuitLostReceived, execCircuitPositionReceive, execEpochRetire, execLaneLossOfLock,
    execLaneErrorWindow, execNarrowingHandshakeEnd, execTrainingStepDone, execTrainingStepTimeout, execTrainingRetry,
    execMiswiredRetry, execGroupPowerGatingEntry, execRefreshSlot, execExceptionLogCopy, execFaultLogArchive, execUndefinedOpcode,
    execPerstAssert, execRefclkLoss, execCxlLinkUp, execCommandRingEnable, execCompletionRingEnable, execCompletionRingDisable,
    execIndexLineInvalidation, execIndexPoll, execCompletionCoalesceTimeout, execStCtrlWrite, execPwrbrkAssert, execPwrbrkDeassert,
    execPwrbrkHeldLog, execPerstHeldLog, execWakeReleaseTimeout, execSmbusClockLowTimeout, execStackSupplyFault,
    execSelfRefreshExitUncommanded, execIdentify, execDeviceStatus, execSetDefault, execMemoryMode, execWindowSet, execWindowClear,
    execPartStatus, execSyncPulse, execSyncHoldover, execTimeReceived, execTimeMessageSend, execSyncTriggerPulse, execFence,
    execFabricStatus, execPortSet, execPortRetest, execResend, execStart, execResume, execStatus, execExcQueue, execSnapStatus,
    execPowerStatus, execHostCap, execLevelLimit, execEnergy, execEnergyMode, execEstimator, execTrialWindowClose, execFwStatus,
    execDiagModeEnter, execDiagModeLeave, execErrClear, execLogRead, execClaimTable, execI3cBroadcastCcc, execDynamicAddressAssign,
    execSetEndpointId, execGetEndpointId, execGetMctpVersionSupport, execGetMessageTypeSupport, execGetTid, execGetPldmVersion,
    execGetPldmTypes, execGetPldmCommands, execGetNumericSensorReading, execGetStateSensorReadings, execSetManagementCap,
    execSetFeedTag, execGetNumericEffecterValue, execGetFaultLog, execGetEnergy, execRequestUpdate, execFirmwareDataReceived,
    execFdT1Timeout, execCancelUpdate, execActivateFirmware, execGetStatus, execGetVersion, execGetCapabilities,
    execNegotiateAlgorithms, execGetDigests, execGetCertificate, execChallenge, execLogLostRead, execStraitDropRead,
    execBskewWaitMaxRead, execBskewLateRead, execTrkResendsRead, execTrkDupsRead, execTrkLateRead, execTrkUnreachRead,
    execTrkFencedRead, execPortCorrRead, execPortDropRead, execPortVoidRead, execPortEventsRead, execLaneErrRead, execFiCountRead,
    execFabDetoursRead, execFabStaleRead, execFabExpiredRead, execFabCrcbadRead, execFabFencedropRead, execFabCircdropRead,
    execFabBadhdrRead, execBarCountRead, execStWakesRead, execStBarDiscardRead, execStHostRefusedRead, execStBiRead,
    execSnapTouchRead, execSnapHeldRead, execSnapSkippedRead, execSnapFailsRead, execPwrEmergRead, execPwrLevelsRead,
    execPinFilteredRead, execVld, execVst, execVopf, execVopi, execVcvt, execVkadd, execVsf, execVrand]

/-- Every command keeps the canonical form of HBM. -/
theorem exec_canon (h : s.Canon) (i : Instr) : AnswersCanon (exec i s) := by
  by_cases hi : Instr.mayChangeHbm i = false
  · exact (exec_leavesHbm hi).answersCanon h
  · cases i
    case hbmSharedAccess g => exact execHbmSharedAccess_canon h g
    case memoryPortAccept i => exact execMemoryPortAccept_canon h i
    case patrolScrub g => exact execPatrolScrub_canon h g
    case scrubRewrite g => exact execScrubRewrite_canon h g
    case releaseEdge g => exact exec_releaseEdge_canon h g
    case writeReceived p => exact execWriteReceived_canon h p
    case readReqReceived p => exact execReadReqReceived_canon h p
    case mcastWriteReceived k p => exact execMcastWriteReceived_canon h k p
    case cxlMemRead a c => exact execCxlMemRead_canon h a c
    case cxlMemWrite a bs x => exact execCxlMemWrite_canon h a bs x
    case watchdogExpiry pc => exact execWatchdogExpiry_canon h pc
    case startStepDone ok => exact execStartStepDone_canon h ok
    case componentHeartbeatMiss c => exact (h.restartComponent c _).answers
    case componentFault c f => exact (h.restartComponent c _).answers
    case thermalTrip k => exact execThermalTrip_canon h k
    case inputVoltageSample v => exact execInputVoltageSample_canon h v
    case inputFaultClear => exact execInputFaultClear_canon h
    case lighthousePowerLoss => exact execLighthousePowerLoss_canon h
    case lighthousePowerUp => exact execLighthousePowerUp_canon h
    case warmStartMemoryKept => exact (h.mgmtStart true).answers
    case warmStartMemoryFilled => exact (h.mgmtStart false).answers
    case restartAfterTrip => exact execRestartAfterTrip_canon h
    case memoryClearComplete => exact execMemoryClearComplete_canon h
    case reset c => exact execReset_canon h c
    case tableWrite c => exact execTableWrite_canon h c
    case barrierCfg c => exact execBarrierCfg_canon h c
    case loadComplete p => exact execLoadComplete_canon h p
    case bind c => exact execBind_canon h c
    case bindComplete p => exact execBindComplete_canon h p
    case snapPolicy c => exact execSnapPolicy_canon h c
    case restoreComplete p got => exact execRestoreComplete_canon h p got
    case deepIdleExitComplete => exact execDeepIdleExitComplete_canon h
    case fwStageComplete => exact execFwStageComplete_canon h
    all_goals exact absurd rfl hi

/-! ### The tick -/

theorem State.Canon.runSlots {i : BitVec 8} {cont : Bool} {l : List (Nat × Nat)} (h : s.Canon) : (s.runSlots i cont l).Canon := by
  induction l generalizing s cont with
  | nil => exact h
  | cons w l ih =>
    simp only [State.runSlots]
    split
    · exact h
    · split
      · next hx =>
        obtain ⟨c, -, hc⟩ := Option.map_eq_some_iff.mp hx
        exact ih (exec_canon h c _ hc)
      · exact ih h

theorem State.Canon.issueBundle (h : s.Canon) (i : BitVec 8) (b : BitVec 256) (mid : Bool) : (s.issueBundle i b mid).Canon :=
  .ite (State.Canon.runSlots (by exact h)) (.ite (h.of_hbm (s.issue_hbm _)) h.runSlots)

theorem State.Canon.runProgram {i : BitVec 8} {target n : Nat} (h : s.Canon) : (s.runProgram i target n).Canon := by
  induction n generalizing s with
  | zero => exact h
  | succ n ih =>
    simp only [State.runProgram]
    refine .ite h ?_
    split
    · exact h
    · exact ih (h.issueBundle ..)

theorem State.endReady_hbm (s : State) (i : Nat) : (s.endReady i).hbm = s.hbm := by
  simp only [State.endReady]
  split <;> simp

theorem State.Canon.cycleStep (h : s.Canon) (i c : Nat) : (s.cycleStep i c).Canon := by
  unfold State.cycleStep
  extract_lets on t u v
  have hu : u.Canon := .ite (h.of_hbm ((State.endReady_hbm ..).trans (s.advance_hbm ..))) h
  have hv : v.Canon := .ite (hu.asyncCycle ..) hu
  exact .ite hv.runProgram hv

theorem State.Canon.tickIslands (h : s.Canon) : s.tickIslands.Canon := by
  refine State.Canon.foldl (fun u i hu => ?_) _ (h.foldl (fun u k hu => hu.foldl (fun _ _ hv => hv.cycleStep ..) _) _)
  exact .ite (hu.of_hbm ((State.advance_hbm ..).trans (u.endReady_hbm i))) hu

theorem State.Canon.sharedTick {g n : Nat} (h : s.Canon) : (s.sharedTick g n).Canon := by
  induction n generalizing s with
  | zero => exact h
  | succ n ih => exact .ite h (ih (h.serveShared ..))

theorem State.Canon.tickSlots (h : s.Canon) : s.tickSlots.Canon := (h.serveTo _).foldl (fun _ _ hu => hu.sharedTick) _

theorem State.Canon.tick (h : s.Canon) : s.tick.Canon := by
  unfold State.tick
  extract_lets u v w
  have hu : u.Canon := h.tickSlots.tickIslands.of_hbm (State.settleEntries_hbm _)
  have hv : v.Canon := .of_hbm (State.Canon.drainMcastQ (hu.of_hbm (u.drainWaitQ_hbm _))) (State.snapPump_hbm ..)
  exact .ite h (hv.of_hbm (by simp [w, State.countTick, State.mem_hbm]))

/-- Settles O56: HBM is changed by writes and fills alone, and each leaves it in canonical form; every other operation leaves it. -/
theorem everyStepKeepsHbmCanonical : Obligations.EveryStepKeepsHbmCanonical := by
  intro s t (h : s.Canon) e
  show t.Canon
  unfold step at e
  split at e
  · cases e
    exact h.tick
  · next c rest _ => exact exec_canon (s := { s with pending := rest }) h c t e

end

end Sys2Proof.Machine

namespace Sys2Proof.Machine

/-! # Reads and writes of HBM, scrub and refresh (08 R169 to R187) -/

/-- Noting a line counts a correction or an error and logs the latter; nothing else changes. -/
theorem State.noteLine_eq (s : State) (line : Nat) : ∃ corr last ue wlog flog, s.noteLine line =
    { s with mem := { s.mem with chCorr := corr, chLast := last, chUe := ue, wlog := wlog }, flog := flog } := by
  unfold State.noteLine
  dsimp only
  split
  · exact ⟨_, _, _, _, _, rfl⟩
  · exact ⟨_, _, _, _, _, rfl⟩
  · exact ⟨_, _, _, _, _, rfl⟩

/-- A write of bytes of one line changes the HBM block and the fault log only. -/
theorem State.hbmWriteLine_eq (s : State) (a : Nat) (bs : List Byte) : ∃ m l,
    (s.hbmWriteLine a bs).1 = { s with mem := m, flog := l } := by
  simp only [State.hbmWriteLine]
  split
  · exact ⟨_, _, rfl⟩
  · obtain ⟨_, _, _, _, _, e⟩ := s.noteLine_eq (lineOf a)
    rw [e]
    exact ⟨_, _, rfl⟩

/-- Settles O18: the write is one write of the byte memory, behind a count and a log record at most. -/
theorem hbmReadsWhatWasWritten : Obligations.HbmReadsWhatWasWritten := by
  intro s a bs
  have bytes : (s.hbmWriteLine a bs).1.mem.hbm = memWrite s.mem.hbm a bs := s.hbmWriteLine_hbm a bs
  obtain ⟨m, l, e⟩ := s.hbmWriteLine_eq a bs
  refine ⟨fun k h => ?_, fun x h => ?_, fun h => ?_, ?_, ?_, ?_⟩
  · rw [bytes, memByte_memWrite _ _ _ _ h]
  · rw [bytes, memByte_memWrite_outside _ _ _ _ h]
  · exact State.Canon.hbmWriteLine h a bs
  all_goals rw [e]

/-! ### The slots of the patrol scrub -/

theorem slotFrom_lt {p : Nat → Bool} {fuel slot t : Nat} (h : slotFrom p fuel slot = some t) : t < slot + fuel := by
  induction fuel generalizing slot with
  | zero => cases h
  | succ n ih =>
    rw [slotFrom] at h
    split at h
    · cases h; omega
    · have := ih h; omega

theorem State.serveTo_of_none {s : State} {bound : Nat} (h : s.dueSlots bound = []) : s.serveTo bound = s := by
  simp [State.serveTo, h]

theorem State.takeScrub_of_none {s : State} {slot : Nat} (g : Nat) (h : s.dueSlots slot = []) :
    s.takeScrub g slot = s.modMem fun m => { m with scrubAt := smSet m.scrubAt g (slot + 1) } := by
  rw [State.takeScrub, State.serveTo_of_none h]

/-- The step of the walk that `PATROL_SCRUB` ends with: line `n` of channel `g` is read, and held for a rewrite where `fix`. -/
def State.walked (s : State) (g n line : Nat) (fix : Bool) : State :=
  s.modMem fun m =>
    let done := n + 1 = channelLines
    let scrubbed := if done then smSet m.scrubbed g (smGet 0 m.scrubbed g + 1) else m.scrubbed
    let all := (List.range 256).foldl (fun a c => min a (smGet 0 scrubbed c)) (smGet 0 scrubbed 0)
    { m with walk := smSet m.walk g (if done then 0 else n + 1), scrubbed := scrubbed,
             scrubs := BitVec.ofNat 32 (min (2 ^ 32 - 1) all),
             rewrite := smSet m.rewrite g (if fix then some line else none) }

/-- What the patrol scrub asks of a line: a correctable error. -/
def LineErr.correctable : Option LineErr → Bool
  | some (.symbol _) => true
  | _ => false

/-- The scrub slot `slot` of channel `g` used up. -/
def State.scrubTaken (s : State) (g slot : Nat) : State :=
  s.modMem fun m => { m with scrubAt := smSet m.scrubAt g (slot + 1) }

theorem execPatrolScrub_due {s : State} {g : Byte} {slot : Nat} (hs : s.scrubSlot g.toNat = some slot)
    (hd : s.dueSlots slot = []) (hr : smGet none s.mem.rewrite g.toNat = none) (n line : Nat)
    (hn : n = smGet 0 s.mem.walk g.toNat) (hl : line = hbmUnmap s.mem.mode g.toNat (64 * n)) :
    execPatrolScrub g s = .next (((s.scrubTaken g.toNat slot).noteLine line).walked g.toNat n line
      (LineErr.correctable (((s.scrubTaken g.toNat slot).noteLine line).mem.errOf line))) := by
  subst hl hn
  simp only [execPatrolScrub, hs, hr, State.takeScrub_of_none _ hd]
  rfl

theorem State.noteLine_keeps (s : State) (line : Nat) : (s.noteLine line).isl = s.isl ∧ (s.noteLine line).part = s.part ∧
    (s.noteLine line).mem.scrubAt = s.mem.scrubAt ∧ (s.noteLine line).mem.errOf line = s.mem.errOf line := by
  obtain ⟨_, _, _, _, _, e⟩ := s.noteLine_eq line
  rw [e]
  exact ⟨rfl, rfl, rfl, rfl⟩

/-- What the step of the walk leaves: the walk and the line held for a rewrite are new, the rest that is read later stays. -/
theorem State.walked_keeps (s : State) (g n line : Nat) (fix : Bool) :
    (s.walked g n line fix).isl = s.isl ∧ (s.walked g n line fix).part = s.part ∧
    (s.walked g n line fix).mem.scrubAt = s.mem.scrubAt ∧ (s.walked g n line fix).mem.hbm = s.hbm ∧
    smGet 0 (s.walked g n line fix).mem.walk g = (if n + 1 = channelLines then 0 else n + 1) ∧
    smGet none (s.walked g n line fix).mem.rewrite g = if fix then some line else none := by
  simp [State.walked, smGet_smSet_same, State.hbm]

theorem LineErr.ite_correctable (e : Option LineErr) (line : Nat) :
    (if LineErr.correctable e then some line else none) = match e with
      | some (.symbol _) => some line
      | _ => none := by
  cases e with
  | none => rfl
  | some x => cases x <;> rfl

/-- Settles O17: in a scrub slot that nothing precedes each of the two is one update of the HBM block; without one it is none. -/
theorem scrubAndRefreshServeTheirSlots : Obligations.ScrubAndRefreshServeTheirSlots := by
  refine ⟨fun s g slot h => ?_, fun s g slot hs hd hr => ?_, fun s g slot line hs hd hr => ?_, fun s g hs => ⟨?_, ?_⟩,
    fun s g hf => by simp [State.scrubSlot, hf], fun _ _ => rfl⟩
  · simp only [State.scrubSlot] at h
    replace h := (Option.ite_none_left_eq_some.mp h).2
    obtain ⟨hp, hle⟩ := slotFrom_some h
    have hlt := slotFrom_lt h
    simp only [Bool.and_eq_true, decide_eq_true_eq] at hp
    exact ⟨hp.2, by omega⟩
  · extract_lets n line
    obtain ⟨hisl, hpart, hat, herr⟩ := (s.scrubTaken g.toNat slot).noteLine_keeps line
    obtain ⟨wisl, wpart, wat, whbm, wwalk, wrw⟩ := ((s.scrubTaken g.toNat slot).noteLine line).walked_keeps g.toNat n line
      (LineErr.correctable (((s.scrubTaken g.toNat slot).noteLine line).mem.errOf line))
    refine ⟨_, execPatrolScrub_due hs hd hr n line rfl rfl, wwalk, ?_, ?_, ?_, wisl.trans hisl, wpart.trans hpart⟩
    · rw [wrw, herr]
      exact LineErr.ite_correctable (s.mem.errOf line) line
    · rw [wat, hat]
      exact smGet_smSet_same ..
    · rw [whbm, State.noteLine_hbm]
      rfl
  · show execScrubRewrite g s = _
    simp only [execScrubRewrite, hs, hr, State.serveTo_of_none hd, State.takeScrub_of_none _ hd]
    rfl
  · show execPatrolScrub g s = _
    simp only [execPatrolScrub, hs]
  · show execScrubRewrite g s = _
    simp only [execScrubRewrite, hs]

end Sys2Proof.Machine

namespace Sys2Proof.Machine

/-! # Host accesses to HBM (13 R287, R301 to R304) -/

/-! ### Accesses to memory leave the snapshot engine's enable bit -/

/-- The enable bit of the snapshot engine, which no access to memory changes. -/
def State.snapOn (s : State) : Bool := s.snap.enabled

section
variable (s : State)

@[simp] theorem State.modIsl_snapOn (i : Nat) (f : Island → Island) : (s.modIsl i f).snapOn = s.snapOn := rfl
@[simp] theorem State.modMem_snapOn (f : Mem → Mem) : (s.modMem f).snapOn = s.snapOn := rfl
@[simp] theorem State.modHost_snapOn (f : HostIf → HostIf) : (s.modHost f).snapOn = s.snapOn := rfl
@[simp] theorem State.modSnap_snapOn (f : Snap → Snap) (h : ∀ x, (f x).enabled = x.enabled) : (s.modSnap f).snapOn = s.snapOn := h _
@[simp] theorem State.out_snapOn (x : HostOut) : (s.out x).snapOn = s.snapOn := rfl
@[simp] theorem State.drawBytes_snapOn (n : Nat) : (s.drawBytes n).2.snapOn = s.snapOn := rfl
@[simp] theorem State.logFault_snapOn (k : LogKind) (source severity : Byte) (d : Word) :
    (s.logFault k source severity d).snapOn = s.snapOn := rfl
@[simp] theorem State.snapOn_ite (c : Prop) [Decidable c] (a b : State) :
    (if c then a else b).snapOn = if c then a.snapOn else b.snapOn := apply_ite State.snapOn c a b

@[simp] theorem State.noteLine_snapOn (line : Nat) : (s.noteLine line).snapOn = s.snapOn := by
  unfold noteLine
  split <;> rfl
@[simp] theorem State.hbmRead_snapOn (a n : Nat) : (s.hbmRead a n).2.2.snapOn = s.snapOn := foldl_keeps snapOn noteLine_snapOn ..
@[simp] theorem State.hbmWriteLine_snapOn (a : Nat) (bs : List Byte) : (s.hbmWriteLine a bs).1.snapOn = s.snapOn := by
  simp [hbmWriteLine]
@[simp] theorem State.hbmWrite_snapOn (a : Nat) (bs : List Byte) : (s.hbmWrite a bs).1.snapOn = s.snapOn := by
  suffices h : ∀ (n a : Nat) (bs : List Byte) (bad : Bool) (s : State), (s.hbmWriteFrom n a bs bad).1.snapOn = s.snapOn from h ..
  intro n
  induction n with
  | zero => exact fun _ _ _ _ => rfl
  | succ n ih =>
    intro a bs bad s
    cases bs with
    | nil => rfl
    | cons b bs => exact (ih ..).trans (hbmWriteLine_snapOn ..)
@[simp] theorem State.keepPreImage_snapOn (t : Policy) (page : Nat) : (s.keepPreImage t page).snapOn = s.snapOn := by
  have hr := s.hbmRead_snapOn (page * pageSize) pageSize -- the read stays opaque: the kernel would evaluate its lines
  unfold keepPreImage
  generalize s.hbmRead (page * pageSize) pageSize = r at hr ⊢
  obtain ⟨old, bad, u⟩ := r
  simpa using hr
@[simp] theorem State.touchPage_snapOn (page : Nat) : (s.touchPage page).snapOn = s.snapOn := by
  unfold touchPage
  split
  · rfl
  · extract_lets first u v w
    have hu : u.snapOn = s.snapOn := by
      simp only [u]
      split <;> rfl
    have hv : v.snapOn = u.snapOn := by
      simp only [v]
      split
      · split
        · exact u.keepPreImage_snapOn ..
        · rfl
      · rfl
    split
    · exact (foldl_keeps snapOn (fun u _ => u.hbmRead_snapOn ..) ..).trans (hv.trans hu)
    · exact hv.trans hu
@[simp] theorem State.touch_snapOn (a n : Nat) : (s.touch a n).snapOn = s.snapOn := foldl_keeps snapOn touchPage_snapOn ..
@[simp] theorem State.storeHbm_snapOn (a : Nat) (bs : List Byte) : (s.storeHbm a bs).1.snapOn = s.snapOn :=
  (hbmWrite_snapOn ..).trans (touch_snapOn ..)
@[simp] theorem State.backInv_snapOn (line : Nat) : (s.backInv line).snapOn = s.snapOn := by simp [backInv]
@[simp] theorem State.backInvAll_snapOn (ls : List Nat) : (s.backInvAll ls).snapOn = s.snapOn := foldl_keeps snapOn backInv_snapOn ..
@[simp] theorem State.serveHbm_snapOn (r : HbmReq) : (s.serveHbm r).1.snapOn = s.snapOn := by
  unfold serveHbm
  split <;> simp
@[simp] theorem State.serveAt_snapOn (i slot : Nat) : (s.serveAt i slot).snapOn = s.snapOn :=
  foldl_keeps (fun r : State × List HbmReq => r.1.snapOn) (fun r a => by split <;> simp) ..
@[simp] theorem State.serveTo_snapOn (bound : Nat) : (s.serveTo bound).snapOn = s.snapOn := by
  unfold serveTo
  split
  · rfl
  · exact foldl_keeps snapOn (fun u x => u.serveAt_snapOn ..) ..
@[simp] theorem State.takeShared_snapOn (g slot : Nat) : (s.takeShared g slot).snapOn = s.snapOn := serveTo_snapOn ..
@[simp] theorem State.serveShared_snapOn (g slot : Nat) : (s.serveShared g slot).snapOn = s.snapOn := by
  unfold serveShared
  split <;> simp [hbmDone, modChan]
@[simp] theorem State.sharedTurn_snapOn (g n : Nat) : (s.sharedTurn g n).snapOn = s.snapOn := by
  induction n generalizing s with
  | zero => exact takeShared_snapOn ..
  | succ n ih => exact (ih _).trans (serveShared_snapOn ..)
@[simp] theorem State.sharedTurns_snapOn (a n : Nat) : (s.sharedTurns a n).snapOn = s.snapOn := by
  unfold sharedTurns
  split
  · rfl
  · exact foldl_keeps snapOn (fun u g => u.sharedTurn_snapOn ..) ..
end

/-! ### The touch of a page while snapshots are disabled -/

/-- With snapshots disabled no pre-image is kept, so the touch of a page stores nothing. -/
theorem State.touchPage_hbm_of_off {s : State} (h : s.snapOn = false) (page : Nat) : (s.touchPage page).hbm = s.hbm := by
  unfold State.touchPage
  split
  · rfl
  · extract_lets first u v w
    have hu : u.snapOn = s.snapOn ∧ u.hbm = s.hbm := by
      simp only [u]
      split <;> exact ⟨rfl, rfl⟩
    have off : u.snap.enabled = false := hu.1.trans h
    have hv : v.hbm = s.hbm := by
      simp only [v, off, Bool.and_false, Bool.false_and, Bool.false_eq_true, if_false]
      exact hu.2
    split
    · exact (foldl_hbm _ (fun u _ => u.hbmRead_hbm ..) _ _).trans hv
    · exact hv

theorem State.touch_hbm_of_off {s : State} (h : s.snapOn = false) (a n : Nat) : (s.touch a n).hbm = s.hbm := by
  unfold State.touch
  induction pagesOf a n generalizing s with
  | nil => rfl
  | cons p l ih => exact (ih ((s.touchPage_snapOn p).trans h)).trans (State.touchPage_hbm_of_off h p)

/-! ### The read of one line -/

theorem linesOf_lineOf (a : Nat) : linesOf (lineOf a) 64 = [lineOf a] := by
  have e : lineOf (lineOf a + 64 - 1) = lineOf (lineOf a) ∧ lineOf (lineOf a) = lineOf a := by
    simp only [lineOf]
    omega
  rw [linesOf, if_neg (by decide), e.1, e.2]
  simp

theorem State.hbmRead_lineOf (s : State) (a : Nat) :
    s.hbmRead (lineOf a) 64 = (memRead s.mem.hbm (lineOf a) 64, s.mem.uncorrectable (lineOf a), s.noteLine (lineOf a)) := by
  simp [State.hbmRead, linesOf_lineOf]

theorem State.hdmLine_eq {s : State} {hpa : Dword} {line : Nat} (h : s.hdmLine hpa = some line) :
    line = lineOf (hpa - s.host.hdmBase).toNat := by
  simp only [State.hdmLine] at h
  exact (Option.some.inj (Option.ite_none_right_eq_some.mp h).2).symm

/-! ### The host's read and write -/

theorem State.grant_poisoned (s : State) (line : Nat) : (s.grant line).host.poisoned = s.host.poisoned := by
  unfold State.grant
  split
  · rfl
  · simp only [State.modHost_host]
    split
    · rfl
    · split
      · unfold State.backInv
        split <;> rfl
      · rfl

/-- What the host's read of a line does once the line's channel has had its turn: the answer ends the log. -/
def State.hostReadEnds (v : State) (hpa : Dword) (cacheable : Bool) (line : Nat) : State :=
  let bad := v.mem.uncorrectable line
  let u := v.noteLine line
  let u := if bad then u.modHost fun h =>
    { h with poisoned := satAdd 32 h.poisoned 1, comps := smSet h.comps Config.rasHeaderOffset hpa } else u
  (if cacheable && u.cacheable line then u.grant line else u).out (.readData (memRead v.mem.hbm line 64) bad)

theorem State.hostReadEnds_hbm (v : State) (hpa : Dword) (c : Bool) (line : Nat) : (v.hostReadEnds hpa c line).hbm = v.hbm := by
  simp [State.hostReadEnds]

theorem State.hostReadEnds_log (v : State) (hpa : Dword) (c : Bool) (line : Nat) :
    (v.hostReadEnds hpa c line).host.log.getLast? = some (.readData (memRead v.mem.hbm line 64) (v.mem.uncorrectable line)) :=
  List.getLast?_concat ..

theorem State.hostReadEnds_poisoned {v : State} {line : Nat} (h : v.mem.uncorrectable line = true) (hpa : Dword) (c : Bool) :
    (v.hostReadEnds hpa c line).host.poisoned = satAdd 32 (v.noteLine line).host.poisoned 1 := by
  simp only [State.hostReadEnds, h, if_true, State.out_host]
  split
  · exact State.grant_poisoned ..
  · rfl

/-- What the host's write of a line's bytes does once the line's channel has had its turn and the page is touched. -/
def State.hostWriteEnds (w : State) (a line : Nat) (put : List Byte) (poison : Bool) : State :=
  let u := (w.hbmWriteLine a put).1
  if poison then u.modMem fun m => { m with lineErr := smSet m.lineErr line (some .poison) } else u

theorem State.hostWriteEnds_hbm (w : State) (a line : Nat) (put : List Byte) (poison : Bool) :
    (w.hostWriteEnds a line put poison).mem.hbm = memWrite w.mem.hbm a put := by
  simp only [State.hostWriteEnds]
  split <;> exact w.hbmWriteLine_hbm a put

theorem State.hostWriteEnds_poison (w : State) (a line : Nat) (put : List Byte) :
    smGet none (w.hostWriteEnds a line put true).mem.lineErr line = some .poison := smGet_smSet_same ..

section
variable {s : State} {hpa : Dword} {line : Nat} (hm : s.linkWoken.host.memActive = true) (hl : s.linkWoken.hdmLine hpa = some line)
include hm hl

theorem execCxlMemRead_refused (c : Bool) (hw : s.linkWoken.hostWindows false line = []) : execCxlMemRead hpa c s =
    .next ((s.linkWoken.hostRefused.logFault .windowRefused srcLighthouse 0 (BitVec.ofNat 32 line)).out
      (.readData (List.replicate 64 0) true)) := by
  simp [execCxlMemRead, hm, hl, hw, zeroLine]

theorem execCxlMemRead_held (c : Bool) (hf : s.linkWoken.frameHeld = true) (hw : s.linkWoken.hostWindows false line ≠ []) :
    execCxlMemRead hpa c s = .next s.linkWoken := by
  simp [execCxlMemRead, hm, hl, hw, hf]

theorem execCxlMemRead_served (c : Bool) (hf : s.linkWoken.frameHeld = false) (hw : s.linkWoken.hostWindows false line ≠ []) :
    execCxlMemRead hpa c s = .next ((s.linkWoken.sharedTurns line 64).hostReadEnds hpa c line) := by
  have hr := (s.linkWoken.sharedTurns line 64).hbmRead_lineOf (hpa - s.linkWoken.host.hdmBase).toNat
  rw [← State.hdmLine_eq hl] at hr
  simp [execCxlMemRead, hm, hl, hw, hf, State.sharedRead, hr, State.hostReadEnds]

theorem execCxlMemWrite_refused (bs : List Byte) (poison : Bool) (hw : s.linkWoken.hostWindows true line = []) :
    execCxlMemWrite hpa bs poison s =
      .next (s.linkWoken.hostRefused.logFault .windowRefused srcLighthouse 0 (BitVec.ofNat 32 line)) := by
  simp [execCxlMemWrite, hm, hl, hw]

theorem execCxlMemWrite_held (bs : List Byte) (poison : Bool) (hf : s.linkWoken.frameHeld = true)
    (hw : s.linkWoken.hostWindows true line ≠ []) : execCxlMemWrite hpa bs poison s = .next s.linkWoken := by
  simp [execCxlMemWrite, hm, hl, hw, hf]

theorem execCxlMemWrite_served (bs : List Byte) (poison : Bool) (hf : s.linkWoken.frameHeld = false)
    (hw : s.linkWoken.hostWindows true line ≠ []) (a : Nat) (put : List Byte)
    (ha : a = (hpa - s.linkWoken.host.hdmBase).toNat) (hp : put = bs.take (64 - a % 64)) :
    execCxlMemWrite hpa bs poison s =
      .next (((s.linkWoken.sharedTurns a put.length).touch a put.length).hostWriteEnds a line put poison) := by
  subst ha hp
  simp only [execCxlMemWrite, hm, hl, hf, List.isEmpty_iff, if_neg hw, Bool.not_true, Bool.false_eq_true, if_false,
    State.hostWriteEnds]
end

/-- A shared turn of a channel with no shared request, and no island request of an earlier slot, uses one shared slot up. -/
theorem State.sharedTurn_of_none {s : State} {g : Nat} (hq : smGet [] s.mem.sharedQ g = [])
    (hd : s.dueSlots (min (s.sharedSlot g) (50 * s.clk.now + 50)) = []) :
    s.sharedTurn g (smGet [] s.mem.sharedQ g).length =
      s.modMem fun m => { m with sharedAt := smSet m.sharedAt g (s.sharedSlot g + 1) } := by
  rw [hq, List.length_nil, State.sharedTurn, State.takeShared, State.serveTo_of_none hd]

/-- Settles O35: the checks in their order, then the channel's turn, then one line read or written. -/
theorem hostMemoryAccessesAreCheckedAndServed : Obligations.HostMemoryAccessesAreCheckedAndServed := by
  refine ⟨fun s hpa c poison bs => ⟨fun hm => ⟨?_, ?_⟩, fun hm hl => ⟨?_, ?_⟩⟩, fun s g => State.sharedTurn_of_none,
    fun s hpa c poison bs line => ?_⟩
  · show execCxlMemRead hpa c s = _
    simp [execCxlMemRead, hm, zeroLine, State.hostRefused]
  · show execCxlMemWrite hpa bs poison s = _
    simp [execCxlMemWrite, hm, State.hostRefused]
  · show execCxlMemRead hpa c s = _
    simp [execCxlMemRead, hm, hl]
  · show execCxlMemWrite hpa bs poison s = _
    simp [execCxlMemWrite, hm, hl]
  · intro u refused logged a put v w hm hl
    refine ⟨execCxlMemRead_refused hm hl c, execCxlMemWrite_refused hm hl bs poison,
      fun hf => ⟨execCxlMemRead_held hm hl c hf, execCxlMemWrite_held hm hl bs poison hf⟩, fun hw hf hu => ?_, fun hw hf hu => ?_,
      fun hw hf => ?_⟩
    · refine ⟨_, execCxlMemRead_served hm hl c hf hw, v.hostReadEnds_hbm .., ?_⟩
      rw [State.hostReadEnds_log, hu]
    · refine ⟨_, execCxlMemRead_served hm hl c hf hw, v.hostReadEnds_hbm .., State.hostReadEnds_poisoned hu .., ?_⟩
      rw [State.hostReadEnds_log, hu]
    · have bytes := w.hostWriteEnds_hbm a line put poison
      refine ⟨_, execCxlMemWrite_served hm hl bs poison hf hw a put rfl rfl, fun b h => ?_, fun hs => ?_, fun k h => ?_, fun hp => ?_⟩
      · rw [bytes, memByte_memWrite_outside _ _ _ _ h]
      · exact State.touch_hbm_of_off ((u.sharedTurns_snapOn a put.length).trans hs) a put.length
      · rw [bytes, memByte_memWrite _ _ _ _ h, List.getD_eq_getElem _ _ h]
      · subst hp
        exact w.hostWriteEnds_poison ..

end Sys2Proof.Machine

namespace Sys2Proof.Machine

/-! # Starts, component restarts and lost contents (15 R338 to R344, R351, 08 R186) -/

/-! ### What records, events and announcements leave -/

/-- What of the state a start or a component restart is judged by. -/
structure Boot where
  clk      : Clock
  isl      : SMap Island
  mem      : Mem
  session  : Half
  starting : Option Starting
  trial    : Bool
  restarts : SMap (List Nat)
  causes   : BitVec 3
  conns    : List SpdmConn
  fenced   : List Fenced

def Boot.addCauses (b : Boot) (bits : BitVec 3) : Boot := { b with causes := b.causes ||| bits }

def State.boot (s : State) : Boot :=
  ⟨s.clk, s.isl, s.mem, s.trk.session, s.fw.starting, s.fw.trial, s.fw.restarts, s.pwr.causes, s.mgmt.conns, s.cmds.fenced⟩

section
variable (s : State)

@[simp] theorem State.boot_ite (c : Prop) [Decidable c] (a b : State) :
    (if c then a else b).boot = if c then a.boot else b.boot := apply_ite State.boot c a b

@[simp] theorem State.modPort_boot (p : Nat) (f : Port → Port) : (s.modPort p f).boot = s.boot := rfl
@[simp] theorem State.modHost_boot (f : HostIf → HostIf) : (s.modHost f).boot = s.boot := rfl
@[simp] theorem State.modFab_boot (f : Fabric → Fabric) : (s.modFab f).boot = s.boot := rfl
@[simp] theorem State.modSnap_boot (f : Snap → Snap) : (s.modSnap f).boot = s.boot := rfl
@[simp] theorem State.modPins_boot (f : Pins → Pins) : (s.modPins f).boot = s.boot := rfl
@[simp] theorem State.setQr_boot (r : Nat) (q : CompRing) : (s.setQr r q).boot = s.boot := rfl
@[simp] theorem State.emit_boot (x : Sent) : (s.emit x).boot = s.boot := rfl
@[simp] theorem State.out_boot (x : HostOut) : (s.out x).boot = s.boot := rfl
@[simp] theorem State.logFault_boot (k : LogKind) (source severity : Byte) (d : Word) :
    (s.logFault k source severity d).boot = s.boot := rfl

theorem State.modTrk_boot {f : Tracker → Tracker} (h : (f s.trk).session = s.trk.session) : (s.modTrk f).boot = s.boot :=
  congrArg (fun x => { s.boot with session := x }) h
theorem State.modPwr_boot (f : Power → Power) (h : (f s.pwr).causes = s.pwr.causes) : (s.modPwr f).boot = s.boot :=
  congrArg (fun x => { s.boot with causes := x }) h
theorem State.modFw_boot (f : Firmware → Firmware) (hs : (f s.fw).starting = s.fw.starting) (ht : (f s.fw).trial = s.fw.trial)
    (hr : (f s.fw).restarts = s.fw.restarts) : (s.modFw f).boot = s.boot := by
  simp only [boot, modFw_fw, hs, ht, hr]
  rfl
theorem State.modMgmt_boot (f : Mgmt → Mgmt) : (s.modMgmt f).boot = { s.boot with conns := (f s.mgmt).conns } := rfl

@[simp] theorem State.raiseMsix_boot (r : Nat) : (s.raiseMsix r).boot = s.boot := by simp [raiseMsix]
@[simp] theorem State.wakeHost_boot : s.wakeHost.boot = s.boot := by simp [wakeHost]
@[simp] theorem State.putRecord_boot (ring : Nat) (r : Record) : (s.putRecord ring r).boot = s.boot := by simp [putRecord]
@[simp] theorem State.post_boot (ring : Nat) (r : Record) : (s.post ring r).boot = s.boot := by simp [post]
@[simp] theorem State.recordOn_boot (cq : Nat) (p : Packet) (opcode : Half) (kind : BitVec 2) (status detail : Half) (r0 r1 r2 : Word) :
    (s.recordOn cq p opcode kind status detail r0 r1 r2).boot = s.boot := by simp [recordOn]
@[simp] theorem State.record_boot (p : Packet) (opcode : Half) (kind : BitVec 2) (status detail : Half) (r0 r1 r2 : Word) :
    (s.record p opcode kind status detail r0 r1 r2).boot = s.boot := recordOn_boot ..
@[simp] theorem State.complete_boot (c : LongCmd) (status detail : Half) (r0 r1 r2 : Word) :
    (s.complete c status detail r0 r1 r2).boot = s.boot := recordOn_boot ..
@[simp] theorem State.completeAll_boot (p : LongCmd → Bool) (status detail : Half) : (s.completeAll p status detail).boot = s.boot :=
  foldl_keeps boot (fun u c => u.complete_boot c status detail 0 0 0) ..
@[simp] theorem State.platformEvent_boot (r : Record) : (s.platformEvent r).boot = s.boot := by
  unfold platformEvent
  split
  · rfl
  · simp only [boot_ite, modPins_boot, modMgmt_boot, ite_self]
    split <;> rfl
@[simp] theorem State.event_boot (code status detail : Half) (r0 r1 r2 : Word) : (s.event code status detail r0 r1 r2).boot = s.boot := by
  simp [event]

@[simp] theorem State.judge_boot (port vc : Nat) (q : Queued) : (s.judge port vc q).1.boot = s.boot := by
  simp only [judge, modFi]
  (repeat' split) <;> rfl
@[simp] theorem State.atHead_boot (port vc n : Nat) : (s.atHead port vc n).boot = s.boot := by
  induction n generalizing s with
  | zero => rfl
  | succ n ih =>
    simp only [atHead]
    split
    · rfl
    · next q rest _ =>
      have e := s.judge_boot port vc q
      split
      · rfl
      · split <;> next hj => simpa [hj, ih] using e
@[simp] theorem State.enqueue_boot (port : Nat) (p : Pkt) (discard : Bool) : (s.enqueue port p discard).boot = s.boot := atHead_boot ..
@[simp] theorem State.switch_boot (p : Pkt) (discard : Bool) (n : Nat) : (s.switch p discard n).boot = s.boot := by
  induction n generalizing s p discard with
  | zero => rfl
  | succ n ih =>
    simp only [switch]
    (repeat' split) <;> simp [ih, countExpired, countFenceDrop, countDetour]
@[simp] theorem State.transmit_boot (p : Pkt) : (s.transmit p).boot = s.boot := by simp [transmit, onCircuit, route]
theorem Tracker.put_session (t : Tracker) (e : EntryId) (x : Option TrkEntry) : (t.put e x).session = t.session := by
  unfold put
  split <;> rfl
@[simp] theorem State.sendTracked_boot (e : EntryId) (p : Pkt) (ch : Option (BitVec 2)) (pieces : List Nat) (owner : Option CtrlOwner) :
    (s.sendTracked e p ch pieces owner).boot = s.boot := by
  simp only [sendTracked, transmit_boot]
  exact s.modTrk_boot (Tracker.put_session ..)
@[simp] theorem State.sendControl_boot (p : Pkt) (owner : CtrlOwner) : (s.sendControl p owner).boot = s.boot := by
  unfold sendControl
  split
  · exact sendTracked_boot ..
  · exact s.modTrk_boot rfl
@[simp] theorem State.announce_boot (level : BitVec 3) : (s.announce level).boot = s.boot :=
  (foldl_keeps boot (fun u b => by
    split
    · exact foldl_keeps boot (fun u m => u.sendControl_boot ..) ..
    · rfl) ..).trans (s.logFault_boot ..)
@[simp] theorem State.ramp_boot (goal : Nat) : (s.ramp goal).boot = s.boot := rfl
@[simp] theorem State.paceOut_boot (l : BitVec 3) : (s.paceOut l).boot = s.boot := by simp [paceOut]

/-- The begin of an emergency adds its causes. -/
theorem State.emergencyBegins_boot (bits : BitVec 3) :
    (s.emergencyBegins bits).boot = s.boot.addCauses bits := by
  unfold emergencyBegins
  extract_lets was u first v w x y
  split
  · rfl
  · have hv : v.boot = u.boot := u.modPwr_boot _ rfl
    have hw : w.boot = v.boot := ((v.ramp _).paceOut_boot _).trans (v.ramp_boot _)
    have hx : x.boot = w.boot := w.modFw_boot _ rfl rfl rfl
    have hy : y.boot = x.boot := x.logFault_boot ..
    rw [announce_boot, event_boot, hy, hx, hw, hv]
    rfl

/-- The state but for its claims. -/
def State.noClaims : State := { s with claims := [] }

theorem State.retainedClaims_noClaims : s.retainedClaims.noClaims = s.noClaims := by
  have start : ({ s with claims := [] } : State).noClaims = s.noClaims := rfl
  have more (u : State) (r : Nat) (h : Half) : (u.setClaim r h).noClaims = u.noClaims := rfl
  simp only [retainedClaims]
  split <;> simp only [apply_ite noClaims, more, start, ite_self]

theorem State.boot_of_noClaims {s t : State} (h : t.noClaims = s.noClaims) : t.boot = s.boot := by
  have e := congrArg boot h
  exact e
theorem State.pins_of_noClaims {s t : State} (h : t.noClaims = s.noClaims) : t.pins = s.pins := by
  have e := congrArg pins h
  exact e
theorem State.retainedClaims_boot : s.retainedClaims.boot = s.boot := boot_of_noClaims s.retainedClaims_noClaims
theorem State.retainedClaims_pins : s.retainedClaims.pins = s.pins := pins_of_noClaims s.retainedClaims_noClaims
end

/-! ### The begin of a start -/

/-- What a start begins with, before PWRBRK_N is looked at. -/
def State.startBoot (s : State) (kind : StartKind) (keep other halt : Bool) : Boot :=
  { (s.wiped (kind = .warm)).boot with
    session := s.trk.session + 1
    starting := some
      ⟨kind, keep, 1, if other ∨ s.fw.atStart then !s.fw.active else s.fw.active, false, !other && s.fw.atStart, halt⟩ }

theorem State.beginStart_boot (s : State) (kind : StartKind) (keep other halt : Bool) :
    (s.beginStart kind keep other halt).boot =
      if s.pins.pwrbrk ∧ ¬ kind = .warm then (s.startBoot kind keep other halt).addCauses 2
      else s.startBoot kind keep other halt := by
  unfold State.beginStart
  extract_lets warm u v slot w x
  have hw : w.boot = s.startBoot kind keep other halt := rfl
  have hx : x.boot = w.boot := w.retainedClaims_boot
  have hp : x.pins.pwrbrk = s.pins.pwrbrk := (congrArg Pins.pwrbrk w.retainedClaims_pins).trans rfl
  rw [← hw, ← hx, ← hp]
  split
  · exact x.emergencyBegins_boot 2
  · rfl

/-- What every start begins with. -/
theorem State.beginStart_begins (s : State) (kind : StartKind) (keep other halt : Bool) :
    (s.beginStart kind keep other halt).clk = s.clk ∧ (s.beginStart kind keep other halt).isl = [] ∧
    (s.beginStart kind keep other halt).mem = s.mem.restarted (kind = .warm) ∧
    (s.beginStart kind keep other halt).trk.session = s.trk.session + 1 ∧
    (s.beginStart kind keep other halt).fw.starting = (s.startBoot kind keep other halt).starting ∧
    (s.beginStart kind keep other halt).fw.trial = s.fw.trial := by
  have h := s.beginStart_boot kind keep other halt
  generalize s.beginStart kind keep other halt = t at h ⊢
  split at h <;>
    exact ⟨congrArg Boot.clk h, congrArg Boot.isl h, congrArg Boot.mem h, congrArg Boot.session h, congrArg Boot.starting h,
      congrArg Boot.trial h⟩

theorem State.coldBegins_causes (s : State) (keep other halt : Bool) :
    (s.beginStart .cold keep other halt).pwr.causes = if s.pins.pwrbrk then 2 else 0 := by
  have h := congrArg Boot.causes (s.beginStart_boot .cold keep other halt)
  simp only [show ¬ StartKind.cold = .warm by decide, not_false_eq_true, and_true] at h
  refine h.trans ?_
  split
  · exact (by decide : (0 : BitVec 3) ||| 2 = 2)
  · rfl

theorem Mem.restarted_hbm (m : Mem) : (m.restarted true).hbm = m.hbm := by
  simp only [Mem.restarted, Mem.inMode, if_true]
  split <;> rfl

/-! ### The watchdog's warm start and its fall back -/

/-- The watchdog's starts in the last ten minutes. -/
def State.wdRecent (s : State) : List Nat := s.fw.wdStarts.filter fun t => decide (s.clk.now < t + 15000000000)

theorem State.watchdogStart_begins (s : State) : ∃ x : Starting,
    s.watchdogStart.fw.starting = some x ∧ x.kind = .warm ∧ x.keep = true ∧ x.step = 1 ∧
    s.watchdogStart.trk.session = s.trk.session + 1 ∧ s.watchdogStart.mem.hbm = s.mem.hbm ∧
    (s.trialOpen = true → x.slot = !s.fw.active ∧ x.halt = false ∧ s.watchdogStart.fw.trial = false) ∧
    (s.trialOpen = false → x.slot = (if s.fw.atStart then !s.fw.active else s.fw.active) ∧ x.halt = decide (2 ≤ s.wdRecent.length) ∧
      s.watchdogStart.fw.trial = s.fw.trial) := by
  unfold State.watchdogStart
  extract_lets trial u halt v
  have hv : v.fw = u.fw ∧ v.mem = s.mem ∧ v.trk = s.trk := by
    simp only [v]
    split <;> exact ⟨rfl, rfl, rfl⟩
  obtain ⟨hfw, hmem, htrk⟩ := hv
  obtain ⟨-, -, bmem, bses, bst, btr⟩ := v.beginStart_begins .warm true trial halt
  refine ⟨_, bst, rfl, rfl, rfl, bses.trans (by rw [htrk]), ?_, fun ht => ?_, fun ht => ?_⟩
  · rw [bmem, hmem]
    exact Mem.restarted_hbm _
  · rw [btr, hfw]
    simp [u, trial, halt, ht]
  · rw [btr, hfw]
    refine ⟨by simp [u, trial, ht], ?_, by simp [u, trial, ht]⟩
    change (!s.trialOpen && decide (3 ≤ s.wdRecent.length + 1)) = _
    simp [ht]

/-! ### Component restarts -/

/-- What the loss of a component ends: connections, and for the interpreter the fenced commands. -/
theorem State.componentLoss_boot (s : State) (c : Component) : ∃ conns fenced,
    (s.componentLoss c).boot = { s.boot with conns := conns, fenced := fenced } ∧ (c = .security → conns = []) ∧
    (c = .interpreter → fenced = []) := by
  have same {t : State} (h : t.boot = s.boot) (hs : c ≠ .security) (hi : c ≠ .interpreter) : ∃ conns fenced,
      t.boot = { s.boot with conns := conns, fenced := fenced } ∧ (c = .security → conns = []) ∧ (c = .interpreter → fenced = []) :=
    ⟨_, _, h, fun e => absurd e hs, fun e => absurd e hi⟩
  cases c with
  | supervisor => exact same rfl (by decide) (by decide)
  | interpreter => exact ⟨_, [], foldl_keeps State.boot (fun u f => u.record_boot ..) .., nofun, fun _ => rfl⟩
  | power => exact same (s.modPwr_boot _ rfl) (by decide) (by decide)
  | fabric => exact same (State.completeAll_boot ..) (by decide) (by decide)
  | snapshot => exact same (State.completeAll_boot ..) (by decide) (by decide)
  | management => exact ⟨_, _, s.modMgmt_boot _, nofun, nofun⟩
  | security => exact ⟨_, _, s.modMgmt_boot _, fun _ => rfl, nofun⟩

/-- The restarts of a component within the last 60 s. -/
def State.recentRestarts (s : State) (c : Component) : List Nat :=
  (smGet [] s.fw.restarts (componentCode c)).filter fun t => decide (s.clk.now < t + 1500000000)

/-- A component restart but for its escalation. -/
def State.restarted (s : State) (c : Component) (why : Word) : State :=
  let seq := s.flog.seq + if s.flog.lost = 0 then 0 else 1
  let u := s.logFault .componentRestart (BitVec.ofNat 8 (componentCode c)) 2 why
  let u := (u.event 0x0006 sInternal (BitVec.ofNat 16 (componentCode c)) seq 0 0).componentLoss c
  let times := u.clk.now :: u.recentRestarts c
  u.modFw fun f => { f with restarts := smSet f.restarts (componentCode c) times }

theorem State.restarted_boot (s : State) (c : Component) (why : Word) : ∃ conns fenced,
    (s.restarted c why).boot = { s.boot with
      restarts := smSet s.fw.restarts (componentCode c) (s.clk.now :: s.recentRestarts c), conns := conns, fenced := fenced } ∧
    (c = .security → conns = []) ∧ (c = .interpreter → fenced = []) := by
  unfold State.restarted
  extract_lets seq u v times
  have hu : u.boot = s.boot := s.logFault_boot ..
  obtain ⟨conns, fenced, h, hs, hi⟩ := (u.event 0x0006 sInternal (BitVec.ofNat 16 (componentCode c)) seq 0 0).componentLoss_boot c
  rw [State.event_boot, hu] at h
  refine ⟨conns, fenced, ?_, hs, hi⟩
  have hr : v.fw.restarts = s.fw.restarts := congrArg Boot.restarts h
  have hc : v.clk = s.clk := congrArg Boot.clk h
  have ht : times = s.clk.now :: s.recentRestarts c := by simp only [times, State.recentRestarts, hr, hc]
  rw [← hr, ← ht]
  exact congrArg (fun b : Boot => { b with restarts := smSet v.fw.restarts (componentCode c) times }) h

theorem State.restartComponent_eq {s : State} {c : Component} (why : Word) (hc : c ≠ .supervisor) (hs : s.serving = true)
    (hp : s.powered = true) : s.restartComponent c why =
      if 3 ≤ (s.recentRestarts c).length then (s.restarted c why).watchdogStart else s.restarted c why := by
  have started : s.restartComponent c why =
      if 4 ≤ (smGet [] (s.restarted c why).fw.restarts (componentCode c)).length then (s.restarted c why).watchdogStart
      else s.restarted c why := by
    unfold State.restartComponent
    rw [if_neg (by simp [hc, hs, hp])]
    simp only [State.restarted, State.modFw_fw, smGet_smSet_same]
    rfl
  obtain ⟨_, _, h, -, -⟩ := s.restarted_boot c why
  have hr : (s.restarted c why).fw.restarts = smSet s.fw.restarts (componentCode c) (s.clk.now :: s.recentRestarts c) :=
    congrArg Boot.restarts h
  rw [started, hr, smGet_smSet_same, List.length_cons]
  simp only [Nat.succ_le_succ_iff]

/-! ### READY (15 Table 15.9, step 7) -/

/-- What the host's link and the ports leave when a start ends: the firmware, the device state and the clock. -/
def State.device (s : State) : Firmware × BitVec 4 × Clock := (s.fw, s.host.dev, s.clk)

theorem State.openPort_device (s : State) (p : Nat) : (s.openPort p).device = s.device := rfl

theorem State.backInv_device (s : State) (line : Nat) : (s.backInv line).device = s.device := by
  unfold State.backInv
  split <;> rfl

theorem State.activateMem_device (s : State) : s.activateMem.device = s.device := by
  have back : (s.backInvAll s.host.directory).device = s.device := foldl_keeps State.device State.backInv_device ..
  unfold State.activateMem
  split
  · exact back
  · rfl

theorem State.goReady_ready (s : State) (x : Starting) :
    (s.goReady x).fw.active = x.slot ∧ (s.goReady x).host.dev = 1 ∧ (s.goReady x).fw.starting = some { x with step := 8 } ∧
    (s.goReady x).clk.frame = 0 ∧ (x.first = true → (s.goReady x).fw.trial = true ∧ (s.goReady x).fw.trialAt = s.clk.now) := by
  unfold State.goReady
  extract_lets m u v w ck y
  have opened : ((List.range 32).foldl State.openPort y).device = y.device := foldl_keeps State.device State.openPort_device ..
  have active : w.device = (u.fw, 1, u.clk) := State.activateMem_device _
  generalize (List.range 32).foldl State.openPort y = z at opened ⊢
  have hy : y.device = (u.fw, 1, y.clk) := congrArg (fun d => (d.1, d.2.1, y.clk)) active
  obtain ⟨hfw, hdev, hclk⟩ : z.fw = u.fw ∧ z.host.dev = 1 ∧ z.clk = y.clk := by
    simpa only [State.device, Prod.mk.injEq] using opened.trans hy
  rw [hfw, hdev, hclk]
  exact ⟨rfl, rfl, rfl, rfl, fun hf => by simp [u, hf]⟩

/-- A value that every entry of a mapped map has, and the default, is what a read of the map has. -/
theorem smGet_map_of {α β : Type} {f : α → β} {d : β} {P : β → Prop} (hf : ∀ v, P (f v)) (hd : P d) (l : SMap α) (k : Nat) :
    P (smGet d (l.map fun x => (x.1, f x.2)) k) := by
  induction l with
  | nil => exact hd
  | cons x l ih =>
    rw [List.map_cons, smGet]
    split
    · exact hf _
    · exact ih

/-! ### The steps of a start (15 Table 15.9) -/

theorem State.otherSlot_untried (s : State) {x : Starting} (ht : x.tried = false) :
    (s.otherSlot x).fw.starting = some { x with step := 3, slot := !x.slot, tried := true, first := false } ∧
    (s.otherSlot x).fw.trial = false ∧ (s.otherSlot x).mem = s.mem ∧ (s.otherSlot x).host.dev = s.host.dev := by
  unfold State.otherSlot
  rw [if_neg (by simp [ht])]
  extract_lets u
  have hm : u.mem = s.mem := rfl
  have hh : u.host = s.host := rfl
  clear_value u
  exact ⟨rfl, rfl, hm, congrArg HostIf.dev hh⟩

section
variable {s : State} {x : Starting} (hx : s.fw.starting = some x) (ok : Bool)
include hx

theorem execStartStepDone_one (h : x.step = 1) :
    execStartStepDone ok s = .next (if ok then s.setStart { x with step := 2 } else s.recover) := by
  simp only [execStartStepDone, hx, h]

theorem execStartStepDone_two (h : x.step = 2) : execStartStepDone ok s = .next (s.setStart { x with step := 3 }) := by
  simp only [execStartStepDone, hx, h]

theorem execStartStepDone_three (h : x.step = 3) : execStartStepDone ok s = .next (
    if (s.fw.manifestFault (s.fw.slot x.slot)).isSome then s.otherSlot x
    else if x.halt then s.recover else s.setStart { x with step := 4 }) := by
  simp only [execStartStepDone, hx, h]

theorem execStartStepDone_good (h : x.step = 3) (hg : s.fw.manifestFault (s.fw.slot x.slot) = none) :
    execStartStepDone ok s = .next (if x.halt then s.recover else s.setStart { x with step := 4 }) := by
  rw [execStartStepDone_three hx ok h, if_neg (by simp [hg])]

theorem execStartStepDone_four (h : x.step = 4) :
    execStartStepDone ok s = .next (if ok then (s.fillBegins x).setStart { x with step := 5 } else s.recover) := by
  simp only [execStartStepDone, hx, h]

theorem execStartStepDone_five (h : x.step = 5) :
    execStartStepDone ok s = .next ((if s.mem.filling then s.modMem Mem.fill else s).setStart { x with step := 6 }) := by
  simp only [execStartStepDone, hx, h]

theorem execStartStepDone_six (h : x.step = 6) : execStartStepDone ok s = .next (
    if (digestFault (s.fw.slot x.slot)).isNone then s.setStart { x with step := 7 } else s.otherSlot x) := by
  simp only [execStartStepDone, hx, h]

theorem execStartStepDone_seven (h : x.step = 7) : execStartStepDone ok s = .next (s.goReady x) := by
  simp only [execStartStepDone, hx, h]

theorem execStartStepDone_eight (h : x.step = 8) : execStartStepDone ok s = .next (s.setStart { x with step := 9 }) := by
  simp only [execStartStepDone, hx, h]

theorem execStartStepDone_nine (h : x.step = 9) :
    execStartStepDone ok s = .next (s.modFw fun f => { f with starting := none }) := by
  simp only [execStartStepDone, hx, h]

/-- A bad slot, found in step 3 by its manifest or in step 6 by its digests, hands over to the other one. -/
theorem execStartStepDone_bad (h : (x.step = 3 ∧ s.fw.manifestFault (s.fw.slot x.slot) ≠ none) ∨
    (x.step = 6 ∧ digestFault (s.fw.slot x.slot) ≠ none)) : execStartStepDone ok s = .next (s.otherSlot x) := by
  rcases h with ⟨h, hf⟩ | ⟨h, hf⟩
  · rw [execStartStepDone_three hx ok h, if_pos (Option.isSome_iff_ne_none.mpr hf)]
  · rw [execStartStepDone_six hx ok h, if_neg (by simpa using hf)]
end

/-- Settles O53: a start by what `beginStart` begins with, a component's restart by what its losses leave. -/
theorem startsRunStepByStepAndFallBack : Obligations.StartsRunStepByStepAndFallBack := by
  refine ⟨fun s => ⟨fun hl => ?_, fun hl => ?_⟩, fun s => ?_, fun s pc => ⟨fun h => ?_, fun hp hr => ?_⟩, fun s c f h => ?_,
    fun s c f hs hp => ⟨?_, fun hc => ?_⟩, fun s h ok => ?_, fun s x hx => ?_, fun s k => ⟨rfl, rfl⟩⟩
  · show execLighthousePowerUp s = _
    simp [execLighthousePowerUp, hl]
  · have e : exec .lighthousePowerUp s =
        .next (({ s with clk := ⟨0, 0, 0, none, true⟩ } : State).beginStart .cold false false false) := by
      show execLighthousePowerUp s = _
      simp [execLighthousePowerUp, hl]
    obtain ⟨hclk, hisl, hmem, hses, hst, -⟩ :=
      ({ s with clk := ⟨0, 0, 0, none, true⟩ } : State).beginStart_begins .cold false false false
    refine ⟨_, e, hclk, State.coldBegins_causes .., hst.trans ?_, hses, by rw [hmem]; rfl, by rw [hmem]; rfl, hisl,
      (kept_eq_iff.mp (State.beginStart_kept ..)).1⟩
    simp [State.startBoot]
  · refine ⟨_, rfl, rfl, rfl, fun p => ?_, rfl, rfl, rfl, rfl, fun b => ?_, rfl, rfl, rfl⟩
    · exact smGet_map_of (f := fun q : Part => { q with energy := 0 }) (d := .reset) (P := fun q => q.energy = 0) (fun _ => rfl) rfl _ p
    · rfl
  · show execWatchdogExpiry pc s = _
    unfold execWatchdogExpiry
    rw [if_pos (by simpa using h)]
  · intro n
    obtain ⟨x, h⟩ := (s.logFault .watchdog srcLighthouse 3 pc).watchdogStart_begins
    refine ⟨_, x, ?_, h⟩
    show execWatchdogExpiry pc s = _
    unfold execWatchdogExpiry
    rw [if_neg (by simp [hp, hr])]
  · have off (why : Word) : s.restartComponent c why = s := by
      unfold State.restartComponent
      rw [if_pos (by rcases h with h | h <;> simp [h])]
    exact ⟨congrArg Host.Outcome.next (off _), congrArg Host.Outcome.next (off _)⟩
  · have own (why : Word) : s.restartComponent .supervisor why = s := by
      unfold State.restartComponent
      rw [if_pos (Or.inl rfl)]
    exact ⟨congrArg Host.Outcome.next (own _), congrArg Host.Outcome.next (own _)⟩
  · intro recent
    have miss {r : State} (h : s.restartComponent c 0 = r) : exec (.componentHeartbeatMiss c) s = .next r := congrArg Host.Outcome.next h
    have fault {r : State} (h : s.restartComponent c (BitVec.ofNat 32 (compFaultCode f)) = r) : exec (.componentFault c f) s = .next r :=
      congrArg Host.Outcome.next h
    refine ⟨fun hn => ?_, fun hn => ?_⟩
    · have e (why : Word) := (s.restartComponent_eq why hc hs hp).trans (if_neg (Nat.not_le.mpr hn))
      obtain ⟨_, _, h, hsec, hint⟩ := s.restarted_boot c 0
      obtain ⟨_, _, g, gsec, gint⟩ := s.restarted_boot c (BitVec.ofNat 32 (compFaultCode f))
      refine ⟨_, _, miss (e _), fault (e _), ?_, ?_, congrArg Boot.starting h, congrArg Boot.session h, congrArg Boot.mem h,
        congrArg Boot.isl h, fun e => ⟨(congrArg Boot.conns h).trans (hsec e), (congrArg Boot.conns g).trans (gsec e)⟩,
        fun e => ⟨(congrArg Boot.fenced h).trans (hint e), (congrArg Boot.fenced g).trans (gint e)⟩⟩
      · exact (congrArg (fun b => smGet [] (Boot.restarts b) (componentCode c)) h).trans (smGet_smSet_same ..)
      · exact (congrArg (fun b => smGet [] (Boot.restarts b) (componentCode c)) g).trans (smGet_smSet_same ..)
    · have e (why : Word) := (s.restartComponent_eq why hc hs hp).trans (if_pos hn)
      have ses (why : Word) : (s.restarted c why).trk.session = s.trk.session := by
        obtain ⟨_, _, h, -, -⟩ := s.restarted_boot c why
        exact congrArg Boot.session h
      obtain ⟨x, hx, xk, xkeep, xstep, xses, -⟩ := (s.restarted c (BitVec.ofNat 32 (compFaultCode f))).watchdogStart_begins
      obtain ⟨y, hy, yk, ykeep, ystep, yses, -⟩ := (s.restarted c 0).watchdogStart_begins
      rw [ses] at xses yses
      exact ⟨_, _, x, y, fault (e _), miss (e _), hx, hy, xk, xkeep, xstep, xses, yk, ykeep, ystep, yses⟩
  · show execStartStepDone ok s = _
    simp only [execStartStepDone, h]
  · intro good sums at_ recovery
    have step {r : State} (ok : Bool) (h : execStartStepDone ok s = .next r) : exec (.startStepDone ok) s = .next r := h
    refine ⟨fun h => step _ ?_, fun h => step _ ?_, fun h hk => step _ ?_, fun h hk => ?_, fun ok => ⟨fun h => step _ ?_,
      fun h hg ht => step _ ?_, fun h hg ht => step _ ?_, fun h ht => step _ ?_, fun h ht => ?_, fun h hf => step _ ?_,
      fun h hf => step _ ?_, fun h hs => step _ ?_, fun h => ?_, fun h => step _ ?_, fun h => step _ ?_⟩⟩
    · rcases h with h | h
      · exact execStartStepDone_one hx false h
      · exact execStartStepDone_four hx false h
    · exact execStartStepDone_one hx true h
    · rw [execStartStepDone_four hx true h, State.fillBegins, if_pos hk]
      rfl
    · refine ⟨(s.fillBegins x).setStart { x with step := 5 }, step _ (execStartStepDone_four hx true h), ?_⟩
      rw [State.fillBegins, if_neg (by simp [hk])]
      exact ⟨rfl, rfl, rfl, rfl, rfl⟩
    · exact execStartStepDone_two hx ok h
    · rw [execStartStepDone_good hx ok h hg, if_neg (by simp [ht])]
      rfl
    · rw [execStartStepDone_good hx ok h hg, if_pos ht]
      rfl
    · rw [execStartStepDone_bad hx ok h, State.otherSlot, if_pos ht]
      rfl
    · exact ⟨_, step _ (execStartStepDone_bad hx ok h), s.otherSlot_untried ht⟩
    · rw [execStartStepDone_five hx ok h, if_pos hf]
      rfl
    · rw [execStartStepDone_five hx ok h, if_neg (by simp [hf])]
      rfl
    · rw [execStartStepDone_six hx ok h, show digestFault _ = none from hs]
      rfl
    · exact ⟨_, step _ (execStartStepDone_seven hx ok h), s.goReady_ready x⟩
    · exact execStartStepDone_eight hx ok h
    · exact execStartStepDone_nine hx ok h

end Sys2Proof.Machine

namespace Sys2Proof.Machine

/-! # The tracker's entries (09 R206, R208, 11 R241 to R246, R257) -/

/-! ### What an outcome leaves of the tracker -/

/-- The tracker once entry `e` has resolved with `r`: the entry is free, and a TIMEOUT or FENCED one is counted (09 R208). -/
def Tracker.resolved (t : Tracker) (e : EntryId) (r : TrkEnd) : Tracker :=
  let t := t.put e none
  match r with
  | .error st _ =>
    if st = sTimeout then { t with unreach := bump t.unreach }
    else if st = sFenced then { t with fenced := bump t.fenced } else t
  | .ok _ => t

theorem Tracker.get_put_none (t : Tracker) (e : EntryId) : (t.put e none).get e = none := by
  cases e with
  | island i k => exact smGet_smSet_same ..
  | control n => exact smGet_smSet_same ..
  | mcast n => rfl

theorem Tracker.put_mcast (t : Tracker) (e : EntryId) (x : Option TrkEntry) : (t.put e x).mcast = t.mcast := by
  cases e <;> rfl

/-- The counters of an outcome leave the entries. -/
theorem Tracker.resolved_entries (t : Tracker) (e : EntryId) (r : TrkEnd) :
    (t.resolved e r).entries = (t.put e none).entries ∧ (t.resolved e r).control = (t.put e none).control ∧
    (t.resolved e r).mcast = t.mcast := by
  have hm := t.put_mcast e none
  cases r with
  | ok data => exact ⟨rfl, rfl, hm⟩
  | error st d =>
    simp only [Tracker.resolved]
    split_ifs <;> exact ⟨rfl, rfl, hm⟩

theorem Tracker.get_resolved (t : Tracker) (e : EntryId) (r : TrkEnd) : (t.resolved e r).get e = none := by
  obtain ⟨hent, hctl, -⟩ := t.resolved_entries e r
  rw [← t.get_put_none e]
  cases e with
  | island i k => simp only [Tracker.get, hent]
  | control n => simp only [Tracker.get, hctl]
  | mcast n => rfl

theorem State.ctrlEnd_trk (s : State) (o : CtrlOwner) (piece : Nat) (p : Pkt) (r : TrkEnd) :
    (s.ctrlEnd o piece p r).trk = s.trk := by
  cases r with
  | ok data => rfl
  | error st d =>
    cases o with
    | barrier g => simp only [State.ctrlEnd]; split <;> rfl
    | snapshot | loss | fabricManager => rfl

/-- What an outcome does to its channel or its component changes nothing more of the tracker. -/
theorem State.endEntry_trk (s : State) (e : EntryId) (x : TrkEntry) (r : TrkEnd) :
    (s.endEntry e x r).trk = s.trk.resolved e r := by
  simp only [State.endEntry]
  split
  · rfl
  · split
    · exact State.ctrlEnd_trk ..
    · rfl

/-! ### The end of a tick's arrivals (09 R208) -/

/-- The number of an island's entry gives back the entry. -/
theorem Tracker.get_island_of_index (t : Tracker) {k : Nat} (hk : k < 32768) :
    t.get (.island (BitVec.ofNat 8 (k / 128)) (BitVec.ofNat 7 k)) = smGet none t.entries k := by
  have h : 128 * (BitVec.ofNat 8 (k / 128)).toNat + (BitVec.ofNat 7 k).toNat = k := by
    simp only [BitVec.toNat_ofNat]; omega
  simp only [Tracker.get, h]

/-- A noted NACK is the outcome of the only entry held (log 26). -/
theorem State.settleEntries_of_one {s : State} {k : Nat} {x : TrkEntry} {st d : Half} (hk : k < 32768)
    (he : s.trk.entries = [(k, some x)]) (hc : s.trk.control = []) (hm : s.trk.mcast = []) (hx : x.nack = some (st, d)) :
    s.settleEntries = s.endEntry (.island (BitVec.ofNat 8 (k / 128)) (BitVec.ofNat 7 k)) x (.error st d) := by
  have hget : s.trk.get (.island (BitVec.ofNat 8 (k / 128)) (BitVec.ofNat 7 k)) = some x := by
    rw [Tracker.get_island_of_index _ hk, he, smGet, if_pos rfl]
  have hmc : (s.endEntry (.island (BitVec.ofNat 8 (k / 128)) (BitVec.ofNat 7 k)) x (.error st d)).trk.mcast = [] := by
    rw [State.endEntry_trk, (Tracker.resolved_entries ..).2.2, hm]
  simp [State.settleEntries, he, hc, hx, hget, hmc]

/-! ### A timer that has run out, and responses -/

theorem execTrackerResendTimeout_held {s : State} {e : EntryId} {x : TrkEntry} (h : s.trk.get e = some x) :
    execTrackerResendTimeout e s = .next (if x.expiry < s.clk.now ∧ x.nack.isNone then s.tryAgain e x else s) := by
  cases e with
  | island i k => simp only [execTrackerResendTimeout, h]
  | control n => simp only [execTrackerResendTimeout, h]
  | mcast n => cases h

theorem State.crcOk_good (s : State) {p : Pkt} (f : State → State) (hc : p.crc = p.check) : s.crcOk p f = f s := if_pos hc

theorem State.entryOf_modFab (s : State) (f : Fabric → Fabric) (p : Pkt) : (s.modFab f).entryOf p = s.entryOf p := rfl

/-! A response with a good CRC (11 R238): what it does to the entry that it matches, to a multicast entry, and to none. -/

section
variable {s : State} {p : Pkt} {x : TrkEntry} (hc : p.crc = p.check)
include hc

theorem execAckReceived_held (hx : s.entryOf p = some x) :
    execAckReceived p s = .next (s.endEntry p.entryId x (.ok [])) := by
  simp only [execAckReceived, s.crcOk_good _ hc, hx]

theorem execReadRespReceived_held (hx : s.entryOf p = some x) :
    execReadRespReceived p s = .next (s.endEntry p.entryId x (.ok p.payload)) := by
  simp only [execReadRespReceived, s.crcOk_good _ hc, hx]

theorem execNackReceived_held (hx : s.entryOf p = some x) (hn : x.nack = none) : execNackReceived p s =
    .next (s.modTrk fun t => t.put p.entryId (some { x with nack := some (p.aux, p.arg.extractLsb' 0 16) })) := by
  simp only [execNackReceived, s.crcOk_good _ hc, hx, hn, Option.orElse]

theorem execDetourReceived_held (hx : s.entryOf p = some x) (hn : x.nack = none) :
    let u := s.modFab fun f => { f with avoid := avoidLink f.avoid (p.arg.extractLsb' 0 12) (p.arg.extractLsb' 12 5) }
    execDetourReceived p s = .next (if x.series = 1 then u.series2 p.entryId x else u.giveUp p.entryId x) := by
  simp only [execDetourReceived, s.crcOk_good _ hc, State.entryOf_modFab, hx, hn, Option.isSome_none, Bool.false_eq_true,
    if_false]

theorem execAckReceived_member {n : Nat} {m : McastEntry} (hx : s.entryOf p = none) (hm : s.mcastOf p = some (n, m))
    (hmem : m.members.contains p.src = true) : execAckReceived p s = .next (s.mcastMark n m p.src .delivered) := by
  simp only [execAckReceived, s.crcOk_good _ hc, hx, hm, hmem, if_true]

theorem execAckReceived_late (hx : s.entryOf p = none) (hm : s.mcastOf p = none) : execAckReceived p s = .next s.late := by
  simp only [execAckReceived, s.crcOk_good _ hc, hx, hm]

theorem execNackReceived_late (hx : s.entryOf p = none) (hm : s.mcastOf p = none) :
    execNackReceived p s = .next s.late := by
  simp only [execNackReceived, s.crcOk_good _ hc, hx, hm]

theorem execReadRespReceived_late (hx : s.entryOf p = none) : execReadRespReceived p s = .next s.late := by
  simp only [execReadRespReceived, s.crcOk_good _ hc, hx]

end

/-- Settles O19: a timer or a response is one case of its entry's state, and whatever else an outcome does, it frees the entry. -/
theorem trackerEntriesResendAndResolve : Obligations.TrackerEntriesResendAndResolve := by
  refine ⟨fun s e x hx ht hn => ?_, fun s n m hm ht => ?_, fun s e x hx ht => ?_,
    fun s p x hc hx => ⟨execAckReceived_held hc hx, execReadRespReceived_held hc hx, execNackReceived_held hc hx⟩,
    fun s k x st d hk he hctl hm hn => State.settleEntries_of_one hk he hctl hm hn,
    fun s e x r => by rw [State.endEntry_trk, Tracker.get_resolved],
    fun s p n m hc hx hm hmem => execAckReceived_member hc hx hm hmem,
    fun s p hc hx hm i hi => ?_, fun s p x hc hx hn => execDetourReceived_held hc hx hn⟩
  · show execTrackerResendTimeout e s = _
    rw [execTrackerResendTimeout_held hx, if_pos ⟨ht, Option.isNone_iff_eq_none.mpr hn⟩]
    rfl
  · show execTrackerResendTimeout (.mcast n) s = _
    simp only [execTrackerResendTimeout, hm, if_pos ht]
  · show execTrackerResendTimeout e s = _
    rw [execTrackerResendTimeout_held hx, if_neg fun h => Nat.not_lt.mpr ht h.1]
  · simp only [List.mem_cons, List.not_mem_nil, or_false] at hi
    rcases hi with rfl | rfl | rfl
    · exact execAckReceived_late hc hx hm
    · exact execNackReceived_late hc hx hm
    · exact execReadRespReceived_late hc hx

end Sys2Proof.Machine

namespace Sys2Proof.Machine

/-! # Requests at their destination (09 R206, R207, 11 R245, R256, R257) -/

/-! ### Accesses that wait for the memory frame (log 62) -/

theorem State.hbmWaits_of_runs {s : State} (h : s.frameHeld = false) (a n : Nat) : s.hbmWaits a n = false := by
  simp only [State.hbmWaits, h, Bool.false_and]

theorem State.hbmWaits_of_held {s : State} {a n b : Nat} (h : s.frameHeld = true) (hr : regionOf a n = .hbm b) :
    s.hbmWaits a n = true := by
  simp only [State.hbmWaits, h, hr, Bool.and_self]

/-! ### The duplicate filter (09 R206) -/

/-- What the duplicate filter keeps of the source of a packet. -/
def State.sourceOf (s : State) (p : Pkt) : Option SeqState := smGet none s.trk.sources (8 * p.src.toNat + p.srcAtt.toNat)

/-- The state in which an accepted packet is carried out: its number is noted. -/
def State.noted (s : State) (p : Pkt) (k : SeqState) : State :=
  s.modTrk fun t => { t with sources := smSet t.sources (8 * p.src.toNat + p.srcAtt.toNat) (some k) }

section
variable {s : State} {p : Pkt} {k : SeqState} {f : State → State}

theorem State.receive_accepted (h : judgeSeq (s.sourceOf p) p.session p.seq = (.accept, k)) :
    s.receive p none f = f (s.noted p k) := by
  rw [State.sourceOf] at h
  simp only [State.receive, State.filtered, h, State.noted]

theorem State.receive_refused {st : Half} (h : judgeSeq (s.sourceOf p) p.session p.seq = (.accept, k)) :
    s.receive p (some st) f = s.nack p st 16 := by
  rw [State.sourceOf] at h
  simp only [State.receive, h]

theorem State.receive_duplicate {r : Option Half} (h : judgeSeq (s.sourceOf p) p.session p.seq = (.duplicate, k)) :
    s.receive p r f = (s.modTrk fun t => { t with dups := bump t.dups }).ack p := by
  rw [State.sourceOf] at h
  simp only [State.receive, State.filtered, h]

end

/-! ### Writes and notifies -/

/-- Where a write is to be stored, or the status that refuses it: one without payload is refused (09 R206). -/
def State.writeRegion (s : State) (p : Pkt) : Except Half Region :=
  if p.payload.isEmpty then .error sBadParam else s.remoteRegion p.partition.toNat p.addr.toNat p.payload.length

/-- The scratchpad of the island that a notify names, or the status that refuses it. -/
def State.notifyRegion (s : State) (p : Pkt) : Except Half Region :=
  match s.remoteRegion p.partition.toNat p.addr.toNat 1 with
  | .ok (.hbm _) => .error sBadParam
  | r => r

/-- Carry out and answer an accepted notify (09 R206). -/
def State.acceptNotify (s : State) (p : Pkt) (r : Except Half Region) : State :=
  match r with
  | .ok (.sp j _) => (s.semInc j p.rsem).ack p
  | _ => s

theorem State.writeRegion_of_payload (s : State) {p : Pkt} (h : p.payload ≠ []) :
    s.writeRegion p = s.remoteRegion p.partition.toNat p.addr.toNat p.payload.length :=
  if_neg (by simpa using h)

theorem State.notifyRegion_of_sp {s : State} {p : Pkt} {j off : Nat}
    (h : s.remoteRegion p.partition.toNat p.addr.toNat 1 = .ok (.sp j off)) : s.notifyRegion p = .ok (.sp j off) := by
  simp only [State.notifyRegion, h]

section
variable {s : State} {p : Pkt} (hc : p.crc = p.check)
include hc

theorem execWriteReceived_waits (h : s.hbmWaits p.addr.toNat p.payload.length = true) :
    execWriteReceived p s = .next s := by
  simp only [execWriteReceived, s.crcOk_good _ hc, h, if_true]

theorem execWriteReceived_runs (h : s.frameHeld = false) : execWriteReceived p s =
    .next (s.receive p (refusalOf (s.writeRegion p)) fun u => u.acceptWrite p (s.writeRegion p)) := by
  simp only [execWriteReceived, s.crcOk_good _ hc, State.hbmWaits_of_runs h, Bool.false_eq_true, if_false,
    State.writeRegion]

theorem execNotifyReceived_eq : execNotifyReceived p s =
    .next (s.receive p (refusalOf (s.notifyRegion p)) fun u => u.acceptNotify p (s.notifyRegion p)) :=
  congrArg Host.Outcome.next (s.crcOk_good _ hc)

end

/-! ### Reads (11 R245) -/

/-- Answer a read of n bytes of a region, or with the status that refuses it. -/
def State.answerRead (s : State) (p : Pkt) (n : Nat) (r : Except Half Region) : State :=
  match r with
  | .error st => s.nack p st 8
  | .ok (.hbm a) =>
    let x := (s.countLines p.partition.toNat (linesOf a n).length).sharedRead a n
    if x.2.1 then x.2.2.nack p sMemoryError 8 else x.2.2.respond p tReadResp 0 0 x.1
  | .ok (.sp j off) =>
    let u := (s.bankTouch j off n).noteSp j off n
    if (s.getIsl j).spUe off n then u.nack p sMemoryError 8 else u.respond p tReadResp 0 0 ((s.getIsl j).spRead off n)
  | .ok .reserved => s

section
variable {s : State} {p : Pkt} (hc : p.crc = p.check)
include hc

theorem execReadReqReceived_waits (h : s.hbmWaits p.addr.toNat (p.arg.extractLsb' 0 13).toNat = true) :
    execReadReqReceived p s = .next s := by
  simp only [execReadReqReceived, s.crcOk_good _ hc, h, if_true]

theorem execReadReqReceived_runs (h : s.frameHeld = false) :
    let n := (p.arg.extractLsb' 0 13).toNat
    execReadReqReceived p s = .next (if n = 0 ∨ 4096 < n then s.nack p sBadParam 8
      else s.answerRead p n (s.remoteRegion p.partition.toNat p.addr.toNat n)) := by
  simp only [execReadReqReceived, s.crcOk_good _ hc, State.hbmWaits_of_runs h, Bool.false_eq_true, if_false]
  rfl

end

/-! ### Multicast copies (11 R256, R257) -/

section
variable {s : State} {port : BitVec 5} {p : Pkt} (hrun : s.frameHeld = false) (hret : s.retired p.epoch = false)
  (hfen : (s.tab p.epoch).fenced p.src.toNat = false)
include hrun hret hfen

/-- A resend to this member is delivered as it is. -/
theorem execMcastWriteReceived_unicast (h : p.dst = s.fab.node ∧ p.src ≠ s.fab.node) :
    execMcastWriteReceived port p s = .next (s.mcastDeliver p) := by
  simp only [execMcastWriteReceived, State.hbmWaits_of_runs hrun, h, hret, hfen, and_self, ne_eq, not_false_eq_true,
    Bool.false_eq_true, if_false, if_true]

/-- A copy on the tree leaves its port's receive buffer; bit 63 of the group's entry sends it on, bit 62 delivers it here. -/
theorem execMcastWriteReceived_copy (h : ¬ (p.dst = s.fab.node ∧ p.src ≠ s.fab.node)) :
    let e := (s.tab p.epoch).mcastOf p.aux.toNat
    let u := (s.taken port.toNat p).mcastForward (some port.toNat) p
    execMcastWriteReceived port p s = .next (if !e.getLsbD 63 then s.taken port.toNat p
      else if e.getLsbD 62 then u.mcastDeliver p else u) := by
  have tab : (s.taken port.toNat p).tab = s.tab := rfl
  have ret : (s.taken port.toNat p).retired p.epoch = false := hret
  simp only [execMcastWriteReceived, State.hbmWaits_of_runs hrun, if_neg h, ret, tab, hfen, Bool.false_eq_true, if_false]

end

/-- Settles O21: the access is judged, the filter gives its verdict, and what is accepted is carried out and answered. A
refused write is not entered as accepted (log 38). -/
theorem destinationsAnswerRequests : Obligations.DestinationsAnswerRequests := by
  refine ⟨fun s p k hc hp hrun hk => ?_, fun s p k hc hrun hk i hi => ?_, fun s p hc hrun => ?_,
    fun s port p hrun hret hfen => ⟨execMcastWriteReceived_unicast hrun hret hfen, fun h => ?_⟩,
    fun s p a hc hheld => ⟨fun hr => execWriteReceived_waits hc (State.hbmWaits_of_held hheld hr),
      fun hr => execReadReqReceived_waits hc (State.hbmWaits_of_held hheld hr)⟩⟩
  · have write : exec (.writeReceived p) s = _ := execWriteReceived_runs hc hrun
    have notify : exec (.notifyReceived p) s = _ := execNotifyReceived_eq hc
    rw [s.writeRegion_of_payload hp] at write
    refine ⟨fun j off hr => ?_, fun a hr => ?_, fun st hr => ?_, fun j off hr => ?_⟩
    · rw [write, hr, refusalOf, State.receive_accepted hk]
      rfl
    · rw [write, hr, refusalOf, State.receive_accepted hk]
      rfl
    · rw [write, hr, refusalOf, State.receive_refused hk]
    · rw [notify, State.notifyRegion_of_sp hr, refusalOf, State.receive_accepted hk]
      rfl
  · simp only [List.mem_cons, List.not_mem_nil, or_false] at hi
    rcases hi with rfl | rfl
    · exact (execWriteReceived_runs hc hrun).trans (congrArg Host.Outcome.next (State.receive_duplicate hk))
    · exact (execNotifyReceived_eq hc).trans (congrArg Host.Outcome.next (State.receive_duplicate hk))
  · have read : exec (.readReqReceived p) s = _ := execReadReqReceived_runs hc hrun
    refine ⟨fun h => by rw [read, if_pos h], fun h0 h1 => ?_⟩
    rw [if_neg (not_or.mpr ⟨h0, Nat.not_lt.mpr h1⟩)] at read
    refine ⟨fun st hr => by rw [read, hr]; rfl, fun a hr => by rw [read, hr]; rfl, fun j off hr hue => ?_⟩
    rw [read, hr]
    simp only [State.answerRead, hue, Bool.false_eq_true, if_false]
  · have copy : exec (.mcastWriteReceived port p) s = _ := execMcastWriteReceived_copy hrun hret hfen h
    refine ⟨fun h63 => copy.trans ?_, fun h63 h62 => copy.trans ?_, fun h63 h62 => copy.trans ?_⟩
    · simp only [h63, Bool.not_false, if_true]
    · simp only [h63, h62, Bool.not_true, Bool.false_eq_true, if_false]
    · simp only [h63, h62, Bool.not_true, Bool.false_eq_true, if_false, if_true]

end Sys2Proof.Machine

namespace Sys2Proof.Machine

/-! # The ports of the fabric (10 R217, R222 to R226) -/

@[simp] theorem State.getPort_modPort (s : State) (k : Nat) (f : Port → Port) : (s.modPort k f).getPort k = f (s.getPort k) := by
  simp only [modPort, getPort_setPort]

@[simp] theorem State.getPort_emit (s : State) (k : Nat) (x : Sent) : (s.emit x).getPort k = s.getPort k := rfl

/-! ### The steps of training -/

/-- A training port behind the step that it has just done (10 R222, R225). -/
def Port.stepped (p : Port) (info : TrainInfo) (now : Nat) : Port :=
  let failed := p.failed ||| ~~~info.lanes
  let set := p.allowed (chooseLanes failed)
  if p.trainStep = 1 then { p with trainStep := 2, since := now }
  else if p.trainStep = 2 then { p with trainStep := if p.cold then 3 else 4, since := now }
  else if p.trainStep = 3 then { p with trainStep := 4, trained := true, since := now }
  else if p.trainStep = 4 then
    if p.cold = false ∧ failed ≠ p.failed then { p with trainStep := 3, cold := true, since := now }
    else if set = 0 then p.goDown now
    else { p with trainStep := 5, failed := failed, active := set, width := laneCount set, delay := info.delay, since := now }
  else p

/-- On entry to step 5 the port sends its node id, number and mode, where the module has a node id (10 R223). -/
theorem State.exchange_setPort (s : State) (k : BitVec 5) (q : Port) :
    (s.setPort k.toNat q).exchange k.toNat = { s.setPort k.toNat q with sent := s.sent ++
      (if s.fab.nodeSet = true ∧ q.st = .training ∧ q.trainStep = 5 then
        [.exchange k s.fab.node (decide (28 ≤ k.toNat) && !s.ret.auxMode)] else []) } := by
  simp only [exchange, getPort_setPort, setPort_fab, setPort_ret, BitVec.ofNat_toNat, BitVec.setWidth_eq]
  split
  · rfl
  · simp only [List.append_nil]
    rfl

section
variable {s : State} {k : BitVec 5}

theorem execTrainingStepDone_training (info : TrainInfo) (h : (s.getPort k.toNat).st = .training) :
    execTrainingStepDone k info s =
      .next ((s.setPort k.toNat ((s.getPort k.toNat).stepped info s.clk.now)).exchange k.toNat) := by
  simp only [execTrainingStepDone, h, ne_eq, not_true_eq_false, if_false, Port.stepped]
  split
  case h_1 one => simp only [one, if_true]
  case h_2 two => simp only [two, OfNat.ofNat_ne_one, if_false, if_true]
  case h_3 three => simp only [three, OfNat.ofNat_ne_one, Nat.reduceEqDiff, if_false, if_true]
  case h_4 four => simp only [four, OfNat.ofNat_ne_one, Nat.reduceEqDiff, if_false, if_true, Bool.not_eq_true']
  case h_5 one two three four => rw [if_neg one, if_neg two, if_neg three, if_neg four]

theorem execTrainingStepDone_idle (info : TrainInfo) (h : (s.getPort k.toNat).st ≠ .training) :
    execTrainingStepDone k info s = .next s := by
  rw [execTrainingStepDone, if_pos h]

theorem execTrainingStepTimeout_idle (h : (s.getPort k.toNat).st ≠ .training ∨
      s.clk.now < (s.getPort k.toNat).since + trainLimit (s.getPort k.toNat).trainStep) :
    execTrainingStepTimeout k s = .next s := by
  rw [execTrainingStepTimeout, if_pos h]

/-- A step past its limit sends the port DOWN; a code lock that fails with retained coefficients runs step 3. -/
theorem execTrainingStepTimeout_due (h : (s.getPort k.toNat).st = .training)
    (hdue : (s.getPort k.toNat).since + trainLimit (s.getPort k.toNat).trainStep ≤ s.clk.now) :
    let p := s.getPort k.toNat
    execTrainingStepTimeout k s = .next (s.setPort k.toNat (
      if p.trainStep = 4 ∧ p.cold = false then { p with trainStep := 3, cold := true, since := s.clk.now }
      else p.goDown s.clk.now)) := by
  simp only [execTrainingStepTimeout, h, ne_eq, not_true_eq_false, false_or, Nat.not_lt.mpr hdue, if_false, Bool.not_eq_true]
  split <;> rfl

/-! ### The peer exchange -/

theorem execPeerExchange_idle (node : NodeId) (pp : BitVec 5) (att dbl : Bool)
    (h : (s.getPort k.toNat).st ≠ .training ∨ (s.getPort k.toNat).trainStep ≠ 5) :
    execPeerExchange k node pp att dbl s = .next s := by
  rw [execPeerExchange, if_pos h]

/-- What the peer says is kept; the wiring is judged where the module has a node id, and waits where it has none. -/
theorem execPeerExchange_heard (node : NodeId) (pp : BitVec 5) (att dbl : Bool)
    (h : (s.getPort k.toNat).st = .training) (h5 : (s.getPort k.toNat).trainStep = 5) :
    let u := s.setPort k.toNat { s.getPort k.toNat with peerNode := node, peerPort := pp, attached := att, doubled := dbl }
    execPeerExchange k node pp att dbl s =
      .next (if s.fab.nodeSet then u.checkWiring k.toNat else u.modPort k.toNat fun p => { p with st := .held }) := by
  rw [execPeerExchange, if_neg (not_or.mpr ⟨not_not.mpr h, not_not.mpr h5⟩)]
  rfl

/-! ### Training again (log 67) -/

/-- An enabled port begins to train at step 1, cold unless its coefficients are retained; a disabled one stays out. -/
theorem State.openPort_eq (s : State) (k : Nat) : s.openPort k = s.modPort k fun p =>
    if p.enabled then ({ p.goDown s.clk.now with
        st := .training, trainStep := 1, cold := !p.trained, failed := if p.failed = 0xF then 0 else p.failed,
        trainings := satAdd 16 p.trainings 1 } : Port)
    else { p.goDown s.clk.now with st := .disabled } := by
  refine congrArg (s.modPort k) (funext fun p => ?_)
  cases p.enabled <;> rfl

theorem execTrainingRetry_due (h : (s.getPort k.toNat).st = .down)
    (hdue : (s.getPort k.toNat).since + 25000000 ≤ s.clk.now) :
    execTrainingRetry k s = .next (s.openPort k.toNat) := congrArg Host.Outcome.next (if_pos ⟨h, hdue⟩)

theorem execTrainingRetry_idle (h : (s.getPort k.toNat).st ≠ .down ∨ s.clk.now < (s.getPort k.toNat).since + 25000000) :
    execTrainingRetry k s = .next s :=
  congrArg Host.Outcome.next (if_neg (not_and_or.mpr (h.imp_right Nat.not_le.mpr)))

theorem execMiswiredRetry_due (h : (s.getPort k.toNat).st = .miswired)
    (hdue : (s.getPort k.toNat).since + 1500000000 ≤ s.clk.now) :
    execMiswiredRetry k s = .next (s.openPort k.toNat) := congrArg Host.Outcome.next (if_pos ⟨h, hdue⟩)

theorem execMiswiredRetry_idle (h : (s.getPort k.toNat).st ≠ .miswired ∨ s.clk.now < (s.getPort k.toNat).since + 1500000000) :
    execMiswiredRetry k s = .next s :=
  congrArg Host.Outcome.next (if_neg (not_and_or.mpr (h.imp_right Nat.not_le.mpr)))

end

/-- Settles O29: each of the four commands either meets its port in the state and at the time it asks for, or changes nothing.
That a miswired port trains again from step 1, and that retained coefficients then decide between cold and warm, is the
model's choice (log 67). -/
theorem portsTrainInSteps : Obligations.PortsTrainInSteps := by
  refine fun s k => ⟨fun info h => ?_, fun h hdue hnot => ?_, fun h hdue h4 hw => ?_, fun hearly => ?_, fun info h => ?_,
    fun node pp att dbl h h5 => ?_, fun node pp att dbl h => ?_, fun h hdue => ?_, fun h hdue => ?_, fun h => ?_, fun h => ?_⟩
  · exact (execTrainingStepDone_training info h).trans (congrArg Host.Outcome.next (s.exchange_setPort k _))
  · exact (execTrainingStepTimeout_due h hdue).trans (by rw [if_neg hnot])
  · have due : (s.getPort k.toNat).since + trainLimit (s.getPort k.toNat).trainStep ≤ s.clk.now := by rw [h4]; exact hdue
    exact (execTrainingStepTimeout_due h due).trans (by rw [if_pos ⟨h4, hw⟩])
  · exact execTrainingStepTimeout_idle (.inr hearly)
  · exact ⟨execTrainingStepDone_idle info h, execTrainingStepTimeout_idle (.inl h)⟩
  · have heard : exec (.peerExchange k node pp att dbl) s = _ := execPeerExchange_heard node pp att dbl h h5
    exact ⟨fun hn => heard.trans (by rw [if_neg (ne_true_of_eq_false hn)]),
      fun hn => heard.trans (by rw [if_pos hn]; rfl)⟩
  · exact execPeerExchange_idle node pp att dbl h
  · exact (execTrainingRetry_due h hdue).trans (congrArg Host.Outcome.next (s.openPort_eq k.toNat))
  · exact (execMiswiredRetry_due h hdue).trans (congrArg Host.Outcome.next (s.openPort_eq k.toNat))
  · exact execTrainingRetry_idle h
  · exact execMiswiredRetry_idle h

end Sys2Proof.Machine

namespace Sys2Proof.Machine

/-! # Dropped flits and narrowing (10 R217, R224, R225) -/

/-! ### A flit that is lost -/

/-- An update of any port that lets the packet in hand be lets it be on every port. -/
theorem State.partial_modPort (s : State) (j k : Nat) {f : Port → Port}
    (hf : ∀ x, (f x).partial_ = x.partial_ := by exact fun _ => rfl) :
    ((s.modPort j f).getPort k).partial_ = (s.getPort k).partial_ := by
  by_cases e : k = j
  · rw [e, getPort_modPort, hf]
  · rw [modPort, getPort_setPort_ne _ _ e]

/-- Nothing of a packet that is cut stays in the port's hand. -/
theorem State.cutPacket_partial (s : State) (k : Nat) : ((s.cutPacket k).getPort k).partial_ = none := by
  have emptied : ((s.modPort k fun x => { x with partial_ := none }).getPort k).partial_ = none := by rw [getPort_modPort]
  unfold cutPacket
  split
  case h_1 nothing => exact nothing
  case h_2 =>
    dsimp only
    split
    · exact (partial_modPort _ k k).trans emptied
    · rw [getPort_emit]
      split
      · exact (partial_modPort _ _ k).trans emptied
      · exact (partial_modPort _ _ k).trans emptied
      · exact emptied

theorem State.cutPacket_sent_of_short {s : State} {k : Nat} {bs : List Byte} (h : (s.getPort k).partial_ = some bs)
    (hn : bs.length < 32) : (s.cutPacket k).sent = s.sent := by
  simp only [cutPacket, h, hn, if_true]
  rfl

/-- A cut packet whose header has arrived is put out void. -/
theorem State.cutPacket_sent_of_header {s : State} {k : Nat} {bs : List Byte} (h : (s.getPort k).partial_ = some bs)
    (hn : 32 ≤ bs.length) : (s.cutPacket k).sent =
      s.sent ++ [.assembled (BitVec.ofNat 5 k) (Pkt.ofWire (takePad (16 * blocksNeeded bs) bs)) true] := by
  simp only [cutPacket, h, Nat.not_lt.mpr hn, if_false, emit_sent]
  split <;> rfl

section
variable {s : State} {k : BitVec 5}

/-! ### `FLIT_RECEIVE` -/

/-- A flit arrives: it is counted, and its lanes for the energy estimate. -/
def State.flitSeen (s : State) (k : Nat) : State :=
  (s.modPort k fun x => { x with flitsRx := x.flitsRx + 1 }).modPwr fun y =>
    { y with acts := smSet y.acts 6 (smGet 0 y.acts 6 + (s.getPort k).width) }

/-- A flit is dropped and counted, and cuts the packet in hand. -/
def State.flitDropped (s : State) (k : Nat) : State :=
  (s.modPort k fun x => { x with dropUnc := bump x.dropUnc }).flitLost k

theorem execFlitReceive_good {coded flit : List Byte} {fixed : List Nat} (h : (s.getPort k.toNat).st = .up)
    (hd : flitDecode coded = some (flit, fixed)) :
    execFlitReceive k coded s = .next ((s.flitSeen k.toNat).goodFlit k.toNat flit fixed) := by
  simp only [execFlitReceive, h, hd, reduceCtorEq, or_false, if_true, if_false]
  rfl

theorem execFlitReceive_bad {coded : List Byte} (h : (s.getPort k.toNat).st = .up) (hd : flitDecode coded = none) :
    execFlitReceive k coded s = .next ((s.flitSeen k.toNat).flitDropped k.toNat) := by
  simp only [execFlitReceive, h, hd, reduceCtorEq, or_false, if_true, if_false]
  rfl

theorem execFlitReceive_narrowing (coded : List Byte) (h : (s.getPort k.toNat).st = .narrowing) :
    execFlitReceive k coded s = .next ((s.flitSeen k.toNat).flitDropped k.toNat) := by
  simp only [execFlitReceive, h, or_true, if_true]
  rfl

theorem execFlitReceive_idle (coded : List Byte) (hu : (s.getPort k.toNat).st ≠ .up)
    (hn : (s.getPort k.toNat).st ≠ .narrowing) : execFlitReceive k coded s = .next s :=
  congrArg Host.Outcome.next (if_neg (not_or.mpr ⟨hu, hn⟩))

/-! ### Lanes that fail -/

theorem execLaneErrorWindow_due (h : (s.getPort k.toNat).winAt ≤ s.clk.now) : let p := s.getPort k.toNat
    execLaneErrorWindow k s = .next ((s.setPort k.toNat { p with laneWin := [], winAt := s.clk.now + 25000 }).failLanes k.toNat
      ((List.range 4).foldl (fun m l => if p.thr ≠ 0 ∧ p.thr ≤ smGet 0 p.laneWin l then m ||| (1 <<< l) else m) 0)) :=
  congrArg Host.Outcome.next (if_neg (Nat.not_lt.mpr h))

theorem execLaneErrorWindow_early (h : s.clk.now < (s.getPort k.toNat).winAt) : execLaneErrorWindow k s = .next s :=
  congrArg Host.Outcome.next (if_pos h)

/-- A port narrows to the set for its failed lanes, or goes DOWN and reports its width where it may run on none. -/
theorem State.narrow_setPort (s : State) (j : Nat) (p : Port) : let set := p.allowed (chooseLanes p.failed)
    (s.setPort j p).narrow j =
      if set = 0 then (s.setPort j (p.goDown s.clk.now)).widthChanged j
      else s.setPort j { p with st := .narrowing, target := set, since := s.clk.now,
                                narrowings := if p.st = .up then satAdd 16 p.narrowings 1 else p.narrowings } := by
  simp only [narrow, getPort_setPort, setPort_setPort, setPort_clk]

/-- An active lane of an UP port fails outside DEEP_IDLE: the port narrows for all its failed lanes, and counts it. -/
theorem State.failLanes_active (s : State) (j : Nat) {lanes : BitVec 4} (hup : (s.getPort j).st = .up)
    (hidle : s.pwr.deepIdle = false) (hact : (s.getPort j).active &&& lanes ≠ 0) :
    let p := s.getPort j
    let failed := p.failed ||| lanes
    let set := p.allowed (chooseLanes failed)
    s.failLanes j lanes =
      if set = 0 then (s.setPort j (({ p with failed := failed } : Port).goDown s.clk.now)).widthChanged j
      else s.setPort j { p with st := .narrowing, failed := failed, target := set, since := s.clk.now,
                                narrowings := satAdd 16 p.narrowings 1 } := by
  have hl : lanes ≠ 0 := fun h => hact (by rw [h]; exact BitVec.and_zero)
  have narrows : s.failLanes j lanes =
      (s.setPort j { s.getPort j with failed := (s.getPort j).failed ||| lanes }).narrow j := by
    simp only [failLanes, hup, hl, setPort_pwr, hidle, hact, ne_eq, not_true_eq_false, false_and, or_self,
      Bool.false_eq_true, if_false, if_true]
  rw [narrows, narrow_setPort]
  simp only [hup, if_true]
  rfl

/-! ### The end of the handshake -/

theorem execNarrowingHandshakeEnd_idle (lanes : BitVec 4)
    (h : (s.getPort k.toNat).st ≠ .narrowing ∨ s.clk.now < (s.getPort k.toNat).since + 1250) :
    execNarrowingHandshakeEnd k lanes s = .next s := congrArg Host.Outcome.next (if_pos h)

/-- The lanes that a port counts as failed when its handshake ends: a retest takes those that passed. -/
def Port.failedAfter (p : Port) (lanes : BitVec 4) : BitVec 4 := if p.retest then ~~~lanes else p.failed

/-- The set chosen from both ends' failed lanes; the end with the higher node id takes its peer's. -/
def Port.agreed (p : Port) (node : NodeId) (lanes : BitVec 4) : BitVec 4 :=
  p.allowed (if p.retest = true ∨ node ≤ p.peerNode then chooseLanes (p.failedAfter lanes ||| ~~~lanes) else lanes)

theorem execNarrowingHandshakeEnd_due (lanes : BitVec 4) (hst : (s.getPort k.toNat).st = .narrowing)
    (hdue : (s.getPort k.toNat).since + 1250 ≤ s.clk.now) : let p := s.getPort k.toNat
    let failed := p.failedAfter lanes
    let set := p.agreed s.fab.node lanes
    let u := s.setPort k.toNat { p with st := .up, failed := failed, active := set, width := laneCount set, retest := false }
    execNarrowingHandshakeEnd k lanes s = .next (
      if set = 0 then (s.setPort k.toNat (({ p with failed := failed } : Port).goDown s.clk.now)).widthChanged k.toNat
      else (if laneCount set = p.width then u else u.widthChanged k.toNat).settlePort k.toNat) :=
  congrArg Host.Outcome.next (if_neg (not_or.mpr ⟨not_not.mpr hst, Nat.not_lt.mpr hdue⟩))

theorem State.settlePort_awake (s : State) (j : Nat) (h : s.pwr.deepIdle = false) : s.settlePort j = s :=
  if_neg (ne_true_of_eq_false h)

theorem State.settlePort_deepIdle (s : State) (j : Nat) (h : s.pwr.deepIdle = true) : s.settlePort j = s.modPort j Port.idled :=
  if_pos h

end

/-- Settles O30: what a flit does on an UP, a NARROWING and another port, what it cuts when it is lost, how lanes fail, and
how a handshake ends. -/
theorem portsNarrowAndDropBadFlits : Obligations.PortsNarrowAndDropBadFlits := by
  refine ⟨fun s k coded => ⟨fun flit fixed hup hd => ?_, fun hup hd => ?_, fun hn => ?_, fun hu hn => ?_⟩,
    fun s k => ⟨?_, fun bs h hn => ?_⟩, fun s k bs h hn => ?_, fun s k lane => rfl,
    fun s k => ⟨fun h => ?_, fun h => ?_⟩, fun s k lanes => ?_,
    fun s k lanes => ⟨fun h => ?_, fun hst hdue hset => ?_, fun h => ?_, fun h => ?_, fun hst hdue hset => ?_⟩⟩
  · exact execFlitReceive_good hup hd
  · exact execFlitReceive_bad hup hd
  · exact execFlitReceive_narrowing coded hn
  · exact execFlitReceive_idle coded hu hn
  · exact State.cutPacket_partial _ k
  · exact State.cutPacket_sent_of_short ((s.partial_modPort k k).trans h) hn
  · exact State.cutPacket_sent_of_header ((s.partial_modPort k k).trans h) hn
  · exact execLaneErrorWindow_due h
  · exact execLaneErrorWindow_early h
  · intro p failed set hup hidle hact
    have narrows := s.failLanes_active k hup hidle hact
    refine ⟨fun hset => ?_, fun hset => narrows.trans (if_pos hset)⟩
    rw [narrows.trans (if_neg hset), State.getPort_setPort]
  · exact execNarrowingHandshakeEnd_idle lanes h
  · exact (execNarrowingHandshakeEnd_due lanes hst hdue).trans (congrArg Host.Outcome.next (if_neg hset))
  · exact s.settlePort_awake k.toNat h
  · exact s.settlePort_deepIdle k.toNat h
  · exact (execNarrowingHandshakeEnd_due lanes hst hdue).trans (congrArg Host.Outcome.next (if_pos hset))

end Sys2Proof.Machine

namespace Sys2Proof.Machine

/-! # The switch, its queues and fault injection (10 R216, R229 to R231, 11 R237 to R240, R248, R250) -/

/-! ### `PACKET_FORWARD` -/

section
variable {s : State} {port : Nat} {discard : Bool} {p : Pkt}

theorem State.forward_reserved (h : p.reserved = true) : s.forward port discard p = s.countBadHdr := by
  rw [forward, if_pos h]

theorem State.forward_stale (h : p.reserved = false) (hr : s.retired p.epoch = true) :
    s.forward port discard p = s.countStale := by
  rw [forward, if_neg (ne_true_of_eq_false h), if_pos hr]

theorem State.forward_fenced (h : p.reserved = false) (hr : s.retired p.epoch = false)
    (hf : (s.tab p.epoch).fenced p.src.toNat = true) : s.forward port discard p = s := by
  rw [forward, if_neg (ne_true_of_eq_false h), if_neg (ne_true_of_eq_false hr), if_pos hf]

section
variable (h : p.reserved = false) (hr : s.retired p.epoch = false) (hf : (s.tab p.epoch).fenced p.src.toNat = false)
include h hr hf

theorem State.forward_here {q : Pkt} (hq : s.routePkt p = .here q) : s.forward port discard p =
    if discard then s.modPort port fun x => { x with voidIn := bump x.voidIn } else s.emit (.local_ q) := by
  simp only [forward, h, hr, hf, hq, Bool.false_eq_true, if_false]

/-- A packet that is not for this module goes through the switch. -/
theorem State.forward_on (hq : ∀ q, s.routePkt p ≠ .here q) : s.forward port discard p = s.switch p discard 4 := by
  simp only [forward, h, hr, hf, Bool.false_eq_true, if_false]

end

theorem State.switch_out {fuel o : Nat} {q : Pkt} (h : s.routePkt p = .out o q) :
    s.switch p discard (fuel + 1) = s.enqueue o q discard := by
  simp only [switch, h]

end

/-! ### Transmit queues -/

/-- A queue whose packets have all been judged has none to judge at its head. -/
theorem State.atHead_of_seen (s : State) (port vc fuel : Nat) {l : List Queued} (h : smGet [] (s.getPort port).txq vc = l)
    (hs : (l.all fun y => y.seen) = true) : s.atHead port vc fuel = s := by
  cases fuel with
  | zero => rfl
  | succ fuel =>
    cases l with
    | nil => simp only [atHead, h]
    | cons q rest =>
      have seen : q.seen = true := (Bool.and_eq_true_iff.mp hs).1
      simp only [atHead, h, seen, if_true]

/-- A queue whose packets have all been judged is put in as it stands. -/
theorem State.setQueue_of_seen (s : State) (port vc : Nat) {l : List Queued} (hs : (l.all fun y => y.seen) = true) :
    s.setQueue port vc l = s.modPort port fun x => { x with txq := smSet x.txq vc l } :=
  atHead_of_seen _ port vc _ (by rw [getPort_modPort, smGet_smSet_same]) hs

theorem State.releaseHeld_of_none (s : State) (port vc : Nat) (f : HeldPkt → Bool) (h : ((s.getPort port).getFi vc).held = []) :
    s.releaseHeld port vc f = s := by
  simp only [releaseHeld, h, List.isEmpty_nil, if_true]

theorem State.releaseHeld_of_some (s : State) (port vc : Nat) (f : HeldPkt → Bool)
    (h : ((s.getPort port).getFi vc).held ≠ []) : s.releaseHeld port vc f =
      (s.modFi port vc fun x => { x with held := x.held.filter fun y => !f y }).setQueue port vc
        ((((s.getPort port).getFi vc).held.filter f).map (·.q) ++ smGet [] (s.getPort port).txq vc) := by
  simp only [releaseHeld, List.isEmpty_iff, h, if_false, putBack, modFi, getPort_modPort]
  rfl

/-- The head of a queue leaves where the port is up, the credits admit it and the lanes have room in the tick (log 90). -/
theorem execPacketAtQueueHead_leaves {s : State} {port : BitVec 5} {vc : BitVec 3} {q : Queued} {rest : List Queued}
    (hq : smGet [] (s.getPort port.toNat).txq vc.toNat = q :: rest) (hup : (s.getPort port.toNat).up = true)
    (hadm : (s.getPort port.toNat).admits vc.toNat q.pkt.blocks = true)
    (hroom : (s.getPort port.toNat).outBlks.length < 15 * (40 / flitNs (s.getPort port.toNat).width)) :
    execPacketAtQueueHead port vc s = .next ((s.setQueue port.toNat vc.toNat rest).depart port.toNat vc.toNat q) := by
  simp only [execPacketAtQueueHead, hq, hup, hadm, Nat.not_le.mpr hroom, Bool.not_true, decide_false, Bool.or_self,
    Bool.false_eq_true, if_false]

theorem Port.admits_of {x : Port} {vc : BitVec 3} {n : Nat}
    (h : vc = 6 ∨ (smGet 0 x.sentBlk vc.toNat - smGet 0 x.credits vc.toNat).toNat + n ≤ 512) : x.admits vc.toNat n = true := by
  rw [admits, Bool.or_eq_true, decide_eq_true_eq, decide_eq_true_eq]
  exact h.imp_left fun e => by rw [e]; rfl

/-- A port whose injection set holds nothing, once the packet has left one of its queues for the lanes. -/
def Port.departed (x : Port) (vc : Nat) (rest : List Queued) (q : Queued) : Port :=
  { x with txq := smSet x.txq vc rest, pktTx := smSet x.pktTx vc (smGet 0 x.pktTx vc + 1),
           sentBlk := smSet x.sentBlk vc (smGet 0 x.sentBlk vc + BitVec.ofNat 10 q.pkt.blocks), outBlks := x.outBlks ++ q.lay,
           fi := smSet x.fi vc (x.getFi vc) }

theorem FiSet.passed_of_none {f : FiSet} (h : f.held = []) (g : HeldPkt → HeldPkt) :
    { f with held := f.held.map g } = f := by
  rw [h, List.map_nil, ← h]

/-- Where nothing is held and the packets behind have all been judged, the head leaves the queue for the lanes and the port. -/
theorem State.depart_at_rest (s : State) (port : BitVec 5) (vc : BitVec 3) (q : Queued) {rest : List Queued}
    (hfi : ((s.getPort port.toNat).getFi vc.toNat).held = []) (hs : (rest.all fun y => y.seen) = true) :
    (s.setQueue port.toNat vc.toNat rest).depart port.toNat vc.toNat q =
      (s.setPort port.toNat ((s.getPort port.toNat).departed vc.toNat rest q)).emit (.packet port vc q.pkt q.discard) := by
  have kept : smMod .reset (s.getPort port.toNat).fi vc.toNat (fun f =>
      { f with held := f.held.map fun h => { h with passed := h.passed + 1 } }) =
      smSet (s.getPort port.toNat).fi vc.toNat ((s.getPort port.toNat).getFi vc.toNat) :=
    congrArg (smSet _ _) (FiSet.passed_of_none hfi _)
  simp only [depart, setQueue_of_seen s _ _ hs, modFi, modPort, getPort_setPort, setPort_setPort, kept]
  rw [releaseHeld_of_none]
  · simp only [BitVec.ofNat_toNat, BitVec.setWidth_eq]
    rfl
  · simp only [getPort_setPort, Port.getFi, smGet_smSet_same]
    exact hfi

section
variable {s : State} {port : BitVec 5} {vc : BitVec 3}

/-- The first packet that has waited 500 ticks is dropped and counted. -/
theorem execPacketQueueExpiry_old {q : Queued} {rest : List Queued}
    (h : takeFirst (fun q : Queued => decide (q.since + 500 ≤ s.clk.now))
      (smGet [] (s.getPort port.toNat).txq vc.toNat) = some (q, rest)) :
    execPacketQueueExpiry port vc s = .next (s.setQueue port.toNat vc.toNat rest).countExpired := by
  simp only [execPacketQueueExpiry, h]

/-- Where no packet of the queue is that old, a circuit queue may hold one (VC 6). -/
theorem execPacketQueueExpiry_none
    (h : takeFirst (fun q : Queued => decide (q.since + 500 ≤ s.clk.now))
      (smGet [] (s.getPort port.toNat).txq vc.toNat) = none) :
    execPacketQueueExpiry port vc s = .next (if vc = 6 then s.expireCircuit port.toNat else s) := by
  simp only [execPacketQueueExpiry, h]

end

/-! ### `FI_SCHEDULER_FIRE` -/

theorem FiSet.fire_start (f : FiSet) {now t : Nat} (h : t ≤ now) (h1 : f.startAt = some t) (h2 : f.stopAt = none) :
    f.fire now = { f with startAt := none, n := 0 } := by
  simp only [fire, h1, h, if_true, h2]

theorem FiSet.fire_stop (f : FiSet) {now t : Nat} (h : t ≤ now) (h2 : f.stopAt = some t) :
    f.fire now = { f with stopAt := none, startAt := none, n := (f.fire now).n, ctrl := f.ctrl &&& ~~~3 } := by
  unfold fire
  cases f.startAt with
  | none => simp only [h2, h, if_true]
  | some u => by_cases hu : u ≤ now <;> simp only [hu, h2, h, if_true, if_false]

/-- Settles O22: a packet that a port received meets one verdict of the switch; a queue's head leaves once it is admitted, and
with nothing held it leaves on the port; what is old is dropped or released; an injection event that is due takes effect. -/
theorem switchesQueueSendAndExpirePackets : Obligations.SwitchesQueueSendAndExpirePackets := by
  refine ⟨fun s port discard p => ?_, fun s port vc q rest => ?_,
    fun s port vc => ⟨fun q rest h => ?_, fun h => ?_⟩, fun s port vc => ?_, fun s => rfl,
    fun f now t ht => ⟨fun h1 h2 => ?_, fun h2 => ?_⟩⟩
  · intro u
    have forwards {t : State} (e : u.forward port.toNat discard p = t) : exec (.packetForward port discard p) s = .next t :=
      congrArg Host.Outcome.next e
    refine ⟨fun h => ?_, fun h hr => ?_, fun h hr => ⟨fun hf => ?_, fun hf => ⟨fun q hq => ?_, fun o q hq => ?_, fun hq => ?_⟩⟩⟩
    · exact forwards (State.forward_reserved h)
    · exact forwards (State.forward_stale h hr)
    · exact forwards (State.forward_fenced h hr hf)
    · exact forwards (State.forward_here (s := u) h hr hf hq)
    · have away (r : Pkt) (here : u.routePkt p = .here r) : False := Verdict.noConfusion (hq.symm.trans here)
      exact forwards ((State.forward_on (s := u) h hr hf away).trans (State.switch_out hq))
    · exact forwards (State.forward_on (s := u) h hr hf hq)
  · intro x hq hup hadm hroom
    have leaves := execPacketAtQueueHead_leaves hq hup (Port.admits_of hadm) hroom
    refine ⟨leaves, fun hfi hseen => ⟨_, leaves, ?_⟩⟩
    have nothing : ((s.getPort port.toNat).getFi vc.toNat).held = [] := congrArg FiSet.held hfi
    rw [s.depart_at_rest port vc q nothing hseen]
    refine ⟨rfl, ?_, ?_, ?_, rfl, rfl, rfl, rfl⟩ <;> rw [State.getPort_emit, State.getPort_setPort]
    · exact smGet_smSet_same ..
    · rfl
    · exact smGet_smSet_same ..
  · exact execPacketQueueExpiry_old h
  · exact execPacketQueueExpiry_none h
  · intro f old hheld
    exact congrArg Host.Outcome.next (s.releaseHeld_of_some port.toNat vc.toNat old hheld)
  · exact f.fire_start ht h1 h2
  · exact f.fire_stop ht h2

end Sys2Proof.Machine

namespace Sys2Proof.Machine

/-! # Packets that fail their check (11 R238) -/

theorem State.crcOk_bad (s : State) {p : Pkt} (f : State → State) (hc : p.crc ≠ p.check) :
    s.crcOk p f = s.modFab fun x => { x with crcBad := bump x.crcBad } := if_neg hc

/-- What arrives for this module goes through the check of its CRC before anything else. -/
theorem exec_checks_crc (s : State) (p : Pkt) : ∀ i ∈ [Instr.writeReceived p, .readReqReceived p, .notifyReceived p,
    .ackReceived p, .nackReceived p, .readRespReceived p, .detourReceived p, .circuitLostReceived p, .arriveReceived p,
    .releaseReceived p, .paceReceived p], ∃ f, exec i s = .next (s.crcOk p f) := by
  simp only [List.forall_mem_cons]
  exact ⟨⟨_, rfl⟩, ⟨_, rfl⟩, ⟨_, rfl⟩, ⟨_, rfl⟩, ⟨_, rfl⟩, ⟨_, rfl⟩, ⟨_, rfl⟩, ⟨_, rfl⟩, ⟨_, rfl⟩, ⟨_, rfl⟩, ⟨_, rfl⟩,
    fun _ h => absurd h List.not_mem_nil⟩

/-- Settles O20: every one of these arrivals is judged by its CRC first, and a bad one is only counted. -/
theorem packetsWithABadCrcAreDroppedAndCounted : Obligations.PacketsWithABadCrcAreDroppedAndCounted := by
  intro s p hc i hi
  obtain ⟨f, hf⟩ := exec_checks_crc s p i hi
  rw [hf, s.crcOk_bad f hc]

end Sys2Proof.Machine

namespace Sys2Proof.Machine

/-! # Circuits at a switch (11 R248 to R254) -/

/-! ### A position that arrives -/

/-- The parts of a position that are not from fenced sources (11 R250). -/
def State.unfenced (s : State) (d : CircuitData) : List CircPart :=
  d.parts.filter fun c => !(s.tab d.epoch).fenced c.pkt.src.toNat

/-- The packets that end in a position are counted in VC 6 of the port. -/
def State.countEnds (s : State) (port : Nat) (ps : List CircPart) : State :=
  s.modPort port fun x => { x with pktRx := smSet x.pktRx 6 (smGet 0 x.pktRx 6 + BitVec.ofNat 32 (ps.filter partEnds).length) }

/-- The packet of the part has made its ten hops (11 R239). -/
def partPast (c : CircPart) : Bool := decide (10 ≤ c.pkt.hops.toNat)

/-- The part, one hop further. -/
def partHop (c : CircPart) : CircPart := { c with pkt := { c.pkt with hops := c.pkt.hops + 1 } }

/-- The parts that go on from this switch. -/
def partsOn (ps : List CircPart) : List CircPart := (ps.filter fun c => !partPast c).map partHop

/-- The parts that have made their hops are counted as expired. -/
def State.countPast (s : State) (ps : List CircPart) : State :=
  s.modFab fun f => { f with expired := (ps.filter partPast).foldl (fun n _ => bump n) f.expired }

/-- A position goes on in OUT_POS of a port that is UP, and is lost at one that is not. -/
def State.forwardPosition (s : State) (out pos : Nat) (epoch : BitVec 1) (ps : List CircPart) : State :=
  if (s.getPort out).up then
    s.modPort out fun x => { x with circOut := smSet x.circOut pos (smGet [] x.circOut pos ++ [⟨epoch, ps, s.clk.now⟩]) }
  else s.positionLost out (ps.map (·.pkt))

theorem State.forwardPosition_up {s : State} {out : Nat} (pos : Nat) (epoch : BitVec 1) (ps : List CircPart)
    (h : (s.getPort out).up = true) : let t := s.forwardPosition out pos epoch ps
    smGet [] (t.getPort out).circOut pos = smGet [] (s.getPort out).circOut pos ++ [⟨epoch, ps, s.clk.now⟩] ∧
      t.fab = s.fab ∧ t.mem = s.mem ∧ t.isl = s.isl ∧ t.sent = s.sent := by
  rw [forwardPosition, if_pos h]
  refine ⟨?_, rfl, rfl, rfl, rfl⟩
  rw [getPort_modPort, smGet_smSet_same]

theorem State.forwardPosition_down {s : State} {out : Nat} (pos : Nat) (epoch : BitVec 1) (ps : List CircPart)
    (h : (s.getPort out).up = false) : s.forwardPosition out pos epoch ps =
      ps.foldl (fun s c => s.circuitLost out c.pkt) s.countCircDrop := by
  rw [forwardPosition, if_neg (ne_true_of_eq_false h), positionLost, List.foldl_map]

theorem State.countPast_nil (s : State) {ps : List CircPart} (h : ps.filter partPast = []) : s.countPast ps = s := by
  simp only [countPast, h, List.foldl_nil]
  rfl

theorem State.countPast_cons_past (s : State) {c : CircPart} (ps : List CircPart) (h : partPast c = true) :
    s.countPast (c :: ps) = s.countExpired.countPast ps := by
  simp only [countPast, List.filter_cons, h, if_true, List.foldl_cons]
  rfl

theorem State.countPast_cons_live (s : State) {c : CircPart} (ps : List CircPart) (h : partPast c = false) :
    s.countPast (c :: ps) = s.countPast ps := by
  simp only [countPast, List.filter_cons, h, Bool.false_eq_true, if_false]

/-- Parts with hops left go one hop further; each of the others is counted. -/
theorem State.circOnward_eq (s : State) (ps : List CircPart) :
    s.circOnward ps = (s.countPast ps, partsOn ps) := by
  suffices h : ∀ (u : State) (l : List CircPart), ps.foldl (fun (r : State × List CircPart) c =>
      if 10 ≤ c.pkt.hops.toNat then (r.1.countExpired, r.2) else (r.1, r.2 ++ [partHop c])) (u, l) =
      (u.countPast ps, l ++ partsOn ps) from h s []
  induction ps with
  | nil =>
    intro u l
    rw [u.countPast_nil rfl, partsOn, List.filter_nil, List.map_nil, List.append_nil, List.foldl_nil]
  | cons c ps ih =>
    intro u l
    rw [List.foldl_cons]
    by_cases hc : 10 ≤ c.pkt.hops.toNat
    · have past : partPast c = true := decide_eq_true hc
      rw [if_pos hc, ih, u.countPast_cons_past ps past]
      simp [partsOn, past]
    · have past : partPast c = false := decide_eq_false hc
      rw [if_neg hc, ih, u.countPast_cons_live ps past]
      simp [partsOn, past]

/-- A part that is a whole packet for this module is delivered. -/
theorem State.circArrive_whole (s : State) (port : Nat) {c : CircPart}
    (h : c.first = 0 ∧ partEnds c = true ∧ c.pkt.dstAtt = 0) : let t := s.circArrive port c
    t.sent = s.sent ++ [.local_ c.pkt] ∧ t.mem = s.mem ∧ t.isl = s.isl ∧ t.fab = s.fab := by
  obtain ⟨hfirst, hends, hatt⟩ := h
  simp only [circArrive, hfirst, if_true, hends, hatt, Bool.not_true, Bool.false_eq_true, if_false]
  exact ⟨rfl, rfl, rfl, rfl⟩

/-- Parts that are whole packets for this module are delivered in order. -/
theorem State.foldl_circArrive_whole (port : Nat) (ps : List CircPart)
    (h : ∀ c ∈ ps, c.first = 0 ∧ partEnds c = true ∧ c.pkt.dstAtt = 0) (s : State) :
    let t := ps.foldl (fun s c => s.circArrive port c) s
    t.sent = s.sent ++ ps.map (fun c => .local_ c.pkt) ∧ t.mem = s.mem ∧ t.isl = s.isl ∧ t.fab = s.fab := by
  induction ps generalizing s with
  | nil => exact ⟨(List.append_nil _).symm, rfl, rfl, rfl⟩
  | cons c ps ih =>
    obtain ⟨hc, hps⟩ := List.forall_mem_cons.mp h
    obtain ⟨sent, mem, isl, fab⟩ := s.circArrive_whole port hc
    obtain ⟨hsent, hmem, hisl, hfab⟩ := ih hps (s.circArrive port c)
    refine ⟨hsent.trans ?_, hmem.trans mem, hisl.trans isl, hfab.trans fab⟩
    rw [sent, List.map_cons, List.append_assoc, List.singleton_append]

theorem State.up_countEnds (s : State) (port : Nat) (ps : List CircPart) (k : Nat) :
    ((s.countEnds port ps).getPort k).up = (s.getPort k).up := by
  by_cases h : k = port
  · rw [h, countEnds, getPort_modPort]
    rfl
  · rw [countEnds, modPort, getPort_setPort_ne _ _ h]

theorem State.circOut_countEnds (s : State) (port : Nat) (ps : List CircPart) (k : Nat) :
    ((s.countEnds port ps).getPort k).circOut = (s.getPort k).circOut := by
  by_cases h : k = port
  · rw [h, countEnds, getPort_modPort]
  · rw [countEnds, modPort, getPort_setPort_ne _ _ h]

section
variable {s : State} {port : BitVec 5} {d : CircuitData}

theorem execCircuitPositionReceive_down (h : (s.getPort port.toNat).up = false) :
    execCircuitPositionReceive port d s = .next s := by
  simp only [execCircuitPositionReceive, h, Bool.not_false, if_true]

variable (hup : (s.getPort port.toNat).up = true)
include hup

theorem execCircuitPositionReceive_stale (h : s.retired d.epoch = true) :
    execCircuitPositionReceive port d s = .next s.countStale := by
  simp only [execCircuitPositionReceive, hup, h, Bool.not_true, Bool.false_eq_true, if_false, if_true]

variable (hr : s.retired d.epoch = false)
include hr

/-- A position of a live version is delivered, queued onward or discarded as its CIN entry says. -/
theorem execCircuitPositionReceive_live :
    let e := (s.tab d.epoch).cinOf port.toNat d.pos.toNat
    let ps := s.unfenced d
    let u := s.countEnds port.toNat ps
    execCircuitPositionReceive port d s = .next (
      if e.getLsbD 15 = false then u.countCircDrop
      else if e.getLsbD 14 = true then ps.foldl (fun s c => s.circArrive port.toNat c) u
      else (u.countPast ps).forwardPosition (e.extractLsb' 9 5).toNat (e.extractLsb' 1 8).toNat d.epoch
        (partsOn ps)) := by
  simp only [execCircuitPositionReceive, hup, hr, Bool.not_true, Bool.false_eq_true, if_false, Bool.not_eq_true',
    State.circOnward_eq]
  rfl

variable (h15 : ((s.tab d.epoch).cinOf port.toNat d.pos.toNat).getLsbD 15 = true)
include h15

/-- The circuit ends here. -/
theorem execCircuitPositionReceive_ends (h14 : ((s.tab d.epoch).cinOf port.toNat d.pos.toNat).getLsbD 14 = true) :
    execCircuitPositionReceive port d s =
      .next ((s.unfenced d).foldl (fun s c => s.circArrive port.toNat c) (s.countEnds port.toNat (s.unfenced d))) := by
  rw [execCircuitPositionReceive_live hup hr, if_neg (ne_false_of_eq_true h15), if_pos h14]

/-- The circuit goes on by another port. -/
theorem execCircuitPositionReceive_onward (h14 : ((s.tab d.epoch).cinOf port.toNat d.pos.toNat).getLsbD 14 = false) :
    let e := (s.tab d.epoch).cinOf port.toNat d.pos.toNat
    let ps := s.unfenced d
    execCircuitPositionReceive port d s = .next (((s.countEnds port.toNat ps).countPast ps).forwardPosition
      (e.extractLsb' 9 5).toNat (e.extractLsb' 1 8).toNat d.epoch (partsOn ps)) := by
  rw [execCircuitPositionReceive_live hup hr, if_neg (ne_false_of_eq_true h15), if_neg (ne_true_of_eq_false h14)]

/-- The circuit goes on by a port that is not UP, and no packet has made its hops. -/
theorem execCircuitPositionReceive_lost (h14 : ((s.tab d.epoch).cinOf port.toNat d.pos.toNat).getLsbD 14 = false)
    (hpast : (s.unfenced d).filter partPast = []) :
    let out := (((s.tab d.epoch).cinOf port.toNat d.pos.toNat).extractLsb' 9 5).toNat
    (s.getPort out).up = false → execCircuitPositionReceive port d s = .next
      ((partsOn (s.unfenced d)).foldl (fun s c => s.circuitLost out c.pkt)
        (s.countEnds port.toNat (s.unfenced d)).countCircDrop) := by
  intro out hout
  rw [execCircuitPositionReceive_onward hup hr h15 h14, State.countPast_nil _ hpast, State.forwardPosition_down]
  exact (s.up_countEnds ..).trans hout

end

/-! ### A circuit that has lost its link -/

theorem State.circuitLost_told {s : State} {port : Nat} {p : Pkt}
    (h : s.fab.lostSent.contains (p.src.toNat * 256 + p.aux.toNat) = true) : s.circuitLost port p = s := if_pos h

theorem State.circuitLost_own {s : State} {port : Nat} {p : Pkt}
    (h : s.fab.lostSent.contains (p.src.toNat * 256 + p.aux.toNat) = false) (hp : p.src = s.fab.node) :
    s.circuitLost port p = s.modFab fun f =>
      { f with lostSent := (p.src.toNat * 256 + p.aux.toNat) :: f.lostSent, fallback := f.fallback.insert p.aux.toNat } :=
  (if_neg (ne_true_of_eq_false h)).trans (if_pos hp)

theorem execCircuitLostReceived_good (s : State) {p : Pkt} (hc : p.crc = p.check) (h : p.aux.toNat < 256) :
    execCircuitLostReceived p s = .next (s.modFab fun f => { f with fallback := f.fallback.insert p.aux.toNat }) :=
  congrArg Host.Outcome.next ((s.crcOk_good _ hc).trans (if_pos h))

/-! ### A position that leaves -/

/-- A position begins at the multiples of its 16 ns within a superframe, and in the tick at hand (11 R251). -/
theorem State.slotTime_some {s : State} {pos : Byte} {t : Nat} (h : s.slotTime pos = some t) :
    t % 4096 = 16 * pos.toNat ∧ s.fab.time.toNat ≤ t ∧ t < s.fab.time.toNat + 40 := by
  have bound := pos.isLt
  rw [slotTime, Option.ite_none_right_eq_some] at h
  obtain ⟨hlt, heq⟩ := h
  simp only [Option.some.injEq] at heq
  omega

/-- What the flits of a position leave as it is: memory, islands, the fabric block and the port's positions. -/
def State.besides (s : State) (port : Nat) : Mem × SMap Island × Fabric × SMap Nat × SMap (List CircPay) :=
  (s.mem, s.isl, s.fab, (s.getPort port).circAt, (s.getPort port).circOut)

theorem State.besides_sendFlit (s : State) (port kind : Nat) (body rest : List OutBlk) :
    (s.sendFlit port kind body rest).besides port = s.besides port := by
  have port_kept (f : Port → Port) (g : Power → Power) (o : Sent) :
      (((s.modPort port f).modPwr g).emit o).getPort port = f (s.getPort port) := s.getPort_modPort port f
  simp only [besides, sendFlit, port_kept]
  rfl

/-- Each flit is one output. -/
theorem State.foldl_sendFlit (port kind : Nat) (body : Nat → List OutBlk) (l : List Nat) (s : State) :
    ∃ fl, (l.foldl (fun s k => s.sendFlit port kind (body k) []) s).sent = s.sent ++ fl ∧ fl.length = l.length := by
  induction l generalizing s with
  | nil => exact ⟨[], (List.append_nil _).symm, rfl⟩
  | cons k l ih =>
    obtain ⟨fl, hsent, hlen⟩ := ih (s.sendFlit port kind (body k) [])
    refine ⟨.flit (BitVec.ofNat 5 port) ((s.getPort port).flitOf kind (body k) []) :: fl, ?_, congrArg (· + 1) hlen⟩
    rw [List.foldl_cons, hsent, List.append_cons]
    rfl

theorem State.sendPosition_besides (s : State) (port : Nat) (pos : Byte) (epoch : BitVec 1) (l : List CircSeg) :
    (s.sendPosition port pos epoch l).besides port = s.besides port := by
  refine (foldl_keeps (fun u : State => u.besides port) (fun u k => u.besides_sendFlit ..) _ _).trans ?_
  simp only [besides, getPort_modPort]
  rfl

/-- The flits of 16 ns leave, then the position with its parts. -/
theorem State.sendPosition_sent (s : State) (port : Nat) (pos : Byte) (epoch : BitVec 1) (l : List CircSeg) :
    ∃ fl, (s.sendPosition port pos epoch l).sent =
        s.sent ++ fl ++ [.circuit (BitVec.ofNat 5 port) ⟨pos, epoch, l.map CircSeg.part⟩] ∧
      fl.length = 16 / flitNs (s.getPort port).width := by
  let blocks := slotTag pos epoch :: l.flatMap CircSeg.blocks
  obtain ⟨fl, hsent, hlen⟩ := foldl_sendFlit port 2 (fun k => (blocks.drop (15 * k)).take 15)
    (List.range (16 / flitNs (s.getPort port).width)) (s.modPort port fun x =>
      { x with circNs := x.circNs + 16,
               pktTx := smSet x.pktTx 6 (smGet 0 x.pktTx 6 + BitVec.ofNat 32 ((l.map CircSeg.part).filter partEnds).length) })
  rw [List.length_range] at hlen
  exact ⟨fl, congrArg (· ++ _) hsent, hlen⟩

/-- In `u`, a position of a port of `s` has begun in the superframe of time `at_`, and nothing of it has left. -/
structure State.Begun (s u : State) (port : Nat) (pos : Byte) (at_ : Nat) : Prop where
  sent : u.sent = s.sent
  mem : u.mem = s.mem
  isl : u.isl = s.isl
  up : (u.getPort port).up = (s.getPort port).up
  width : (u.getPort port).width = (s.getPort port).width
  circAt : smGet 0 (u.getPort port).circAt pos.toNat = at_ / 4096 + 1

/-- From `s` to `t` a position has left with its flits and the parts it carries. -/
def State.PositionLeft (s t : State) (port : BitVec 5) (pos : Byte) (at_ : Nat) (e : BitVec 1) (ps : List CircPart) : Prop :=
  (∃ fl, t.sent = s.sent ++ fl ++ [.circuit port ⟨pos, e, ps⟩] ∧ fl.length = 16 / flitNs (s.getPort port.toNat).width) ∧
    smGet 0 (t.getPort port.toNat).circAt pos.toNat = at_ / 4096 + 1 ∧ t.mem = s.mem ∧ t.isl = s.isl

/-- Data of a position that has begun leave on a port that is UP. -/
theorem State.Begun.leaves {s u : State} {port : BitVec 5} {pos : Byte} {at_ : Nat} (h : s.Begun u port.toNat pos at_)
    (hup : (s.getPort port.toNat).up = true) (e : BitVec 1) {l : List CircSeg} (hl : l ≠ []) :
    let t := u.dispatchPosition port.toNat pos e l
    s.PositionLeft t port pos at_ e (l.map CircSeg.part) ∧ t.fab = u.fab ∧
      (t.getPort port.toNat).circOut = (u.getPort port.toNat).circOut := by
  have sends : u.dispatchPosition port.toNat pos e l = u.sendPosition port.toNat pos e l := by
    rw [dispatchPosition, if_neg (by simpa using hl), if_pos (h.up.trans hup)]
  obtain ⟨fl, hsent, hlen⟩ := u.sendPosition_sent port.toNat pos e l
  obtain ⟨hmem, hisl, hfab, hat, hout⟩ : _ ∧ _ ∧ _ ∧ _ ∧ _ := by
    simpa only [besides, Prod.mk.injEq] using u.sendPosition_besides port.toNat pos e l
  rw [h.sent, BitVec.ofNat_toNat, BitVec.setWidth_eq] at hsent
  rw [h.width] at hlen
  rw [sends]
  exact ⟨⟨⟨fl, hsent, hlen⟩, by rw [hat, h.circAt], hmem.trans h.mem, hisl.trans h.isl⟩, hfab, hout⟩

/-- A position begins in the superframe of time `at_`. -/
def State.beginPosition (s : State) (port : Nat) (pos : Byte) (at_ : Nat) : State :=
  s.modPort port fun x => { x with circAt := smSet x.circAt pos.toNat (at_ / 4096 + 1) }

theorem State.begun_beginPosition (s : State) (port : Nat) (pos : Byte) (at_ : Nat) :
    s.Begun (s.beginPosition port pos at_) port pos at_ := by
  refine ⟨rfl, rfl, rfl, ?_, ?_, ?_⟩ <;> simp only [beginPosition, getPort_modPort, smGet_smSet_same, Port.up]

/-- What changes only the fabric block leaves a position as begun. -/
theorem State.Begun.modFab {s u : State} {port : Nat} {pos : Byte} {at_ : Nat} (h : s.Begun u port pos at_)
    (f : Fabric → Fabric) : s.Begun (u.modFab f) port pos at_ := ⟨h.sent, h.mem, h.isl, h.up, h.width, h.circAt⟩

/-- What changes the port, but neither its state, its width nor the mark of the position, leaves it as begun. -/
theorem State.Begun.modPort {s u : State} {port : Nat} {pos : Byte} {at_ : Nat} (h : s.Begun u port pos at_)
    {f : Port → Port} (hf : ∀ x, (f x).st = x.st ∧ (f x).width = x.width ∧ (f x).circAt = x.circAt) :
    s.Begun (u.modPort port f) port pos at_ := by
  obtain ⟨hst, hwidth, hat⟩ := hf (u.getPort port)
  refine ⟨h.sent, h.mem, h.isl, ?_, ?_, ?_⟩ <;> rw [getPort_modPort]
  · rw [Port.up, hst]
    exact h.up
  · rw [hwidth, h.width]
  · rw [hat, h.circAt]

/-! ### Data in transit -/

/-- The injection set of a virtual channel stands in the port's map, as it is. -/
def State.touchFi (s : State) (port vc : Nat) : State := s.modFi port vc fun f => f

/-- A set that is not on lets the packet go on. -/
theorem State.judge_off {s : State} {port vc : Nat} (q : Queued) (h : ((s.getPort port).getFi vc).on = false) :
    s.judge port vc q = (s.touchFi port vc, some { q with seen := true }) := by
  have unhit : ((s.getPort port).getFi vc).selects s.fab.fiKey port vc = false := by simp only [FiSet.selects, h, Bool.false_and]
  simp only [judge, unhit, Bool.false_and, Bool.not_false, Bool.false_eq_true, if_true, if_false]
  rw [Port.getFi] at h
  simp only [touchFi, modFi, modPort, smMod, h, Bool.false_eq_true, if_false]

/-- One part of a position in transit, at tick `now`. -/
def State.transitStep (port now : Nat) (r : State × List CircSeg) (c : CircPart) : State × List CircSeg :=
  let q : Queued := ⟨c.pkt, now, false, false, none, none⟩
  if c.first ≠ 0 then (r.1, r.2 ++ [⟨q, c.first, c.count⟩])
  else match r.1.judge port 6 q with
    | (s, some q) => (s, r.2 ++ [⟨q, 0, c.count⟩])
    | (s, none) => (s, r.2)

theorem State.transitSegs_eq (s : State) (port : Nat) (ps : List CircPart) :
    s.transitSegs port ps = ps.foldl (transitStep port s.clk.now) (s, []) := rfl

theorem State.Begun.touchFi {s u : State} {port : Nat} {pos : Byte} {at_ vc : Nat} (h : s.Begun u port pos at_) :
    s.Begun (u.touchFi port vc) port pos at_ :=
  h.modPort (f := fun x => { x with fi := smMod .reset x.fi vc fun f => f }) fun _ => ⟨rfl, rfl, rfl⟩

theorem State.touchFi_touchFi (s : State) (port vc : Nat) : (s.touchFi port vc).touchFi port vc = s.touchFi port vc := by
  simp only [touchFi, modFi, modPort, getPort_setPort, setPort_setPort, smMod, smSet_smSet, smGet_smSet_same]

theorem State.getFi_touchFi (s : State) (port vc : Nat) :
    ((s.touchFi port vc).getPort port).getFi vc = (s.getPort port).getFi vc := by
  simp only [touchFi, modFi, getPort_modPort, Port.getFi, smMod_get]

/-- With the set of VC 6 at rest every part goes on as it came. -/
theorem State.transitStep_off (now : Nat) {port : Nat} {u : State} (l : List CircSeg) (c : CircPart)
    (h : ((u.getPort port).getFi 6).on = false) :
    ∃ g : CircSeg, g.part = c ∧ (transitStep port now (u, l) c = (u, l ++ [g]) ∨
      transitStep port now (u, l) c = (u.touchFi port 6, l ++ [g])) := by
  by_cases hc : c.first = 0
  · refine ⟨⟨⟨c.pkt, now, false, true, none, none⟩, 0, c.count⟩, by rw [← hc]; rfl, .inr ?_⟩
    simp only [transitStep, hc, ne_eq, not_true_eq_false, if_false, judge_off _ h]
  · exact ⟨⟨⟨c.pkt, now, false, false, none, none⟩, c.first, c.count⟩, rfl, .inl (if_pos hc)⟩

theorem State.foldl_transitStep_off (port now : Nat) (ps : List CircPart) (u : State) (l : List CircSeg)
    (h : ((u.getPort port).getFi 6).on = false) : ∃ t gs, ps.foldl (transitStep port now) (u, l) = (t, l ++ gs) ∧
      (t = u ∨ t = u.touchFi port 6) ∧ gs.map CircSeg.part = ps := by
  induction ps generalizing u l with
  | nil => exact ⟨u, [], by rw [List.append_nil]; rfl, .inl rfl, rfl⟩
  | cons c ps ih =>
    obtain ⟨g, hg, hstep⟩ := transitStep_off now l c h
    rw [List.foldl_cons]
    rcases hstep with hstep | hstep <;> rw [hstep]
    · obtain ⟨t, gs, hfold, ht, hgs⟩ := ih u (l ++ [g]) h
      exact ⟨t, g :: gs, by rw [hfold, List.append_assoc]; rfl, ht, by rw [List.map_cons, hg, hgs]⟩
    · obtain ⟨t, gs, hfold, ht, hgs⟩ := ih (u.touchFi port 6) (l ++ [g]) (by rwa [getFi_touchFi])
      rw [touchFi_touchFi, or_self] at ht
      exact ⟨t, g :: gs, by rw [hfold, List.append_assoc]; rfl, .inr ht, by rw [List.map_cons, hg, hgs]⟩

/-- With the set of VC 6 at rest the position holds the parts as they came. -/
theorem State.transitSegs_off {s : State} {port : Nat} (ps : List CircPart) (h : ((s.getPort port).getFi 6).on = false) :
    ((s.transitSegs port ps).1 = s ∨ (s.transitSegs port ps).1 = s.touchFi port 6) ∧
      (s.transitSegs port ps).2.map CircSeg.part = ps := by
  obtain ⟨t, gs, hfold, ht, hgs⟩ := foldl_transitStep_off port s.clk.now ps s [] h
  rw [transitSegs_eq, hfold]
  exact ⟨ht, hgs⟩

/-! ### Packets of a circuit that begins here -/

/-- Circuit k holds these packets, with so many blocks of the first sent. -/
def Fabric.onCircuit (f : Fabric) (k : Nat) (l : List Queued) (part : Nat) : Fabric :=
  { f with circQ := smSet f.circQ k l, circPart := smSet f.circPart k part }

section
variable {s : State} {port k n : Nat} {q : Queued} (fuel : Nat)

/-- The only packet fits the position: it leaves the queue. -/
theorem State.fillPosition_last (hq : smGet [] s.fab.circQ k = [q]) (hs : q.seen = true) (hn : n ≠ 0)
    (h : q.pkt.blocks - smGet 0 s.fab.circPart k ≤ n) : s.fillPosition port k n (fuel + 2) =
      (s.modFab fun f => f.onCircuit k [] 0,
        [⟨q, smGet 0 s.fab.circPart k, q.pkt.blocks - smGet 0 s.fab.circPart k⟩]) := by
  have none_left : smGet [] (s.modFab fun f => f.onCircuit k [] 0).fab.circQ k = [] := smGet_smSet_same ..
  rw [fillPosition]
  simp only [hq, hn, hs, h, if_true, if_false]
  rw [fillPosition]
  simp only [Fabric.onCircuit] at none_left ⊢
  simp only [none_left]

/-- The packet is longer than the position: its next blocks leave. -/
theorem State.fillPosition_long {rest : List Queued} (hq : smGet [] s.fab.circQ k = q :: rest) (hs : q.seen = true) (hn : n ≠ 0)
    (h : n < q.pkt.blocks - smGet 0 s.fab.circPart k) : s.fillPosition port k n (fuel + 1) =
      (s.modFab fun f => f.onCircuit k (q :: rest) (smGet 0 s.fab.circPart k + n), [⟨q, smGet 0 s.fab.circPart k, n⟩]) := by
  rw [fillPosition]
  simp only [hq, hn, hs, Nat.not_le.mpr h, if_true, if_false]
  rfl

end

theorem circBlocks_ne_zero (width : Nat) : circBlocks width ≠ 0 := by
  rw [circBlocks]
  split_ifs <;> decide

/-! ### `CIRCUIT_POSITION_SEND` -/

section
variable {s : State} {port : BitVec 5} {pos : Byte}

theorem execCircuitPositionSend_outside (h : s.slotTime pos = none) : execCircuitPositionSend port pos s = .next s := by
  simp only [execCircuitPositionSend, h]

variable {at_ : Nat} (h : s.slotTime pos = some at_)
include h

theorem execCircuitPositionSend_again (hx : smGet 0 (s.getPort port.toNat).circAt pos.toNat = at_ / 4096 + 1) :
    execCircuitPositionSend port pos s = .next s := by
  simp only [execCircuitPositionSend, h, hx, if_true]

variable (hx : smGet 0 (s.getPort port.toNat).circAt pos.toNat ≠ at_ / 4096 + 1)
include hx

/-- Data in transit wait for the position. -/
theorem execCircuitPositionSend_transit {y : CircPay} {rest : List CircPay}
    (hq : smGet [] (s.getPort port.toNat).circOut pos.toNat = y :: rest) (hr : s.retired y.epoch = false) :
    let u := (s.beginPosition port.toNat pos at_).modPort port.toNat fun x => { x with circOut := smSet x.circOut pos.toNat rest }
    execCircuitPositionSend port pos s = .next
      ((u.transitSegs port.toNat y.parts).1.dispatchPosition port.toNat pos y.epoch (u.transitSegs port.toNat y.parts).2) := by
  simp only [execCircuitPositionSend, h, hx, if_false, hq]
  exact congrArg Host.Outcome.next (if_neg (ne_true_of_eq_false hr))

/-- Data in transit leave as they came, with their own tag. -/
theorem positionLeaves_transit {y : CircPay} {rest : List CircPay}
    (hq : smGet [] (s.getPort port.toNat).circOut pos.toNat = y :: rest) (hr : s.retired y.epoch = false) (hy : y.parts ≠ [])
    (hup : (s.getPort port.toNat).up = true) (hfi : ((s.getPort port.toNat).getFi 6).on = false) :
    ∃ t, execCircuitPositionSend port pos s = .next t ∧ s.PositionLeft t port pos at_ y.epoch y.parts ∧
      smGet [] (t.getPort port.toNat).circOut pos.toNat = rest := by
  let u := (s.beginPosition port.toNat pos at_).modPort port.toNat fun x => { x with circOut := smSet x.circOut pos.toNat rest }
  have begun : s.Begun u port.toNat pos at_ := (s.begun_beginPosition ..).modPort fun x => ⟨rfl, rfl, rfl⟩
  have waits : smGet [] (u.getPort port.toNat).circOut pos.toNat = rest := by
    rw [State.getPort_modPort, smGet_smSet_same]
  have off : ((u.getPort port.toNat).getFi 6).on = false := by
    rw [State.getPort_modPort, State.beginPosition, State.getPort_modPort]
    exact hfi
  obtain ⟨hstate, hparts⟩ := State.transitSegs_off y.parts off
  obtain ⟨begun', kept⟩ : s.Begun (u.transitSegs port.toNat y.parts).1 port.toNat pos at_ ∧
      ((u.transitSegs port.toNat y.parts).1.getPort port.toNat).circOut = (u.getPort port.toNat).circOut := by
    rcases hstate with e | e <;> rw [e]
    · exact ⟨begun, rfl⟩
    · exact ⟨begun.touchFi, by rw [State.touchFi, State.modFi, State.getPort_modPort]⟩
  have some_part : (u.transitSegs port.toNat y.parts).2 ≠ [] := fun e => hy (by rw [← hparts, e, List.map_nil])
  obtain ⟨hleft, -, hout⟩ := begun'.leaves hup y.epoch some_part
  rw [hparts] at hleft
  exact ⟨_, execCircuitPositionSend_transit h hx hq hr, hleft, by rw [hout, kept, waits]⟩

/-- No data wait, and no circuit that begins here holds the position. -/
theorem execCircuitPositionSend_unused (hq : smGet [] (s.getPort port.toNat).circOut pos.toNat = [])
    (hc : (s.tab (s.epochAt at_)).circuitAt port.toNat pos.toNat = none) :
    execCircuitPositionSend port pos s = .next (s.beginPosition port.toNat pos at_) := by
  have unheld : ((s.beginPosition port.toNat pos at_).tab ((s.beginPosition port.toNat pos at_).epochAt at_)).circuitAt
    port.toNat pos.toNat = none := hc
  simp only [State.beginPosition] at unheld ⊢
  simp only [execCircuitPositionSend, h, hx, if_false, hq, unheld]

/-- No data wait, and circuit k begins here and holds the position. -/
theorem execCircuitPositionSend_source {k : Nat} (hq : smGet [] (s.getPort port.toNat).circOut pos.toNat = [])
    (hc : (s.tab (s.epochAt at_)).circuitAt port.toNat pos.toNat = some k) :
    let r := (s.beginPosition port.toNat pos at_).fillPosition port.toNat k (circBlocks (s.getPort port.toNat).width) 64
    execCircuitPositionSend port pos s = .next (r.1.dispatchPosition port.toNat pos (r.1.epochAt at_) r.2) := by
  have held : ((s.beginPosition port.toNat pos at_).tab ((s.beginPosition port.toNat pos at_).epochAt at_)).circuitAt
    port.toNat pos.toNat = some k := hc
  simp only [State.beginPosition] at held ⊢
  simp only [execCircuitPositionSend, h, hx, if_false, hq, held]

/-- What the circuit puts into the position leaves; the rest of its packets waits. -/
theorem positionLeaves_source {k part : Nat} {l : List Queued} {g : CircSeg}
    (hq : smGet [] (s.getPort port.toNat).circOut pos.toNat = [])
    (hc : (s.tab (s.epochAt at_)).circuitAt port.toNat pos.toNat = some k) (hup : (s.getPort port.toNat).up = true)
    (hfill : (s.beginPosition port.toNat pos at_).fillPosition port.toNat k (circBlocks (s.getPort port.toNat).width) 64 =
      ((s.beginPosition port.toNat pos at_).modFab fun f => f.onCircuit k l part, [g])) :
    ∃ t, execCircuitPositionSend port pos s = .next t ∧ s.PositionLeft t port pos at_ (s.epochAt at_) [g.part] ∧
      smGet [] t.fab.circQ k = l ∧ smGet 0 t.fab.circPart k = part := by
  have source := execCircuitPositionSend_source h hx hq hc
  rw [hfill] at source
  obtain ⟨hleft, hfab, -⟩ := ((s.begun_beginPosition port.toNat pos at_).modFab fun f => f.onCircuit k l part).leaves hup
    (s.epochAt at_) (List.cons_ne_nil g [])
  refine ⟨_, source, hleft, ?_, ?_⟩
  · exact (congrArg (fun f : Fabric => smGet [] f.circQ k) hfab).trans (smGet_smSet_same ..)
  · exact (congrArg (fun f : Fabric => smGet 0 f.circPart k) hfab).trans (smGet_smSet_same ..)

end

/-- Settles O23: each clause is a case of what a position, a loss notice or the start of a position does. -/
theorem circuitsCarryPositions : Obligations.CircuitsCarryPositions := by
  refine ⟨fun s port d => ?_, fun s port p => ⟨State.circuitLost_told, State.circuitLost_own⟩,
    fun s p => execCircuitLostReceived_good s, fun s pos t => State.slotTime_some,
    fun s port pos => execCircuitPositionSend_outside, fun s port pos at_ => ?_⟩
  · intro e ps u out pos past on
    refine ⟨execCircuitPositionReceive_down, execCircuitPositionReceive_stale, fun hup hr => ?_⟩
    have up : ((s.countEnds port.toNat ps).getPort out).up = (s.getPort out).up := s.up_countEnds ..
    refine ⟨fun h15 => ?_, fun h15 h14 whole => ?_, fun h15 h14 hout => ?_, fun h15 h14 hout hpast => ?_⟩
    · exact (execCircuitPositionReceive_live hup hr).trans (congrArg _ (if_pos h15))
    · exact ⟨_, execCircuitPositionReceive_ends hup hr h15 h14, State.foldl_circArrive_whole port.toNat ps whole u⟩
    · obtain ⟨hqueue, hfab, hmem, hisl, hsent⟩ :=
        State.forwardPosition_up (s := (s.countEnds port.toNat ps).countPast ps) pos d.epoch on (up.trans hout)
      refine ⟨_, execCircuitPositionReceive_onward hup hr h15 h14, hqueue.trans ?_, hfab, hmem, hisl, hsent⟩
      exact congrArg (fun l => smGet [] l pos ++ _) (s.circOut_countEnds port.toNat ps out)
    · exact execCircuitPositionReceive_lost hup hr h15 h14 hpast hout
  · intro x left h
    have begun := s.begun_beginPosition port.toNat pos at_
    refine ⟨execCircuitPositionSend_again h, fun hx => ⟨fun y rest => positionLeaves_transit h hx, fun hq hc => ?_,
      fun k q rest hq hc hk hs hup => ?_⟩⟩
    · exact ⟨_, execCircuitPositionSend_unused h hx hq hc, rfl, rfl, begun.circAt⟩
    · refine ⟨fun hrest hfit => ?_, fun hlong => ?_⟩
      · subst hrest
        exact positionLeaves_source h hx hq hc hup (State.fillPosition_last 62 hk hs (circBlocks_ne_zero _) hfit)
      · exact positionLeaves_source h hx hq hc hup (State.fillPosition_long 63 hk hs (circBlocks_ne_zero _) hlong)

end Sys2Proof.Machine

namespace Sys2Proof.Machine

/-! # The epoch flip (11 R249, R254) -/

section
variable {s : State} {t : Dword}

theorem execEpochFlip_unarmed (h : s.fab.flipAt = none) : execEpochFlip s = .next s := by
  simp only [execEpochFlip, h]

theorem execEpochFlip_early (h : s.fab.flipAt = some t) (ht : s.fab.time.toNat + 40 ≤ t.toNat) :
    execEpochFlip s = .next s := by
  simp only [execEpochFlip, h, ht, if_true]

@[simp] theorem setVer_epoch (f : Fabric) (e : Bool) (v : VerSt) : (setVer f e v).epoch = f.epoch := by
  cases e <;> rfl
@[simp] theorem setVer_flips (f : Fabric) (e : Bool) (v : VerSt) : (setVer f e v).flips = f.flips := by
  cases e <;> rfl
@[simp] theorem Fabric.recircuit_epoch (f : Fabric) (t : Table) : (f.recircuit t).epoch = f.epoch := rfl
@[simp] theorem Fabric.recircuit_flips (f : Fabric) (t : Table) : (f.recircuit t).flips = f.flips := rfl

/-- The fabric block behind the flip: the other version is the source epoch (11 R249 step 3). -/
def Fabric.flipped (f : Fabric) (now : Dword) : Fabric :=
  { (setVer (setVer f f.epoch .retiring) (!f.epoch) .active).recircuit (if f.epoch then f.tab0 else f.tab1) with
    epoch := !f.epoch, armed := none, flipAt := none, flips := bump f.flips,
    retire := now + 10000, avoid := [], fallback := [], lostSent := [] }

/-- At its time the flip happens, and every FLIP_ARM that waits completes with the time. -/
theorem execEpochFlip_due (h : s.fab.flipAt = some t) (ht : t.toNat < s.fab.time.toNat + 40) :
    execEpochFlip s = .next ((s.cmds.long.filter fun c => c.opcode = opFlipArm).foldl
      (fun s c => s.complete c sOk 0 (Word.lo t) (Word.hi t) 0)
      ((s.modFab fun f => f.flipped s.now).modTrk fun x => { x with told := [] })) := by
  simp only [execEpochFlip, h, Nat.not_le.mpr ht, if_false, Fabric.recircuit_epoch, Fabric.recircuit_flips, setVer_epoch,
    setVer_flips]
  rfl

end

/-- `EPOCH_RETIRE` speaks of the version that is not the source epoch. -/
theorem execEpochRetire_eq (s : State) : execEpochRetire s =
    .next (if (if s.fab.epoch then s.fab.ver0 else s.fab.ver1) = .retiring ∧ s.fab.retire ≤ s.now
      then s.modFab fun f => setVer f (!s.fab.epoch) .writable else s) := by
  cases h : s.fab.epoch <;> simp only [execEpochRetire, h] <;> rfl

/-- Settles O24: the flip waits for its time and then changes the source epoch; the old version retires at the tick set. -/
theorem theEpochFlipsAtItsTime : Obligations.TheEpochFlipsAtItsTime := by
  refine ⟨fun s => execEpochFlip_unarmed, fun s t => execEpochFlip_early, fun s t => execEpochFlip_due,
    fun s => ⟨fun hv hr => ?_, fun h => ?_⟩⟩
  · exact (execEpochRetire_eq s).trans (congrArg _ (if_pos ⟨hv, hr⟩))
  · refine (execEpochRetire_eq s).trans (congrArg _ (if_neg fun hd => ?_))
    exact h.elim (· hd.1) (BitVec.not_lt.mpr hd.2)

end Sys2Proof.Machine

namespace Sys2Proof.Machine

/-! # Fabric time (11 R250, R258, R259, 19 R416) -/

/-! ### `SYNC_PULSE` -/

/-- A pulse that is not taken as one is discarded and counted (11 R258, 19 R414). -/
def State.discardPulse (s : State) : State :=
  (s.modFab fun f => { f with pulsesBad := bump f.pulsesBad }).modPins fun p => { p with filtSync := satAdd 16 p.filtSync 1 }

/-- The first pulse after a message loads the message's time, with the whole milliseconds since (11 R259). -/
def State.loadTime (s : State) (m : Dword) : State :=
  s.modFab fun f =>
    { f with time := m + BitVec.ofNat 64 ((s.clk.now - f.lastPulse.toNat) / 25000 * 1000000), lastPulse := s.now,
             pulseSeen := true, tst := if f.freeMode then f.tst else .locked, lastErr := 0 }

/-- A later pulse with the error e corrects count and rate (11 R258). -/
def State.correctTime (s : State) (e : Int) : State :=
  s.modFab fun f =>
    { f with time := BitVec.ofInt 64 (f.time.toNat - e), lastErr := BitVec.ofInt 16 e,
             rate := f.rate - e.tdiv (s.msSincePulse : Int), lastPulse := s.now,
             tst := if f.tst = TimeSt.holdover ∧ f.timeSeen then TimeSt.locked else f.tst }

theorem State.pulseInput_iff (s : State) : s.pulseInput = true ↔ s.ret.syncMode = 1 := decide_eq_true_iff

section
variable {s : State} {w : Nat} {a : Dword}

theorem execSyncPulse_none (h : s.ret.syncMode ≠ 1 ∨ w < 20) : execSyncPulse w a s = .next s := by
  refine congrArg Host.Outcome.next (if_pos (h.imp_left fun hm => ?_))
  rwa [Bool.not_eq_true', ← Bool.not_eq_true, s.pulseInput_iff]

variable (hm : s.ret.syncMode = 1) (hw : 20 ≤ w)
include hm hw

/-- A pulse that a module takes is judged by its width, then loads the first message's time or corrects the count. -/
theorem execSyncPulse_taken : execSyncPulse w a s = .next (
    if w < 50 ∨ 10000 < w then s.discardPulse
    else if (s.fab.timeMsg.isSome && !s.fab.pulseSeen) = true then s.loadTime (s.fab.timeMsg.getD s.fab.time)
    else
      let e := pulseError ((a.toNat : Int) + s.ret.syncOff.toInt)
      if e < -100 ∨ 100 < e then s.discardPulse else s.correctTime e) := by
  have taken : ¬ ((!s.pulseInput) = true ∨ w < 20) := by simp [s.pulseInput_iff.mpr hm, hw]
  rw [execSyncPulse, if_neg taken]
  simp only [State.loadTime, State.correctTime, State.discardPulse, State.modFab]

theorem execSyncPulse_misshapen (h : w < 50 ∨ 10000 < w) : execSyncPulse w a s = .next s.discardPulse := by
  rw [execSyncPulse_taken hm hw, if_pos h]

variable (h50 : 50 ≤ w) (h10000 : w ≤ 10000)
include h50 h10000

theorem execSyncPulse_first {m : Dword} (hmsg : s.fab.timeMsg = some m) (hseen : s.fab.pulseSeen = false) :
    execSyncPulse w a s = .next (s.loadTime m) := by
  have first : (s.fab.timeMsg.isSome && !s.fab.pulseSeen) = true := by simp [hmsg, hseen]
  rw [execSyncPulse_taken hm hw, if_neg (by omega), if_pos first, hmsg, Option.getD_some]

theorem execSyncPulse_later (h : s.fab.timeMsg = none ∨ s.fab.pulseSeen = true) :
    let e := pulseError ((a.toNat : Int) + s.ret.syncOff.toInt)
    execSyncPulse w a s = .next (if e < -100 ∨ 100 < e then s.discardPulse else s.correctTime e) := by
  have later : ¬ (s.fab.timeMsg.isSome && !s.fab.pulseSeen) = true := by rcases h with h | h <;> simp [h]
  rw [execSyncPulse_taken hm hw, if_neg (by omega), if_neg later]

end

/-! ### Holdover, and the pulses that the master drives -/

section
variable {s : State}

theorem execSyncHoldover_due (hl : s.fab.tst = .locked) (hd : s.drivesSync = false)
    (ht : s.fab.lastPulse.toNat + 75000 ≤ s.clk.now) :
    execSyncHoldover s = .next (s.modFab fun f => { f with tst := .holdover }) :=
  congrArg Host.Outcome.next (if_pos ⟨hl, ne_true_of_eq_false hd, ht⟩)

theorem execSyncHoldover_not (h : s.fab.tst ≠ .locked ∨ s.drivesSync = true ∨ s.clk.now < s.fab.lastPulse.toNat + 75000) :
    execSyncHoldover s = .next s := by
  refine congrArg Host.Outcome.next (if_neg fun ⟨hl, hd, ht⟩ => ?_)
  exact h.elim (· hl) (·.elim hd (Nat.not_lt.mpr ht))

theorem execSyncTriggerPulse_at (hm : s.ret.syncMode = 2)
    (ht : ((s.fab.time.toNat : Int) - s.ret.syncOff.toInt + 39) % 1000000 < 40) :
    execSyncTriggerPulse s = .next (s.modPins fun p => { p with pulses := p.pulses + 1 }) :=
  congrArg Host.Outcome.next (if_pos ⟨hm, ht⟩)

theorem execSyncTriggerPulse_not
    (h : s.ret.syncMode ≠ 2 ∨ ¬ ((s.fab.time.toNat : Int) - s.ret.syncOff.toInt + 39) % 1000000 < 40) :
    execSyncTriggerPulse s = .next s :=
  congrArg Host.Outcome.next (if_neg fun hd => h.elim (· hd.1) (· hd.2))

end

/-! ### `TIME_MESSAGE_SEND` -/

/-- A second has passed since the last time message, or none has been sent. -/
def State.timeDue (s : State) : Prop := s.fab.timeSent = none ∨ ∃ t, s.fab.timeSent = some t ∧ t + 25000000 ≤ s.clk.now

/-- The time message that the master floods (11 R258). -/
def State.timePkt (s : State) : Pkt :=
  Pkt.sealed { blankPkt tTime s.fab.node with
    epoch := s.curEpoch, src := s.fab.node, session := s.trk.session, length := 16,
    payload := leBytes 8 (nextPulse s.fab.time) ++ leBytes 2 s.fab.node.toNat ++ leBytes 6 0 }

/-- A time message has been sent too lately for another. -/
def State.timeEarly (s : State) : Bool :=
  match s.fab.timeSent with
  | some t => decide (s.clk.now < t + 25000000)
  | none => false

section
variable {s : State}

theorem State.timeEarly_iff : s.timeEarly = true ↔ ¬ s.timeDue := by
  cases h : s.fab.timeSent <;> simp [timeEarly, timeDue, h]

theorem execTimeMessageSend_not
    (h : s.fab.master ≠ s.fab.node ∨ s.fab.freeMode = true ∨ s.fab.nodeSet = false ∨ ¬ s.timeDue) :
    execTimeMessageSend s = .next s := by
  rw [← State.timeEarly_iff, ← Bool.not_eq_true'] at h
  exact congrArg Host.Outcome.next (if_pos h)

theorem execTimeMessageSend_due (hm : s.fab.master = s.fab.node) (hf : s.fab.freeMode = false)
    (hn : s.fab.nodeSet = true) (hd : s.timeDue) :
    let u := (s.portsAbove 0).foldl (fun u k => u.copyTo s.timePkt k) s
    execTimeMessageSend s = .next (u.modFab fun f =>
      { f with timeSent := some u.clk.now, timeSeen := true, timeMsg := some (BitVec.ofNat 64 (nextPulse s.fab.time)),
               lastPulse := if f.pulseSeen then f.lastPulse else u.now,
               tst := if f.timeSeen then f.tst else if u.drivesSync then .locked else .holdover }) := by
  refine congrArg Host.Outcome.next (if_neg ?_)
  rintro (h | h | h | h)
  · exact h hm
  · exact ne_true_of_eq_false hf h
  · simp [hn] at h
  · exact State.timeEarly_iff.mp h hd

end

/-! ### `TIME_RECEIVED` -/

section
variable {s : State} {k : BitVec 5} {p : Pkt}

theorem execTimeReceived_stale (h : (s.taken k.toNat p).retired p.epoch = true) :
    execTimeReceived k p s = .next (s.taken k.toNat p).countStale :=
  congrArg Host.Outcome.next (if_pos h)

theorem execTimeReceived_fenced (h : (s.taken k.toNat p).retired p.epoch = false)
    (hf : ((s.taken k.toNat p).tab p.epoch).fenced p.src.toNat = true) :
    execTimeReceived k p s = .next (s.taken k.toNat p) :=
  congrArg Host.Outcome.next ((if_neg (ne_true_of_eq_false h)).trans (if_pos hf))

/-- The state in which a time message is judged: it is taken, and its copies have gone on to the dimensions above. -/
def State.timePassedOn (s : State) (k : BitVec 5) (p : Pkt) : State :=
  let u := s.taken k.toNat p
  (u.portsAbove (u.nextAbove k.toNat)).foldl (fun s k => s.copyTo p k) u

theorem execTimeReceived_live (h : (s.taken k.toNat p).retired p.epoch = false)
    (hf : ((s.taken k.toNat p).tab p.epoch).fenced p.src.toNat = false) (hc : p.crc = p.check) :
    let v := s.timePassedOn k p
    execTimeReceived k p s = .next (if leAt p.payload 8 2 = v.fab.master.toNat ∧ v.fab.master ≠ v.fab.node
      then v.takeTime (BitVec.ofNat 64 (leAt p.payload 0 8)) else v) :=
  congrArg Host.Outcome.next ((if_neg (ne_true_of_eq_false h)).trans
    ((if_neg (ne_true_of_eq_false hf)).trans (State.crcOk_good _ _ hc)))

end

/-! ### What a time message does -/

/-- The message's time is kept, and the milliseconds up to the first pulse count from now. -/
def State.timeNoted (s : State) (t : Dword) : State :=
  s.modFab fun f => { f with timeMsg := some t, timeSeen := true, lastPulse := if f.pulseSeen then f.lastPulse else s.now }

/-- Whatever a message does to the count, its time is noted first. -/
theorem State.takeTime_eq (s : State) (t : Dword) : s.takeTime t =
    if s.fab.freeMode = true then s.timeNoted t
    else if s.drivesSync = true then (s.timeNoted t).modFab fun f => { f with tst := .locked }
    else if s.pulseInput = true ∧ s.fab.tst ≠ .unset then s.timeNoted t
    else (s.timeNoted t).setTime t := by
  cases h : s.fab.pulseSeen <;> simp only [takeTime, timeNoted, modFab, h] <;> rfl

section
variable {s : State} (t : Dword)

theorem State.takeTime_free (hf : s.fab.freeMode = true) : s.takeTime t = s.timeNoted t := by
  rw [takeTime_eq, if_pos hf]

variable (hf : s.fab.freeMode = false)
include hf

theorem State.takeTime_driving (hd : s.drivesSync = true) :
    s.takeTime t = (s.timeNoted t).modFab fun f => { f with tst := .locked } := by
  rw [takeTime_eq, if_neg (ne_true_of_eq_false hf), if_pos hd]

/-- A module that takes pulses drives none. -/
theorem State.takeTime_pulsed (hm : s.ret.syncMode = 1) (ht : s.fab.tst ≠ .unset) : s.takeTime t = s.timeNoted t := by
  have drives : ¬ s.drivesSync = true := by simp [drivesSync, hm]
  rw [takeTime_eq, if_neg (ne_true_of_eq_false hf), if_neg drives, if_pos ⟨s.pulseInput_iff.mpr hm, ht⟩]

theorem State.takeTime_sets (hd : s.drivesSync = false) (h : s.ret.syncMode ≠ 1 ∨ s.fab.tst = .unset) :
    s.takeTime t = (s.timeNoted t).setTime t := by
  rw [takeTime_eq, if_neg (ne_true_of_eq_false hf), if_neg (ne_true_of_eq_false hd), if_neg]
  exact fun ⟨hp, ht⟩ => h.elim (· (s.pulseInput_iff.mp hp)) ht

end

/-- The count that a message sets lies within the millisecond before the pulse that it names (log 36). -/
theorem State.setTime_spec (s : State) (t : Dword) :
    (s.setTime t).fab.tst = .holdover ∧ (t - (s.setTime t).fab.time).toNat < 1000000 := by
  refine ⟨rfl, ?_⟩
  show (t - (t - BitVec.ofNat 64 (leNat (s.drawBytes 8).1 % 1000000))).toNat < 1000000
  rw [sub_sub_cancel, BitVec.toNat_ofNat]
  omega

/-- Settles O37: each event of fabric time is one case of its conditions. That a pulse before the first message corrects the
module's own count, and that a message's count is free within its millisecond, are the model's choice (logs 99, 36). -/
theorem fabricTimeFollowsPulsesAndMessages : Obligations.FabricTimeFollowsPulsesAndMessages := by
  refine ⟨fun s w a => execSyncPulse_none, fun s w a => ?_, fun s => ⟨execSyncHoldover_due, execSyncHoldover_not⟩,
    fun s => ⟨execTimeMessageSend_not, execTimeMessageSend_due⟩, fun s k p => ?_, fun s t => ?_,
    fun s => ⟨execSyncTriggerPulse_at, execSyncTriggerPulse_not⟩⟩
  · intro e discarded ms hm hw
    refine ⟨execSyncPulse_misshapen hm hw, fun m h50 h10000 => execSyncPulse_first hm hw h50 h10000,
      fun h50 h10000 h => ?_⟩
    have later : exec (.syncPulse w a) s = _ := execSyncPulse_later hm hw h50 h10000 h
    refine ⟨fun hlo hhi => ?_, fun he => ?_⟩
    · exact later.trans (congrArg _ (if_neg (not_or.mpr ⟨Int.not_lt.mpr hlo, Int.not_lt.mpr hhi⟩)))
    · exact later.trans (congrArg _ (if_pos he))
  · refine ⟨execTimeReceived_stale, execTimeReceived_fenced, fun h hf hc => ?_⟩
    have live : exec (.timeReceived k p) s = _ := execTimeReceived_live h hf hc
    refine ⟨fun hm hn => ?_, fun hd => ?_⟩
    · exact live.trans (congrArg _ (if_pos ⟨hm, hn⟩))
    · exact live.trans (congrArg _ (if_neg fun hm => hd.elim (· hm.1) hm.2))
  · intro u drives
    refine ⟨State.takeTime_free t, State.takeTime_driving t, State.takeTime_pulsed t, fun hf hd h => ?_⟩
    rw [State.takeTime_sets t hf hd h]
    exact State.setTime_spec ..

end Sys2Proof.Machine

namespace Sys2Proof.Machine

/-! # Barrier groups: arrivals, and the BARRIER packets of Table 12.3 (12 R271 to R275, R282) -/

/-! ### What a barrier packet and a choice of the level leave -/

section
variable (s : State)

@[simp] theorem State.sendBar_plans (g : Nat) (dst : NodeId) (payload : List Byte) : (s.sendBar g dst payload).plans = s.plans :=
  sendControl_plans ..
@[simp] theorem State.announce_plans (level : BitVec 3) : (s.announce level).plans = s.plans :=
  (foldl_plans (fun u b => by
    split
    · exact foldl_plans (fun u m => u.sendBar_plans ..) ..
    · rfl) ..).trans (s.logFault_plans ..)
@[simp] theorem State.decideLevel_plans (paced : Nat) : (s.decideLevel paced).plans = s.plans := by
  simp only [decideLevel, plans_ite, ramp_plans, announce_plans, modPwr_plans, ite_self]
end

theorem State.getBar_of_plans {s t : State} (h : t.plans = s.plans) (g : Nat) : t.getBar g = s.getBar g :=
  congrArg (smGet Barrier.reset · g) (bar_of_plans h)

/-! ### Arrivals and the release they fix (12 R273) -/

/-- The arrivals at a coordinator with one more: a member that has arrived is not counted again. -/
def addArrival (l : List Arrival) (a : Arrival) : List Arrival := if l.any (·.node = a.node) then l else l ++ [a]

theorem addArrival_again {l : List Arrival} {a : Arrival} (h : l.any (·.node = a.node) = true) : addArrival l a = l := if_pos h
theorem addArrival_new {l : List Arrival} {a : Arrival} (h : l.any (·.node = a.node) = false) : addArrival l a = l ++ [a] :=
  if_neg (ne_true_of_eq_false h)

/-- Every member of the group is among the arrivals. -/
def Barrier.complete (b : Barrier) : Bool := b.members.all fun m => b.arrivals.any (·.node = m)

/-- The level that a release carries: the highest among the arrivals, at most L4 (12 R282). -/
def Barrier.agreedLevel (b : Barrier) : BitVec 3 := BitVec.ofNat 3 (min 4 (b.arrivals.foldl (fun m a => max m a.level.toNat) 0))

/-- The coordinator tells the other members of group g of the release at t that the arrival `last` completes (12 R273). -/
def State.tellRelease (s : State) (g : Nat) (b : Barrier) (t : Dword) (last : Arrival) : State :=
  (b.members.filter (· ≠ s.fab.node)).foldl
    (fun s m => s.sendBar g m (barPayload 2 g b.next t last b.pace b.agreedLevel last.time)) s

theorem State.tellRelease_plans (s : State) (g : Nat) (b : Barrier) (t : Dword) (last : Arrival) :
    (s.tellRelease g b t last).plans = s.plans := foldl_plans (fun u _ => u.sendBar_plans ..) ..

section
variable {s : State} {g : Nat} {n : Word} {a : Arrival}

theorem State.applyArrival_next (hf : (s.getBar g).fixed = false) (hn : n = (s.getBar g).next) : s.applyArrival g n a =
    (s.setBar g { s.getBar g with arrivals := addArrival (s.getBar g).arrivals a }).fixRelease g :=
  if_pos ⟨hn, ne_true_of_eq_false hf⟩

theorem State.applyArrival_early (hf : (s.getBar g).fixed = true) (hn : n = (s.getBar g).next + 1) : s.applyArrival g n a =
    s.setBar g { s.getBar g with early := addArrival (s.getBar g).early a } :=
  (if_neg fun h => h.2 hf).trans (if_pos ⟨hn, hf⟩)

theorem State.fixRelease_incomplete (h : (s.getBar g).complete = false) : s.fixRelease g = s := by
  rw [Barrier.complete] at h
  simp only [fixRelease, h, Bool.not_false, Bool.or_true, if_true]

/-- With every member arrived, the members are told, and the release is recorded one lead from now. -/
theorem State.fixRelease_complete {b : Barrier} (hb : s.getBar g = b) (hv : b.valid = true) (hc : b.coord = s.fab.node)
    (hf : b.fixed = false) (hm : b.members ≠ []) (h : b.complete = true) (hl : b.arrivals.getLast? = some a) :
    let t := s.fab.time + BitVec.ofNat 64 (b.lead.toNat * 40)
    s.fixRelease g = (s.tellRelease g b t a).recordRelease g b.next t a b.pace b.agreedLevel := by
  rw [Barrier.complete] at h
  subst hb
  have nonempty := List.isEmpty_eq_false_iff.mpr hm
  simp only [fixRelease, hv, hc, hf, nonempty, h, hl, ne_eq, not_true_eq_false, decide_false, Bool.not_true, Bool.or_self,
    Bool.false_eq_true, if_false]
  rfl

/-- The group that a recorded release leaves: the release is fixed at its T, and is still to come. -/
theorem State.recordRelease_getBar (s : State) (g : Nat) (n : Word) (t : Dword) (last : Arrival) (apply : Bool) (level : BitVec 3) :
    let c := (s.recordRelease g n t last apply level).getBar g
    c.fixed = true ∧ c.t = t ∧ c.releases = (s.getBar g).releases ∧ c.next = (s.getBar g).next := by
  unfold recordRelease
  extract_lets b p late wait q step starts m pend r u v c
  have hu : u.bar = r.bar := by
    simp only [u]
    split <;> rfl
  have hv : v.bar = u.bar := by
    simp only [v]
    split <;> rfl
  have hw : (if v.groupUsed g then v.decideLevel (if apply then level.toNat else 0) else v).bar = v.bar := by
    split
    · exact bar_of_plans (decideLevel_plans ..)
    · rfl
  have hc : c = r.getBar g := congrArg (smGet Barrier.reset · g) (hw.trans (hv.trans hu))
  rw [hc, getBar_setBar]
  exact ⟨rfl, rfl, rfl, rfl⟩
end

/-- Settles O26: an arrival for the next release joins the others, and the release is fixed once every member is among them; one
for the release after a fixed one is kept for it. -/
theorem theLastArrivalFixesTheRelease : Obligations.TheLastArrivalFixesTheRelease := by
  refine ⟨fun s g n a => ?again, fun s g n a => ?new, fun s g n a => ?last, fun s g n a => ?early⟩
  case again =>
    intro b _ _ hf hn hagain hmiss
    rw [State.applyArrival_next hf hn, addArrival_again hagain]
    exact State.fixRelease_incomplete ((congrArg Barrier.complete (State.getBar_setBar ..)).trans hmiss)
  case new =>
    intro b hf hn hnew hmiss
    rw [State.applyArrival_next hf hn, addArrival_new hnew]
    exact State.fixRelease_incomplete ((congrArg Barrier.complete (State.getBar_setBar ..)).trans hmiss)
  case last =>
    intro b hv hc hf hn hnew hm hall
    let c : Barrier := { b with arrivals := b.arrivals ++ [a] }
    have fix := State.fixRelease_complete (b := c) (State.getBar_setBar s g c) hv hc hf hm hall List.getLast?_concat
    rw [State.applyArrival_next hf hn, addArrival_new hnew, fix]
    obtain ⟨fixed, time, releases, next⟩ := State.recordRelease_getBar ..
    rw [State.getBar_of_plans (State.tellRelease_plans ..), State.getBar_setBar] at releases next
    exact ⟨fixed, time, releases, next⟩
  case early =>
    intro b hf hn hnew
    rw [State.applyArrival_early hf hn, addArrival_new hnew]

/-! ### BARRIER packets (12 R271, R275) -/

/-- The state in which an accepted BARRIER packet acts: its number is noted, and it is acknowledged. -/
def State.heard (s : State) (p : Pkt) (k : SeqState) : State := (s.noted p k).ack p

/-- The group takes an arrival of its member at the coordinator, and a release from the coordinator. -/
def Barrier.takesArrival (b : Barrier) (node src : NodeId) : Bool := b.valid && b.coord = node && b.members.contains src
def Barrier.takesRelease (b : Barrier) (src : NodeId) : Bool := b.valid && b.coord = src

section
variable {b : Barrier} {node src : NodeId}

theorem Barrier.takesArrival_iff :
    b.takesArrival node src = true ↔ b.valid = true ∧ b.coord = node ∧ b.members.contains src = true := by
  simp only [takesArrival, Bool.and_eq_true, decide_eq_true_eq, and_assoc]
theorem Barrier.not_takesArrival_iff :
    b.takesArrival node src = false ↔ b.valid = false ∨ b.coord ≠ node ∨ b.members.contains src = false := by
  simp only [takesArrival, Bool.and_eq_false_iff, decide_eq_false_iff_not, or_assoc, ne_eq]
theorem Barrier.takesRelease_iff : b.takesRelease src = true ↔ b.valid = true ∧ b.coord = src := by
  simp only [takesRelease, Bool.and_eq_true, decide_eq_true_eq]
theorem Barrier.not_takesRelease_iff : b.takesRelease src = false ↔ b.valid = false ∨ b.coord ≠ src := by
  simp only [takesRelease, Bool.and_eq_false_iff, decide_eq_false_iff_not, ne_eq]
end

/-- A packet that its group does not take is counted. -/
def State.ignoreBar (s : State) (g : Nat) : State := s.modBar g fun b => { b with ignored := satAdd 16 b.ignored 1 }

section
variable {s : State} {p : Pkt} {k : SeqState} (hc : p.crc = p.check)
  (hj : judgeSeq (s.sourceOf p) p.session p.seq = (.accept, k))
include hc hj

/-- An accepted packet is acknowledged first; then its kind and its group decide. -/
theorem State.barPacket_accepted (kind : Nat) (mine : Barrier → Bool) (f : State → BarMsg → State) :
    let m := BarMsg.parse p.payload
    let u := s.heard p k
    s.barPacket p kind mine f =
      if m.kind ≠ kind then u else if mine (u.getBar m.group) then f u m else u.ignoreBar m.group := by
  rw [State.sourceOf] at hj
  simp only [State.barPacket, s.crcOk_good _ hc, State.filtered, hj]
  rfl

variable {kind : Nat} {mine : Barrier → Bool} {f : State → BarMsg → State}

theorem State.barPacket_otherKind (h : (BarMsg.parse p.payload).kind ≠ kind) : s.barPacket p kind mine f = s.heard p k :=
  (barPacket_accepted hc hj ..).trans (if_pos h)

theorem State.barPacket_taken (h : (BarMsg.parse p.payload).kind = kind)
    (hm : mine ((s.heard p k).getBar (BarMsg.parse p.payload).group) = true) :
    s.barPacket p kind mine f = f (s.heard p k) (BarMsg.parse p.payload) :=
  (barPacket_accepted hc hj ..).trans ((if_neg (not_not_intro h)).trans (if_pos hm))

theorem State.barPacket_ignored (h : (BarMsg.parse p.payload).kind = kind)
    (hm : mine ((s.heard p k).getBar (BarMsg.parse p.payload).group) = false) :
    s.barPacket p kind mine f = (s.heard p k).ignoreBar (BarMsg.parse p.payload).group :=
  (barPacket_accepted hc hj ..).trans ((if_neg (not_not_intro h)).trans (if_neg (ne_true_of_eq_false hm)))

theorem execReleaseReceived_taken (h : (BarMsg.parse p.payload).kind = 2)
    (hm : ((s.heard p k).getBar (BarMsg.parse p.payload).group).takesRelease p.src = true) :
    let m := BarMsg.parse p.payload
    let u := s.heard p k
    execReleaseReceived p s = .next
      (if m.n = (u.getBar m.group).next ∧ ¬ (u.getBar m.group).fixed then
        u.recordRelease m.group m.n m.time m.who m.apply m.level else u) :=
  congrArg Host.Outcome.next (State.barPacket_taken hc hj h hm)

end

/-- Settles O25: an accepted packet of the right kind is taken or ignored by its group, as the group's configuration and the
packet's source decide; one of another kind is only acknowledged. -/
theorem barrierPacketsReachTheirGroup : Obligations.BarrierPacketsReachTheirGroup := by
  intro s p k hc hj u m b ignored
  refine ⟨fun hk hv hb hm => ?arrive, fun hk h => ?arriveIgnored, fun hk hv hb hn hf => ?release, fun hk h => ?releaseIgnored,
    fun hk hv hb h => ?releaseOther, fun hk hv => ?pace, fun hk hv => ?paceIgnored, fun hk => ?_, fun hk => ?_, fun hk => ?_⟩
  case release =>
    exact (execReleaseReceived_taken hc hj hk (Barrier.takesRelease_iff.mpr ⟨hv, hb⟩)).trans
      (congrArg _ (if_pos ⟨hn, ne_true_of_eq_false hf⟩))
  case releaseOther =>
    exact (execReleaseReceived_taken hc hj hk (Barrier.takesRelease_iff.mpr ⟨hv, hb⟩)).trans
      (congrArg _ (if_neg fun ⟨hn, hf⟩ => h.elim (· hn) hf))
  all_goals refine congrArg Host.Outcome.next ?_
  case arrive => exact State.barPacket_taken hc hj hk (Barrier.takesArrival_iff.mpr ⟨hv, hb, hm⟩)
  case arriveIgnored => exact State.barPacket_ignored hc hj hk (Barrier.not_takesArrival_iff.mpr h)
  case releaseIgnored => exact State.barPacket_ignored hc hj hk (Barrier.not_takesRelease_iff.mpr h)
  case pace => exact State.barPacket_taken hc hj hk hv
  case paceIgnored => exact State.barPacket_ignored hc hj hk hv
  all_goals exact State.barPacket_otherKind hc hj hk

end Sys2Proof.Machine

/-! # Memory_Active and valid memory (13 R287)

Whether a CXL.mem request is served is decided by four bits: Memory_Active, the link with its path, and `MEM_VALID`. A lemma for
each operation that leaves the four says so, in the order of the model's files (as "What every step keeps" does for the queue);
the resets, the starts, the fill and the link's training change them, and each keeps Memory_Active within the other three. -/

namespace Sys2Proof.Machine

/-! ## What leaves the four bits -/

/-- Memory_Active, the link, its path for back-invalidation, and `MEM_VALID`. -/
def State.gate (s : State) : Bool × Bool × Bool × Bool := (s.host.memActive, s.host.linkUp, s.host.biPath, s.mem.valid)

@[simp] theorem State.gate_mk (a0 a1 a2 a3 a4 a5 a6 a7 a8 a9 a10 a11 a12 a13 a14 a15 a16 a17 a18 a19 a20 a21 a22 a23 a24 a25) :
    (State.mk a0 a1 a2 a3 a4 a5 a6 a7 a8 a9 a10 a11 a12 a13 a14 a15 a16 a17 a18 a19 a20 a21 a22 a23 a24 a25).gate =
      (a13.memActive, a13.linkUp, a13.biPath, a8.valid) := by simp only [State.gate]
@[simp] theorem State.fold_gate (s : State) : (s.host.memActive, s.host.linkUp, s.host.biPath, s.mem.valid) = s.gate := by
  simp only [State.gate]
@[simp] theorem State.gate_ite (c : Prop) [Decidable c] (a b : State) :
    (if c then a else b).gate = if c then a.gate else b.gate := by split <;> rfl

@[simp] theorem foldl_gate {α : Type*} (f : State → α → State) (h : ∀ u a, (f u a).gate = u.gate) (l : List α) (s : State) :
    (l.foldl f s).gate = s.gate := foldl_keeps State.gate h l s
@[simp] theorem foldl_fst_gate {α β : Type*} (f : State × β → α → State × β) (h : ∀ r a, (f r a).1.gate = r.1.gate)
    (l : List α) (r : State × β) : (l.foldl f r).1.gate = r.1.gate := foldl_keeps (·.1.gate) h l r
@[simp] theorem foldl_snd_snd_gate {α β γ : Type*} (f : β × γ × State → α → β × γ × State)
    (h : ∀ r a, (f r a).2.2.gate = r.2.2.gate) (l : List α) (r : β × γ × State) :
    (l.foldl f r).2.2.gate = r.2.2.gate := foldl_keeps (·.2.2.gate) h l r

/-- Every next state that a command answers has the four bits of s. -/
def LeavesGate (o : Out) (s : State) : Prop := ∀ t, o = .next t → t.gate = s.gate
@[simp] theorem leavesGate_next (t s : State) : LeavesGate (.next t) s ↔ t.gate = s.gate := by simp [LeavesGate]
@[simp] theorem leavesGate_refused (r s) : LeavesGate (.refused r) s := by simp [LeavesGate]
@[simp] theorem leavesGate_ite (c : Prop) [Decidable c] (a b : Out) (s : State) :
    LeavesGate (if c then a else b) s ↔ if c then LeavesGate a s else LeavesGate b s := by split <;> rfl

/-- What the body of a host command answers leaves the four bits: the state replied with, and what is done after the reply. -/
def Run.LeavesGate (r : Run) (s : State) : Prop :=
  match r with
  | .reply _ t => t.gate = s.gate
  | .first _ t f => t.gate = s.gate ∧ ∀ u, (f u).gate = u.gate
  | .long _ _ f => ∀ u, (f u).gate = u.gate
@[simp] theorem Run.leavesGate_reply (r t s) : (Run.reply r t).LeavesGate s ↔ t.gate = s.gate := Iff.rfl
@[simp] theorem Run.leavesGate_first (r t f s) :
    (Run.first r t f).LeavesGate s ↔ t.gate = s.gate ∧ ∀ u, (f u).gate = u.gate := Iff.rfl
@[simp] theorem Run.leavesGate_long (r c f s) : (Run.long r c f).LeavesGate s ↔ ∀ u, (f u).gate = u.gate := Iff.rfl
@[simp] theorem Run.leavesGate_ite (c : Prop) [Decidable c] (a b : Run) (s : State) :
    (if c then a else b).LeavesGate s ↔ if c then a.LeavesGate s else b.LeavesGate s := by split <;> rfl

section
variable (s : State)

/-! ### The updates of the state -/

@[simp] theorem State.setIsl_gate (i v) : (s.setIsl i v).gate = s.gate := by
  simp only [State.gate, State.setIsl_host, State.setIsl_mem]
@[simp] theorem State.modIsl_gate (i f) : (s.modIsl i f).gate = s.gate := by
  simp only [State.gate, State.modIsl_host, State.modIsl_mem]
@[simp] theorem State.setPart_gate (i v) : (s.setPart i v).gate = s.gate := by
  simp only [State.gate, State.setPart_host, State.setPart_mem]
@[simp] theorem State.modPart_gate (i f) : (s.modPart i f).gate = s.gate := by
  simp only [State.gate, State.modPart_host, State.modPart_mem]
@[simp] theorem State.setPort_gate (i v) : (s.setPort i v).gate = s.gate := by
  simp only [State.gate, State.setPort_host, State.setPort_mem]
@[simp] theorem State.modPort_gate (i f) : (s.modPort i f).gate = s.gate := by
  simp only [State.gate, State.modPort_host, State.modPort_mem]
@[simp] theorem State.setBar_gate (i v) : (s.setBar i v).gate = s.gate := by
  simp only [State.gate, State.setBar_host, State.setBar_mem]
@[simp] theorem State.modBar_gate (i f) : (s.modBar i f).gate = s.gate := by
  simp only [State.gate, State.modBar_host, State.modBar_mem]
@[simp] theorem State.setGrp_gate (i v) : (s.setGrp i v).gate = s.gate := by
  simp only [State.gate, State.setGrp_host, State.setGrp_mem]
@[simp] theorem State.modTrk_gate (f) : (s.modTrk f).gate = s.gate := by
  simp only [State.gate, State.modTrk_host, State.modTrk_mem]
@[simp] theorem State.modFab_gate (f) : (s.modFab f).gate = s.gate := by
  simp only [State.gate, State.modFab_host, State.modFab_mem]
@[simp] theorem State.modSnap_gate (f) : (s.modSnap f).gate = s.gate := by
  simp only [State.gate, State.modSnap_host, State.modSnap_mem]
@[simp] theorem State.modPwr_gate (f) : (s.modPwr f).gate = s.gate := by
  simp only [State.gate, State.modPwr_host, State.modPwr_mem]
@[simp] theorem State.modFw_gate (f) : (s.modFw f).gate = s.gate := by
  simp only [State.gate, State.modFw_host, State.modFw_mem]
@[simp] theorem State.modMgmt_gate (f) : (s.modMgmt f).gate = s.gate := by
  simp only [State.gate, State.modMgmt_host, State.modMgmt_mem]
@[simp] theorem State.modPins_gate (f) : (s.modPins f).gate = s.gate := by
  simp only [State.gate, State.modPins_host, State.modPins_mem]
@[simp] theorem State.setCr_gate (r v) : (s.setCr r v).gate = s.gate := by
  simp only [State.gate, State.setCr_host, State.setCr_mem]
@[simp] theorem State.setQr_gate (r v) : (s.setQr r v).gate = s.gate := by
  simp only [State.gate, State.setQr_host, State.setQr_mem]
@[simp] theorem State.emit_gate (x) : (s.emit x).gate = s.gate := by
  simp only [State.gate, State.emit_host, State.emit_mem]
@[simp] theorem State.out_gate (x) : (s.out x).gate = s.gate := by
  simp only [State.gate, State.out_host, State.out_mem]
@[simp] theorem State.modMem_gate (f) :
    (s.modMem f).gate = (s.host.memActive, s.host.linkUp, s.host.biPath, (f s.mem).valid) := by
  simp only [State.gate, State.modMem_host, State.modMem_mem]
@[simp] theorem State.modHost_gate (f) :
    (s.modHost f).gate = ((f s.host).memActive, (f s.host).linkUp, (f s.host).biPath, s.mem.valid) := by
  simp only [State.gate, State.modHost_host, State.modHost_mem]

/-! ### Shared operations -/
@[simp] theorem State.drawBytes_gate (n) : (s.drawBytes n).2.gate = s.gate := by simp [State.drawBytes]
@[simp] theorem State.logFault_gate (k source severity detail) : (s.logFault k source severity detail).gate = s.gate := by
  simp [State.logFault]
@[simp] theorem State.raiseMsix_gate (r) : (s.raiseMsix r).gate = s.gate := by simp [State.raiseMsix]
@[simp] theorem State.wakeHost_gate : s.wakeHost.gate = s.gate := by simp [State.wakeHost]
@[simp] theorem State.putRecord_gate (ring rec) : (s.putRecord ring rec).gate = s.gate := by simp [State.putRecord]
@[simp] theorem State.post_gate (ring rec) : (s.post ring rec).gate = s.gate := by simp [State.post]
@[simp] theorem State.postHeld_gate (ring fuel) : (s.postHeld ring fuel).gate = s.gate := by
  induction fuel generalizing s with
  | zero => simp [State.postHeld]
  | succ n ih => simp only [State.postHeld]; (repeat' split) <;> simp [ih]
@[simp] theorem State.platformEvent_gate (r) : (s.platformEvent r).gate = s.gate := by simp [State.platformEvent]
@[simp] theorem State.event_gate (code status detail r0 r1 r2) : (s.event code status detail r0 r1 r2).gate = s.gate := by
  simp [State.event]
@[simp] theorem State.noteLine_gate (line) : (s.noteLine line).gate = s.gate := by
  unfold State.noteLine
  split <;> simp
@[simp] theorem State.hbmRead_gate (a n) : (s.hbmRead a n).2.2.gate = s.gate := by simp [State.hbmRead]
@[simp] theorem State.hbmWriteLine_gate (a bs) : (s.hbmWriteLine a bs).1.gate = s.gate := by simp [State.hbmWriteLine]
@[simp] theorem State.hbmWriteFrom_gate (fuel a bs bad) : (s.hbmWriteFrom fuel a bs bad).1.gate = s.gate := by
  induction fuel generalizing s a bs bad with
  | zero => simp [State.hbmWriteFrom]
  | succ n ih => cases bs <;> simp [State.hbmWriteFrom, ih]
@[simp] theorem State.hbmWrite_gate (a bs) : (s.hbmWrite a bs).1.gate = s.gate := by simp [State.hbmWrite]
@[simp] theorem State.backInv_gate (line) : (s.backInv line).gate = s.gate := by simp [State.backInv]
@[simp] theorem State.backInvAll_gate (ls) : (s.backInvAll ls).gate = s.gate := by simp [State.backInvAll]
@[simp] theorem State.sharedWrite_gate (a bs) : (s.sharedWrite a bs).1.gate = s.gate := by simp [State.sharedWrite]
@[simp] theorem State.toHost_gate (a bs) : (s.toHost a bs).gate = s.gate := by simp [State.toHost]
/-! ### Reads of the scratchpad -/
@[simp] theorem State.noteSp_gate (i off n) : (s.noteSp i off n).gate = s.gate := by simp [State.noteSp]
@[simp] theorem State.noteUe_gate (i) : (s.noteUe i).gate = s.gate := by simp [State.noteUe]
/-! ### Islands: faults, events, bundles -/
@[simp] theorem State.recordOn_gate (cq p opcode kind status detail r0 r1 r2) :
    (s.recordOn cq p opcode kind status detail r0 r1 r2).gate = s.gate := by
  simp [State.recordOn]
@[simp] theorem State.record_gate (p opcode kind status detail r0 r1 r2) :
    (s.record p opcode kind status detail r0 r1 r2).gate = s.gate := by
  simp [State.record]
@[simp] theorem State.complete_gate (c status detail r0 r1 r2) : (s.complete c status detail r0 r1 r2).gate = s.gate := by
  simp [State.complete]
@[simp] theorem State.completeAll_gate (p status detail) : (s.completeAll p status detail).gate = s.gate := by simp [State.completeAll]
@[simp] theorem State.pipeFault_gate (p) : (s.pipeFault p).gate = s.gate := by simp [State.pipeFault]
@[simp] theorem State.islandFault_gate (i f) : (s.islandFault i f).gate = s.gate := by simp [State.islandFault]
@[simp] theorem State.freePlace_gate : s.freePlace.2.gate = s.gate := by simp [State.freePlace]
@[simp] theorem State.looseFaultAt_gate (i code detail cycle) : (s.looseFaultAt i code detail cycle).gate = s.gate := by
  simp [State.looseFaultAt]
@[simp] theorem State.looseFault_gate (i code detail) : (s.looseFault i code detail).gate = s.gate := by simp [State.looseFault]
@[simp] theorem State.semIncAt_gate (i sem cycle) : (s.semIncAt i sem cycle).gate = s.gate := by simp [State.semIncAt]
@[simp] theorem State.semInc_gate (i sem) : (s.semInc i sem).gate = s.gate := by simp [State.semInc]
@[simp] theorem State.opFault_gate (i op code array detail cycle) : (s.opFault i op code array detail cycle).gate = s.gate := by
  simp [State.opFault]
@[simp] theorem State.evRow_gate (i op cycle o m) : (s.evRow i op cycle o m).gate = s.gate := by
  simp only [State.evRow]
  (repeat' split) <;> simp
@[simp] theorem State.evEnter_gate (i op cycle o m rows) : (s.evEnter i op cycle o m rows).gate = s.gate := by simp [State.evEnter]
@[simp] theorem State.evInject_gate (i op o) : (s.evInject i op o).gate = s.gate := by simp [State.evInject]
@[simp] theorem State.evFootIn_gate (i op cycle o m a cols parity) : (s.evFootIn i op cycle o m a cols parity).gate = s.gate := by
  simp only [State.evFootIn]
  split <;> simp
@[simp] theorem State.evFoot_gate (i o m a cols parity) : (s.evFoot i o m a cols parity).gate = s.gate := by simp [State.evFoot]
@[simp] theorem State.evFootBad_gate (i op cycle o a c m cols parity) : (s.evFootBad i op cycle o a c m cols parity).gate = s.gate := by
  simp [State.evFootBad]
@[simp] theorem State.evSeedRead_gate (i op cycle o m) : (s.evSeedRead i op cycle o m).gate = s.gate := by simp [State.evSeedRead]
@[simp] theorem State.evSeedRow_gate (i op cycle o m bytes bad) : (s.evSeedRow i op cycle o m bytes bad).gate = s.gate := by
  unfold State.evSeedRow
  (repeat' split) <;> simp
@[simp] theorem State.evLoadBlock_gate (i op cycle o b scales) : (s.evLoadBlock i op cycle o b scales).gate = s.gate := by
  simp [State.evLoadBlock]
@[simp] theorem State.evLoadPlane_gate (i op cycle o b j cells) : (s.evLoadPlane i op cycle o b j cells).gate = s.gate := by
  simp [State.evLoadPlane]
@[simp] theorem State.evDrainRow_gate (i op cycle o m) : (s.evDrainRow i op cycle o m).gate = s.gate := by
  simp only [State.evDrainRow]
  split <;> simp
@[simp] theorem State.evDrainWrite_gate (i op cycle ws beats) : (s.evDrainWrite i op cycle ws beats).gate = s.gate := by
  simp only [State.evDrainWrite]
  split <;> simp
@[simp] theorem State.evDrainEnd_gate (i cycle o) : (s.evDrainEnd i cycle o).gate = s.gate := by simp [State.evDrainEnd]
@[simp] theorem State.ofPass_gate (op) (f : PassOp → State) (h : ∀ o, (f o).gate = s.gate) : (s.ofPass op f).gate = s.gate := by
  unfold State.ofPass
  (repeat' split) <;> simp [h]
@[simp] theorem State.ofSeed_gate (op) (f : SeedOp → State) (h : ∀ o, (f o).gate = s.gate) : (s.ofSeed op f).gate = s.gate := by
  unfold State.ofSeed
  (repeat' split) <;> simp [h]
@[simp] theorem State.ofLoad_gate (op) (f : LoadOp → State) (h : ∀ o, (f o).gate = s.gate) : (s.ofLoad op f).gate = s.gate := by
  unfold State.ofLoad
  (repeat' split) <;> simp [h]
@[simp] theorem State.ofDrain_gate (op) (f : DrainOp → State) (h : ∀ o, (f o).gate = s.gate) : (s.ofDrain op f).gate = s.gate := by
  unfold State.ofDrain
  (repeat' split) <;> simp [h]
@[simp] theorem State.applyEv_gate (i e) : (s.applyEv i e).gate = s.gate := by
  simp only [State.applyEv]
  (repeat' split) <;> simp
@[simp] theorem State.runIsl_gate (i t p n) : (s.runIsl i t p n).gate = s.gate := by
  induction n generalizing s with
  | zero => simp [State.runIsl]
  | succ n ih => simp only [State.runIsl]; (repeat' split) <;> simp [ih]
@[simp] theorem State.advance_gate (i t) : (s.advance i t).gate = s.gate := by simp [State.advance]
@[simp] theorem State.runOut_gate (i) : (s.runOut i).gate = s.gate := by simp [State.runOut]
@[simp] theorem State.issue_gate (w) : (s.issue w).1.gate = s.gate := by
  simp only [State.issue]
  (repeat' split) <;> simp
@[simp] theorem State.slot_gate (w idx) (f : State → Nat → Nat → Nat → State) 
    (h : ∀ u i t k, (f u i t k).gate = u.gate) : (s.slot w idx f).gate = s.gate := by
  have e := s.issue_gate w
  unfold State.slot
  split <;> next hi => simpa [hi, h] using e
@[simp] theorem State.preciseFault_gate (i idx code array detail t) : (s.preciseFault i idx code array detail t).gate = s.gate := by
  simp [State.preciseFault]
@[simp] theorem State.access_gate (i idx t off n acc) (f : State → State) (h : ∀ u, (f u).gate = u.gate) :
    (s.access i idx t off n acc f).gate = s.gate := by
  unfold State.access
  (repeat' split) <;> simp [h]
/-! ### The scalar slot -/
@[simp] theorem State.result_gate (i op t a) : (s.result i op t a).gate = s.gate := by simp [State.result]
/-! ### The branch slot and the waits -/
@[simp] theorem State.endWait_gate (i w) : (s.endWait i w).gate = s.gate := by simp [State.endWait]
@[simp] theorem execWaitSatisfied_leavesGate (i) : LeavesGate (execWaitSatisfied i s) s := by
  simp only [execWaitSatisfied]
  split <;> simp
@[simp] theorem execWaitTimeout_leavesGate (i) : LeavesGate (execWaitTimeout i s) s := by
  simp only [execWaitTimeout]
  split <;> simp
/-! ### Array control, feeder and drain slots -/
@[simp] theorem State.checked_gate (i idx t c) (f : State → State) (h : ∀ u, (f u).gate = u.gate) :
    (s.checked i idx t c f).gate = s.gate := by
  unfold State.checked
  (repeat' split) <;> simp [h]
@[simp] theorem State.startPass_gate (i op t o swap) : (s.startPass i op t o swap).gate = s.gate := by simp [State.startPass]
@[simp] theorem execLoadw_leavesGate (w arrays fd xa) : LeavesGate (execLoadw w arrays fd xa s) s := by
  unfold execLoadw
  split
  · simp
  · refine (leavesGate_next ..).mpr (State.slot_gate _ _ _ _ fun u i t k => State.checked_gate _ _ _ _ _ _ fun u => ?_)
    dsimp only
    (repeat' split) <;> simp
@[simp] theorem execDrain_leavesGate (w arrays dd slotAdd xd) : LeavesGate (execDrain w arrays dd slotAdd xd s) s := by
  unfold execDrain
  split
  · simp
  · exact (leavesGate_next ..).mpr (State.slot_gate _ _ _ _ fun u i t k => State.checked_gate _ _ _ _ _ _ fun u => State.modIsl_gate ..)
/-! ### Straits -/
@[simp] theorem execStraitBeatDepart_leavesGate (isl port cycle) : LeavesGate (execStraitBeatDepart isl port cycle s) s := by
  simp only [execStraitBeatDepart]
  split <;> simp
@[simp] theorem State.beatInto_gate (i p at_ b) : (s.beatInto i p at_ b).gate = s.gate := by simp [State.beatInto]
@[simp] theorem execStraitBeatArrive_leavesGate (isl port) : LeavesGate (execStraitBeatArrive isl port s) s := by
  unfold execStraitBeatArrive
  split <;> simp
/-! ### Packets and the switch -/
@[simp] theorem State.countDetour_gate : s.countDetour.gate = s.gate := by simp [State.countDetour]
@[simp] theorem State.countStale_gate : s.countStale.gate = s.gate := by simp [State.countStale]
@[simp] theorem State.countExpired_gate : s.countExpired.gate = s.gate := by simp [State.countExpired]
@[simp] theorem State.countFenceDrop_gate : s.countFenceDrop.gate = s.gate := by simp [State.countFenceDrop]
@[simp] theorem State.countBadHdr_gate : s.countBadHdr.gate = s.gate := by simp [State.countBadHdr]
@[simp] theorem State.countCircDrop_gate : s.countCircDrop.gate = s.gate := by simp [State.countCircDrop]
@[simp] theorem State.modFi_gate (port vc g) : (s.modFi port vc g).gate = s.gate := by simp [State.modFi]
@[simp] theorem State.judge_gate (port vc q) : (s.judge port vc q).1.gate = s.gate := by
  simp only [State.judge]
  (repeat' split) <;> simp
@[simp] theorem State.atHead_gate (port vc n) : (s.atHead port vc n).gate = s.gate := by
  induction n generalizing s with
  | zero => simp [State.atHead]
  | succ n ih =>
    simp only [State.atHead]
    split
    · rfl
    · split
      · rfl
      · next q _ _ _ =>
        have e := s.judge_gate port vc q
        split <;> next hj => simpa [hj, ih] using e
@[simp] theorem State.setQueue_gate (port vc l) : (s.setQueue port vc l).gate = s.gate := by simp [State.setQueue]
@[simp] theorem State.enqueue_gate (port p discard) : (s.enqueue port p discard).gate = s.gate := by simp [State.enqueue]
@[simp] theorem State.putBack_gate (port vc l) : (s.putBack port vc l).gate = s.gate := by simp [State.putBack]
@[simp] theorem State.releaseHeld_gate (port vc p) : (s.releaseHeld port vc p).gate = s.gate := by simp [State.releaseHeld]
@[simp] theorem State.depart_gate (port vc q) : (s.depart port vc q).gate = s.gate := by simp [State.depart]
@[simp] theorem State.switch_gate (p discard n) : (s.switch p discard n).gate = s.gate := by
  induction n generalizing s p discard with
  | zero => simp [State.switch]
  | succ n ih => simp only [State.switch]; (repeat' split) <;> simp [ih]
@[simp] theorem State.route_gate (p) : (s.route p).gate = s.gate := by simp [State.route]
@[simp] theorem State.respond_gate (p type aux arg payload) : (s.respond p type aux arg payload).gate = s.gate := by simp [State.respond]
@[simp] theorem State.ack_gate (p) : (s.ack p).gate = s.gate := by simp [State.ack]
@[simp] theorem State.nack_gate (p status detail) : (s.nack p status detail).gate = s.gate := by simp [State.nack]
@[simp] theorem State.forward_gate (port discard p) : (s.forward port discard p).gate = s.gate := by
  unfold State.forward
  (repeat' split) <;> simp
@[simp] theorem State.onCircuit_gate (k p) : (s.onCircuit k p).gate = s.gate := by simp [State.onCircuit]
@[simp] theorem State.transmit_gate (p) : (s.transmit p).gate = s.gate := by simp [State.transmit]
/-! ### The tracker -/
@[simp] theorem State.modChan_gate (i c f) : (s.modChan i c f).gate = s.gate := by simp [State.modChan]
@[simp] theorem State.sendTracked_gate (e p ch pieces owner) : (s.sendTracked e p ch pieces owner).gate = s.gate := by
  simp [State.sendTracked]
@[simp] theorem State.sendSnap_gate (i p owner item) : (s.sendSnap i p owner item).1.gate = s.gate := by
  unfold State.sendSnap
  split <;> simp
@[simp] theorem State.sendControl_gate (p owner) : (s.sendControl p owner).gate = s.gate := by
  unfold State.sendControl
  split <;> simp
@[simp] theorem State.drainWaitQ_gate (n) : (s.drainWaitQ n).gate = s.gate := by
  induction n generalizing s with
  | zero => simp [State.drainWaitQ]
  | succ n ih => simp only [State.drainWaitQ]; (repeat' split) <;> simp [ih]
@[simp] theorem State.ctrlEnd_gate (o piece p r) : (s.ctrlEnd o piece p r).gate = s.gate := by
  unfold State.ctrlEnd
  (repeat' split) <;> simp
@[simp] theorem State.endEntry_gate (e x r) : (s.endEntry e x r).gate = s.gate := by
  unfold State.endEntry
  (repeat' split) <;> simp
@[simp] theorem State.unreachable_gate (dst) : (s.unreachable dst).gate = s.gate := by simp [State.unreachable]
@[simp] theorem State.pieceSource_gate (i p) : (s.pieceSource i p).2.2.gate = s.gate := by
  unfold State.pieceSource
  split <;> simp
@[simp] theorem State.resource_gate (x : TrkEntry) : (s.resource x).2.2.gate = s.gate := by
  unfold State.resource
  (repeat' split) <;> simp
@[simp] theorem State.resend_gate (e x series tries mid) : (s.resend e x series tries mid).gate = s.gate := by simp [State.resend]
@[simp] theorem State.series2_gate (e x) : (s.series2 e x).gate = s.gate := by simp [State.series2]
@[simp] theorem State.giveUp_gate (e x) : (s.giveUp e x).gate = s.gate := by simp [State.giveUp]
@[simp] theorem State.tryAgain_gate (e x) : (s.tryAgain e x).gate = s.gate := by simp [State.tryAgain]
@[simp] theorem State.mcastSettle_gate (n m) : (s.mcastSettle n m).gate = s.gate := by simp [State.mcastSettle]
@[simp] theorem State.mcastUnicast_gate (m d series tries mid) : (s.mcastUnicast m d series tries mid).1.gate = s.gate := by
  simp [State.mcastUnicast]
@[simp] theorem State.mcastSeries_gate (m d series) : (s.mcastSeries m d series).1.gate = s.gate := by
  unfold State.mcastSeries
  split <;> simp
@[simp] theorem State.mcastTry_gate (m d) : (s.mcastTry m d).1.gate = s.gate := by
  simp only [State.mcastTry]
  split <;> simp
@[simp] theorem State.mcastTimeout_gate (n m) : (s.mcastTimeout n m).gate = s.gate := by
  simp [State.mcastTimeout]
@[simp] theorem State.mcastDetour_gate (n m node port) : (s.mcastDetour n m node port).gate = s.gate := by
  simp [State.mcastDetour]
@[simp] theorem execTrackerResendTimeout_leavesGate (e) : LeavesGate (execTrackerResendTimeout e s) s := by
  unfold execTrackerResendTimeout
  (repeat' split) <;> simp
@[simp] theorem State.late_gate : s.late.gate = s.gate := by simp [State.late]
@[simp] theorem State.mcastMark_gate (n m d r) : (s.mcastMark n m d r).gate = s.gate := by
  unfold State.mcastMark
  split <;> simp
@[simp] theorem State.crcOk_gate (p) (f : State → State) (h : ∀ u, (f u).gate = u.gate) : (s.crcOk p f).gate = s.gate := by
  simp [State.crcOk, h]
@[simp] theorem execAckReceived_leavesGate (p) : LeavesGate (execAckReceived p s) s := by
  refine (leavesGate_next ..).mpr (State.crcOk_gate _ _ _ fun u => ?_)
  (repeat' split) <;> simp
@[simp] theorem execNackReceived_leavesGate (p) : LeavesGate (execNackReceived p s) s := by
  refine (leavesGate_next ..).mpr (State.crcOk_gate _ _ _ fun u => ?_)
  (repeat' split) <;> simp
@[simp] theorem execReadRespReceived_leavesGate (p) : LeavesGate (execReadRespReceived p s) s := by
  refine (leavesGate_next ..).mpr (State.crcOk_gate _ _ _ fun u => ?_)
  (repeat' split) <;> simp
@[simp] theorem execDetourReceived_leavesGate (p) : LeavesGate (execDetourReceived p s) s := by
  refine (leavesGate_next ..).mpr (State.crcOk_gate _ _ _ fun u => ?_)
  dsimp only
  (repeat' split) <;> simp
@[simp] theorem State.settleEntries_gate : s.settleEntries.gate = s.gate := by
  unfold State.settleEntries
  dsimp only
  rw [foldl_gate, foldl_gate]
  all_goals intro u a; (repeat' split) <;> simp
@[simp] theorem State.filtered_gate (p) (f : State → State) (h : ∀ u, (f u).gate = u.gate) : (s.filtered p f).gate = s.gate := by
  unfold State.filtered
  (repeat' split) <;> simp [h]
/-! ### What a write does to the snapshot engine -/
@[simp] theorem State.copyBytes_gate (c) : (s.copyBytes c).2.2.gate = s.gate := by
  unfold State.copyBytes
  split <;> simp
@[simp] theorem State.keepPreImage_gate (t page) : (s.keepPreImage t page).gate = s.gate := by simp [State.keepPreImage]
@[simp] theorem State.touchPage_gate (page) : (s.touchPage page).gate = s.gate := by
  unfold State.touchPage
  split <;> simp
@[simp] theorem State.touch_gate (a n) : (s.touch a n).gate = s.gate := by simp [State.touch]
@[simp] theorem State.storeHbm_gate (a bs) : (s.storeHbm a bs).1.gate = s.gate := by simp [State.storeHbm]
@[simp] theorem State.snapPump_gate (n) : (s.snapPump n).gate = s.gate := by
  induction n generalizing s with
  | zero => simp [State.snapPump]
  | succ n ih => simp only [State.snapPump]; (repeat' split) <;> simp [ih]
/-! ### The memory frame -/
@[simp] theorem State.serveHbm_gate (r) : (s.serveHbm r).1.gate = s.gate := by
  unfold State.serveHbm
  split <;> simp
@[simp] theorem State.serveAt_gate (i slot) : (s.serveAt i slot).gate = s.gate := by
  simp only [State.serveAt, State.modIsl_gate]
  exact foldl_fst_gate _ (fun r a => by split <;> simp) _ _
@[simp] theorem State.serveTo_gate (bound) : (s.serveTo bound).gate = s.gate := by simp [State.serveTo]
@[simp] theorem State.hbmDone_gate (r) : (s.hbmDone r).gate = s.gate := by simp [State.hbmDone]
@[simp] theorem State.takeShared_gate (g slot) : (s.takeShared g slot).gate = s.gate := by simp [State.takeShared]
@[simp] theorem State.serveShared_gate (g slot) : (s.serveShared g slot).gate = s.gate := by
  unfold State.serveShared
  split <;> simp
@[simp] theorem State.sharedTurn_gate (g n) : (s.sharedTurn g n).gate = s.gate := by
  induction n generalizing s with
  | zero => simp [State.sharedTurn]
  | succ n ih => simp [State.sharedTurn, ih]
@[simp] theorem State.sharedTurns_gate (a n) : (s.sharedTurns a n).gate = s.gate := by simp [State.sharedTurns]
@[simp] theorem State.sharedRead_gate (a n) : (s.sharedRead a n).2.2.gate = s.gate := by simp [State.sharedRead]
@[simp] theorem State.storeShared_gate (a bs) : (s.storeShared a bs).1.gate = s.gate := by simp [State.storeShared]
/-! ### DMA channels -/
@[simp] theorem State.claim_gate (i bank c) : (s.claim i bank c).gate = s.gate := by simp [State.claim]
@[simp] theorem State.bankTouch_gate (i off n) : (s.bankTouch i off n).gate = s.gate := by simp [State.bankTouch]
@[simp] theorem State.semAt_gate (i sem c) : (s.semAt i sem c).gate = s.gate := by simp [State.semAt]
@[simp] theorem State.writeAt_gate (i off bs c) : (s.writeAt i off bs c).gate = s.gate := by simp [State.writeAt]
@[simp] theorem State.noRecord_gate (i ch sem c) : (s.noRecord i ch sem c).gate = s.gate := by simp [State.noRecord]
@[simp] theorem State.takeUpFails_gate (i ch sem status detail c) : (s.takeUpFails i ch sem status detail c).gate = s.gate := by
  simp [State.takeUpFails]
@[simp] theorem State.readHeader_gate (i off) : (s.readHeader i off).2.gate = s.gate := by
  simp only [State.readHeader]
  (repeat' split) <;> simp
@[simp] theorem State.takeUp_gate (i ch c) : (s.takeUp i ch c).gate = s.gate := by
  unfold State.takeUp
  split
  · rfl
  · dsimp only
    split
    · simp
    · split
      · simp
      · split <;> next h =>
          have e := congrArg (·.2.gate) h
          simp at e
          (repeat' split) <;> simp [← e]
@[simp] theorem execDmaDescriptorTakeUp_leavesGate (isl ch) : LeavesGate (execDmaDescriptorTakeUp isl ch s) s := by
  unfold execDmaDescriptorTakeUp
  split <;> simp
@[simp] theorem State.openRun_gate (i ch) : (s.openRun i ch).gate = s.gate := by
  simp only [State.openRun]
  (repeat' split) <;> simp
theorem State.bankPush_gate {j r} {t : State} (h : s.bankPush j r = some t) : t.gate = s.gate := by
  simp only [State.bankPush, Option.ite_none_left_eq_some, Option.some.injEq] at h
  simp [← h.2]
@[simp] theorem State.askPieces_gate (i ch last n) : (s.askPieces i ch last n).2.gate = s.gate := by
  induction n generalizing s last with
  | zero => simp [State.askPieces]
  | succ n ih => simp only [State.askPieces]; (repeat' split) <;> simp [ih]
theorem State.kickRead_gate {i ch c} {t : State} (h : s.kickRead i ch c = some t) : t.gate = s.gate := by
  simp only [State.kickRead] at h
  split at h
  · cases h
  · cases h; simp
  · split at h
    · obtain ⟨u, hu, rfl⟩ := Option.map_eq_some_iff.mp h
      simp [State.bankPush_gate _ hu]
    · obtain ⟨u, hu, rfl⟩ := Option.map_eq_some_iff.mp h
      simp [State.bankPush_gate _ hu]
    · cases h
    · split at h <;> cases h
      simp
theorem State.kickWrite_gate {i ch c} {t : State} (h : s.kickWrite i ch c = some t) : t.gate = s.gate := by
  simp only [State.kickWrite] at h
  split at h
  · cases h
  · split at h
    · cases h
    · split at h
      · cases h
      · replace h := (Option.ite_none_left_eq_some.mp h).2
        split at h <;> cases h
        simp
      · split at h
        · cases h
        · obtain ⟨u, hu, rfl⟩ := Option.map_eq_some_iff.mp (Option.ite_none_left_eq_some.mp h).2
          simp [State.bankPush_gate _ hu]
@[simp] theorem State.settle_gate (i ch c) : (s.settle i ch c).gate = s.gate := by
  simp only [State.settle]
  (repeat' split) <;> simp
@[simp] theorem State.kickChan_gate (i ch c n) : (s.kickChan i ch c n).gate = s.gate := by
  induction n generalizing s with
  | zero => simp [State.kickChan]
  | succ n ih =>
    simp only [State.kickChan]
    split
    · next h => rw [ih, State.kickWrite_gate _ h]
    · split
      · next h => rw [ih, State.kickRead_gate _ h]
      · simp
@[simp] theorem State.kick_gate (i c) : (s.kick i c).gate = s.gate := by simp [State.kick]
@[simp] theorem State.serveBank_gate (j r) : (s.serveBank j r).gate = s.gate := by simp [State.serveBank]
@[simp] theorem State.serveHead_gate (j bank c) : (s.serveHead j bank c).gate = s.gate := by
  unfold State.serveHead
  split <;> simp
@[simp] theorem execBankOpenCycleAccess_leavesGate (isl bank) : LeavesGate (execBankOpenCycleAccess isl bank s) s := by
  simp only [execBankOpenCycleAccess]
  split <;> simp
@[simp] theorem State.portTake_gate (i ch c) : (s.portTake i ch c).1.gate = s.gate := by
  simp only [State.portTake]
  (repeat' split) <;> simp [State.modChan]
@[simp] theorem State.portRound_gate (i c l n) : (s.portRound i c l n).gate = s.gate := by
  induction l generalizing s n with
  | nil => simp [State.portRound]
  | cons ch l ih =>
    cases n with
    | zero => simp [State.portRound]
    | succ n => simp only [State.portRound]; (repeat' split) <;> simp [ih]
@[simp] theorem State.portCycle_gate (i c) : (s.portCycle i c).gate = s.gate := by simp [State.portCycle]
@[simp] theorem State.hbmLands_gate (i time) : (s.hbmLands i time).gate = s.gate := by simp [State.hbmLands]
@[simp] theorem execHbmIslandAccessComplete_leavesGate (isl) : LeavesGate (execHbmIslandAccessComplete isl s) s := by
  simp only [execHbmIslandAccessComplete]
  split <;> simp
@[simp] theorem State.writePi_gate (i ch cqOff pi sem refused c) : (s.writePi i ch cqOff pi sem refused c).gate = s.gate := by
  simp [State.writePi]
@[simp] theorem State.badHeader_gate (i ch r st c) : (s.badHeader i ch r st c).gate = s.gate := by simp [State.badHeader]
@[simp] theorem State.writeRecord_gate (i ch r c) : (s.writeRecord i ch r c).gate = s.gate := by
  unfold State.writeRecord
  dsimp only
  split <;> next h =>
    have e := congrArg (·.2.gate) h
    simp at e
    (repeat' split) <;> simp [← e]
@[simp] theorem State.completeRefused_gate (i ch r c) : (s.completeRefused i ch r c).gate = s.gate := by simp [State.completeRefused]
@[simp] theorem State.completeStep_gate (i ch c) : (s.completeStep i ch c).gate = s.gate := by
  simp only [State.completeStep]
  (repeat' split) <;> simp
@[simp] theorem execDmaCompletion_leavesGate (isl ch) : LeavesGate (execDmaCompletion isl ch s) s := by
  unfold execDmaCompletion
  split <;> simp
@[simp] theorem State.bankCycle_gate (j c n) : (s.bankCycle j c n).gate = s.gate := by
  induction n generalizing s with
  | zero => simp [State.bankCycle]
  | succ n ih => simp only [State.bankCycle]; split <;> simp [ih]
@[simp] theorem State.chanCycle_gate (i c ch) : (s.chanCycle i c ch).gate = s.gate := by simp [State.chanCycle]
@[simp] theorem State.asyncCycle_gate (i c) : (s.asyncCycle i c).gate = s.gate := by simp [State.asyncCycle]
/-! ### Captures and cuts -/
@[simp] theorem State.toPartner_gate (p off bs o) : (s.toPartner p off bs o).gate = s.gate := by
  simp only [State.toPartner]
  split <;> simp
@[simp] theorem State.cutEdge_gate (p n byCmd) : (s.cutEdge p n byCmd).gate = s.gate := by
  simp only [State.cutEdge]
  split
  · rfl
  · exact (State.toPartner_gate ..).trans (State.modSnap_gate ..)
set_option maxRecDepth 20000 in -- the equation of `latch` alone is beyond the default depth
@[simp] theorem State.latch_gate (p i n) : (s.latch p i n).gate = s.gate := by
  unfold State.latch
  extract_lets v bs inexact u
  have hu : u.gate = s.gate := by simp only [u, State.bankTouch_gate, State.setIsl_gate]
  clear_value u bs inexact
  split <;> simp only [State.modSnap_gate, hu]
@[simp] theorem State.lossRecord_gate (p m) : ∀ b t, State.lossRecord s p m = some (b, t) → t.gate = s.gate := by
  simp only [State.lossRecord]
  (repeat' split) <;> simp
/-! ### Power and clock levels -/
@[simp] theorem State.sendBar_gate (g dst payload) : (s.sendBar g dst payload).gate = s.gate := by simp [State.sendBar]
@[simp] theorem State.announce_gate (level) : (s.announce level).gate = s.gate := by simp [State.announce]
@[simp] theorem State.ramp_gate (goal) : (s.ramp goal).gate = s.gate := by simp [State.ramp]
@[simp] theorem State.decideLevel_gate (paced) : (s.decideLevel paced).gate = s.gate := by simp [State.decideLevel]
@[simp] theorem State.paceOut_gate (l) : (s.paceOut l).gate = s.gate := by simp [State.paceOut]
@[simp] theorem State.setLevel_gate (l) : (s.setLevel l).gate = s.gate := by simp [State.setLevel]
@[simp] theorem State.levelPoint_gate (paced) : (s.levelPoint paced).gate = s.gate := by simp [State.levelPoint]
@[simp] theorem execCapGraceExpiry_leavesGate : LeavesGate (execCapGraceExpiry s) s := by
  unfold execCapGraceExpiry
  split <;> simp
@[simp] theorem State.capChanged_gate (old) : (s.capChanged old).gate = s.gate := by simp [State.capChanged]
@[simp] theorem State.emergencyBegins_gate (bits) : (s.emergencyBegins bits).gate = s.gate := by simp [State.emergencyBegins]
@[simp] theorem State.emergencyClears_gate (bits) : (s.emergencyClears bits).gate = s.gate := by
  simp only [State.emergencyClears]
  split <;> simp
/-! ### Barrier groups -/
@[simp] theorem State.recordRelease_gate (g n t last apply level) : (s.recordRelease g n t last apply level).gate = s.gate := by
  simp [State.recordRelease]
@[simp] theorem State.fixRelease_gate (g) : (s.fixRelease g).gate = s.gate := by
  simp only [State.fixRelease]
  (repeat' split) <;> simp
@[simp] theorem State.applyArrival_gate (g n a) : (s.applyArrival g n a).gate = s.gate := by simp [State.applyArrival]
@[simp] theorem State.sendArrival_gate (g a) : (s.sendArrival g a).gate = s.gate := by simp [State.sendArrival]
@[simp] theorem State.tryArrive_gate (g) : (s.tryArrive g).gate = s.gate := by
  unfold State.tryArrive
  (repeat' split) <;> simp
@[simp] theorem execBarriveArrival_leavesGate (isl) : LeavesGate (execBarriveArrival isl s) s := by
  simp only [execBarriveArrival]
  split <;> simp
@[simp] theorem State.barPacket_gate (p kind mine) (f : State → BarMsg → State) (h : ∀ u x, (f u x).gate = u.gate) :
    (s.barPacket p kind mine f).gate = s.gate := by
  simp [State.barPacket, h]
@[simp] theorem State.lossEdge_gate (p m) : (s.lossEdge p m).gate = s.gate := by
  unfold State.lossEdge
  split
  · rfl
  · next h =>
    have e := s.lossRecord_gate _ _ _ _ h
    dsimp only
    (repeat' split) <;> simp [e]
@[simp] theorem State.startEdge_gate (p e time) : (s.startEdge p e time).gate = s.gate := by simp [State.startEdge]
@[simp] theorem execReleaseEdge_leavesGate (group) : LeavesGate (execReleaseEdge group s) s := by
  simp only [execReleaseEdge]
  split <;> simp
@[simp] theorem State.pauseDone_gate (p) : (s.pauseDone p).gate = s.gate := by simp [State.pauseDone]
@[simp] theorem execIslandRelease_leavesGate (group isl) : LeavesGate (execIslandRelease group isl s) s := by
  refine (leavesGate_next ..).mpr ?_
  extract_lets g i b p
  split
  · rfl
  · split
    · rfl
    · split
      · rfl
      · extract_lets rest u1 u2 v w u3
        have h1 : u1.gate = s.gate := by simp [u1]
        have h2 : u2.gate = s.gate := by simp only [u2]; split <;> simp [h1]
        have h3 : u3.gate = s.gate := by simp only [u3]; (repeat' split) <;> simp [h1, h2]
        split <;> simp [h3]
/-! ### Sent flits -/
@[simp] theorem State.sendFlit_gate (port kind body rest) : (s.sendFlit port kind body rest).gate = s.gate := by simp [State.sendFlit]
@[simp] theorem State.nextFlit_gate (port) : (s.nextFlit port).gate = s.gate := by
  simp only [State.nextFlit]
  split <;> simp
@[simp] theorem State.tickFlits_gate (port) : (s.tickFlits port).gate = s.gate := by simp [State.tickFlits]
/-! ### Destinations, multicast, circuits, the epoch -/
@[simp] theorem State.countLines_gate (p n) : (s.countLines p n).gate = s.gate := by simp [State.countLines]
@[simp] theorem State.storeRegion_gate (part r bs) : (s.storeRegion part r bs).1.gate = s.gate := by
  unfold State.storeRegion
  split <;> simp
@[simp] theorem State.receive_gate (p refuse) (f : State → State) (h : ∀ u, (f u).gate = u.gate) :
    (s.receive p refuse f).gate = s.gate := by
  unfold State.receive
  (repeat' split) <;> simp [h]
@[simp] theorem State.acceptWrite_gate (p r) : (s.acceptWrite p r).gate = s.gate := by
  unfold State.acceptWrite
  split <;> simp
@[simp] theorem execReadReqReceived_leavesGate (p) : LeavesGate (execReadReqReceived p s) s := by
  refine (leavesGate_next ..).mpr (State.crcOk_gate _ _ _ fun u => ?_)
  split
  · rfl
  · split
    · simp
    · split <;> simp
@[simp] theorem execNotifyReceived_leavesGate (p) : LeavesGate (execNotifyReceived p s) s := by
  refine (leavesGate_next ..).mpr (State.crcOk_gate _ _ _ fun u => State.receive_gate _ _ _ _ fun u => ?_)
  split <;> simp
@[simp] theorem State.copyTo_gate (p port) : (s.copyTo p port).gate = s.gate := by simp [State.copyTo]
@[simp] theorem State.mcastForward_gate (port p) : (s.mcastForward port p).gate = s.gate := by simp [State.mcastForward]
@[simp] theorem State.mcastDeliver_gate (p) : (s.mcastDeliver p).gate = s.gate := by
  refine State.crcOk_gate _ _ _ fun u => ?_
  dsimp only
  split
  · split <;> simp
  · simp
  · rfl
@[simp] theorem State.taken_gate (port p) : (s.taken port p).gate = s.gate := by simp [State.taken]
@[simp] theorem State.mcastOpen_gate (n p members) : (s.mcastOpen n p members).gate = s.gate := by simp [State.mcastOpen]
@[simp] theorem State.mcastSend_gate (p) : (s.mcastSend p).gate = s.gate := by
  unfold State.mcastSend
  split <;> simp
@[simp] theorem State.drainMcastQ_gate (n) : (s.drainMcastQ n).gate = s.gate := by
  induction n generalizing s with
  | zero => simp [State.drainMcastQ]
  | succ n ih => simp only [State.drainMcastQ]; split <;> simp [ih]
@[simp] theorem State.expireCircuit_gate (port) : (s.expireCircuit port).gate = s.gate := by
  simp only [State.expireCircuit]
  (repeat' split) <;> simp
@[simp] theorem execPacketQueueExpiry_leavesGate (port vc) : LeavesGate (execPacketQueueExpiry port vc s) s := by
  unfold execPacketQueueExpiry
  split <;> simp
@[simp] theorem execPacketAtQueueHead_leavesGate (port vc) : LeavesGate (execPacketAtQueueHead port vc s) s := by
  simp only [execPacketAtQueueHead]
  split <;> simp
@[simp] theorem State.dropClaims_gate (feature) : (s.dropClaims feature).gate = s.gate := by simp [State.dropClaims]
@[simp] theorem State.circuitLost_gate (port p) : (s.circuitLost port p).gate = s.gate := by simp [State.circuitLost]
@[simp] theorem State.positionLost_gate (port ps) : (s.positionLost port ps).gate = s.gate := by simp [State.positionLost]
@[simp] theorem State.circArrive_gate (port c) : (s.circArrive port c).gate = s.gate := by
  simp only [State.circArrive]
  split <;> simp
@[simp] theorem State.circOnward_gate (ps) : (s.circOnward ps).1.gate = s.gate :=
  foldl_fst_gate _ (fun r c => by split <;> simp) _ _
@[simp] theorem State.fillPosition_gate (port k m n) : (s.fillPosition port k m n).1.gate = s.gate := by
  induction n generalizing s m with
  | zero => simp [State.fillPosition]
  | succ n ih =>
    simp only [State.fillPosition]
    split
    · rfl
    · next q _ _ =>
      split
      · rfl
      · have e : (if q.seen then (s, some q) else s.judge port 6 q).1.gate = s.gate := by split <;> simp
        split
        · next hj => simpa [hj, ih] using e
        · next hj => rw [hj] at e; split <;> simpa [ih] using e
@[simp] theorem State.transitSegs_gate (port ps) : (s.transitSegs port ps).1.gate = s.gate := by
  refine foldl_fst_gate _ (fun r c => ?_) _ _
  dsimp only
  split
  · rfl
  · have e := r.1.judge_gate port 6 ⟨c.pkt, s.clk.now, false, false, none, none⟩
    split <;> next hj => simpa [hj] using e
@[simp] theorem State.sendPosition_gate (port pos epoch l) : (s.sendPosition port pos epoch l).gate = s.gate := by simp [State.sendPosition]
@[simp] theorem State.dispatchPosition_gate (port pos epoch l) : (s.dispatchPosition port pos epoch l).gate = s.gate := by
  simp [State.dispatchPosition]
@[simp] theorem execCircuitPositionSend_leavesGate (port pos) : LeavesGate (execCircuitPositionSend port pos s) s := by
  simp only [execCircuitPositionSend]
  (repeat' split) <;> simp
@[simp] theorem execEpochFlip_leavesGate : LeavesGate (execEpochFlip s) s := by
  unfold execEpochFlip
  split <;> simp
/-! ### Ports -/
@[simp] theorem State.freeBlocks_gate (port vc n) : (s.freeBlocks port vc n).gate = s.gate := by simp [State.freeBlocks]
@[simp] theorem State.cutPacket_gate (port) : (s.cutPacket port).gate = s.gate := by
  simp only [State.cutPacket]
  (repeat' split) <;> simp
@[simp] theorem State.flitLost_gate (port) : (s.flitLost port).gate = s.gate := by simp [State.flitLost]
@[simp] theorem State.freeLost_gate (port first) : (s.freeLost port first).gate = s.gate := by
  simp only [State.freeLost]
  (repeat' split) <;> simp
@[simp] theorem State.takeBlock_gate (port first discard) (r : State × Bool) (ib) :
    (State.takeBlock port first discard r ib).1.gate = r.1.gate := by
  simp only [State.takeBlock]
  (repeat' split) <;> simp
@[simp] theorem State.peerNarrows_gate (port) : (s.peerNarrows port).gate = s.gate := by simp [State.peerNarrows]
@[simp] theorem State.goodFlit_gate (port flit fixed) : (s.goodFlit port flit fixed).gate = s.gate := by
  simp only [State.goodFlit]
  (repeat' split) <;> simp
@[simp] theorem execFlitReceive_leavesGate (port coded) : LeavesGate (execFlitReceive port coded s) s := by
  unfold execFlitReceive
  split <;> simp
@[simp] theorem State.widthChanged_gate (port) : (s.widthChanged port).gate = s.gate := by simp [State.widthChanged]
@[simp] theorem State.settlePort_gate (port) : (s.settlePort port).gate = s.gate := by simp [State.settlePort]
@[simp] theorem State.narrow_gate (port) : (s.narrow port).gate = s.gate := by simp [State.narrow]
@[simp] theorem State.failLanes_gate (port lanes) : (s.failLanes port lanes).gate = s.gate := by
  simp only [State.failLanes]
  (repeat' split) <;> simp
@[simp] theorem State.openPort_gate (port) : (s.openPort port).gate = s.gate := by simp [State.openPort]
@[simp] theorem State.exchange_gate (port) : (s.exchange port).gate = s.gate := by simp [State.exchange]
@[simp] theorem State.checkWiring_gate (port) : (s.checkWiring port).gate = s.gate := by simp [State.checkWiring]
@[simp] theorem execPeerExchange_leavesGate (port node peerPort attached doubled) :
    LeavesGate (execPeerExchange port node peerPort attached doubled s) s := by
  simp only [execPeerExchange]
  (repeat' split) <;> simp
@[simp] theorem State.recheckPorts_gate : s.recheckPorts.gate = s.gate := by simp [State.recheckPorts]
/-! ### Claims -/
@[simp] theorem State.setClaim_gate (r h) : (s.setClaim r h).gate = s.gate := by simp [State.setClaim]
@[simp] theorem State.setClaims_gate (rs h) : (s.setClaims rs h).gate = s.gate := by simp [State.setClaims]
@[simp] theorem State.release_gate (h) : (s.release h).gate = s.gate := by simp [State.release]
@[simp] theorem State.releaseFeat_gate (feat) : (s.releaseFeat feat).gate = s.gate := by simp [State.releaseFeat]
@[simp] theorem State.takeComp_gate (h) : (s.takeComp h).gate = s.gate := by
  unfold State.takeComp
  split <;> simp
@[simp] theorem State.auxSettle_gate : s.auxSettle.gate = s.gate := by simp [State.auxSettle]
@[simp] theorem State.retainedClaims_gate : s.retainedClaims.gate = s.gate := by
  simp only [State.retainedClaims]
  split <;> simp
/-! ### Gating groups, scrub, log copies -/
@[simp] theorem State.setGroupSt_gate (g st) : (s.setGroupSt g st).gate = s.gate := by simp [State.setGroupSt]
@[simp] theorem State.wakeGroup_gate (g) : (s.wakeGroup g).gate = s.gate := by
  simp only [State.wakeGroup]
  (repeat' split) <;> simp
@[simp] theorem execPowerGatingEntryDone_leavesGate (g) : LeavesGate (execPowerGatingEntryDone g s) s := by
  simp only [execPowerGatingEntryDone]
  split <;> simp
@[simp] theorem execGroupWakeComplete_leavesGate (g) : LeavesGate (execGroupWakeComplete g s) s := by
  simp only [execGroupWakeComplete]
  split <;> simp
@[simp] theorem State.takeScrub_gate (g slot) : (s.takeScrub g slot).gate = s.gate := by simp [State.takeScrub]
@[simp] theorem execPatrolScrub_leavesGate (g) : LeavesGate (execPatrolScrub g s) s := by
  simp only [execPatrolScrub]
  split <;> simp
@[simp] theorem execScrubRewrite_leavesGate (g) : LeavesGate (execScrubRewrite g s) s := by
  simp only [execScrubRewrite]
  (repeat' split) <;> simp
@[simp] theorem State.excPut_gate (p bs) : (s.excPut p bs).gate = s.gate := by
  unfold State.excPut
  split <;> simp
/-! ### Images -/
@[simp] theorem State.readImage_gate (p a) : (s.readImage p a).2.gate = s.gate := by
  simp only [State.readImage]
  (repeat' split) <;> simp
/-! ### The command interpreter -/
@[simp] theorem State.refuse_leavesGate (t s : State) (st d) : (t.refuse st d).LeavesGate s ↔ t.gate = s.gate := Iff.rfl
@[simp] theorem State.wrong_leavesGate (t s : State) (d) : (t.wrong d).LeavesGate s ↔ t.gate = s.gate := Iff.rfl
@[simp] theorem State.leaveIdle_gate : s.leaveIdle.gate = s.gate := by simp [State.leaveIdle]
@[simp] theorem State.startLong_leavesGate (t s : State) (c op at_ plane) (f : State → State) (e : t.gate = s.gate)
    (h : ∀ u, (f u).gate = u.gate) : (t.startLong c op at_ plane f).LeavesGate s := by
  unfold State.startLong
  (repeat' split) <;> simp [e, h]
@[simp] theorem State.unlessBusy_leavesGate (t s : State) (b) (f : Unit → Run) (e : t.gate = s.gate) (h : (f ()).LeavesGate s) :
    (t.unlessBusy b f).LeavesGate s := by
  unfold State.unlessBusy
  split
  · simpa using e
  · exact h
@[simp] theorem State.breakRing_gate (r reason) : (s.breakRing r reason).gate = s.gate := by simp [State.breakRing]
@[simp] theorem State.settleRing_gate (r) : (s.settleRing r).gate = s.gate := by simp [State.settleRing]
@[simp] theorem State.settleStop_gate (r) : (s.settleStop r).gate = s.gate := by simp [State.settleStop]
@[simp] theorem State.advanceCi_gate (r n) : (s.advanceCi r n).gate = s.gate := by simp [State.advanceCi]
@[simp] theorem State.readSlots_gate (r n) : (s.readSlots r n).gate = s.gate := by simp [State.readSlots]
@[simp] theorem State.fetch_gate (p op) (start : Nat → State → State) (h : ∀ n u, (start n u).gate = u.gate) :
    (s.fetch p op start).gate = s.gate := by
  unfold State.fetch
  (repeat' split) <;> simp [h]
@[simp] theorem State.command_gate (c op extra) (body : Nat → State → Run) (h : ∀ n u, (body n u).LeavesGate u) :
    (s.command c op extra body).gate = s.gate := by
  unfold State.command
  split
  · rfl
  · refine State.fetch_gate _ _ _ _ fun n u => ?_
    split
    · simp
    · have e := h n u
      split <;> next hb => simp only [hb, Run.leavesGate_reply, Run.leavesGate_first, Run.leavesGate_long] at e; simp [e]
theorem leavesGate_command {s : State} {c op extra} {body : Nat → State → Run} (h : ∀ n u, (body n u).LeavesGate u) :
    LeavesGate (.next (s.command c op extra body)) s := (leavesGate_next ..).mpr (State.command_gate _ _ _ _ _ h)
@[simp] theorem State.simple_gate (c op) (body : State → Rep × State) (h : ∀ u, (body u).2.gate = u.gate) :
    (s.simple c op body).gate = s.gate := State.command_gate _ _ _ _ _ fun _ u => h u
theorem leavesGate_simple {s : State} {c op} {body : State → Rep × State} (h : ∀ u, (body u).2.gate = u.gate) :
    LeavesGate (.next (s.simple c op body)) s := (leavesGate_next ..).mpr (State.simple_gate _ _ _ _ h)
@[simp] theorem State.withdraw_gate (c) : (s.withdraw c).gate = s.gate := by simp [State.withdraw]
@[simp] theorem execCommandTimeout_leavesGate (ring tag) : LeavesGate (execCommandTimeout ring tag s) s := by
  unfold execCommandTimeout
  (repeat' split) <;> simp
/-! ### The host interface -/
@[simp] theorem State.saveSettings_gate : s.saveSettings.gate = s.gate := by simp [State.saveSettings]
@[simp] theorem State.linkWoken_gate : s.linkWoken.gate = s.gate := by simp [State.linkWoken]
@[simp] theorem State.barDiscarded_gate : s.barDiscarded.gate = s.gate := by simp [State.barDiscarded]
@[simp] theorem State.dropHeld_gate (r) : (s.dropHeld r).gate = s.gate := by simp [State.dropHeld]
@[simp] theorem State.dropRings_gate : s.dropRings.gate = s.gate := by simp [State.dropRings]
@[simp] theorem State.holdLine_gate (comp r a) : (s.holdLine comp r a).gate = s.gate := by simp [State.holdLine]
@[simp] theorem State.dropLine_gate (comp r) : (s.dropLine comp r).gate = s.gate := by simp [State.dropLine]
@[simp] theorem execCommandRingDisable_leavesGate (ring v) : LeavesGate (execCommandRingDisable ring v s) s := by
  simp only [execCommandRingDisable]
  (repeat' split) <;> simp
@[simp] theorem State.ringsSettled_gate : s.ringsSettled.gate = s.gate := by simp [State.ringsSettled]
@[simp] theorem State.noticed_gate (poll x) : (s.noticed poll x).gate = s.gate := by
  simp only [State.noticed]
  (repeat' split) <;> simp
@[simp] theorem State.hostRefused_gate : s.hostRefused.gate = s.gate := by simp [State.hostRefused]
@[simp] theorem State.grant_gate (line) : (s.grant line).gate = s.gate := by
  unfold State.grant
  (repeat' split) <;> simp
@[simp] theorem execCxlMemRead_leavesGate (hpa cacheable) : LeavesGate (execCxlMemRead hpa cacheable s) s := by
  simp only [execCxlMemRead]
  (repeat' split) <;> simp
@[simp] theorem execCxlMemWrite_leavesGate (hpa bytes poison) : LeavesGate (execCxlMemWrite hpa bytes poison s) s := by
  simp only [execCxlMemWrite]
  (repeat' split) <;> simp
@[simp] theorem State.unmask_gate (r) : (s.unmask r).gate = s.gate := by simp [State.unmask]
@[simp] theorem State.writeMsix_gate (off v) : (s.writeMsix off v).gate = s.gate := by simp [State.writeMsix]
@[simp] theorem State.writeRing_gate (comp r k v) : (s.writeRing comp r k v).gate = s.gate := by simp [State.writeRing]
@[simp] theorem State.writeBar_gate (off v) : (s.writeBar off v).gate = s.gate := by simp [State.writeBar]
/-! ### Pins -/
/-! ### Starts, restarts, trips -/
@[simp] theorem State.setStart_gate (x) : (s.setStart x).gate = s.gate := by simp [State.setStart]
@[simp] theorem State.loseSnapshots_gate : s.loseSnapshots.gate = s.gate := by simp [State.loseSnapshots]
@[simp] theorem State.loseFabric_gate : s.loseFabric.gate = s.gate := by simp [State.loseFabric]
@[simp] theorem State.loseCommands_gate : s.loseCommands.gate = s.gate := by simp [State.loseCommands]
@[simp] theorem State.componentLoss_gate (c) : (s.componentLoss c).gate = s.gate := by
  unfold State.componentLoss
  split <;> simp
/-! ### Device and partition commands -/
@[simp] theorem execSetNode_leavesGate (c) : LeavesGate (execSetNode c s) s :=
  leavesGate_simple fun u => by split <;> simp
@[simp] theorem execPartCreate_leavesGate (c) : LeavesGate (execPartCreate c s) s :=
  leavesGate_simple fun u => by dsimp only; split <;> simp
@[simp] theorem State.recheckLines_gate (a n) : (s.recheckLines a n).gate = s.gate := by simp [State.recheckLines]
@[simp] theorem State.freeGroups_gate (p) : (s.freeGroups p).gate = s.gate := by simp [State.freeGroups]
@[simp] theorem execPartDestroy_leavesGate (c) : LeavesGate (execPartDestroy c s) s := by
  refine leavesGate_command fun n u => State.unlessBusy_leavesGate _ _ _ _ rfl ?_
  dsimp only
  (repeat' split) <;> simp
@[simp] theorem State.putWindow_gate (p w x) : (s.putWindow p w x).gate = s.gate := by simp [State.putWindow]
@[simp] theorem State.windowChange_leavesGate (p w x) : (s.windowChange p w x).LeavesGate s := by
  simp [State.windowChange]
/-! ### Fabric time -/
@[simp] theorem State.setTime_gate (t) : (s.setTime t).gate = s.gate := by simp [State.setTime]
@[simp] theorem State.takeTime_gate (t) : (s.takeTime t).gate = s.gate := by simp [State.takeTime]
/-! ### Fabric commands -/
@[simp] theorem State.modTab_gate (e f) : (s.modTab e f).gate = s.gate := by simp [State.modTab]
@[simp] theorem State.onVersion_leavesGate (e) (f : Unit → Run) (h : (f ()).LeavesGate s) : (s.onVersion e f).LeavesGate s := by
  refine State.unlessBusy_leavesGate _ _ _ _ rfl ?_
  split
  · simp
  · exact h
@[simp] theorem execTableWrite_leavesGate (c) : LeavesGate (execTableWrite c s) s :=
  leavesGate_command fun n u => by simp
@[simp] theorem execTableCommit_leavesGate (c) : LeavesGate (execTableCommit c s) s :=
  leavesGate_command fun n u => by simp
@[simp] theorem execTableCommitComplete_leavesGate (ver) : LeavesGate (execTableCommitComplete ver s) s := by
  unfold execTableCommitComplete
  (repeat' split) <;> simp
@[simp] theorem execFlipArm_leavesGate (c) : LeavesGate (execFlipArm c s) s := by
  refine leavesGate_command fun n u => ?_
  (repeat' split) <;> simp
@[simp] theorem State.auxTaken_gate (port) : (s.auxTaken port).gate = s.gate := by simp [State.auxTaken]
@[simp] theorem State.portWrite_gate (k on allow thr) : (s.portWrite k on allow thr).gate = s.gate := by simp [State.portWrite]
@[simp] theorem State.portSetting_gate (c) : (s.portSetting c).gate = s.gate := by simp [State.portSetting]
@[simp] theorem onForm_gate (c off bit v) (s t : State) (h : t.gate = s.gate) : (onForm c off bit v s t).gate = s.gate := by
  simp [onForm, h]
@[simp] theorem execAuxMode_leavesGate (c) : LeavesGate (execAuxMode c s) s := leavesGate_command fun n u => by simp
@[simp] theorem State.syncClaims_gate (new) : (s.syncClaims new).gate = s.gate := by
  unfold State.syncClaims
  (repeat' split) <;> simp
@[simp] theorem execTimeCfg_leavesGate (c) : LeavesGate (execTimeCfg c s) s := by
  refine leavesGate_command fun n u => ?_
  dsimp only
  split <;> simp
@[simp] theorem State.rearrive_gate (g old) : (s.rearrive g old).gate = s.gate := by
  simp only [State.rearrive]
  split <;> simp
@[simp] theorem execBarrierCfg_leavesGate (c) : LeavesGate (execBarrierCfg c s) s := by
  refine leavesGate_command fun n u => ?_
  dsimp only
  split <;> simp
@[simp] theorem execBarrierFree_leavesGate (c) : LeavesGate (execBarrierFree c s) s := by
  refine leavesGate_command fun n u => ?_
  dsimp only
  split <;> simp
/-! ### Pipeline commands -/
@[simp] theorem execLoad_leavesGate (c) : LeavesGate (execLoad c s) s := leavesGate_command fun n u => by simp
@[simp] theorem State.failImage_gate (c st d f) : (s.failImage c st d f).gate = s.gate := by simp [State.failImage]
@[simp] theorem execLoadComplete_leavesGate (p) : LeavesGate (execLoadComplete p s) s := by
  refine (leavesGate_next ..).mpr ?_
  dsimp only
  split
  · rfl
  · next c _ =>
    have e := s.readImage_gate p.toNat (c.pkt.at_ 24 8)
    split
    · rfl
    · split <;> next hj => simpa [hj] using e
@[simp] theorem execUnload_leavesGate (c) : LeavesGate (execUnload c s) s := leavesGate_command fun n u => by simp
@[simp] theorem State.claimFor_gate (p im) : (s.claimFor p im).gate = s.gate := by simp [State.claimFor]
@[simp] theorem State.bindBegins_gate (p) : (s.bindBegins p).gate = s.gate := by
  have e := s.readImage_gate p (s.getPart p).image.toNat
  unfold State.bindBegins
  split
  · next hj => rw [hj] at e; split <;> simp [← e]
  · rfl
@[simp] theorem execBind_leavesGate (c) : LeavesGate (execBind c s) s := by
  refine leavesGate_command fun n u => State.unlessBusy_leavesGate _ _ _ _ rfl ?_
  dsimp only
  (repeat' split) <;> simp
@[simp] theorem State.flushLog_gate (i) : (s.flushLog i).gate = s.gate := by simp [State.flushLog]
@[simp] theorem State.place_gate (p im img) : (s.place p im img).gate = s.gate := by simp [State.place]
@[simp] theorem State.bindUndone_gate (p) : (s.bindUndone p).gate = s.gate := by simp [State.bindUndone]
@[simp] theorem State.unbindGroups_gate (p) : (s.unbindGroups p).gate = s.gate := by simp [State.unbindGroups]
@[simp] theorem State.bindPlaces_gate (k c im img) : (s.bindPlaces k c im img).gate = s.gate := by
  unfold State.bindPlaces
  split <;> simp
@[simp] theorem execBindComplete_leavesGate (p) : LeavesGate (execBindComplete p s) s := by
  refine (leavesGate_next ..).mpr ?_
  dsimp only
  split
  · rfl
  · split
    · split <;> simp
    · have e := s.readImage_gate p.toNat (s.getPart p.toNat).image.toNat
      split
      · next hj => simpa [hj] using e
      · next hj => simpa [hj] using e
      · next hj => rw [hj] at e; split <;> simp [← e]
@[simp] theorem State.startCmd_gate (c op from_) : (s.startCmd c op from_).gate = s.gate := by
  refine State.command_gate _ _ _ _ _ fun n u => ?_
  simp
@[simp] theorem execPause_leavesGate (c) : LeavesGate (execPause c s) s := by
  refine leavesGate_command fun n u => ?_
  (repeat' split) <;> simp
@[simp] theorem State.superseded_gate (p) : (s.superseded p).gate = s.gate := by simp [State.superseded]
@[simp] theorem State.abandon_gate (i) : (s.abandon i).gate = s.gate := by simp [State.abandon]
@[simp] theorem State.drainBegins_gate (p) : (s.drainBegins p).gate = s.gate := by simp [State.drainBegins]
@[simp] theorem execPipelineDrain_leavesGate (c) : LeavesGate (execPipelineDrain c s) s := leavesGate_command fun n u => by simp
@[simp] theorem execPipelineDrainComplete_leavesGate (p) : LeavesGate (execPipelineDrainComplete p s) s := by
  simp only [execPipelineDrainComplete]
  split <;> simp
/-! ### Snapshot commands -/
@[simp] theorem execSnapEnable_leavesGate (c) : LeavesGate (execSnapEnable c s) s := by
  refine (leavesGate_next ..).mpr (onForm_gate _ _ _ _ _ _ (State.command_gate _ _ _ _ _ fun n u =>
    State.unlessBusy_leavesGate _ _ _ _ rfl ?_))
  (repeat' split) <;> simp
@[simp] theorem execSnapDisable_leavesGate (c) : LeavesGate (execSnapDisable c s) s := by
  refine (leavesGate_next ..).mpr (onForm_gate _ _ _ _ _ _ (State.command_gate _ _ _ _ _ fun n u => ?_))
  simp
@[simp] theorem execSnapPolicy_leavesGate (c) : LeavesGate (execSnapPolicy c s) s := by
  refine leavesGate_command fun n u => ?_
  have e := u.sharedRead_gate (c.at_ 24 8) (64 + 32 * c.at_ 16 2)
  dsimp only
  split
  · simp
  · split <;> simp [e]
@[simp] theorem execSnapPartners_leavesGate (c tags) : LeavesGate (execSnapPartners c tags s) s := by
  refine leavesGate_command fun n u => State.unlessBusy_leavesGate _ _ _ _ rfl ?_
  dsimp only
  (repeat' split) <;> simp
@[simp] theorem execSnapCut_leavesGate (c) : LeavesGate (execSnapCut c s) s := by
  refine leavesGate_command fun n u => ?_
  (repeat' split) <;> simp
@[simp] theorem execSnapCopyComplete_leavesGate : LeavesGate (execSnapCopyComplete s) s := by
  unfold execSnapCopyComplete
  split <;> simp
@[simp] theorem execRestore_leavesGate (c) : LeavesGate (execRestore c s) s := leavesGate_command fun n u => by simp
@[simp] theorem State.putRestored_gate (x) : (s.putRestored x).gate = s.gate := by
  unfold State.putRestored
  split <;> simp
@[simp] theorem execRestoreComplete_leavesGate (p got) : LeavesGate (execRestoreComplete p got s) s := by
  simp only [execRestoreComplete]
  (repeat' split) <;> simp
@[simp] theorem execVerify_leavesGate (c) : LeavesGate (execVerify c s) s := leavesGate_command fun n u => by simp
@[simp] theorem execReplicaHashCompareDone_leavesGate (p other) : LeavesGate (execReplicaHashCompareDone p other s) s := by
  simp only [execReplicaHashCompareDone]
  split <;> simp
/-! ### Power commands -/
@[simp] theorem State.enterIdle_gate : s.enterIdle.gate = s.gate := by simp [State.enterIdle]
@[simp] theorem execDeepIdleEnter_leavesGate (c) : LeavesGate (execDeepIdleEnter c s) s := by
  refine (leavesGate_next ..).mpr (onForm_gate _ _ _ _ _ _ (State.command_gate _ _ _ _ _ fun n u => ?_))
  split <;> simp
@[simp] theorem execDeepIdleExit_leavesGate (c) : LeavesGate (execDeepIdleExit c s) s :=
  (leavesGate_next ..).mpr (onForm_gate _ _ _ _ _ _ (State.command_gate _ _ _ _ _ fun n u => by simp))
@[simp] theorem State.wakePort_gate (k) : (s.wakePort k).gate = s.gate := by simp [State.wakePort]
/-! ### Firmware commands -/
@[simp] theorem execFwStage_leavesGate (c) : LeavesGate (execFwStage c s) s := leavesGate_command fun n u => by simp
@[simp] theorem execFwStageComplete_leavesGate : LeavesGate (execFwStageComplete s) s := by
  simp only [execFwStageComplete]
  (repeat' split) <;> simp
@[simp] theorem State.quiesced_gate : s.quiesced.gate = s.gate := by
  unfold State.quiesced
  split <;> simp
@[simp] theorem State.beginActivation_gate (byCmd at_) : (s.beginActivation byCmd at_).gate = s.gate := by simp [State.beginActivation]
@[simp] theorem State.endActivation_gate (status detail r0) : (s.endActivation status detail r0).gate = s.gate := by
  unfold State.endActivation
  split <;> simp
@[simp] theorem State.startFw_leavesGate (c op at_) (f : State → State) (h : ∀ u, (f u).gate = u.gate) :
    (s.startFw c op at_ f).LeavesGate s := by
  have e := s.startLong_leavesGate s c op at_ false f rfl h
  unfold State.startFw
  split
  · next hr => rw [hr] at e; split <;> exact e
  · exact e
@[simp] theorem State.armStart_gate (op fault) : (s.armStart op fault).gate = s.gate :=
  foldl_gate _ (fun u c => by split <;> simp) _ _
@[simp] theorem execFwActivate_leavesGate (c) : LeavesGate (execFwActivate c s) s := by
  refine leavesGate_command fun n u => ?_
  (repeat' split) <;> simp
@[simp] theorem execFwRollback_leavesGate (c) : LeavesGate (execFwRollback c s) s := by
  refine leavesGate_command fun n u => ?_
  (repeat' split) <;> simp
@[simp] theorem execActivationContinue_leavesGate : LeavesGate (execActivationContinue s) s := by
  unfold execActivationContinue
  (repeat' split) <;> simp
@[simp] theorem execActivationHoldExpiry_leavesGate : LeavesGate (execActivationHoldExpiry s) s := by
  unfold execActivationHoldExpiry
  split <;> simp
@[simp] theorem execActivationLoadDone_leavesGate : LeavesGate (execActivationLoadDone s) s := by
  unfold execActivationLoadDone
  (repeat' split) <;> simp
@[simp] theorem State.clearInjection_gate : s.clearInjection.gate = s.gate := by simp [State.clearInjection]
@[simp] theorem State.flipSide_gate (k) : (s.flipSide k).gate = s.gate := by simp [State.flipSide]
@[simp] theorem State.switched_gate : s.switched.gate = s.gate := by simp [State.switched]
@[simp] theorem State.handBack_gate (n) : (s.handBack n).gate = s.gate := foldl_gate _ (by simp) _ _
@[simp] theorem execHandOffDone_leavesGate (r) : LeavesGate (execHandOffDone r s) s := by
  unfold execHandOffDone
  (repeat' split) <;> simp
/-! ### Diagnostic commands -/
@[simp] theorem execFiSet_leavesGate (c) : LeavesGate (execFiSet c s) s := by
  refine leavesGate_command fun n u => ?_
  dsimp only
  split
  · simp
  · split <;> simp
@[simp] theorem execFiKey_leavesGate (c) : LeavesGate (execFiKey c s) s := by
  refine leavesGate_command fun n u => ?_
  (repeat' split) <;> simp
@[simp] theorem execClaimQuery_leavesGate (c) : LeavesGate (execClaimQuery c s) s := by
  unfold execClaimQuery
  (repeat' split) <;> simp
/-! ### The management port -/
@[simp] theorem State.send_gate (x) : (s.send x).gate = s.gate := by simp [State.send]
@[simp] theorem State.answer_gate (c data) : (s.answer c data).gate = s.gate := by simp [State.answer]
@[simp] theorem State.onPort_gate (f : State → State) (h : ∀ u, (f u).gate = u.gate) : (s.onPort f).gate = s.gate := by
  simp [State.onPort, h]
@[simp] theorem State.pldm_gate (light) (f : State → State) (h : ∀ u, (f u).gate = u.gate) : (s.pldm light f).gate = s.gate := by
  simp [State.pldm, h]
@[simp] theorem State.answerFree_gate (n) : (s.answerFree n).gate = s.gate := by simp [State.answerFree]
@[simp] theorem execUnsupportedManagementMessage_leavesGate (m) : LeavesGate (execUnsupportedManagementMessage m s) s := by
  unfold execUnsupportedManagementMessage
  split <;> simp
@[simp] theorem execGetPdr_leavesGate (handle) : LeavesGate (execGetPdr handle s) s := by
  unfold execGetPdr
  split <;> simp
@[simp] theorem State.answerSome_gate (x) : (s.answerSome x).gate = s.gate := by
  unfold State.answerSome
  split <;> simp
@[simp] theorem execPollForPlatformEventMessage_leavesGate : LeavesGate (execPollForPlatformEventMessage s) s := by
  refine (leavesGate_next ..).mpr (State.pldm_gate _ _ _ fun u => ?_)
  (repeat' split) <;> simp
@[simp] theorem State.updatePort_gate (f : State → State) (h : ∀ u, (f u).gate = u.gate) : (s.updatePort f).gate = s.gate := by
  simp [State.updatePort, h]
@[simp] theorem execUpdateVerifyComplete_leavesGate : LeavesGate (execUpdateVerifyComplete s) s := by
  refine (leavesGate_next ..).mpr (State.onPort_gate _ _ fun u => ?_)
  (repeat' split) <;> simp
@[simp] theorem State.dropUpdate_gate : s.dropUpdate.gate = s.gate := by simp [State.dropUpdate]
@[simp] theorem State.spdm_gate (f : State → State) (h : ∀ u, (f u).gate = u.gate) : (s.spdm f).gate = s.gate := by simp [State.spdm, h]
@[simp] theorem State.putConn_gate (c) : (s.putConn c).gate = s.gate := by simp [State.putConn]
@[simp] theorem State.dropConn_gate (ep) : (s.dropConn ep).gate = s.gate := by simp [State.dropConn]
@[simp] theorem State.inStage_gate (ep g) (f : State → SpdmConn → State) (h : ∀ u x, (f u x).gate = u.gate) :
    (s.inStage ep g f).gate = s.gate := by
  refine State.spdm_gate _ _ fun u => ?_
  (repeat' split) <;> simp [h]
@[simp] theorem State.respondSpdm_gate (c data) : (s.respondSpdm c data).gate = s.gate := by simp [State.respondSpdm]
@[simp] theorem State.sign_gate (msg) : (s.sign msg).2.gate = s.gate := by simp [State.sign]
@[simp] theorem execGetMeasurements_leavesGate (ep index sign nonce) : LeavesGate (execGetMeasurements ep index sign nonce s) s := by
  unfold execGetMeasurements
  split <;> simp
@[simp] theorem execChunkSend_leavesGate (ep last seq bytes) : LeavesGate (execChunkSend ep last seq bytes s) s := by
  refine (leavesGate_next ..).mpr (State.spdm_gate _ _ fun u => ?_)
  (repeat' split) <;> simp
@[simp] theorem execChunkGet_leavesGate (ep seq) : LeavesGate (execChunkGet ep seq s) s := by
  refine (leavesGate_next ..).mpr (State.spdm_gate _ _ fun u => ?_)
  (repeat' split) <;> simp
/-! ### Register reads -/
@[simp] theorem State.devRead_gate (a) : (s.devRead a).gate = s.gate := by
  unfold State.devRead
  split <;> simp
/-! ### Register writes and reads that clear -/
@[simp] theorem State.regDiscard_gate (i) : (s.regDiscard i).gate = s.gate := by simp [State.regDiscard]
@[simp] theorem State.writeIsland_gate (i o x) : (s.writeIsland i o x).gate = s.gate := by
  unfold State.writeIsland
  (repeat' split) <;> simp
@[simp] theorem State.writeChan_gate (i ch o x) : (s.writeChan i ch o x).gate = s.gate := by simp [State.writeChan]
@[simp] theorem State.regRefused_gate (a) : (s.regRefused a).gate = s.gate := by simp [State.regRefused]
@[simp] theorem State.writeDev_gate (a x) : (s.writeDev a x).gate = s.gate := by simp [State.writeDev]
@[simp] theorem execRegisterWrite_leavesGate (a v) : LeavesGate (execRegisterWrite a v s) s := by
  unfold execRegisterWrite
  split <;> simp
@[simp] theorem readOut_leavesGate (v : Dword) (t s : State) : LeavesGate (readOut v t) s ↔ t.gate = s.gate := by
  simp [readOut]
/-! ### The vector slot -/
@[simp] theorem State.vresult_gate (i op t n a) : (s.vresult i op t n a).gate = s.gate := by simp [State.vresult]
@[simp] theorem State.drawLanes_gate : s.drawLanes.2.gate = s.gate := by simp [State.drawLanes]
@[simp] theorem execVbcast_leavesGate (w vd xa) : LeavesGate (execVbcast w vd xa s) s :=
  (leavesGate_next ..).mpr (State.slot_gate _ _ _ _ fun _ _ _ _ => State.vresult_gate ..)
@[simp] theorem State.lanesAfter_gate (i r) : (s.lanesAfter i r).2.gate = s.gate := by
  unfold State.lanesAfter
  split
  · exact s.drawLanes_gate
  · rfl
@[simp] theorem execVred_leavesGate (w fn vd va) : LeavesGate (execVred w fn vd va s) s := by
  unfold execVred
  split <;> simp

end

/-! ## Memory_Active stays within the other three -/

/-- Memory_Active holds only with the link up, the path for back-invalidation and `MEM_VALID` set (13 R284, R287). -/
def State.Guarded (s : State) : Prop :=
  s.host.memActive = true → s.host.linkUp = true ∧ s.host.biPath = true ∧ s.mem.valid = true

section
variable {s t : State}

theorem State.Guarded.of_gate (h : s.Guarded) (e : t.gate = s.gate) : t.Guarded := by
  simp only [State.gate, Prod.mk.injEq] at e
  obtain ⟨ha, hl, hb, hv⟩ := e
  simpa only [State.Guarded, ha, hl, hb, hv] using h

theorem State.guarded_of_inactive (h : s.host.memActive = false) : s.Guarded := fun ha => by rw [h] at ha; cases ha

theorem State.Guarded.ite {c : Prop} [Decidable c] (hs : s.Guarded) (ht : t.Guarded) : (if c then s else t).Guarded := by
  split
  · exact hs
  · exact ht

theorem State.Guarded.foldl {α : Type*} {f : State → α → State} (hf : ∀ u a, u.Guarded → (f u a).Guarded) (l : List α)
    (h : s.Guarded) : (l.foldl f s).Guarded := by
  induction l generalizing s with
  | nil => exact h
  | cons a l ih => exact ih (hf s a h)

/-! ### What changes the four bits -/

/-- Memory_Active is set in one place, behind the other three bits. -/
theorem State.Guarded.activateMem (h : s.Guarded) : s.activateMem.Guarded := by
  unfold State.activateMem
  split
  · next hc =>
    simp only [Bool.and_eq_true] at hc
    obtain ⟨⟨⟨hl, hb⟩, hv⟩, -⟩ := hc
    have e := s.backInvAll_gate s.host.directory
    simp only [State.gate, Prod.mk.injEq] at e
    obtain ⟨-, el, eb, ev⟩ := e
    exact fun _ => ⟨el.trans hl, eb.trans hb, ev.trans hv⟩
  · exact h

theorem State.memInvalid_guarded (s : State) : s.memInvalid.Guarded := guarded_of_inactive rfl

theorem State.clearBegins_guarded (s : State) : s.clearBegins.Guarded := guarded_of_inactive rfl

/-- A fill sets `MEM_VALID` and nothing else of the four. -/
theorem State.Guarded.fill (h : s.Guarded) : (s.modMem Mem.fill).Guarded := fun ha => by
  obtain ⟨hl, hb, -⟩ := h ha
  exact ⟨hl, hb, rfl⟩

theorem State.hostReset_guarded (s : State) : s.hostReset.Guarded := guarded_of_inactive rfl

theorem State.wiped_guarded (s : State) (warm : Bool) : (s.wiped warm).Guarded := by
  cases warm <;> exact guarded_of_inactive rfl

theorem State.beginStart_guarded (s : State) (kind : StartKind) (keep other halt : Bool) : (s.beginStart kind keep other halt).Guarded := by
  refine (s.wiped_guarded (kind = .warm)).of_gate ?_
  simp only [State.beginStart]
  (repeat' split) <;> simp

theorem State.watchdogStart_guarded (s : State) : s.watchdogStart.Guarded := State.beginStart_guarded _ _ _ _ _

theorem State.powerOff_guarded (s : State) : s.powerOff.Guarded := guarded_of_inactive rfl

theorem State.Guarded.coldStart (h : s.Guarded) : s.coldStart.Guarded :=
  .ite h (State.beginStart_guarded _ _ _ _ _)

theorem State.Guarded.clearTrip (h : s.Guarded) : s.clearTrip.1.Guarded := by
  unfold State.clearTrip
  split
  · exact h
  · split
    · exact h.of_gate (s.logFault_gate ..)
    · exact State.Guarded.coldStart (h.of_gate (by simp))

theorem State.recover_guarded (s : State) : s.recover.Guarded := guarded_of_inactive rfl

theorem State.Guarded.otherSlot (h : s.Guarded) (x : Starting) : (s.otherSlot x).Guarded :=
  .ite s.recover_guarded (h.of_gate (by simp))

theorem State.Guarded.fillBegins (h : s.Guarded) (x : Starting) : (s.fillBegins x).Guarded := .ite h (guarded_of_inactive rfl)

theorem State.Guarded.goReady (h : s.Guarded) (x : Starting) : (s.goReady x).Guarded := by
  unfold State.goReady
  extract_lets m u v w z y
  have hw : w.Guarded := State.Guarded.activateMem (h.of_gate (by simp [v, u]))
  exact hw.of_gate (by simp [y])

theorem State.Guarded.restartComponent (h : s.Guarded) (c : Component) (why : Word) : (s.restartComponent c why).Guarded := by
  unfold State.restartComponent
  extract_lets k seq u v times w
  exact .ite h (.ite w.watchdogStart_guarded (h.of_gate (by simp [w, v, u])))

theorem State.Guarded.mgmtStart (h : s.Guarded) (keep : Bool) : (s.mgmtStart keep).Guarded :=
  .ite (.ite (h.of_gate (s.answer_gate ..)) (State.beginStart_guarded _ _ _ _ _)) h

theorem State.Guarded.beginDeferred (h : s.Guarded) (c : LongCmd) : (s.beginDeferred c).Guarded := by
  unfold State.beginDeferred
  extract_lets p l u d
  have hu : u.Guarded := h.of_gate (by simp [u])
  split
  · (repeat' split) <;> exact hu.of_gate (by simp)
  · exact .ite u.clearBegins_guarded (.ite (hu.of_gate (by simp)) (.ite (hu.of_gate (by simp)) hu))

/-! ### Host commands -/

/-- Every next state that a command answers is guarded. -/
def AnswersGuarded (o : Out) : Prop := ∀ t, o = .next t → t.Guarded

theorem State.Guarded.answers (h : t.Guarded) : AnswersGuarded (.next t) := fun _ e => Host.Outcome.next.inj e ▸ h

theorem LeavesGate.answersGuarded {o : Out} (ho : LeavesGate o s) (h : s.Guarded) : AnswersGuarded o :=
  fun t e => h.of_gate (ho t e)

theorem State.Guarded.fetch {c : Packet} {op : Half} {start : Nat → State → State} (h : s.Guarded)
    (hf : ∀ n u, u.Guarded → (start n u).Guarded) : (s.fetch c op start).Guarded := by
  unfold State.fetch
  extract_lets r q cmds n left u v
  have hu : u.Guarded := h.of_gate (s.readSlots_gate ..)
  have hv : v.Guarded := hu.of_gate (by simp [v])
  refine .ite h ?_
  split
  · exact .ite (.of_gate (hf _ _ (h.of_gate (by simp))) (State.settleStop_gate ..)) h
  · refine .ite h (.ite (hu.of_gate (by simp)) (.ite (hu.of_gate (by simp)) (.ite ?_ (.ite ?_ ?_))))
    · exact hu.of_gate (by split <;> simp)
    · exact hv.of_gate (by simp)
    · exact (hf _ v hv).of_gate (State.advanceCi_gate ..)

/-- A command whose body refuses or begins something long that keeps Memory_Active guarded, whatever state it begins in. -/
theorem State.Guarded.command {c : Packet} {op : Half} {extra : State → List (Nat × Half × Half)} {body : Nat → State → Run}
    (h : s.Guarded) (hb : ∀ n u, (∃ r, body n u = .reply r u) ∨ (∃ r f, body n u = .first r u f ∧ ∀ v, (f v).Guarded) ∨
      ∃ r l f, body n u = .long r l f ∧ ∀ v : State, v.Guarded → (f v).Guarded) : (s.command c op extra body).Guarded := by
  unfold State.command
  split
  · exact h
  · refine h.fetch fun n u hu => ?_
    split
    · exact hu.of_gate (u.record_gate ..)
    · obtain ⟨r, e⟩ | ⟨r, f, e, hf⟩ | ⟨r, l, f, e, hf⟩ := hb n u <;> rw [e]
      · exact hu.of_gate (u.record_gate ..)
      · exact hf _
      · exact hf _ (hu.of_gate (by simp))

theorem execMemoryClear_guarded (h : s.Guarded) (c : Packet) : AnswersGuarded (execMemoryClear c s) := by
  refine State.Guarded.answers (h.command fun n u => ?_)
  split
  · exact .inl ⟨_, rfl⟩
  · unfold State.startLong
    split
    · exact .inl ⟨_, rfl⟩
    · split
      · exact .inl ⟨_, rfl⟩
      · exact .inl ⟨_, rfl⟩
      · split
        · exact .inr (.inr ⟨_, _, _, rfl, fun v hv => hv.of_gate v.leaveIdle_gate⟩)
        · exact .inr (.inr ⟨_, _, _, rfl, fun v _ => v.clearBegins_guarded⟩)

theorem execReset_guarded (h : s.Guarded) (c : Packet) : AnswersGuarded (execReset c s) := by
  refine State.Guarded.answers (h.command fun n u => ?_)
  split
  · exact .inl ⟨_, rfl⟩
  · exact .inr (.inl ⟨_, _, rfl, fun v => v.beginStart_guarded _ _ _ _⟩)

theorem execMemoryClearComplete_guarded (h : s.Guarded) : AnswersGuarded (execMemoryClearComplete s) := by
  refine State.Guarded.answers ?_
  split
  · exact h
  · exact .ite (h.fill.activateMem.of_gate (State.complete_gate ..)) h

theorem execDeepIdleExitComplete_guarded (h : s.Guarded) : AnswersGuarded (execDeepIdleExitComplete s) := by
  refine State.Guarded.answers ?_
  split
  · exact h
  · extract_lets u v w
    have hw : w.Guarded := h.of_gate (by simp [w, v, u])
    exact .ite h (hw.foldl (fun _ _ hu => hu.beginDeferred _) _)

/-! ### The link, starts and the supply -/

theorem execPerstAssert_guarded (cause : HostReset) : AnswersGuarded (execPerstAssert cause s) :=
  State.Guarded.answers (.ite (s.hostReset_guarded.of_gate (by simp)) s.hostReset_guarded)

theorem execRefclkLoss_guarded : AnswersGuarded (execRefclkLoss s) :=
  State.Guarded.answers (s.hostReset_guarded.of_gate (by simp))

theorem execCxlLinkUp_guarded (l : Link) : AnswersGuarded (execCxlLinkUp l s) :=
  State.Guarded.answers (State.Guarded.activateMem (State.guarded_of_inactive rfl))

theorem execStartStepDone_guarded (h : s.Guarded) (ok : Bool) : AnswersGuarded (execStartStepDone ok s) := by
  have set : ∀ {u : State} {x}, u.Guarded → (u.setStart x).Guarded := fun hu => hu.of_gate (State.setStart_gate ..)
  refine State.Guarded.answers ?_
  split
  · exact h
  · next x _ =>
    split
    · exact .ite (set h) s.recover_guarded
    · exact set h
    · exact .ite (h.otherSlot x) (.ite s.recover_guarded (set h))
    · exact .ite (set (h.fillBegins x)) s.recover_guarded
    · exact set (.ite h.fill h)
    · exact .ite (set h) (h.otherSlot x)
    · exact h.goReady x
    · exact set h
    · exact h.of_gate (by simp)

theorem execThermalTrip_guarded (h : s.Guarded) (k : Byte) : AnswersGuarded (execThermalTrip k s) :=
  State.Guarded.answers (.ite h (s.powerOff_guarded.of_gate (by simp)))

theorem execInputVoltageSample_guarded (h : s.Guarded) (v : Half) : AnswersGuarded (execInputVoltageSample v s) := by
  refine State.Guarded.answers ?_
  extract_lets n run u p w
  exact .ite (w.powerOff_guarded.of_gate (by simp)) (.ite (h.of_gate (by simp [u])) (h.of_gate (by simp [u])))

theorem execInputFaultClear_guarded (h : s.Guarded) : AnswersGuarded (execInputFaultClear s) :=
  State.Guarded.answers (.ite (State.Guarded.coldStart (h.of_gate (by simp))) h)

theorem execLighthousePowerUp_guarded (h : s.Guarded) : AnswersGuarded (execLighthousePowerUp s) :=
  State.Guarded.answers (.ite h (State.beginStart_guarded _ _ _ _ _))

theorem execRestartAfterTrip_guarded (h : s.Guarded) : AnswersGuarded (execRestartAfterTrip s) :=
  State.Guarded.answers (.ite (.ite (h.of_gate (s.answer_gate ..)) (h.clearTrip.of_gate (State.answer_gate ..))) h)

end

/-! ### Every command -/

/-- The commands that may change one of the four bits. -/
def Instr.mayChangeGate : Instr → Bool
  | .perstAssert _ | .refclkLoss | .cxlLinkUp _ | .watchdogExpiry _ | .startStepDone _ | .componentHeartbeatMiss _
  | .componentFault .. | .thermalTrip _ | .inputVoltageSample _ | .inputFaultClear | .lighthousePowerLoss | .lighthousePowerUp
  | .stackSupplyFault _ | .selfRefreshExitUncommanded _ | .memoryClear _ | .memoryClearComplete | .reset _
  | .deepIdleExitComplete | .warmStartMemoryKept | .warmStartMemoryFilled | .restartAfterTrip => true
  | _ => false

section
variable {s t : State}

/-- Every other command leaves them. -/
theorem exec_leavesGate {i : Instr} (hi : Instr.mayChangeGate i = false) : LeavesGate (exec i s) s := by
  cases i
  case perstAssert | refclkLoss | cxlLinkUp | watchdogExpiry | startStepDone | componentHeartbeatMiss | componentFault |
      thermalTrip | inputVoltageSample | inputFaultClear | lighthousePowerLoss | lighthousePowerUp | stackSupplyFault |
      selfRefreshExitUncommanded | memoryClear | memoryClearComplete | reset | deepIdleExitComplete | warmStartMemoryKept |
      warmStartMemoryFilled | restartAfterTrip => cases hi
  all_goals simp [exec, execAlu, execAddi, execLih, execLd, execSt, execHmax, execHset, execStepOp, execLoop, execJmp, execBcc,
    execWait, execBarrive, execDelay, execEndRun, execPass, execSeed, execAnch, execHbmSharedAccess, execDstart, execDpause,
    execDresume, execMemoryPortAccept, execLevelChoice, execVcoreRampReached, execPowerEstimateWindow, execInputPowerSample,
    execGainUpdate, execSensorSample, execArriveReceived, execReleaseReceived, execPaceReceived, execWriteReceived,
    execMcastWriteReceived, execPacketForward, execReorderHoldExpiry, execFiSchedulerFire, execCircuitLostReceived,
    execCircuitPositionReceive, execEpochRetire, execLaneLossOfLock, execLaneErrorWindow, execNarrowingHandshakeEnd,
    execTrainingStepDone, execTrainingStepTimeout, execTrainingRetry, execMiswiredRetry, execGroupPowerGatingEntry,
    execRefreshSlot, execExceptionLogCopy, execFaultLogArchive, execUndefinedOpcode, execCommandRingEnable,
    execCompletionRingEnable, execCompletionRingDisable, execIndexLineInvalidation, execIndexPoll, execCompletionCoalesceTimeout,
    execStCtrlWrite, execPwrbrkAssert, execPwrbrkDeassert, execPwrbrkHeldLog, execPerstHeldLog, execWakeReleaseTimeout,
    execSmbusClockLowTimeout, execIdentify, execDeviceStatus, execSetDefault, execMemoryMode, execWindowSet, execWindowClear,
    execPartStatus, execSyncPulse, execSyncHoldover, execTimeReceived, execTimeMessageSend, execSyncTriggerPulse, execFence,
    execFabricStatus, execPortSet, execPortRetest, execResend, execStart, execResume, execStatus, execExcQueue, execSnapStatus,
    execPowerStatus, execHostCap, execLevelLimit, execEnergy, execEnergyMode, execEstimator, execTrialWindowClose, execFwStatus,
    execDiagModeEnter, execDiagModeLeave, execErrClear, execLogRead, execClaimTable, execI3cBroadcastCcc,
    execDynamicAddressAssign, execSetEndpointId, execGetEndpointId, execGetMctpVersionSupport, execGetMessageTypeSupport,
    execGetTid, execGetPldmVersion, execGetPldmTypes, execGetPldmCommands, execGetNumericSensorReading,
    execGetStateSensorReadings, execSetManagementCap, execSetFeedTag, execGetNumericEffecterValue, execGetFaultLog, execGetEnergy,
    execRequestUpdate, execFirmwareDataReceived, execFdT1Timeout, execCancelUpdate, execActivateFirmware, execGetStatus,
    execGetVersion, execGetCapabilities, execNegotiateAlgorithms, execGetDigests, execGetCertificate, execChallenge,
    execLogLostRead, execStraitDropRead, execBskewWaitMaxRead, execBskewLateRead, execTrkResendsRead, execTrkDupsRead,
    execTrkLateRead, execTrkUnreachRead, execTrkFencedRead, execPortCorrRead, execPortDropRead, execPortVoidRead,
    execPortEventsRead, execLaneErrRead, execFiCountRead, execFabDetoursRead, execFabStaleRead, execFabExpiredRead,
    execFabCrcbadRead, execFabFencedropRead, execFabCircdropRead, execFabBadhdrRead, execBarCountRead, execStWakesRead,
    execStBarDiscardRead, execStHostRefusedRead, execStBiRead, execSnapTouchRead, execSnapHeldRead, execSnapSkippedRead,
    execSnapFailsRead, execPwrEmergRead, execPwrLevelsRead, execPinFilteredRead, execVld, execVst, execVopf, execVopi, execVcvt,
    execVkadd, execVsf, execVrand]

/-- Every command keeps Memory_Active guarded. -/
theorem exec_guarded (h : s.Guarded) (i : Instr) : AnswersGuarded (exec i s) := by
  by_cases hi : Instr.mayChangeGate i = false
  · exact (exec_leavesGate hi).answersGuarded h
  · cases i
    case perstAssert c => exact execPerstAssert_guarded c
    case refclkLoss => exact execRefclkLoss_guarded
    case cxlLinkUp l => exact execCxlLinkUp_guarded l
    case watchdogExpiry pc => exact State.Guarded.answers (.ite h (State.watchdogStart_guarded _))
    case startStepDone ok => exact execStartStepDone_guarded h ok
    case componentHeartbeatMiss c => exact (h.restartComponent c _).answers
    case componentFault c f => exact (h.restartComponent c _).answers
    case thermalTrip k => exact execThermalTrip_guarded h k
    case inputVoltageSample v => exact execInputVoltageSample_guarded h v
    case inputFaultClear => exact execInputFaultClear_guarded h
    case lighthousePowerLoss => exact State.Guarded.answers (State.guarded_of_inactive rfl)
    case lighthousePowerUp => exact execLighthousePowerUp_guarded h
    case stackSupplyFault k => exact s.memInvalid_guarded.answers
    case selfRefreshExitUncommanded k => exact s.memInvalid_guarded.answers
    case memoryClear c => exact execMemoryClear_guarded h c
    case memoryClearComplete => exact execMemoryClearComplete_guarded h
    case reset c => exact execReset_guarded h c
    case deepIdleExitComplete => exact execDeepIdleExitComplete_guarded h
    case warmStartMemoryKept => exact (h.mgmtStart true).answers
    case warmStartMemoryFilled => exact (h.mgmtStart false).answers
    case restartAfterTrip => exact execRestartAfterTrip_guarded h
    all_goals exact absurd rfl hi

/-! ### The tick -/

theorem all_map_not {α : Type*} {p : Instr → Bool} {g : α → Instr} (hg : ∀ a, p (g a) = false) (o : Option α) :
    (o.map g).all (!p ·) = true := by
  cases o <;> simp [hg]

/-- No slot of a bundle holds one of them. -/
theorem slotInstr_mayChangeGate {k : Nat} {w : Site} {n : Nat} {i : Instr} (h : slotInstr k w n = some i) :
    Instr.mayChangeGate i = false := by
  have all : (slotInstr k w n).all (!Instr.mayChangeGate ·) = true := by
    simp only [slotInstr, scalarInstr, branchInstr, arrayInstr, vectorInstr]
    (repeat' split)
    all_goals try exact all_map_not (fun _ => rfl) _
    all_goals rfl
  simpa [h] using all

variable (s)

@[simp] theorem State.runSlots_gate (i cont l) : (s.runSlots i cont l).gate = s.gate := by
  induction l generalizing s cont with
  | nil => simp [State.runSlots]
  | cons w l ih =>
    simp only [State.runSlots]
    split
    · simp
    · split
      · next hx =>
        obtain ⟨c, hw, hc⟩ := Option.map_eq_some_iff.mp hx
        rw [ih, exec_leavesGate (slotInstr_mayChangeGate hw) _ hc]
      · exact ih ..

@[simp] theorem State.issueBundle_gate (i b mid) : (s.issueBundle i b mid).gate = s.gate := by simp [State.issueBundle]
@[simp] theorem State.runProgram_gate (i target n) : (s.runProgram i target n).gate = s.gate := by
  induction n generalizing s with
  | zero => simp [State.runProgram]
  | succ n ih => simp only [State.runProgram]; (repeat' split) <;> simp [ih]

@[simp] theorem State.endReady_gate (i) : (s.endReady i).gate = s.gate := by
  simp only [State.endReady]
  split <;> simp
@[simp] theorem State.cycleStep_gate (i c) : (s.cycleStep i c).gate = s.gate := by simp [State.cycleStep]
@[simp] theorem State.tickIsland_gate (i) : (s.tickIsland i).gate = s.gate := by simp [State.tickIsland]
@[simp] theorem State.tickIslands_gate : s.tickIslands.gate = s.gate := by simp [State.tickIslands]
@[simp] theorem State.sharedTick_gate (g n) : (s.sharedTick g n).gate = s.gate := by
  induction n generalizing s with
  | zero => simp [State.sharedTick]
  | succ n ih => simp only [State.sharedTick]; split <;> simp [ih]

@[simp] theorem State.tickSlots_gate : s.tickSlots.gate = s.gate := by simp [State.tickSlots]
@[simp] theorem State.tick_gate : s.tick.gate = s.gate := by simp [State.tick, State.countTick]

end

/-- Every step keeps Memory_Active guarded: a tick leaves the four bits, and every command keeps the guard. -/
theorem State.Guarded.step {s t : State} (h : s.Guarded) (e : step s = .next t) : t.Guarded := by
  unfold Machine.step at e
  split at e
  · cases e
    exact h.of_gate s.tick_gate
  · next c rest _ => exact exec_guarded (s := { s with pending := rest }) h c t e

/-- Settles O58: Memory_Active is set in one place, behind the other three bits; what clears one of those clears it too. -/
theorem memoryActiveIsSetOnlyWithValidMemory : Obligations.MemoryActiveIsSetOnlyWithValidMemory := by
  refine ⟨fun s t h e => State.Guarded.step h e, fun s t h e ha => (State.Guarded.step (State.guarded_of_inactive h) e ha).2.2,
    fun s hpa h => ⟨fun c => ⟨zeroLine, ?_⟩, fun bs poison => ?_, rfl⟩⟩
  · exact congrArg Host.Outcome.next (if_pos (by simpa [State.linkWoken] using h))
  · exact congrArg Host.Outcome.next (if_pos (by simpa [State.linkWoken] using h))

end Sys2Proof.Machine

/-! # Rings, indices, host resets and pins (13 R284 to R299, 17 R389, R390, 19 R414) -/

namespace Sys2Proof.Machine

/-- Settles O1: `step` is defined so. -/
theorem stepRunsTheFrontCommand : Obligations.StepRunsTheFrontCommand := fun s c rest h => by
  simp only [step, h]

/-! ### Rings (13 R292 to R295) -/

section
variable {s : State} {r : Nat} {v : Dword}

/-- A ring of 2^5 slots is too small (13 Table 13.7). -/
theorem State.crReason_small (h : (v.extractLsb' 8 5).toNat = 5) : s.crReason r v = 1 := by
  simp only [State.crReason, h]
  exact if_pos (.inl (by decide))

theorem State.qrReason_small (h : (v.extractLsb' 8 5).toNat = 5) : s.qrReason r v = 1 := by
  simp only [State.qrReason, h]
  exact if_pos (.inl (by decide))

/-- A command ring needs an ENABLED completion ring, and ring 0 partition 0 and completion ring 0. -/
theorem State.crReason_ne_zero
    (h : let x := { s.getCr r with ctrl := v }
      (s.getQr x.cq).st ≠ .enabled ∨ (r = 0 ∧ (x.partition ≠ 0 ∨ x.cq ≠ 0))) : s.crReason r v ≠ 0 := by
  simp only [State.crReason]
  split
  · decide
  · split
    · decide
    · rw [if_pos h.symm]
      decide

end

theorem State.setQr_setQr (s : State) (r : Nat) (q w : CompRing) : (s.setQr r q).setQr r w = s.setQr r w := by
  simp only [State.setQr, State.modHost, smSet_smSet]

/-- Settles O33: each write to a ring's control is one case of `EN`, of the ring's state and of its reason. -/
theorem ringsEnableRefuseAndStop : Obligations.RingsEnableRefuseAndStop := by
  intro s ring v r u c q discarded
  have on : v.getLsbD 0 = true → ¬ (!v.getLsbD 0) = true := fun h => by simp [h]
  have off : v.getLsbD 0 = false → ¬ v.getLsbD 0 = true := ne_true_of_eq_false
  refine ⟨fun hen hst hr => ?_, fun hen hst hr => ?_, fun hen hst => ?_, fun hen => ⟨fun hst => ?_, fun hst => ?_, fun hst => ?_,
    fun hst => ?_⟩, fun hen hst hr => ?_, fun hen hst hr => ?_, fun hen hst => ?_, fun hen hst => ?_, fun hen hst hu => ?_,
    fun hen hst hu => ?_, fun h => ⟨State.crReason_small h, State.qrReason_small h⟩, fun h => State.crReason_ne_zero h⟩ <;>
    refine congrArg Host.Outcome.next ?_
  · exact (if_neg (on hen)).trans ((if_neg (not_not_intro hst)).trans ((if_neg (not_not_intro hr)).trans (by rw [hr])))
  · exact (if_neg (on hen)).trans ((if_neg (not_not_intro hst)).trans (if_pos hr))
  · exact (if_neg (on hen)).trans (if_pos hst)
  · exact (if_neg (off hen)).trans (by rw [hst])
  · exact (if_neg (off hen)).trans (by rw [hst])
  · exact (if_neg (off hen)).trans (by rw [hst])
  · exact (if_neg (off hen)).trans (by rw [hst]; rfl)
  · exact (if_neg (on hen)).trans ((if_neg (not_not_intro hst)).trans ((if_neg (not_not_intro hr)).trans (by rw [hr])))
  · exact (if_neg (on hen)).trans ((if_neg (not_not_intro hst)).trans (if_pos hr))
  · exact (if_neg (on hen)).trans (if_pos hst)
  · exact (if_neg (off hen)).trans (if_pos hst)
  · exact (if_neg (off hen)).trans ((if_neg hst).trans (if_pos hu))
  · exact (if_neg (off hen)).trans ((if_neg hst).trans ((if_neg (ne_true_of_eq_false hu)).trans
      (by simp only [State.dropHeld, State.getQr_setQr, State.setQr_setQr]; rfl)))

/-! ### Notices (13 R297 to R299) -/

section
variable {s : State} {x : IndexRead} {poll : Bool}

/-- An index by invalidation or by a poll is counted as such. -/
def State.countWake (s : State) (poll : Bool) : State := s.modHost fun h =>
  if poll then { h with wakesPoll := satAdd 32 h.wakesPoll 1 } else { h with wakesInv := satAdd 32 h.wakesInv 1 }

theorem State.noticed_producer (hs : s.serving = true) (hc : x.completion = false) :
    s.noticed poll x = if (s.getCr x.ring.toNat).st ≠ .enabled ∨ (s.getCr x.ring.toNat).piRead = x.value then s
      else if (s.getCr x.ring.toNat).slots < (x.value - (s.getCr x.ring.toNat).ci).toNat then
        (s.countWake poll).breakRing x.ring.toNat 0x10
      else (s.countWake poll).setCr x.ring.toNat { s.getCr x.ring.toNat with piRead := x.value } := by
  simp only [State.noticed, hs, hc, Bool.not_true, Bool.false_eq_true, if_false]
  rfl

theorem State.noticed_producer_same (hc : x.completion = false) (h : (s.getCr x.ring.toNat).piRead = x.value) :
    s.noticed poll x = s := by
  by_cases hs : s.serving = true
  · rw [State.noticed_producer hs hc, if_pos (.inr h)]
  · exact if_pos (by simpa using hs)

theorem State.noticed_producer_new (hs : s.serving = true) (hc : x.completion = false) (he : (s.getCr x.ring.toNat).st = .enabled)
    (hn : (s.getCr x.ring.toNat).piRead ≠ x.value)
    (hr : (x.value - (s.getCr x.ring.toNat).ci).toNat ≤ (s.getCr x.ring.toNat).slots) :
    s.noticed poll x = (s.countWake poll).setCr x.ring.toNat { s.getCr x.ring.toNat with piRead := x.value } := by
  rw [State.noticed_producer hs hc, if_neg (by simp [he, hn]), if_neg (Nat.not_lt.mpr hr)]

theorem State.noticed_producer_far (hs : s.serving = true) (hc : x.completion = false) (he : (s.getCr x.ring.toNat).st = .enabled)
    (hn : (s.getCr x.ring.toNat).piRead ≠ x.value)
    (hr : (s.getCr x.ring.toNat).slots < (x.value - (s.getCr x.ring.toNat).ci).toNat) :
    s.noticed poll x = (s.countWake poll).breakRing x.ring.toNat 0x10 := by
  rw [State.noticed_producer hs hc, if_neg (by simp [he, hn]), if_pos hr]

theorem State.noticed_consumer_new (hs : s.serving = true) (hc : x.completion = true) (hl : (s.getQr x.ring.toNat).live = true)
    (hn : (s.getQr x.ring.toNat).ciRead ≠ x.value) :
    s.noticed poll x = ((s.setQr x.ring.toNat { s.getQr x.ring.toNat with ciRead := x.value }).countWake poll).postHeld x.ring.toNat
      ((s.getQr x.ring.toNat).held.length + 1) := by
  simp only [State.noticed, hs, hc, hl, hn, Bool.not_true, Bool.false_eq_true, if_false, if_true, or_self]
  rfl

/-- A poll of one held line, when it is due, reads the line and notices its index. -/
theorem execIndexPoll_one (hd : s.host.polled + 1250 ≤ s.clk.now) (hc : s.host.cached = [(x.completion, x.ring)]) :
    execIndexPoll [x] s = .next (((s.modHost fun h => { h with polled := s.clk.now }).out
      (.cacheRead (s.indexAddr x.completion x.ring.toNat) false)).noticed true x) := by
  have early : ¬ s.clk.now < s.host.polled + pollTicks := Nat.not_lt.mpr hd
  simp only [execIndexPoll, early, hc, List.any_cons, List.any_nil, Bool.or_false, decide_true, Bool.not_true, Bool.false_eq_true,
    or_self, if_false, List.foldl_cons, List.foldl_nil, State.modHost_host, List.contains_cons, BEq.rfl, Bool.true_or, if_true]
  rfl

end

/-- Settles O34: an index line read again, or polled, is noticed in one of three ways: nothing new, a new index, one too far. -/
theorem indicesAreNoticedByInvalidationAndPoll : Obligations.IndicesAreNoticedByInvalidationAndPoll := by
  refine ⟨fun s x h => ?_, ?_, ?_, fun s xs h => ?_, fun s ring hl hm hu => ⟨fun h => ?_, fun h => ?_⟩⟩
  · exact congrArg Host.Outcome.next (if_pos (by simp only [h, Bool.not_false]))
  · intro s x r u c q woken hc hs
    have run : exec (.indexLineInvalidation x) s = .next (u.noticed false x) :=
      congrArg Host.Outcome.next (if_neg (by simp only [hc, Bool.not_true, Bool.false_eq_true, not_false_eq_true]))
    rw [run]
    exact ⟨fun hx he hn => ⟨fun hr => congrArg _ (State.noticed_producer_new hs hx he hn hr),
        fun hr => congrArg _ (State.noticed_producer_far hs hx he hn hr)⟩,
      fun hx hn => congrArg _ (State.noticed_producer_same hx hn), fun hx hl hn => congrArg _ (State.noticed_consumer_new hs hx hl hn)⟩
  · intro s x r c u woken hd hc hs hx he
    have run : exec (.indexPoll [x]) s = .next (u.noticed true x) := by
      refine (execIndexPoll_one hd (by rw [hc, hx])).trans ?_
      rw [hx]
    rw [run]
    exact ⟨fun hn => congrArg _ (State.noticed_producer_same hx hn),
      fun hn hr => congrArg _ (State.noticed_producer_new hs hx he hn hr)⟩
  · exact congrArg Host.Outcome.next (if_pos (.inl h))
  · refine congrArg Host.Outcome.next (if_pos ?_)
    simp only [Bool.and_eq_true, decide_eq_true_eq]
    exact ⟨⟨⟨hl, hm⟩, Nat.pos_of_ne_zero hu⟩, h⟩
  · refine congrArg Host.Outcome.next (if_neg ?_)
    simp only [Bool.and_eq_true, decide_eq_true_eq]
    exact fun hc => Nat.not_le.mpr h hc.2

/-! ### Pins (17 R389, R390, 19 Table 19.4) -/

/-- Settles O38: each event is its rule's condition on the pin and on the time it has been held. -/
theorem pinsRaiseTimersAndLogs : Obligations.PinsRaiseTimersAndLogs := by
  have late : ∀ {a b : Nat} {p : Bool}, p = false ∨ b < a → ¬ (p = true ∧ a ≤ b) := fun h hc =>
    h.elim (fun hp => ne_true_of_eq_false hp hc.1) fun hlt => Nat.not_le.mpr hlt hc.2
  refine fun s => ⟨rfl, rfl, fun hp ht => ?_, fun h => ?_, ⟨fun hp ht => ?_, fun h => ?_⟩, fun hp ht => ?_, fun h => ?_, fun h => ?_,
    fun h => ?_⟩ <;> refine congrArg Host.Outcome.next ?_
  · exact if_pos ⟨hp, ht⟩
  · exact if_neg (late h)
  · exact if_pos ⟨hp, ht⟩
  · exact if_neg (late h)
  · exact if_pos ⟨hp, ht⟩
  · exact if_neg (late h)
  · exact if_pos h
  · exact if_neg (ne_true_of_eq_false h)

end Sys2Proof.Machine

/-! # Host resets and link-up (13 R284, R286, R287) -/

namespace Sys2Proof.Machine

/-! ### What losses and back-invalidations leave -/

/-- Records of losses change the fault log only. -/
theorem foldl_logFault_eq {α : Type} (k : LogKind) (source severity : Byte) (d : α → Word) (l : List α) (s : State) :
    ∃ f, l.foldl (fun s x => s.logFault k source severity (d x)) s = { s with flog := f } := by
  induction l generalizing s with
  | nil => exact ⟨_, rfl⟩
  | cons x l ih =>
    obtain ⟨f, hf⟩ := ih (s.logFault k source severity (d x))
    exact ⟨f, by rw [List.foldl_cons, hf]; rfl⟩

/-- What a completion ring held is lost: the ring and the fault log change. -/
theorem State.dropHeld_eq (s : State) (r : Nat) : ∃ f q,
    s.dropHeld r = { s with flog := f, host := { s.host with comp := q } } := by
  obtain ⟨f, hf⟩ := foldl_logFault_eq .completionLost srcInterp 0 (·.tag) (s.getQr r).held s
  exact ⟨f, _, by simp only [State.dropHeld, hf]; rfl⟩

theorem foldl_dropHeld_eq (l : List Nat) (s : State) : ∃ f q,
    l.foldl State.dropHeld s = { s with flog := f, host := { s.host with comp := q } } := by
  induction l generalizing s with
  | nil => exact ⟨_, _, rfl⟩
  | cons r l ih =>
    obtain ⟨f, q, h⟩ := s.dropHeld_eq r
    obtain ⟨f', q', h'⟩ := ih (s.dropHeld r)
    exact ⟨f', q', by rw [List.foldl_cons, h', h]⟩

/-- Every ring and every fenced command is dropped, and the losses are logged. -/
theorem State.dropRings_eq (s : State) : ∃ f,
    s.dropRings = { s with flog := f, cmds := { s.cmds with fenced := [] }, host := { s.host with cmd := [], comp := [] } } := by
  obtain ⟨f, q, h⟩ := foldl_dropHeld_eq (List.range 16) s
  obtain ⟨f', h'⟩ := foldl_logFault_eq .completionLost srcInterp 0 (·.pkt.tag) s.cmds.fenced
    { s with flog := f, host := { s.host with comp := q } }
  exact ⟨f', by simp only [State.dropRings, h, h']; rfl⟩

/-- A host reset: the rings are dropped, and the host interface keeps what R286 does not reset. -/
theorem State.hostReset_eq (s : State) : ∃ f, s.hostReset = { s with flog := f, cmds := { s.cmds with fenced := [] }, host :=
    { HostIf.reset with dev := s.host.dev, stCtrl := s.host.stCtrl, directory := s.host.directory, lastServed := s.host.lastServed,
                        polled := s.host.polled, log := s.host.log } } := by
  obtain ⟨f, h⟩ := s.dropRings_eq
  exact ⟨f, by simp only [State.hostReset, h]; rfl⟩

/-- Back-invalidations change the directory, their count and what the device has put out. -/
theorem State.backInvAll_eq (s : State) (ls : List Nat) : ∃ d n x,
    s.backInvAll ls = { s with host := { s.host with directory := d, biCount := n, log := x } } := by
  induction ls generalizing s with
  | nil => exact ⟨_, _, _, rfl⟩
  | cons l ls ih =>
    obtain ⟨d, n, x, h⟩ := ih (s.backInv l)
    have one : ∃ d n x, s.backInv l = { s with host := { s.host with directory := d, biCount := n, log := x } } := by
      unfold State.backInv
      split <;> exact ⟨_, _, _, rfl⟩
    obtain ⟨d', n', x', h'⟩ := one
    exact ⟨d, n, x, by rw [State.backInvAll, List.foldl_cons, ← State.backInvAll, h, h']⟩

/-- Where the link, its path and memory allow it, Memory_Active is set, behind the back-invalidation of the directory. -/
theorem State.activateMem_eq {s : State} (hl : s.host.linkUp = true) (ha : s.host.memActive = false) : ∃ d n x,
    s.activateMem = { s with host := { s.host with directory := d, biCount := n, log := x,
                                                   memActive := s.host.biPath && s.mem.valid } } := by
  unfold State.activateMem
  obtain ⟨d, n, x, h⟩ := s.backInvAll_eq s.host.directory
  by_cases hc : (s.host.biPath && s.mem.valid) = true
  · have all : (s.host.linkUp && s.host.biPath && s.mem.valid && !s.host.memActive) = true := by simpa [hl, ha] using hc
    rw [if_pos all, h, hc]
    exact ⟨d, n, x, rfl⟩
  · have no : ¬ (s.host.linkUp && s.host.biPath && s.mem.valid && !s.host.memActive) = true := by simpa [hl, ha] using hc
    rw [if_neg no, Bool.eq_false_of_not_eq_true hc]
    exact ⟨s.host.directory, s.host.biCount, s.host.log, by rw [← ha]⟩

/-- Settles O36: a host reset replaces the host interface and clears what waits for it; the link's training sets its own fields and,
with the path and valid memory, Memory_Active. -/
theorem hostResetsDropTheHostInterfaceOnly : Obligations.HostResetsDropTheHostInterfaceOnly := by
  refine ⟨fun s cause => ⟨_, rfl, ?_⟩, fun s => ⟨_, rfl, ?_⟩, fun s l => ⟨_, rfl, ?_⟩⟩
  · obtain ⟨f, h⟩ := s.hostReset_eq
    dsimp only
    rw [h]
    cases cause <;> exact ⟨rfl, rfl, rfl, rfl, rfl, rfl, rfl, rfl, rfl, rfl, rfl, rfl, rfl, rfl, rfl, rfl, rfl⟩
  · obtain ⟨f, h⟩ := s.hostReset_eq
    rw [h]
    exact ⟨rfl, rfl, rfl, rfl, rfl, rfl, rfl⟩
  · obtain ⟨d, n, x, h⟩ := State.activateMem_eq (s := (s.modHost fun h =>
      { h with linkUp := true, link := some (l.width, l.rate), biPath := l.biPath, linkL1 := false, memActive := false }).modPins
        fun p => { p with perst := false, refclk := true, wake := false }) rfl rfl
    rw [h]
    refine ⟨rfl, rfl, rfl, rfl, rfl, rfl, rfl, rfl, fun hb hv => ?_, fun hn => ?_⟩
    · exact Bool.and_eq_true_iff.mpr ⟨hb, hv⟩
    · exact Bool.and_eq_false_iff.mpr hn

end Sys2Proof.Machine

/-! # Checks and timeouts of the interpreter (14 R307, R308, R312) -/

namespace Sys2Proof.Machine

section
variable {s u : State} {c : Packet} {o : OpSpec} {extra : List (Nat × Half × Half)}

/-! ### Steps 1 to 5 of R308, in their order -/

theorem checkCmd_version (h : c.version ≠ 1) : u.checkCmd c o extra = some (sBadParam, 3) := if_pos h

theorem checkCmd_flags (hv : c.version = 1) (h : 8 ≤ c.flags.toNat) : u.checkCmd c o extra = some (sBadParam, 2) := by
  rw [State.checkCmd, if_neg (not_not_intro hv), if_pos h]

theorem checkCmd_length (hv : c.version = 1) (hf : c.flags.toNat < 8) (h : c.length.toNat ≠ o.len) :
    u.checkCmd c o extra = some (sBadLength, BitVec.ofNat 16 o.len) := by
  rw [State.checkCmd, if_neg (not_not_intro hv), if_neg (Nat.not_le.mpr hf), if_pos h]

theorem checkCmd_partition (hv : c.version = 1) (hf : c.flags.toNat < 8) (hl : c.length.toNat = o.len)
    (h : (u.getPart c.part).exists_ = false ∨ (u.getCr c.ring.toNat).partition ≠ 0 ∧ c.part ≠ (u.getCr c.ring.toNat).partition) :
    u.checkCmd c o extra = some (sBadPartition, 0) := by
  rw [State.checkCmd, if_neg (not_not_intro hv), if_neg (Nat.not_le.mpr hf), if_neg (not_not_intro hl), if_pos (by simpa using h)]

theorem checkCmd_privilege (hv : c.version = 1) (hf : c.flags.toNat < 8) (hl : c.length.toNat = o.len)
    (hp : ¬ ((u.getPart c.part).exists_ = false ∨
      (u.getCr c.ring.toNat).partition ≠ 0 ∧ c.part ≠ (u.getCr c.ring.toNat).partition))
    (ho : o.p0 = true) (h : (u.getCr c.ring.toNat).partition ≠ 0 ∨ c.part ≠ 0) :
    u.checkCmd c o extra = some (sNotPermitted, 0) := by
  rw [State.checkCmd, if_neg (not_not_intro hv), if_neg (Nat.not_le.mpr hf), if_neg (not_not_intro hl), if_neg (by simpa using hp),
    if_pos (by simpa [ho] using h)]

/-! ### The rows of the table -/

/-- Every command row is `State.command` with its opcode, its own checks and its body. -/
theorem exec_commandsOf {x : Half × Instr × Bool} {tags : List (NodeId × Option Half)} (hx : x ∈ commandsOf c tags) (hr : x.2.2 = true) :
    ∃ extra body, exec x.2.1 s = .next (s.command c x.1 extra body) := by
  have rows : ∀ x ∈ commandsOf c tags, x.2.2 = true → ∃ extra body, exec x.2.1 s = .next (s.command c x.1 extra body) := by
    simp only [commandsOf, List.forall_mem_append, List.forall_mem_cons, List.not_mem_nil, false_implies, implies_true, and_true]
    and_intros
    all_goals intro h
    all_goals try exact ⟨_, _, congrArg Host.Outcome.next (if_pos (by simpa using h))⟩
    all_goals exact ⟨_, _, rfl⟩
  exact rows x hx hr

end

/-- Settles O40: each row is checked by `checkCmd`, whose steps come in this order; an opcode without a row by the two before. -/
theorem commandsAreCheckedInOrder : Obligations.CommandsAreCheckedInOrder := by
  refine ⟨fun s c tags hf x hx hr o ho => ?_, fun s c op hf ho => ?_⟩
  · intro u ring strange
    obtain ⟨extra, body, hrow⟩ := exec_commandsOf (s := s) hx hr
    have fails : ∀ {st d}, u.checkCmd c o (extra u) = some (st, d) → exec x.2.1 s = .next (u.answered c x.1 st d 0 0 0) :=
      fun h => hrow.trans (congrArg _ (command_refused body hf ho h))
    exact ⟨fun hv => fails (checkCmd_version hv), fun hv hfl => fails (checkCmd_flags hv hfl),
      fun hv hfl hl => fails (checkCmd_length hv hfl hl), fun hv hfl hl hp => fails (checkCmd_partition hv hfl hl hp),
      fun hv hfl hl hp h0 hq => fails (checkCmd_privilege hv hfl hl hp h0 hq)⟩
  · intro u
    have run : exec (.undefinedOpcode op c) s = .next ((if c.version ≠ 1 then u.record c op 0 sBadParam 3 0 0 0
        else if 8 ≤ c.flags.toNat then u.record c op 0 sBadParam 2 0 0 0
        else u.record c op 0 sBadOpcode 0 0 0 0).advanceCi c.ring.toNat c.length.toNat) := by
      refine congrArg Host.Outcome.next ((if_neg (by simp [ho])).trans ?_)
      rw [fetch_fetched _ _ hf]
    rw [run]
    refine ⟨fun hv => ?_, fun hv hfl => ?_, fun hv hfl => ?_⟩
    · rw [if_pos hv]; rfl
    · rw [if_neg (not_not_intro hv), if_pos hfl]; rfl
    · rw [if_neg (not_not_intro hv), if_neg (Nat.not_le.mpr hfl)]; rfl

/-! ### Timeouts (14 R312, Table 14.3) -/

section
variable {s : State} {ring : BitVec 4} {tag : Word} {x : LongCmd}

theorem execCommandTimeout_due (hf : (s.cmds.fenced.find? fun f => f.pkt.ring = ring && f.pkt.tag = tag) = none)
    (hx : (s.cmds.long.find? fun c => c.pkt.ring = ring && c.pkt.tag = tag && decide (c.deadline ≤ s.clk.now) && !s.committed c) = some x) :
    exec (.commandTimeout ring tag) s = .next ((s.withdraw x).complete x sTimeout 0 0 0 0) := by
  simp only [exec, execCommandTimeout, hf, hx]

theorem execCommandTimeout_none (hf : (s.cmds.fenced.find? fun f => f.pkt.ring = ring && f.pkt.tag = tag) = none)
    (hx : (s.cmds.long.find? fun c => c.pkt.ring = ring && c.pkt.tag = tag && decide (c.deadline ≤ s.clk.now) && !s.committed c) = none) :
    exec (.commandTimeout ring tag) s = .next s := by
  simp only [exec, execCommandTimeout, hf, hx]

/-- A LOAD, TABLE_COMMIT or FW_STAGE has nothing to take back. -/
theorem State.withdraw_of_reads (h : x.opcode = 0x0301 ∨ x.opcode = 0x0402 ∨ x.opcode = 0x0701) : s.withdraw x = s := by
  obtain h | h | h := h <;> simp [State.withdraw, h, opFwActivate, opFwRollback, opStart, opResume, opPause, opFlipArm, opCut, opBind]

/-- A START takes its arming back. -/
theorem State.withdraw_start (h : x.opcode = 0x0304) (hst : x.st = .accepted) :
    s.withdraw x = s.modPart x.part.toNat fun q => { q with starting := false, startGrp := none, startT := none } := by
  simp [State.withdraw, h, hst, opFwActivate, opFwRollback, opStart]

end

/-- Settles O41: the command found is withdrawn and completes; where none is due and uncommitted, none is found. -/
theorem commandsTimeOutBeforeTheirCommitPoint : Obligations.CommandsTimeOutBeforeTheirCommitPoint := by
  refine ⟨fun s ring tag x hf hx => ⟨fun h => ?_, fun h hst => ?_⟩, fun s ring tag hf hall => execCommandTimeout_none hf ?_⟩
  · rw [execCommandTimeout_due hf hx, State.withdraw_of_reads h]
  · rw [execCommandTimeout_due hf hx, State.withdraw_start h hst]
  · refine List.find?_eq_none.mpr fun c hc => ?_
    simp only [Bool.and_eq_true, decide_eq_true_eq, Bool.not_eq_true']
    rintro ⟨⟨⟨hr, ht⟩, hd⟩, hn⟩
    obtain hlt | hco := hall c hc hr ht
    · exact Nat.not_le.mpr hlt hd
    · exact ne_true_of_eq_false hn hco

end Sys2Proof.Machine

/-! # Device, identity, partition and window commands (14 R319, R320) -/

namespace Sys2Proof.Machine

section
variable {s t : State} {c : Packet} {op : Half}

/-! ### How a command's body goes on -/

theorem State.unlessBusy_none {b : Option Half} {f : Unit → Run} (h : b = none) : s.unlessBusy b f = f () := by
  rw [h]; rfl

theorem State.unlessBusy_some {b : Option Half} {f : Unit → Run} {o : Half} (h : b = some o) :
    s.unlessBusy b f = s.refuse sWrongState o := by
  rw [h]; rfl

theorem simple_okay {body : State → Rep × State} (h : Takes s c op []) (hb : body (s.served c) = (okRep, t)) :
    s.simple c op body = t.okay c op := by
  rw [simple_reply h.1 h.2, hb]; rfl

theorem simple_turnedAway {body : State → Rep × State} {d : Half} (h : Takes s c op [])
    (hb : body (s.served c) = (rep sWrongState d, s.served c)) : s.simple c op body = (s.served c).turnedAway c op d := by
  rw [simple_reply h.1 h.2, hb]; rfl

/-- A command that answers with a status and a detail, and changes nothing else. -/
theorem command_answered {extra : State → List (Nat × Half × Half)} {body : Nat → State → Run} {st d : Half}
    (h : Takes s c op (extra (s.served c))) (hb : body s.clk.now (s.served c) = t.refuse st d) :
    s.command c op extra body = t.answered c op st d 0 0 0 :=
  command_reply (r := rep st d) h.1 h.2 hb

/-- A command of an object on which a long command is in progress. -/
theorem command_busy {extra : State → List (Nat × Half × Half)} {body : Nat → State → Run} {b : Option Half} {o : Half}
    {f : Unit → Run} (h : Takes s c op (extra (s.served c))) (hb : body s.clk.now (s.served c) = (s.served c).unlessBusy b f)
    (ho : b = some o) : s.command c op extra body = (s.served c).turnedAway c op o :=
  command_answered h (hb.trans (State.unlessBusy_some ho))

end

/-! ### Device and identity (14 Table 14.4) -/

section
variable {s : State}

/-- Memory_Active and its back-invalidations are of the host interface. -/
theorem State.activateMem_host (s : State) : ∃ h, s.activateMem = { s with host := h } := by
  unfold State.activateMem
  obtain ⟨d, n, x, e⟩ := s.backInvAll_eq s.host.directory
  split
  · exact ⟨_, by rw [e]; rfl⟩
  · exact ⟨_, rfl⟩

theorem execMemoryClearComplete_filling {x : LongCmd} (hx : (s.cmds.long.find? fun c => c.opcode = 0x0106 && c.st = .accepted) = some x)
    (hf : s.mem.filling = true) : exec .memoryClearComplete s = .next (((s.modMem Mem.fill).activateMem).complete x sOk 0 0 0 0) := by
  have hx' : (s.cmds.long.find? fun c => c.opcode = opMemClear && c.st = .accepted) = some x := hx
  simp only [exec, execMemoryClearComplete, hx', hf, if_true]

theorem State.pipeWhere_none {f : PipeSt → Bool} (h : ∀ p ∈ s.part, f p.2.pipe = false) : s.pipeWhere f = none :=
  List.find?_eq_none.mpr fun p hp => ne_true_of_eq_false (h p hp)

end

/-- Settles O42: each command is taken up by the interpreter's laws, and its body is the effect stated. -/
theorem deviceCommandsTakeEffect : Obligations.DeviceCommandsTakeEffect := by
  intro s c u
  refine ⟨fun h => ?_, fun h hp => ?_, fun x h hx => ?_, fun h => ?_, fun h => ?_, fun h => ?_, fun h hp hr hd => ?_, fun x hx hf => ?_,
    fun h hd => ?_, fun h hd => ?_⟩
  · exact congrArg Host.Outcome.next (simple_reply h.1 h.2)
  · have hn : (s.served c).pipeWhere PipeSt.beyondLoaded = none := State.pipeWhere_none hp
    exact congrArg Host.Outcome.next (simple_okay h (by simp only [hn]; rfl))
  · have hw : (s.served c).pipeWhere PipeSt.beyondLoaded = some x := hx
    exact congrArg Host.Outcome.next (simple_turnedAway h (by simp only [hw]))
  · exact congrArg Host.Outcome.next (simple_reply h.1 h.2)
  · exact congrArg Host.Outcome.next (command_okay (extra := fun _ => defaultFaults c) h rfl)
  · exact congrArg Host.Outcome.next (simple_okay h rfl)
  · have hn : (s.served c).pipeWhere (· ≠ .none) = none := State.pipeWhere_none fun p hpm => by simp [hp p hpm]
    exact congrArg Host.Outcome.next (command_begun (extra := fun _ => []) (plane := true) (f := State.clearBegins) h hr hd
      (by simp only [hn]))
  · refine ⟨_, execMemoryClearComplete_filling hx hf, ?_⟩
    obtain ⟨g, e⟩ := (s.modMem Mem.fill).activateMem_host
    rw [e]
    exact ⟨rfl, rfl, rfl, fun a => rfl, rfl, rfl⟩
  · refine congrArg Host.Outcome.next ?_
    exact command_first (r := rep sAccepted 0) (t := u) (f := fun v => v.beginStart .warm (c.at_ 16 1 = 1) false false)
      (extra := fun _ => []) h.1 h.2 (if_neg hd)
  · exact congrArg Host.Outcome.next (command_wrong (extra := fun _ => []) h (if_pos hd))

/-! ### Partitions and windows (14 Table 14.5) -/

section
variable {s : State} {c : Packet}

/-- Rechecking directory lines changes the host interface only. -/
theorem State.recheckLines_host (s : State) (a n : Nat) : ∃ h, s.recheckLines a n = { s with host := h } := by
  obtain ⟨d, k, x, h⟩ := s.backInvAll_eq ((s.directoryIn a n).filter fun l => !s.cacheable l)
  exact ⟨_, h⟩

/-- A window put where there was none: the partition and the host interface change, and the settings are saved. -/
theorem State.putWindow_new {p w : Nat} {x : Window} (hn : smGet Window.reset (s.getPart p).windows w = .reset) : ∃ h,
    s.putWindow p w x = ({ s.modPart p fun q => { q with windows := smSet q.windows w x } with host := h } : State).saveSettings := by
  have hv : ¬ (smGet Window.reset (s.getPart p).windows w).valid = true := by rw [hn]; decide
  simp only [State.putWindow, if_neg hv]
  split
  · obtain ⟨h, e⟩ := (s.modPart p fun q => { q with windows := smSet q.windows w x }).recheckLines_host x.base.toNat x.size.toNat
    exact ⟨h, by rw [e]⟩
  · exact ⟨s.host, rfl⟩

theorem State.windowChange_quiet {p w : Nat} {x : Window} (h : (s.getPart p).pipe.beyondLoaded = false) :
    s.windowChange p w x = .reply okRep (s.putWindow p w x) := if_neg (ne_true_of_eq_false h)

theorem State.windowChange_beyond {p w : Nat} {x : Window} (h : (s.getPart p).pipe.beyondLoaded = true) :
    s.windowChange p w x = s.wrong (s.getPart p).pipe.code := if_pos h

end

/-- Settles O43: each command is taken up by the interpreter's laws; its object's state, then its rings, then its effect. -/
theorem partitionCommandsTakeEffect : Obligations.PartitionCommandsTakeEffect := by
  intro s c u p w q
  refine ⟨fun h he => ?_, fun h he => ?_, fun h hb hp hr => ?_, fun h hb hp => ?_, fun r h hb hp hr => ?_, fun h hp => ?_,
    fun h hp => ?_, fun h hp => ?_, fun h => ?_, fun x hn hv => ?_⟩
  · exact congrArg Host.Outcome.next (simple_okay h (if_neg (ne_true_of_eq_false he)))
  · exact congrArg Host.Outcome.next (simple_turnedAway h (if_pos he))
  · have none : ((List.range 16).find? fun r => (u.getCr r).st ≠ .disabled && (u.getCr r).partition = p) = none := by
      refine List.find?_eq_none.mpr fun r hm hc => ?_
      simp only [ne_eq, Bool.and_eq_true, decide_eq_true_eq] at hc
      exact (hr r (List.mem_range.mp hm)).elim hc.1 (absurd hc.2)
    exact congrArg Host.Outcome.next (command_okay (extra := fun s => s.noPart p 16) h
      ((State.unlessBusy_none hb).trans ((if_neg (not_not_intro hp)).trans (by simp only [u, p] at none; rw [none]))))
  · exact congrArg Host.Outcome.next (command_wrong (extra := fun s => s.noPart p 16) h ((State.unlessBusy_none hb).trans (if_pos hp)))
  · exact congrArg Host.Outcome.next (command_wrong (extra := fun s => s.noPart p 16) h
      ((State.unlessBusy_none hb).trans ((if_neg (not_not_intro hp)).trans (by simp only [u, p] at hr; rw [hr]))))
  · exact congrArg Host.Outcome.next (command_okay (extra := windowFaults c) h (State.windowChange_quiet hp))
  · exact congrArg Host.Outcome.next (command_wrong (extra := windowFaults c) h (State.windowChange_beyond hp))
  · exact congrArg Host.Outcome.next (command_okay (extra := fun s => s.noPart p 16) h (State.windowChange_quiet hp))
  · exact congrArg Host.Outcome.next (simple_reply h.1 h.2)
  · intro t
    obtain ⟨g, e⟩ := State.putWindow_new (s := u) (x := x) hn
    refine ⟨?_, ?_, ?_, ?_⟩ <;> rw [show t = _ from e]
    · show smGet Window.reset (State.getPart { u with part := _ } p).windows w = x
      simp [State.saveSettings, State.getPart]
    all_goals rfl

end Sys2Proof.Machine

/-! # Loading and binding a pipeline (14 R321, 07 R150 and R155) -/

namespace Sys2Proof.Machine

section
variable {s t : State} {p : Nat} {im : Image} {img : List Byte} {x : LongCmd}

/-! ### The stages that a bind places -/

theorem Island.spWrite_st (v : Island) (o : Nat) (bs : List Byte) : (v.spWrite o bs).st = v.st := rfl

theorem Island.bound_st (v : Island) (p : Nat) (im : Image) (g : ImgStage) (img : List Byte) : (v.bound p im g img).st = stBound :=
  foldl_keeps (fun v : Island => v.st) (fun _ _ => Island.spWrite_st _ _ _) g.pre _

theorem State.excPut_isl (s : State) (p : Nat) (bs : List Byte) : (s.excPut p bs).isl = s.isl := by
  unfold State.excPut
  split
  · rfl
  · split <;> rfl

theorem State.flushLog_isl (s : State) (i : Nat) : (s.flushLog i).isl = s.isl :=
  foldl_keeps State.isl (fun _ _ => State.excPut_isl _ _ _) _ s

/-- Islands set one after the other to values in one state are all in that state. -/
theorem foldl_setIsl_st {α : Type} (f : State → α → State) (i : α → Nat) (w : BitVec 4)
    (hf : ∀ u a, ((f u a).getIsl (i a)).st = w ∧ ∀ j, j ≠ i a → (f u a).getIsl j = u.getIsl j) (j : Nat) :
    ∀ (l : List α) (s : State), (∃ a ∈ l, i a = j) ∨ (s.getIsl j).st = w → ((l.foldl f s).getIsl j).st = w
  | [], s, h => h.elim (fun ⟨_, ha, _⟩ => absurd ha List.not_mem_nil) id
  | a :: l, s, h => by
    refine foldl_setIsl_st f i w hf j l (f s a) ?_
    by_cases e : j = i a
    · exact .inr (e ▸ (hf s a).1)
    · rcases h with ⟨b, hb, hj⟩ | h
      · rcases List.mem_cons.mp hb with rfl | hb
        · exact absurd hj.symm e
        · exact .inl ⟨b, hb, hj⟩
      · exact .inr (by rw [(hf s a).2 j e]; exact h)

/-- Without a restore, each stage's island is BOUND once it is placed (07 R155). -/
theorem State.place_st (hr : (s.getPart p).restored = none) {g : ImgStage} (hg : g ∈ im.stages) :
    ((s.place p im img).getIsl g.stage.island.toNat).st = stBound := by
  refine foldl_setIsl_st _ (fun g : ImgStage => g.stage.island.toNat) stBound (fun u a => ?_) _ im.stages s (.inl ⟨g, hg, rfl⟩)
  simp only [hr, Option.isSome_none, Bool.false_eq_true, false_and, if_false]
  exact ⟨by rw [State.getIsl_setIsl]; exact Island.bound_st _ _ _ _ _,
    fun j hj => by rw [State.getIsl_setIsl_ne _ _ hj]; simp only [State.getIsl, State.flushLog_isl]⟩

/-- Back-invalidations of a list of windows leave the partitions. -/
theorem foldl_backInvAll_part (f : State → Nat × Window → List Nat) (l : List (Nat × Window)) (s : State) :
    (l.foldl (fun s w => if w.2.valid then s.backInvAll (f s w) else s) s).part = s.part := by
  refine foldl_keeps State.part (fun u w => ?_) l s
  split
  · obtain ⟨d, n, y, e⟩ := u.backInvAll_eq (f u w)
    rw [e]
  · rfl

/-! ### The bind's completion -/

/-- A bind with a group that is not clocked wakes its groups again and waits. -/
theorem State.bindPlaces_waking (hb : s.bindFault p im = none) (hg : ∃ g ∈ im.islands.map groupOf, (s.getGrp g).gate ≠ .clocked) :
    s.bindPlaces p x im img = (im.islands.map groupOf).dedup.foldl State.wakeGroup s := by
  have any : (im.islands.map groupOf).dedup.any (fun g => (s.getGrp g).gate ≠ .clocked) = true := by
    obtain ⟨g, hm, h⟩ := hg
    exact List.any_eq_true.mpr ⟨g, List.mem_dedup.mpr hm, decide_eq_true h⟩
  simp only [State.bindPlaces, hb, if_pos any]

/-- A bind whose groups are all clocked places its stages and is done. -/
theorem State.bindPlaces_placed (hb : s.bindFault p im = none) (hg : ∀ g ∈ im.islands.map groupOf, (s.getGrp g).gate = .clocked) :
    ∃ v : State, s.bindPlaces p x im img = v.complete x sOk 0 0 0 0 ∧ (v.getPart p).pipe = .bound ∧ (v.getPart p).releases = 0 ∧
      (v.getPart p).stages = im.stages.map (·.stage) ∧
      ((s.getPart p).restored = none → ∀ g ∈ im.stages, (v.getIsl g.stage.island.toNat).st = stBound) := by
  have any : ¬ (im.islands.map groupOf).dedup.any (fun g => (s.getGrp g).gate ≠ .clocked) = true := by
    simp only [List.any_eq_true, decide_eq_true_eq, not_exists, not_and, not_not]
    exact fun g hm => hg g (List.mem_dedup.mp hm)
  refine ⟨_, by simp only [State.bindPlaces, hb, if_neg any]; rfl, ?_, ?_, ?_, fun hr g hgm => ?_⟩
  · rw [State.getPart_modPart]
  · rw [State.getPart_modPart]
  · rw [State.getPart_modPart]; rfl
  · refine State.place_st ?_ hgm
    have e := foldl_backInvAll_part (fun s w => s.directoryIn w.2.base.toNat w.2.size.toNat) (s.getPart p).windows s
    simp only [State.getPart] at e hr ⊢
    rw [e]
    exact hr

/-- What a partition keeps of an image that it has loaded from address a. -/
def Part.loaded (q : Part) (im : Image) (a : Nat) : Part :=
  { q.withImage im with pipe := .loaded, image := BitVec.ofNat 48 a, releases := 0, energyHeld := none, restores := 0, restored := none,
                        captures := [] }

/-- The end of a load of a good image. -/
theorem execLoadComplete_ok {k : BitVec 6} (hx : s.longOf opLoad k.toNat = some x) (hh : s.frameHeld = false)
    (hi : s.readImage k.toNat (x.pkt.at_ 24 8) = (.ok im img, t)) : exec (.loadComplete k) s =
      .next ((t.modPart k.toNat fun q => q.loaded im (x.pkt.at_ 24 8)).complete x sOk 0 im.pipeId (BitVec.ofNat 32 im.stages.length) 0) := by
  simp only [exec, execLoadComplete, hx, hh, hi, Bool.false_eq_true, if_false]
  rfl

/-- A bind begun keeps the bytes that it has checked. -/
theorem State.bindBegins_binding (hi : s.readImage p (s.getPart p).image.toNat = (.ok im img, t)) (hb : t.bindFault p im = none) :
    ((s.bindBegins p).getPart p).binding = some (img, (im.islands.map groupOf).dedup) := by
  simp only [State.bindBegins, hi, hb, State.getPart_modPart]

end

/-- Settles O44: each command is taken up by the interpreter's laws; an end is judged by the image that it reads. -/
theorem pipelinesLoadAndBind : Obligations.PipelinesLoadAndBind := by
  refine ⟨fun s c hb => ⟨fun h hp hr => ?_, fun h hp => ?_, fun h hp => ?_, fun h hp => ?_, fun im img t h hp hr hd hi hf => ?_,
      fun im img t st d h hp hi hf => ?_, fun h hp => ?_⟩, fun s p x hx => ?_, fun s p im img t hi hf => State.bindBegins_binding hi hf,
    fun s p f t h => ?_, fun s p x hx => ?_⟩
  · exact congrArg Host.Outcome.next (command_begun (extra := imageFaults c) (plane := false) (f := id) h hr rfl
      ((State.unlessBusy_none hb).trans (if_neg (not_not_intro hp))))
  · exact congrArg Host.Outcome.next (command_wrong (extra := imageFaults c) h ((State.unlessBusy_none hb).trans (if_pos hp)))
  · exact congrArg Host.Outcome.next (command_okay (extra := fun _ => []) h
      ((State.unlessBusy_none hb).trans (if_neg (not_not_intro hp))))
  · exact congrArg Host.Outcome.next (command_wrong (extra := fun _ => []) h ((State.unlessBusy_none hb).trans (if_pos hp)))
  · exact congrArg Host.Outcome.next (command_begun (extra := fun _ => []) (plane := true) (f := fun s => s.bindBegins c.part) h hr hd
      ((State.unlessBusy_none hb).trans ((if_neg (not_not_intro hp)).trans (by simp only [hi, hf]))))
  · exact congrArg Host.Outcome.next (command_answered (extra := fun _ => []) h
      ((State.unlessBusy_none hb).trans ((if_neg (not_not_intro hp)).trans (by simp only [hi, hf]))))
  · exact congrArg Host.Outcome.next (command_wrong (d := 0) (extra := fun _ => []) h
      ((State.unlessBusy_none hb).trans (if_pos hp)))
  · have hx' : s.longOf opLoad p.toNat = some x := hx
    refine ⟨fun hh => ?_, fun im img t hh hi => ?_, fun f t hh hi => ?_, fun f t hh hi => ?_⟩
    · simp only [exec, execLoadComplete, hx', hh, if_true]
    · refine ⟨_, execLoadComplete_ok hx' hh hi, ?_, ?_, ?_, ?_, rfl, rfl⟩ <;> rw [State.getPart_modPart] <;> rfl
    all_goals simp only [exec, execLoadComplete, hx', hh, hi, Bool.false_eq_true, if_false]; rfl
  · unfold State.bindBegins
    rcases h with h | h <;> rw [h]
  · have hx' : s.longOf opBind p.toNat = some x := hx
    refine ⟨fun hn => ⟨fun f t hi => ?_, fun f t hi => ?_, fun im img t st d hi hf => ?_, fun im img t hi hf => ?_⟩,
      fun img gs im hn hi => ⟨fun st d hf => ?_, fun hf hg => ?_, fun hf hg => ?_⟩⟩
    · simp only [exec, execBindComplete, hx', hn, hi]; rfl
    · simp only [exec, execBindComplete, hx', hn, hi]; rfl
    · simp only [exec, execBindComplete, hx', hn, hi, hf]
    · simp only [exec, execBindComplete, hx', hn, hi, hf]
    · simp only [exec, execBindComplete, hx', hn, hi, State.bindPlaces, hf]
    · simp only [exec, execBindComplete, hx', hn, hi, State.bindPlaces_waking hf hg]
    · obtain ⟨v, hv, rest⟩ := State.bindPlaces_placed (x := x) (img := img) hf hg
      exact ⟨v, by simp only [exec, execBindComplete, hx', hn, hi, hv], rest⟩

end Sys2Proof.Machine

/-! # Starting, pausing and draining a pipeline (14 R321, 07 R157 and R158) -/

namespace Sys2Proof.Machine

section
variable {s : State} {c : Packet} {op : Half} {from_ : PipeSt}

/-! ### START and RESUME -/

theorem startCmd_begun (hb : (s.served c).busy (onPipe c.part) = none) (hd : (s.served c).pwr.deepIdle = false)
    (h : Takes s c op (groupFaults c op.toNat (s.served c))) (hp : ((s.served c).getPart c.part).pipe = from_)
    (ht : (s.served c).timeless ((s.served c).startGroup c op.toNat) = false) (hr : Roomy (s.served c) c) :
    s.startCmd c op from_ = (s.served c).begun c op fun t => (t.setPart c.part { (s.served c).getPart c.part with
      starting := true, startGrp := some (BitVec.ofNat 8 ((s.served c).startGroup c op.toNat)) }).tryArrive
        ((s.served c).startGroup c op.toNat) :=
  command_begun (extra := groupFaults c op.toNat) (plane := true) h hr hd
    ((State.unlessBusy_none hb).trans ((if_neg (not_not_intro hp)).trans (if_neg (ne_true_of_eq_false ht))))

theorem startCmd_timeless (hb : (s.served c).busy (onPipe c.part) = none) (h : Takes s c op (groupFaults c op.toNat (s.served c)))
    (hp : ((s.served c).getPart c.part).pipe = from_) (ht : (s.served c).timeless ((s.served c).startGroup c op.toNat) = true) :
    s.startCmd c op from_ = (s.served c).turnedAway c op 0x0100 :=
  command_wrong (d := 0x0100) (extra := groupFaults c op.toNat) h
    ((State.unlessBusy_none hb).trans ((if_neg (not_not_intro hp)).trans (if_pos ht)))

theorem startCmd_wrong (hb : (s.served c).busy (onPipe c.part) = none) (h : Takes s c op (groupFaults c op.toNat (s.served c)))
    (hp : ((s.served c).getPart c.part).pipe ≠ from_) :
    s.startCmd c op from_ = (s.served c).turnedAway c op (BitVec.ofNat 16 ((s.served c).getPart c.part).pipe.code) :=
  command_wrong (extra := groupFaults c op.toNat) h ((State.unlessBusy_none hb).trans (if_pos hp))

end

/-! ### The end of a drain -/

section
variable {s : State}

/-- The islands named are unbound. -/
def State.unbind (s : State) (l : List Nat) : State := l.foldl (fun s i => s.modIsl i Island.unbound) s

theorem State.unbind_st {l : List Nat} {i : Nat} (h : i ∈ l) : ((s.unbind l).getIsl i).st = stGated :=
  foldl_setIsl_st (fun s i => s.modIsl i Island.unbound) (fun i => i) stGated
    (fun u a => ⟨by simp only [State.modIsl, State.getIsl_setIsl]; rfl, fun j hj => State.getIsl_setIsl_ne _ _ hj⟩)
    i l s (.inl ⟨i, h, rfl⟩)

theorem State.unbind_getIsl {i : Nat} : ∀ {l : List Nat} (s : State), i ∉ l → (s.unbind l).getIsl i = s.getIsl i
  | [], _, _ => rfl
  | a :: l, s, h => by
    obtain ⟨ha, hl⟩ := not_or.mp (mt List.mem_cons.mpr h)
    exact (State.unbind_getIsl (l := l) (s.modIsl a Island.unbound) hl).trans (State.getIsl_setIsl_ne _ _ ha)

theorem State.unbind_mem (s : State) (l : List Nat) : (s.unbind l).mem = s.mem :=
  foldl_keeps State.mem (f := fun s i => s.modIsl i Island.unbound) (fun _ _ => rfl) l s

/-- What the end of a drain leaves of the state that unbinding the islands leaves. -/
def State.undrained (s : State) : SMap Island × Mem := (s.isl, s.mem)

theorem State.unbindGroups_undrained (s : State) (p : Nat) : (s.unbindGroups p).undrained = s.undrained :=
  foldl_keeps State.undrained (f := fun s g => s.setGrp g { s.getGrp g with unbound := s.clk.now }) (fun _ _ => rfl) _ s

/-- The named groups that partition k owns have no arrivals left. -/
def State.clearArrivals (s : State) (k : Nat) (gs : List Nat) : State :=
  gs.foldl (fun s g => s.modBar g fun b => if b.owner.toNat = k then { b with arrived := [] } else b) s

/-- Barrier arrivals are of the barriers only. -/
theorem State.clearArrivals_keeps {β : Type} (view : State → β) (h : ∀ (u : State) b, view { u with bar := b } = view u) (s : State)
    (k : Nat) (gs : List Nat) : view (s.clearArrivals k gs) = view s :=
  foldl_keeps view (f := fun s g => s.modBar g fun b => if b.owner.toNat = k then { b with arrived := [] } else b)
    (fun u _ => h u _) gs s

/-- The islands of partition p that its pipeline has bound. -/
def State.boundIslands (s : State) (p : Nat) : List Nat :=
  ((s.getPart p).stages.map fun x => x.island.toNat).filter fun i => stBound ≤ s.islSt i && (s.getIsl i).partition.toNat = p

/-- A pipeline as the end of its drain leaves it. -/
def State.drained (s : State) (k : Nat) (l : List Nat) : State :=
  let t := (s.unbind l).bindUndone k
  let t := if l.isEmpty then t else t.unbindGroups k
  let t := t.modPart k fun q =>
    { q with pipe := .loaded, energyHeld := if l.isEmpty then q.energyHeld else some (t.energyOf k - q.energyAt),
             restored := if l.isEmpty then q.restored else none, captures := if l.isEmpty then q.captures else [] }
  let t := t.clearArrivals k ((s.getPart k).stepGroup.toNat :: (s.getPart k).groups)
  { t with circ := t.circ.filter fun x => x.partition.toNat ≠ k }

theorem State.drained_undrained (s : State) (k : Nat) (l : List Nat) : (s.drained k l).undrained = (s.unbind l).undrained := by
  refine (State.clearArrivals_keeps State.undrained (fun _ _ => rfl) _ k _).trans ?_
  change State.undrained (if l.isEmpty then (s.unbind l).bindUndone k else ((s.unbind l).bindUndone k).unbindGroups k) = _
  split
  · rfl
  · exact State.unbindGroups_undrained _ k

theorem State.drained_pipe (s : State) (k : Nat) (l : List Nat) : ((s.drained k l).getPart k).pipe = .loaded := by
  have e : (s.drained k l).part = _ := State.clearArrivals_keeps State.part (fun _ _ => rfl) _ k _
  rw [State.getPart, e]
  simp

theorem State.drained_circ {k : Nat} {l : List Nat} {y : Circuit} (h : y ∈ (s.drained k l).circ) : y.partition.toNat ≠ k := by
  simpa using (List.mem_filter.mp h).2

/-- DRAIN goes on where no island has anything left to run out. -/
theorem execPipelineDrainComplete_ran {p : BitVec 6} {x : LongCmd} (hx : s.longOf opDrain p.toNat = some x)
    (hr : ∀ i ∈ s.boundIslands p.toNat, s.islSt i = stRunning ∨ s.islSt i = stFaulted) : execPipelineDrainComplete p s =
      .next (if (s.boundIslands p.toNat).any (fun i => !(s.getIsl i).still) then s else
        (s.drained p.toNat (s.boundIslands p.toNat)).complete x sOk 0
          (BitVec.ofNat 32 ((s.boundIslands p.toNat).filter fun i => !(s.getIsl i).ended).length) 0 0) := by
  have ran : ∀ l : List Nat, (∀ i ∈ l, s.islSt i = stRunning ∨ s.islSt i = stFaulted) →
      l.foldl (fun s i => if s.islSt i = stRunning ∨ s.islSt i = stFaulted then s else s.runOut i) s = s := by
    intro l
    induction l with
    | nil => intro _; rfl
    | cons i l ih =>
      intro h
      rw [List.foldl_cons, if_pos (h i List.mem_cons_self), ih fun j hj => h j (List.mem_cons_of_mem _ hj)]
  have e := ran _ hr
  simp only [State.boundIslands] at e
  simp only [execPipelineDrainComplete, hx, e]
  rfl

end

/-- Settles O45: each command is taken up by the interpreter's laws; a drain's end is that of the islands that its pipeline has bound. -/
theorem pipelinesStartPauseAndDrain : Obligations.PipelinesStartPauseAndDrain := by
  refine ⟨fun s c hb hd => ⟨fun x hx => ?_, fun h => ⟨fun hp hn hr => ?_, fun hp hn => ?_, fun hp => ?_⟩⟩,
    fun s c => ⟨fun h hq hp hr => ?_, fun h hq hx hr => ?_, fun h hq hx => ?_, fun h hp => ?_, fun h => ?_, fun h => ?_⟩,
    fun s p x hx hrun => ⟨fun hs => ?_, fun hs => ?_⟩⟩
  · intro g h
    rcases List.mem_cons.mp hx with rfl | hx
    · exact ⟨fun hp ht hr => congrArg Host.Outcome.next (startCmd_begun hb hd h hp ht hr),
        fun hp ht => congrArg Host.Outcome.next (startCmd_timeless hb h hp ht), fun hp => congrArg Host.Outcome.next (startCmd_wrong hb h hp)⟩
    · rcases List.mem_singleton.mp hx with rfl
      exact ⟨fun hp ht hr => congrArg Host.Outcome.next (startCmd_begun hb hd h hp ht hr),
        fun hp ht => congrArg Host.Outcome.next (startCmd_timeless hb h hp ht), fun hp => congrArg Host.Outcome.next (startCmd_wrong hb h hp)⟩
  · exact congrArg Host.Outcome.next (command_begun (extra := fun _ => []) (plane := true) h hr hd
      ((State.unlessBusy_none hb).trans ((if_neg (not_not_intro hp)).trans (if_neg (BitVec.not_lt.mpr hn)))))
  · exact congrArg Host.Outcome.next (command_reply (extra := fun _ => [])
      (r := ⟨sWrongState, ((s.served c).lowestOpen c.part).setWidth 16, (s.served c).lowestOpen c.part, 0, 0⟩) h.1 h.2
      ((State.unlessBusy_none hb).trans ((if_neg (not_not_intro hp)).trans (if_pos hn))))
  · exact congrArg Host.Outcome.next (command_wrong (extra := fun _ => []) h ((State.unlessBusy_none hb).trans (if_pos hp)))
  · exact congrArg Host.Outcome.next (command_begun (extra := fun _ => []) (plane := false) (f := fun t => t.drainBegins c.part) h hr rfl
      (if_neg fun hc => hc.elim (fun hc => ne_true_of_eq_false hq hc.1) hp))
  · refine congrArg Host.Outcome.next (command_begun (extra := fun _ => []) (plane := false) (f := fun t => t.drainBegins c.part) h hr rfl
      (if_neg fun hc => hc.elim (fun hc => hc.2 hx) fun hp => ?_))
    rw [hp] at hq
    exact absurd hq (by decide)
  · exact congrArg Host.Outcome.next (command_wrong (extra := fun _ => []) h (if_pos (.inl ⟨hq, ne_true_of_eq_false hx⟩)))
  · refine congrArg Host.Outcome.next ((command_wrong (extra := fun _ => []) h (if_pos (.inr hp))).trans ?_)
    rw [hp]; rfl
  · exact congrArg Host.Outcome.next (simple_reply h.1 h.2)
  · exact congrArg Host.Outcome.next (command_okay (extra := fun _ => if 1 ≤ c.at_ 16 1 ∧ c.at_ 16 1 < 6 then [(16, sBadParam, 16)] else [])
      h rfl)
  · obtain ⟨i, hi, hn⟩ := hs
    refine (execPipelineDrainComplete_ran hx hrun).trans (congrArg Host.Outcome.next (if_pos ?_))
    exact List.any_eq_true.mpr ⟨i, hi, by rw [hn]; rfl⟩
  · have all : ¬ (s.boundIslands p.toNat).any (fun i => !(s.getIsl i).still) = true := fun h => by
      obtain ⟨i, hi, hn⟩ := List.any_eq_true.mp h
      rw [hs i hi] at hn
      exact absurd hn (by decide)
    refine ⟨_, (execPipelineDrainComplete_ran hx hrun).trans (congrArg Host.Outcome.next (if_neg all)), ?_⟩
    obtain ⟨hisl, hmem⟩ := Prod.mk.inj (s.drained_undrained p.toNat (s.boundIslands p.toNat))
    refine ⟨State.drained_pipe s _ _, fun i hi => ?_, fun i hi => ?_, fun y hy => State.drained_circ hy, hmem.trans (State.unbind_mem s _)⟩
    · rw [State.getIsl, hisl]; exact State.unbind_st hi
    · rw [State.getIsl, hisl]; exact State.unbind_getIsl s hi

end Sys2Proof.Machine

/-! # Table versions, fabric settings and barrier groups (14 R322) -/

namespace Sys2Proof.Machine

/-! ### Table versions -/

section
variable {s : State} {e : BitVec 1} {f : Unit → Run}

theorem State.onVersion_writable (hb : s.verBusy e = none) (hw : s.ver e = .writable) : s.onVersion e f = f () :=
  (State.unlessBusy_none hb).trans (if_neg (not_not_intro hw))

theorem State.onVersion_wrong (hb : s.verBusy e = none) (hw : s.ver e ≠ .writable) : s.onVersion e f = s.wrong (s.ver e).code :=
  (State.unlessBusy_none hb).trans (if_pos hw)

end

/-- The end of a commit, by its checks. -/
theorem execTableCommitComplete_of_find {s : State} {e : BitVec 1} {x : LongCmd}
    (hx : (s.cmds.long.find? fun c => c.opcode = opCommit && verOf c.pkt = e) = some x) : exec (.tableCommitComplete e) s =
      .next (match s.commitFault (s.tab e) with
        | some (k, off) => s.complete x sBadParam 0xFFFE (BitVec.ofNat 32 k) (BitVec.ofNat 32 off) 0
        | none => (s.modFab fun f => setVer f (e = 1) .ready).complete x sOk 0 0 0 0) := by
  simp only [exec, execTableCommitComplete, hx] <;> rfl

/-- Settles O46: a command of a version is refused by what is in progress on it, then by its state; a flip also by the retirement. -/
theorem tablesAreWrittenCommittedAndFlipped : Obligations.TablesAreWrittenCommittedAndFlipped := by
  refine ⟨fun s c hb => ⟨fun h hw => ?_, fun h hw => ?_, fun h hw hr => ?_, fun hw => ⟨fun h => ?_, fun h => ?_, fun h => ?_⟩⟩,
    fun s e x hx => ⟨fun hf => ?_, fun k off hf => ?_⟩,
    fun s c => ⟨fun h hb hv hn hr => ?_, fun h hb hv => ?_, fun h hb hv hn => ?_, fun op ho => ⟨fun h => ?_, fun h => ?_, fun h => ?_⟩,
      fun op ho h => ?_, fun h => ?_⟩⟩
  · intro r
    cases hbad : r.2.1 with
    | true => exact congrArg Host.Outcome.next (command_answered (t := r.2.2) (extra := tableFaults c) h
        ((State.onVersion_writable hb hw).trans (if_pos hbad)))
    | false => exact congrArg Host.Outcome.next (command_okay (extra := tableFaults c) h
        ((State.onVersion_writable hb hw).trans (if_neg (ne_true_of_eq_false hbad))))
  · exact congrArg Host.Outcome.next (command_okay (extra := fun _ => []) h (State.onVersion_writable hb hw))
  · exact congrArg Host.Outcome.next (command_begun (extra := fun _ => []) (plane := false) (f := id) h hr rfl
      (State.onVersion_writable hb hw))
  · exact congrArg Host.Outcome.next (command_wrong (extra := tableFaults c) h (State.onVersion_wrong hb hw))
  · exact congrArg Host.Outcome.next (command_wrong (extra := fun _ => []) h (State.onVersion_wrong hb hw))
  · exact congrArg Host.Outcome.next (command_wrong (extra := fun _ => []) h (State.onVersion_wrong hb hw))
  · rw [execTableCommitComplete_of_find hx, hf]
  · rw [execTableCommitComplete_of_find hx, hf]
  · exact congrArg Host.Outcome.next (command_begun (extra := noGroup c) (plane := false) h hr rfl
      ((State.unlessBusy_none hb).trans ((if_neg (not_not_intro hv)).trans (if_neg (BitVec.not_lt.mpr hn)))))
  · exact congrArg Host.Outcome.next (command_wrong (extra := noGroup c) h ((State.unlessBusy_none hb).trans (if_pos hv)))
  · exact congrArg Host.Outcome.next (command_wrong (extra := noGroup c) h
      ((State.unlessBusy_none hb).trans ((if_neg (not_not_intro hv)).trans (if_pos hn))))
  · exact congrArg Host.Outcome.next (command_busy (extra := tableFaults c) h rfl ho)
  · exact congrArg Host.Outcome.next (command_busy (extra := fun _ => []) h rfl ho)
  · exact congrArg Host.Outcome.next (command_busy (extra := fun _ => []) h rfl ho)
  · exact congrArg Host.Outcome.next (command_busy (extra := noGroup c) h rfl ho)
  · exact congrArg Host.Outcome.next (simple_reply h.1 h.2)

/-! ### Fabric settings -/

section
variable {s : State} {c : Packet}

theorem onForm_of_eq {off bit : Nat} {v : Bool} {t : State} (h : c.at_ off 1 / 2 ^ bit % 2 = if v then 1 else 0) :
    onForm c off bit v s t = t :=
  if_pos (by cases v <;> simp [h])

/-- A feature holds its resource with a number other than 0. -/
theorem auxHolder_ne_zero (n : Nat) : holderId (if n = 1 then featAttach else featDouble) 0 ≠ 0 := by
  split <;> decide

/-- The first holder of what a change to SYNC mode m needs (19 R416, R421). -/
def State.syncHeld (u : State) (m : BitVec 2) : Option Half :=
  let change := decide (m ≠ u.ret.syncMode)
  u.firstHeld (if change && decide (u.ret.syncMode = 0) then [rankSync] else []) (change && decide (m = 2)) []

theorem State.syncHeld_eq (u : State) (m : BitVec 2) : u.syncHeld m =
    u.firstHeld (if m ≠ u.ret.syncMode ∧ u.ret.syncMode = 0 then [rankSync] else []) (decide (m ≠ u.ret.syncMode ∧ m = 2)) [] := by
  simp [State.syncHeld]

/-- The pipeline that refuses a BARRIER_CFG for another owner of the group (14 R322). -/
def State.groupRefuses (u : State) (c : Packet) : Option PipeSt :=
  let b := u.getBar (c.at_ 16 1)
  if b.valid ∧ b.owner ≠ BitVec.ofNat 6 (c.at_ 17 1) then u.groupUser b.owner.toNat (c.at_ 16 1) else none

theorem State.groupRefuses_free (h : (s.getBar (c.at_ 16 1)).valid = false ∨
    (s.getBar (c.at_ 16 1)).owner = BitVec.ofNat 6 (c.at_ 17 1) ∨ s.groupUser (s.getBar (c.at_ 16 1)).owner.toNat (c.at_ 16 1) = none) :
    s.groupRefuses c = none := by
  unfold State.groupRefuses
  rcases h with h | h | h <;> simp [h]

end

/-- Settles O47: each command is taken up by the interpreter's laws, by the claims, readings and users that may refuse it. -/
theorem fabricSettingsAndGroupsAreConfigured : Obligations.FabricSettingsAndGroupsAreConfigured := by
  refine fun s c => ⟨fun h hf => ?_, fun h hf hp => ?_, fun h hf hp => ?_, fun h => ⟨fun hm => ?_, fun hm h0 => ?_, fun h0 => ?_⟩,
    fun h => ?_, fun h => ⟨fun w hh => ?_, fun hh => ?_⟩, fun h => ⟨⟨fun hf hr => ?_, fun hf hr => ?_⟩, fun st hv hne hu => ?_⟩,
    fun h => ⟨fun hall => ?_, fun x hx => ?_⟩⟩
  · exact congrArg Host.Outcome.next ((onForm_of_eq hf).trans (simple_okay h rfl))
  · exact congrArg Host.Outcome.next ((onForm_of_eq hf).trans (command_okay (extra := fun _ => []) h (if_neg hp)))
  · exact congrArg Host.Outcome.next ((onForm_of_eq hf).trans (command_wrong (extra := fun _ => []) h (if_pos hp)))
  · exact congrArg Host.Outcome.next (command_okay (extra := fun _ => []) h (if_pos hm))
  · exact congrArg Host.Outcome.next (command_answered (extra := fun _ => []) h ((if_neg hm).trans (if_pos h0)))
  · have hm : (s.served c).holder rankAux ≠ holderId (if c.at_ 16 1 = 1 then featAttach else featDouble) 0 :=
      fun e => auxHolder_ne_zero _ (e.symm.trans h0)
    refine congrArg Host.Outcome.next (command_okay (extra := fun _ => []) h ((if_neg ?_).trans ((if_neg (not_not_intro h0)).trans ?_)))
    · simpa using hm
    · simp
  · exact congrArg Host.Outcome.next (command_first (r := okRep) (t := s.served c)
      (f := fun s => s.modTrk fun t => { t with resendT := BitVec.ofNat 16 (c.at_ 16 2) }) (extra := fun _ => []) h.1 h.2 rfl)
  · have held := (State.syncHeld_eq (s.served c) (syncModeOf c)).trans hh
    exact congrArg Host.Outcome.next (command_answered
      (extra := fun _ => if c.at_ 18 1 % 2 = 1 ∧ c.at_ 18 1 / 2 % 4 ≠ 0 then [(18, sBadParam, 18)] else []) h
      (by simp only [State.syncHeld] at held; simp only [held]))
  · have held := (State.syncHeld_eq (s.served c) (syncModeOf c)).trans hh
    exact congrArg Host.Outcome.next (command_okay
      (extra := fun _ => if c.at_ 18 1 % 2 = 1 ∧ c.at_ 18 1 / 2 % 4 ≠ 0 then [(18, sBadParam, 18)] else []) h
      (by simp only [State.syncHeld] at held; simp only [held]))
  · have hn := State.groupRefuses_free hf
    exact congrArg Host.Outcome.next (command_answered (t := ((s.served c).sharedRead (c.at_ 24 8) 512).2.2) (extra := barrierFaults c) h
      (by simp only [State.groupRefuses] at hn; simp only [hn, hr, if_true]))
  · have hn := State.groupRefuses_free hf
    exact congrArg Host.Outcome.next (command_first (r := okRep)
      (f := fun s' => s'.rearrive (c.at_ 16 1) ((s.served c).getBar (c.at_ 16 1)).coord) (extra := barrierFaults c) h.1 h.2
      (by simp only [State.groupRefuses] at hn; simp only [hn, hr, Bool.false_eq_true, if_false]))
  · have hn : (s.served c).groupRefuses c = some st := (if_pos ⟨hv, hne⟩).trans hu
    exact congrArg Host.Outcome.next (command_wrong (extra := barrierFaults c) h
      (by simp only [State.groupRefuses] at hn; simp only [hn]))
  · have none : ((s.served c).part.find? fun x => x.2.pipe.beyondLoaded && x.2.uses (c.at_ 16 1)) = none :=
      List.find?_eq_none.mpr fun x hx hc => by
        obtain ⟨h1, h2⟩ := Bool.and_eq_true_iff.mp hc
        exact (hall x hx).elim (ne_false_of_eq_true h1) (ne_false_of_eq_true h2)
    exact congrArg Host.Outcome.next (command_okay (extra := fun _ => []) h (by simp only [none]; rfl))
  · exact congrArg Host.Outcome.next (command_wrong (d := x.2.pipe.code) (extra := fun _ => []) h (by
      have e : ((s.served c).part.find? fun x => x.2.pipe.beyondLoaded && x.2.uses (c.at_ 16 1)) = some x := hx
      simp only [e]))

end Sys2Proof.Machine

/-! # The snapshot commands (14 R323, 16 R355, R357, R366 and R369) -/

namespace Sys2Proof.Machine

section
variable {s : State} {c : Packet}

/-- Every node of a SNAP_PARTNERS has answered, or is this one (16 R366). -/
def State.partnersReached (u : State) (c : Packet) (tags : List (NodeId × Option Half)) : Bool :=
  (BitVec.ofNat 12 (c.at_ 18 2) :: (stripeOf c).map (BitVec.ofNat 12)).all
    fun n => n = u.fab.node || tags.any fun x => x.1 = n && x.2.isSome

/-- The partition that a SNAP_PARTNERS names, with the partners, the stripe and the tags answered. -/
def State.partnered (u : State) (c : Packet) (tags : List (NodeId × Option Half)) : Part :=
  { u.getPart (c.at_ 16 1) with
    partner := some (BitVec.ofNat 12 (c.at_ 18 2)), stripe := (stripeOf c).map (BitVec.ofNat 12),
    tags := tags.filterMap fun x : NodeId × Option Half => x.2.map fun v => (x.1, v) }

variable {tags : List (NodeId × Option Half)} (hb : (s.served c).engineBusy = none) (h : Takes s c 0x0503 (partnerFaults c (s.served c)))
include hb h

theorem execSnapPartners_unreached (hr : (s.served c).partnersReached c tags = false) :
    execSnapPartners c tags s = .next ((s.served c).answered c 0x0503 sTimeout 0 0 0 0) :=
  congrArg Host.Outcome.next (command_answered (extra := partnerFaults c) h
    ((State.unlessBusy_none hb).trans (if_pos (by unfold State.partnersReached at hr; rw [hr]; rfl))))

theorem execSnapPartners_apart (hr : (s.served c).partnersReached c tags = true)
    (hn : (s.served c).firstShared ((s.served c).partnered c tags) = none) : execSnapPartners c tags s =
      .next ((((s.served c).setPart (c.at_ 16 1) ((s.served c).partnered c tags)).modSnap
        fun x => { x with fullDue := 3, sharedTag := false }).okay c 0x0503) :=
  congrArg Host.Outcome.next (command_okay (extra := partnerFaults c) h ((State.unlessBusy_none hb).trans
    ((if_neg (by unfold State.partnersReached at hr; rw [hr]; exact Bool.false_ne_true)).trans
      (by unfold State.partnered at hn ⊢; simp only [hn]))))

theorem execSnapPartners_shared {n : NodeId} (hr : (s.served c).partnersReached c tags = true)
    (hn : (s.served c).firstShared ((s.served c).partnered c tags) = some n) (hf : c.at_ 17 1 % 2 = 0) : execSnapPartners c tags s =
      .next ((s.served c).answered c 0x0503 sFeedShared (n.zeroExtend 16) 0 0 0) :=
  congrArg Host.Outcome.next (command_answered (extra := partnerFaults c) h ((State.unlessBusy_none hb).trans
    ((if_neg (by unfold State.partnersReached at hr; rw [hr]; exact Bool.false_ne_true)).trans
      (by unfold State.partnered at hn; simp only [hn, if_pos hf]))))

theorem execSnapPartners_forced {n : NodeId} (hr : (s.served c).partnersReached c tags = true)
    (hn : (s.served c).firstShared ((s.served c).partnered c tags) = some n) (hf : c.at_ 17 1 % 2 = 1) : execSnapPartners c tags s =
      .next ((((s.served c).setPart (c.at_ 16 1) ((s.served c).partnered c tags)).modSnap
        fun x => { x with fullDue := 3, sharedTag := true }).okay c 0x0503) :=
  congrArg Host.Outcome.next (command_okay (extra := partnerFaults c) h ((State.unlessBusy_none hb).trans
    ((if_neg (by unfold State.partnersReached at hr; rw [hr]; exact Bool.false_ne_true)).trans
      (by unfold State.partnered at hn ⊢; simp only [hn, if_neg (show ¬ c.at_ 17 1 % 2 = 0 by omega)]))))

end

/-! ### SNAP_POLICY -/

section
variable {s : State} {c : Packet}

/-- Field `ADDR` of a SNAP_POLICY lies outside the windows of its partition. -/
def policyFaults (c : Packet) (s : State) : List (Nat × Half × Half) :=
  if s.admits c.part (c.at_ 24 8) (64 + 32 * c.at_ 16 2) then [] else [(24, sBadParam, 24)]

/-- The policy table that a SNAP_POLICY reads, whether it is unreadable, and the state that the reading leaves. -/
def State.policyRead (u : State) (c : Packet) : List Byte × Bool × State := u.sharedRead (c.at_ 24 8) (64 + 32 * c.at_ 16 2)

/-- What a SNAP_POLICY does with the table that it has read. -/
def State.policyRun (t : State) (c : Packet) (bs : List Byte) : Run :=
  match t.policyFault c.part bs (c.at_ 16 2) with
  | some off => .reply ⟨sBadParam, 24, BitVec.ofNat 32 off, 0, 0⟩ t
  | none => t.unlessBusy t.engineBusy fun _ =>
      if !t.snap.enabled then t.wrong 0
      else .reply okRep ((t.modPart c.part fun q => { q with policy := some (Policy.parse bs (c.at_ 16 2)) }).modSnap
        fun x => { x with fullDue := 3 })

theorem execSnapPolicy_eq (c : Packet) (s : State) : execSnapPolicy c s =
    .next (s.command c 0x0502 (policyFaults c) fun _ u => if (u.policyRead c).2.1 then (u.policyRead c).2.2.refuse sMemoryError 0
      else (u.policyRead c).2.2.policyRun c (u.policyRead c).1) := rfl

theorem execSnapPolicy_read {r : Rep} {t : State} (h : Takes s c 0x0502 (policyFaults c (s.served c)))
    (hr : ((s.served c).policyRead c).2.1 = false)
    (hb : ((s.served c).policyRead c).2.2.policyRun c ((s.served c).policyRead c).1 = .reply r t) :
    execSnapPolicy c s = .next (t.answered c 0x0502 r.status r.detail r.r0 r.r1 r.r2) :=
  congrArg Host.Outcome.next (command_reply (extra := policyFaults c) h.1 h.2 ((if_neg (ne_true_of_eq_false hr)).trans hb))

theorem State.policyRun_bad {t : State} {bs : List Byte} {off : Nat} (hf : t.policyFault c.part bs (c.at_ 16 2) = some off) :
    t.policyRun c bs = .reply ⟨sBadParam, 24, BitVec.ofNat 32 off, 0, 0⟩ t := by
  simp only [State.policyRun, hf]

theorem State.policyRun_sound {t : State} {bs : List Byte} (hf : t.policyFault c.part bs (c.at_ 16 2) = none) (hb : t.engineBusy = none) :
    t.policyRun c bs = if !t.snap.enabled then t.wrong 0
      else .reply okRep ((t.modPart c.part fun q => { q with policy := some (Policy.parse bs (c.at_ 16 2)) }).modSnap
        fun x => { x with fullDue := 3 }) := by
  simp only [State.policyRun, hf, State.unlessBusy_none hb]

end

/-! ### SNAP_STATUS -/

theorem length_leBytes (n v : Nat) : (leBytes n v).length = n := by
  induction n generalizing v with
  | zero => rfl
  | succ n ih => rw [leBytes, List.length_cons, ih]

theorem length_snapBytes (s : State) : s.snapBytes.length = 64 := by
  simp [State.snapBytes, length_leBytes]

/-- Settles O48: each command is taken up by the interpreter's laws, by the claims, readings, states and releases that may refuse it. -/
theorem snapshotCommandsTakeEffect : Obligations.SnapshotCommandsTakeEffect := by
  refine fun s c hb => ⟨fun h hf => ⟨fun he => ?_, fun w he hh => ?_, fun he hh => ?_⟩, fun h hf => ?_,
    fun h => ⟨fun hr => ?_, fun off hr hf => ?_, fun hr hf ht he => ?_, fun hr hf ht he => ?_⟩,
    fun tags h => ⟨fun hr => ?_, fun hr hn => ?_, fun n hr hn hf => ?_, fun n hr hn hf => ?_⟩, fun hp hd => ?_, fun h => ?_⟩
  · exact congrArg Host.Outcome.next ((onForm_of_eq (by simpa using hf)).trans (command_okay (extra := fun _ => []) h
      ((State.unlessBusy_none hb).trans (if_pos he))))
  · exact congrArg Host.Outcome.next ((onForm_of_eq (by simpa using hf)).trans (command_answered (extra := fun _ => []) h
      ((State.unlessBusy_none hb).trans ((if_neg (ne_true_of_eq_false he)).trans (by simp only [hh])))))
  · exact congrArg Host.Outcome.next ((onForm_of_eq (by simpa using hf)).trans (command_okay (extra := fun _ => []) h
      ((State.unlessBusy_none hb).trans ((if_neg (ne_true_of_eq_false he)).trans (by simp only [hh])))))
  · exact congrArg Host.Outcome.next ((onForm_of_eq (by simpa using hf)).trans (command_okay (extra := fun _ => []) h
      (State.unlessBusy_none hb)))
  · exact congrArg Host.Outcome.next (command_answered (t := ((s.served c).policyRead c).2.2) (extra := policyFaults c) h (if_pos hr))
  · exact execSnapPolicy_read (r := ⟨sBadParam, 24, BitVec.ofNat 32 off, 0, 0⟩) h hr (State.policyRun_bad hf)
  · exact execSnapPolicy_read (r := rep sWrongState 0) h hr ((State.policyRun_sound hf ht).trans (if_pos (by rw [he]; rfl)))
  · exact execSnapPolicy_read (r := okRep) h hr ((State.policyRun_sound hf ht).trans (if_neg (by rw [he]; decide)))
  · exact execSnapPartners_unreached hb h hr
  · exact execSnapPartners_apart hb h hr hn
  · exact execSnapPartners_shared hb h hr hn hf
  · exact execSnapPartners_forced hb h hr hn hf
  · have idle : ((s.served c).busy (onPipe c.part)).orElse (fun _ => (s.served c).engineBusy) = none := by rw [hp]; exact hb
    refine ⟨fun h => ⟨fun hq he hy hn hr => ?_, fun hq => ?_, fun hq hy => ?_, fun hq he hy hn => ?_⟩, fun h hq hr => ?_, fun h hq => ?_,
      fun h hf hq hb hr => ?_, fun h hf hq hb => ⟨fun hy hr => ?_, fun hy => ?_⟩, fun h hq => ?_⟩
    · exact congrArg Host.Outcome.next (command_begun (extra := fun _ => []) (plane := true) h hr hd ((State.unlessBusy_none idle).trans
        ((if_neg (ne_true_of_eq_false hq)).trans ((if_neg (by simpa [hy] using he)).trans (if_neg (BitVec.not_lt.mpr hn))))))
    · exact congrArg Host.Outcome.next (command_wrong (extra := fun _ => []) h ((State.unlessBusy_none idle).trans (if_pos hq)))
    · exact congrArg Host.Outcome.next (command_wrong (d := 0) (extra := fun _ => []) h ((State.unlessBusy_none idle).trans
        ((if_neg (ne_true_of_eq_false hq)).trans (if_pos (by simpa using hy)))))
    · exact congrArg Host.Outcome.next (command_wrong (extra := fun _ => []) h ((State.unlessBusy_none idle).trans
        ((if_neg (ne_true_of_eq_false hq)).trans ((if_neg (by simpa [hy] using he)).trans (if_pos hn)))))
    · exact congrArg Host.Outcome.next (command_begun (extra := fun _ => []) (plane := true) h hr hd ((State.unlessBusy_none idle).trans
        (if_neg (not_not_intro hq))))
    · exact congrArg Host.Outcome.next (command_wrong (extra := fun _ => []) h ((State.unlessBusy_none idle).trans (if_pos hq)))
    · exact congrArg Host.Outcome.next (command_begun (extra := fun _ => []) (plane := true) h hr hd ((State.unlessBusy_none idle).trans
        ((if_neg (by simp [hq, hb])).trans ((if_neg (by simp [hf])).trans (by simp [hf])))))
    · obtain ⟨y, n, e, hn⟩ := hy
      exact congrArg Host.Outcome.next (command_begun (extra := fun _ => []) (plane := true) (f := id) h hr hd ((State.unlessBusy_none idle).trans
        ((if_neg (by simpa [hq, hf, or_iff_not_imp_left] using hb)).trans ((if_neg (by simp [e, hn])).trans (by simp [hf]; rfl)))))
    · exact congrArg Host.Outcome.next (command_wrong (d := 0) (extra := fun _ => []) h ((State.unlessBusy_none idle).trans
        ((if_neg (by simpa [hq, hf, or_iff_not_imp_left] using hb)).trans (if_pos (by simpa [hf] using hy)))))
    · exact congrArg Host.Outcome.next (command_wrong (extra := fun _ => []) h ((State.unlessBusy_none idle).trans
        (if_pos (by simpa [or_comm] using hq))))
  · exact ⟨_, congrArg Host.Outcome.next (simple_reply h.1 h.2), length_snapBytes _⟩

end Sys2Proof.Machine

/-! # The ends of cuts, restores and checks (16 R360, R369 to R371) -/

namespace Sys2Proof.Machine

/-! ### What leaves the snapshot engine as it is -/

section
variable (s : State)

theorem foldl_snap {α : Type} {f : State → α → State} (h : ∀ u a, (f u a).snap = u.snap) (l : List α) (s : State) :
    (l.foldl f s).snap = s.snap := foldl_keeps State.snap h l s

@[simp] theorem State.snap_ite (c : Prop) [Decidable c] (a b : State) : (if c then a else b).snap = if c then a.snap else b.snap :=
  apply_ite State.snap c a b

@[simp] theorem State.drawBytes_snap (n : Nat) : (s.drawBytes n).2.snap = s.snap := rfl
@[simp] theorem State.logFault_snap (k : LogKind) (source severity : Byte) (d : Word) : (s.logFault k source severity d).snap = s.snap := rfl
@[simp] theorem State.raiseMsix_snap (r : Nat) : (s.raiseMsix r).snap = s.snap := by simp [raiseMsix]
@[simp] theorem State.wakeHost_snap : s.wakeHost.snap = s.snap := by simp [wakeHost]
@[simp] theorem State.putRecord_snap (ring : Nat) (r : Record) : (s.putRecord ring r).snap = s.snap := by simp [putRecord]
@[simp] theorem State.post_snap (ring : Nat) (r : Record) : (s.post ring r).snap = s.snap := by simp [post]
@[simp] theorem State.platformEvent_snap (r : Record) : (s.platformEvent r).snap = s.snap := by simp [platformEvent]
@[simp] theorem State.event_snap (code status detail : Half) (r0 r1 r2 : Word) : (s.event code status detail r0 r1 r2).snap = s.snap := by
  simp [event]
@[simp] theorem State.recordOn_snap (cq : Nat) (p : Packet) (opcode : Half) (kind : BitVec 2) (status detail : Half) (r0 r1 r2 : Word) :
    (s.recordOn cq p opcode kind status detail r0 r1 r2).snap = s.snap := by simp [recordOn]
@[simp] theorem State.complete_snap (c : LongCmd) (status detail : Half) (r0 r1 r2 : Word) :
    (s.complete c status detail r0 r1 r2).snap = s.snap := recordOn_snap ..

/-! ### Packets -/

@[simp] theorem State.judge_snap (port vc : Nat) (q : Queued) : (s.judge port vc q).1.snap = s.snap := by
  simp only [judge, modFi]
  (repeat' split) <;> rfl
@[simp] theorem State.atHead_snap (port vc n : Nat) : (s.atHead port vc n).snap = s.snap := by
  induction n generalizing s with
  | zero => rfl
  | succ n ih =>
    simp only [atHead]
    split
    · rfl
    · next q rest _ =>
      have e := s.judge_snap port vc q
      split
      · rfl
      · split <;> next hj => simpa [hj, ih] using e
@[simp] theorem State.enqueue_snap (port : Nat) (p : Pkt) (discard : Bool) : (s.enqueue port p discard).snap = s.snap := atHead_snap ..
@[simp] theorem State.switch_snap (p : Pkt) (discard : Bool) (n : Nat) : (s.switch p discard n).snap = s.snap := by
  induction n generalizing s p discard with
  | zero => rfl
  | succ n ih =>
    simp only [switch]
    (repeat' split) <;> simp [ih, countExpired, countFenceDrop, countDetour]
@[simp] theorem State.transmit_snap (p : Pkt) : (s.transmit p).snap = s.snap := by simp [transmit, onCircuit, route]
@[simp] theorem State.sendTracked_snap (e : EntryId) (p : Pkt) (ch : Option (BitVec 2)) (pieces : List Nat) (owner : Option CtrlOwner) :
    (s.sendTracked e p ch pieces owner).snap = s.snap := by simp [sendTracked]
@[simp] theorem State.sendControl_snap (p : Pkt) (owner : CtrlOwner) : (s.sendControl p owner).snap = s.snap := by
  unfold sendControl
  split <;> simp
@[simp] theorem State.toPartner_snap (p off : Nat) (bs : List Byte) (o : CtrlOwner) : (s.toPartner p off bs o).snap = s.snap := by
  simp only [toPartner]
  split <;> simp

/-! ### Barrier arrivals -/

@[simp] theorem State.sendBar_snap (g : Nat) (dst : NodeId) (payload : List Byte) : (s.sendBar g dst payload).snap = s.snap := by
  simp [sendBar]
@[simp] theorem State.ramp_snap (goal : Nat) : (s.ramp goal).snap = s.snap := rfl
@[simp] theorem State.announce_snap (l : BitVec 3) : (s.announce l).snap = s.snap := by simp [announce, foldl_snap]
@[simp] theorem State.decideLevel_snap (paced : Nat) : (s.decideLevel paced).snap = s.snap := by simp [decideLevel]
@[simp] theorem State.recordRelease_snap (g : Nat) (n : Word) (t : Dword) (last : Arrival) (apply : Bool) (level : BitVec 3) :
    (s.recordRelease g n t last apply level).snap = s.snap := by simp [recordRelease]
@[simp] theorem State.fixRelease_snap (g : Nat) : (s.fixRelease g).snap = s.snap := by
  simp only [fixRelease]
  (repeat' split) <;> simp [foldl_snap]
@[simp] theorem State.applyArrival_snap (g : Nat) (n : Word) (a : Arrival) : (s.applyArrival g n a).snap = s.snap := by simp [applyArrival]
@[simp] theorem State.sendArrival_snap (g : Nat) (a : Arrival) : (s.sendArrival g a).snap = s.snap := by simp [sendArrival]

/-- What the engine holds of its generations, and whether a cut runs. -/
def Snap.generations (x : Snap) : Bool × Word × Word × BitVec 2 × BitVec 2 := (x.cut.isSome, x.last, x.older, x.gen, x.fullDue)

/-- An arrival is counted by the engine that holds it, and leaves its generations. -/
theorem State.tryArrive_generations (g : Nat) : (s.tryArrive g).snap.generations = s.snap.generations := by
  unfold tryArrive
  simp only [snap_ite, sendArrival_snap, setBar_snap]
  (repeat' split) <;> simp [Snap.generations]

end

/-! ### The end of a cut -/

section
variable {s : State} {c : Cut}

/-- A cut whose copies are out ends, and what follows leaves the engine's generations. -/
theorem execSnapCopyComplete_ends (hc : s.snap.cut = some c) (he : c.edge = true) (hq : s.copying = false)
    (hl : s.latching c.part.toNat = false) :
    ∃ t : State, exec .snapCopyComplete s = .next t ∧ t.snap.generations = (s.snap.ended c).generations := by
  refine ⟨_, by simp only [exec, execSnapCopyComplete, hc, he, hq, hl, Bool.not_true, Bool.or_false, Bool.false_eq_true, if_false]; rfl, ?_⟩
  rw [State.tryArrive_generations]
  split
  · rw [State.toPartner_snap]; rfl
  · rw [foldl_snap fun u x => by rw [State.complete_snap], State.toPartner_snap]; rfl

theorem Snap.cut_of_generations {x y : Snap} (h : x.generations = y.generations) (hy : y.cut = none) : x.cut = none := by
  have e : x.cut.isSome = y.cut.isSome := congrArg (·.1) h
  rw [hy] at e
  exact Option.not_isSome_iff_eq_none.mp (by rw [e]; exact Bool.false_ne_true)

theorem Snap.ended_cut (x : Snap) (c : Cut) : (x.ended c).cut = none := by
  unfold Snap.ended
  dsimp only
  split <;> rfl

/-- A cut without failed copies completes its generation. -/
theorem Snap.ended_complete (x : Snap) (h : c.failed = []) :
    (x.ended c).last = c.release ∧ (x.ended c).older = x.last ∧ (x.ended c).gen = x.gen ||| bit2 (x.genNo % 2) := by
  unfold Snap.ended
  rw [if_pos (by rw [h]; rfl)]
  exact ⟨rfl, rfl, rfl⟩

/-- A cut with failed copies makes a full copy of its generation due. -/
theorem Snap.ended_failed (x : Snap) (h : c.failed ≠ []) : (x.ended c).last = x.last ∧ (x.ended c).older = x.older ∧
    (x.ended c).gen = x.gen ∧ (x.ended c).fullDue = x.fullDue ||| bit2 (x.genNo % 2) := by
  unfold Snap.ended
  rw [if_neg (mt List.isEmpty_iff.mp h)]
  exact ⟨rfl, rfl, rfl, rfl⟩

end

/-! ### The end of a restore -/

section
variable {s : State} {p : BitVec 6} {x : LongCmd}

/-- What the sources gave counts where the partner or the stripe still holds a generation (16 R369). -/
def Part.gives (q : Part) (source : Nat) (got : Option Restored) : Option Restored :=
  if source ≠ 2 ∧ 2 ≤ q.restores then none else got

/-- Without a generation the host's restore waits, and another ends. -/
theorem execRestoreComplete_none {got : Option Restored}
    (hx : (s.cmds.long.find? fun c => c.opcode = opRestore && c.part = p && c.st = .accepted) = some x)
    (hg : (s.getPart p.toNat).gives (x.pkt.at_ 16 1) got = none) : exec (.restoreComplete p got) s =
      .next (if x.pkt.at_ 16 1 = 2 then s else (s.modSnap fun y => { y with restoring := none }).complete x sNoResource
        (BitVec.ofNat 16 (x.pkt.at_ 16 1)) 0 0 0) := by
  unfold Part.gives at hg
  simp only [exec, execRestoreComplete, hx, hg]

/-- What was found is placed, and the command ends by whether all was found. -/
theorem execRestoreComplete_some {got : Option Restored} {r : Restored}
    (hx : (s.cmds.long.find? fun c => c.opcode = opRestore && c.part = p && c.st = .accepted) = some x)
    (hg : (s.getPart p.toNat).gives (x.pkt.at_ 16 1) got = some r) :
    let t := (r.data.foldl State.putRestored s).modSnap fun y => { y with restoring := none }
    exec (.restoreComplete p got) s = .next (if r.missing ≠ 0 then
        t.complete x sVerifyFailed 0 r.step (BitVec.ofNat 32 r.missing) (r.failed.zeroExtend 32)
      else (t.modPart p.toNat fun q =>
        { q with restores := q.restores + (if x.pkt.at_ 16 1 = 2 then 0 else 1), restored := some r.release,
                 captures := (r.data.filterMap captureOf).foldl (fun m x => smSet m x.1 x.2) [],
                 lossSaved := r.ring.foldl (fun m x => smSet m x.1 x.2) [] }).complete x sOk 0 r.step 0 0) := by
  unfold Part.gives at hg
  simp only [exec, execRestoreComplete, hx, hg]

end

/-- Settles O49: a cut's end by what its engine then holds; a restore's by what its sources give; a check's by the two lists. -/
theorem cutsRestoresAndChecksEnd : Obligations.CutsRestoresAndChecksEnd := by
  refine ⟨fun s hc => ?_, fun s c hc hq => ?_, fun s c hc he hq hl hf => ?_, fun s c hc he hq hl hf => ?_,
    fun s p x hx => ⟨fun got hs hg => ?_, fun hs => ?_, fun r hs => ⟨fun hm => ?_, fun hm => ?_⟩⟩,
    fun s p x y hx hy => ⟨?_, fun other hne => ?_⟩⟩
  · simp only [exec, execSnapCopyComplete, hc]
  · simp only [exec, execSnapCopyComplete, hc, hq, Bool.or_true, Bool.true_or, if_true]
  · obtain ⟨t, ht, hg⟩ := execSnapCopyComplete_ends hc he hq hl
    obtain ⟨hlast, holder, hgen⟩ := Snap.ended_complete s.snap hf
    obtain ⟨_, elast, eolder, egen, _⟩ : _ ∧ _ ∧ _ ∧ _ ∧ _ := by simpa [Snap.generations] using hg
    exact ⟨t, ht, Snap.cut_of_generations hg (Snap.ended_cut _ _), elast.trans hlast, eolder.trans holder, egen.trans hgen⟩
  · obtain ⟨t, ht, hg⟩ := execSnapCopyComplete_ends hc he hq hl
    obtain ⟨hlast, holder, hgen, hfull⟩ := Snap.ended_failed s.snap hf
    obtain ⟨_, elast, eolder, egen, efull⟩ : _ ∧ _ ∧ _ ∧ _ ∧ _ := by simpa [Snap.generations] using hg
    exact ⟨t, ht, Snap.cut_of_generations hg (Snap.ended_cut _ _), elast.trans hlast, eolder.trans holder, egen.trans hgen,
      efull.trans hfull⟩
  · refine (execRestoreComplete_none hx ?_).trans (congrArg Host.Outcome.next (if_neg hs))
    rcases hg with h | h
    · exact if_pos ⟨hs, h⟩
    · rw [h]; exact ite_self _
  · exact (execRestoreComplete_none hx (ite_self _)).trans (congrArg Host.Outcome.next (if_pos hs))
  · have hn : ¬ (x.pkt.at_ 16 1 ≠ 2 ∧ 2 ≤ (s.getPart p.toNat).restores) := by omega
    exact (execRestoreComplete_some hx (if_neg hn)).trans (congrArg Host.Outcome.next (if_neg (not_not_intro hm)))
  · have hn : ¬ (x.pkt.at_ 16 1 ≠ 2 ∧ 2 ≤ (s.getPart p.toNat).restores) := by omega
    exact (execRestoreComplete_some hx (if_neg hn)).trans (congrArg Host.Outcome.next (if_pos hm))
  · have hx' : (s.cmds.long.find? fun c => c.opcode = opVerify && c.part = p && c.st = .accepted && c.pkt.at_ 16 1 = 1) = some x := hx
    simp only [exec, execReplicaHashCompareDone, hx', hy, if_true]
  · have hx' : (s.cmds.long.find? fun c => c.opcode = opVerify && c.part = p && c.st = .accepted && c.pkt.at_ 16 1 = 1) = some x := hx
    simp only [exec, execReplicaHashCompareDone, hx', hy, if_neg hne]

end Sys2Proof.Machine

/-! # The power, diagnostics and claim commands (14 R324, R326 and R327) -/

namespace Sys2Proof.Machine

section
variable {s : State} {c : Packet} {op : Half}

/-- A long command that needs the data plane is deferred in DEEP_IDLE, which it leaves (14 R314). -/
theorem command_deferred {extra : State → List (Nat × Half × Half)} {body : Nat → State → Run} {f : State → State}
    (h : Takes s c op (extra (s.served c))) (r : Roomy (s.served c) c) (hd : (s.served c).pwr.deepIdle = true)
    (hb : body s.clk.now (s.served c) = (s.served c).startLong c op s.clk.now true f) :
    s.command c op extra body = ((({ s.served c with cmds := { (s.served c).cmds with
        long := (s.served c).cmds.long ++ [acceptedCmd (s.served c) c op ((opSpec op.toNat).getD ⟨1, false, 0, []⟩) .deferred] } } : State).record
      c op 0 sDeferred 1 0 0 0).leaveIdle).advanceCi c.ring.toNat c.length.toNat := by
  obtain ⟨hf, o, ho, hc⟩ := h
  refine command_long (r := rep sDeferred 1) (f := State.leaveIdle) hf ⟨o, ho, hc⟩ (hb.trans ?_)
  have hp : (true && (s.served c).pwr.deepIdle) = true := hd
  simp only [State.startLong, if_neg fun hn => r.1 (And.left hn), ho, r.2, if_pos hp, acceptedCmd, Option.getD_some, served_clk]

/-- A long command without room (14 R313). -/
theorem startLong_full {o : OpSpec} {d : Half} {n : Nat} {plane : Bool} {b : State → State} (hs : stillOps.contains op = false)
    (ho : opSpec op.toNat = some o) (hd : s.fullFor c.part = some d) : s.startLong c op n plane b = s.refuse sNoResource d := by
  simp only [State.startLong, hs, Bool.false_eq_true, and_false, if_false, ho, hd]

/-- A fold that never loses what it has found has found something. -/
theorem foldl_isSome {α β : Type} {f : Option α → β → Option α} (hf : ∀ b e, b.isSome = true → (f b e).isSome = true) (l : List β) (x : α) :
    (l.foldl f (some x)).isSome = true :=
  List.foldlRecOn (motive := fun b => b.isSome = true) l f rfl fun b hb e _ => hf b e hb

/-- Only a list without faults has no lowest one. -/
theorem lowestFault_eq_none {l : List (Nat × Half × Half)} (h : lowestFault l = none) : l = [] := by
  cases l with
  | nil => rfl
  | cons a l =>
    have e := Option.map_eq_none_iff.mp h
    refine absurd ((congrArg Option.isSome e).symm.trans (foldl_isSome (fun b e hb => ?_) l a)) Bool.false_ne_true
    obtain ⟨x, rfl⟩ := Option.isSome_iff_exists.mp hb
    dsimp only
    split <;> rfl

/-- A packet that passes its checks but for one of its own row fails by that one. -/
theorem checkCmd_only {u : State} {o : OpSpec} {k : Nat} {st d : Half} (h : u.checkCmd c o [] = none) :
    u.checkCmd c o [(k, st, d)] = some (st, d) := by
  unfold State.checkCmd at h ⊢
  dsimp only at h ⊢
  split_ifs at h with h1 h2 h3 h4 h5
  have clean := lowestFault_eq_none h
  rw [List.append_nil] at clean
  rw [if_neg h1, if_neg h2, if_neg h3, if_neg h4, if_neg h5, clean]
  rfl

end

/-! ### DEEP_IDLE -/

section
variable {s : State}

/-- The module as it has left DEEP_IDLE: what was deferred has yet to begin. -/
def State.idleLeft (s : State) : State :=
  ((List.range 32).foldl State.wakePort
    (((s.modPwr fun p => { p with deepIdle := false, leaving := none }).modHost fun h => { h with linkL1 := false }).modMem
      fun m => { m with frameFrom := ceilDiv s.clk.now 80 * 80 })).completeAll (fun x => x.opcode = opDeepIdle) sOk 0

theorem execDeepIdleExitComplete_of_leaving {t : Nat} (h : s.pwr.leaving = some t) (hd : t + 100000 ≤ s.clk.now) :
    exec .deepIdleExitComplete s =
      .next ((s.idleLeft.cmds.long.filter fun x => x.st = .deferred && planeOp x.opcode).foldl State.beginDeferred s.idleLeft) := by
  simp only [exec, execDeepIdleExitComplete, h, if_neg (Nat.not_lt.mpr hd), State.idleLeft]

/-- The holder of the comparators, where a timed FI_SET needs one and none is free (14 R326). -/
def State.fiHeld (u : State) (c : Packet) : Option Half :=
  u.firstHeld [] (decide (c.at_ 24 1 / 16 % 2 = 1) && !u.holdsFeat featFi) []

theorem State.busy_none {f : LongCmd → Bool} (h : ∀ x ∈ s.cmds.long, f x = false) : s.busy f = none := by
  rw [State.busy, List.find?_eq_none.mpr fun x hx => ne_true_of_eq_false (h x hx)]
  rfl

end

/-- Settles O50: each command is taken up by the interpreter's laws, by the states, claims and room that may refuse it. -/
theorem powerDiagnosticsAndClaimCommandsTakeEffect : Obligations.PowerDiagnosticsAndClaimCommandsTakeEffect := by
  refine fun s c => ⟨fun h => ?_, fun h => ?_, fun h => ?_, fun h hf hp hl => ?_, fun x h hf hp => ?_, fun h hf hr => ?_, fun h => ?_,
    fun t h hn => ?_, fun t h hn => ?_, fun op h hf hp hb => ?_, fun d h hf hr => ?_,
    fun hd hr => ⟨fun h hp => ?_, fun h hb he hp => ?_⟩, fun h => ?_, fun h => ?_, fun h => ?_, fun h => ⟨fun hf => ?_, fun hf => ?_⟩,
    fun h => ⟨fun hd => ?_, fun hd => ⟨fun w hw => ?_, fun hw => ?_⟩⟩, fun h => ⟨fun hd => ?_, fun hd => ?_⟩, fun h => ?_, fun h => ?_,
    fun r hr h => ?_, fun hr h => ?_, fun h => ?_⟩
  · exact congrArg Host.Outcome.next (simple_reply h.1 h.2)
  · exact congrArg Host.Outcome.next (command_okay
      (extra := fun _ => if 1 ≤ c.at_ 16 2 ∧ c.at_ 16 2 < 400 then [(16, sBadParam, 16)] else []) h rfl)
  · exact congrArg Host.Outcome.next (simple_okay h rfl)
  · have hn : (s.served c).pipeWhere PipeSt.beyondLoaded = none := State.pipeWhere_none hp
    have hb : ((s.served c).busy fun x => x.opcode = opDeepIdle || planeOp x.opcode) = none := by
      refine State.busy_none fun x hx => ?_
      obtain ⟨ho, hpl⟩ := hl x hx
      rw [hpl, Bool.or_false]
      exact decide_eq_false ho
    exact congrArg Host.Outcome.next ((onForm_of_eq (by simpa using hf)).trans (command_okay (extra := fun _ => []) h
      (by simp only [hn]; exact State.unlessBusy_none hb)))
  · have hw : (s.served c).pipeWhere PipeSt.beyondLoaded = some x := hp
    exact congrArg Host.Outcome.next ((onForm_of_eq (by simpa using hf)).trans (command_wrong (extra := fun _ => []) h
      (by simp only [hw])))
  · exact congrArg Host.Outcome.next ((onForm_of_eq (by simpa using hf)).trans (command_begun (extra := fun _ => []) (plane := false)
      h hr rfl rfl))
  · simp only [exec, execDeepIdleExitComplete, h]
  · simp only [exec, execDeepIdleExitComplete, h, if_pos hn]
  · intro v w
    have left : s.idleLeft = w := rfl
    rw [← left]
    exact execDeepIdleExitComplete_of_leaving h hn
  · have hn : (s.served c).pipeWhere PipeSt.beyondLoaded = none := State.pipeWhere_none hp
    exact congrArg Host.Outcome.next ((onForm_of_eq (by simpa using hf)).trans (command_answered (extra := fun _ => []) h
      (by simp only [hn]; exact State.unlessBusy_some hb)))
  · obtain ⟨o, ho, hc⟩ := h.2
    exact congrArg Host.Outcome.next ((onForm_of_eq (by simpa using hf)).trans (command_answered (extra := fun _ => []) h
      (startLong_full (by decide) ho hr)))
  · have hn : (s.served c).pipeWhere (· ≠ .none) = none := State.pipeWhere_none fun p hpm => by simp [hp p hpm]
    exact congrArg Host.Outcome.next (command_deferred (extra := fun _ => []) (f := State.clearBegins) h hr hd
      (by simp only [hn]))
  · have idle : ((s.served c).busy (onPipe c.part)).orElse (fun _ => (s.served c).engineBusy) = none := by rw [hb]; exact he
    exact congrArg Host.Outcome.next (command_deferred (extra := fun _ => []) h hr hd ((State.unlessBusy_none idle).trans
      (if_neg (not_not_intro hp))))
  · exact congrArg Host.Outcome.next (simple_reply h.1 h.2)
  · exact congrArg Host.Outcome.next (simple_okay h rfl)
  · exact congrArg Host.Outcome.next (simple_okay h rfl)
  · exact congrArg Host.Outcome.next ((onForm_of_eq (by simpa using hf)).trans (simple_okay h rfl))
  · exact congrArg Host.Outcome.next ((onForm_of_eq (by simpa using hf)).trans (simple_okay h rfl))
  · exact congrArg Host.Outcome.next (command_wrong (d := 0) (extra := fun _ => fiFaults c) h (if_pos (by rw [hd]; rfl)))
  · have held : (s.served c).fiHeld c = some w := hw
    exact congrArg Host.Outcome.next (command_answered (extra := fun _ => fiFaults c) h
      ((if_neg (by rw [hd]; decide)).trans (by unfold State.fiHeld at held; simp only [held])))
  · have held : (s.served c).fiHeld c = none := hw
    exact congrArg Host.Outcome.next (command_okay (extra := fun _ => fiFaults c) h
      ((if_neg (by rw [hd]; decide)).trans (by unfold State.fiHeld at held; simp only [held]; rfl)))
  · exact congrArg Host.Outcome.next (command_wrong (d := 0) (extra := fun _ => []) h (if_pos (by rw [hd]; rfl)))
  · exact congrArg Host.Outcome.next (command_okay (extra := fun _ => []) h (if_neg (by rw [hd]; decide)))
  · exact congrArg Host.Outcome.next (simple_okay h rfl)
  · exact congrArg Host.Outcome.next (simple_reply h.1 h.2)
  · have none : (rankOfId (c.at_ 16 2)).isNone = false := by rw [hr]; rfl
    refine congrArg Host.Outcome.next (command_reply (r := ⟨sOk, 0, ((s.served c).holder r).zeroExtend 32, ((s.served c).claimAt r).time, 0⟩)
      (extra := fun _ => if (rankOfId (c.at_ 16 2)).isNone then [(16, sBadParam, 16)] else []) h.1 ?_ (by simp only [hr]))
    rw [if_neg (ne_true_of_eq_false none)]
    exact h.2
  · obtain ⟨o, ho, hc⟩ := h.2
    refine congrArg Host.Outcome.next (command_refused
      (extra := fun _ => if (rankOfId (c.at_ 16 2)).isNone then [(16, sBadParam, 16)] else []) _ h.1 ho ?_)
    rw [if_pos (by rw [hr]; rfl)]
    exact checkCmd_only hc
  · exact congrArg Host.Outcome.next (simple_reply h.1 h.2)

end Sys2Proof.Machine

/-! # Firmware commands and activation (14 R325, 15 R336, R346 to R352) -/

namespace Sys2Proof.Machine

section
variable {s : State} {c : Packet} {op : Half}

/-! ### FW_ACTIVATE and FW_ROLLBACK -/

/-- FW_ACTIVATE or FW_ROLLBACK accepted: DEFERRED while an emergency is active, unless it is for the next start (15 R348). -/
def State.fwAccepted (u : State) (c : Packet) (op : Half) (b : State → State) : State :=
  if ¬ c.at_ 16 1 % 2 = 1 ∧ u.emergency = true then
    (b (({ u with cmds := { u.cmds with
        long := u.cmds.long ++ [acceptedCmd u c op ((opSpec op.toNat).getD ⟨1, false, 0, []⟩) .deferred] } } : State).record
      c op 0 sDeferred 2 0 0 0)).advanceCi c.ring.toNat c.length.toNat
  else u.begun c op b

theorem command_startFw {extra : State → List (Nat × Half × Half)} {body : Nat → State → Run} {f : State → State}
    (h : Takes s c op (extra (s.served c))) (r : Roomy (s.served c) c)
    (hb : body s.clk.now (s.served c) = (s.served c).startFw c op s.clk.now f) :
    s.command c op extra body = (s.served c).fwAccepted c op f := by
  obtain ⟨hf, o, ho, hc⟩ := h
  have e := startLong_accepted (s := s.served c) (c := c) (op := op) (o := o) false f ho r.1 r.2 rfl
  rw [served_clk] at e
  unfold State.startFw at hb
  rw [e] at hb
  unfold State.fwAccepted
  by_cases hd : ¬ c.at_ 16 1 % 2 = 1 ∧ (s.served c).emergency = true
  · rw [if_pos hd, ho]
    exact command_long (r := rep sDeferred 2) hf ⟨o, ho, hc⟩ (hb.trans (if_pos ⟨by omega, hd.2⟩))
  · rw [if_neg hd, State.begun, State.accepting, ho]
    exact command_long (r := rep sAccepted 0) hf ⟨o, ho, hc⟩ (hb.trans (if_neg fun hn => hd ⟨by omega, hn.2⟩))

/-! ### The end of FW_STAGE -/

/-- The slot that a stage has written, and the state that its reading leaves. -/
def State.stagedBytes (s : State) (x : LongCmd) : Firmware × Bool × State :=
  let r := s.sharedRead (x.pkt.at_ 24 8) (x.pkt.at_ 20 4)
  ({ (r.2.2.fw.setSlot (s.stageSlot x.pkt) (if r.2.1 then [] else memWrite [] 0 r.1)) with staged := false }, r.2.1, r.2.2)

theorem execFwStageComplete_read {x : LongCmd} (hx : (s.cmds.long.find? fun c => c.opcode = opFwStage) = some x)
    (hh : s.frameHeld = false) : exec .fwStageComplete s =
      .next (if (s.stagedBytes x).2.1 then ({ (s.stagedBytes x).2.2 with fw := (s.stagedBytes x).1 } : State).complete x sMemoryError 0 0 0 0
        else match (s.stagedBytes x).1.stageFault (s.stageSlot x.pkt) with
          | some (d, r) => ({ (s.stagedBytes x).2.2 with fw := (s.stagedBytes x).1 } : State).complete x sVerifyFailed d r 0 0
          | none => ({ (s.stagedBytes x).2.2 with fw := { (s.stagedBytes x).1 with staged := true } } : State).complete x sOk 0 0 0 0) := by
  simp only [exec, execFwStageComplete, hx, hh, Bool.false_eq_true, if_false] <;> rfl

/-! ### Activation -/

section
variable {a : Activation} (ha : s.fw.act = some a)
include ha

/-- An activation goes on from its hold, or to its last hand-off, after 1 s of calm. -/
theorem execActivationContinue_calm {t : Nat} (he : s.emergency = false) (hc : a.calmAt = some t) (ht : t + 25000000 ≤ s.clk.now) :
    exec .activationContinue s = .next (match a.phase with
      | .hold => if a.since + minute ≤ s.clk.now then s else (s.modFw fun f => { f with act := some { a with phase := .quiesce } }).quiesced
      | .calm => s.modFw fun f => { f with act := some { a with phase := .hand 6 } }
      | _ => s) := by
  have go : ¬ (s.emergency = true ∨ (!(a.calmAt.any fun t => t + second ≤ s.clk.now)) = true) := by
    have calm : (a.calmAt.any fun t => t + second ≤ s.clk.now) = true := by
      have hs : t + second ≤ s.clk.now := ht
      rw [hc, Option.any_some]; exact decide_eq_true hs
    rw [he, calm]
    decide
  simp only [exec, execActivationContinue, ha, if_neg go] <;> rfl

theorem execActivationContinue_not_calm
    (hc : ¬ (s.emergency = false ∧ ∃ t, a.calmAt = some t ∧ t + 25000000 ≤ s.clk.now)) : exec .activationContinue s = .next s := by
  have stay : s.emergency = true ∨ (!(a.calmAt.any fun t => t + second ≤ s.clk.now)) = true := by
    by_contra hn
    rw [not_or] at hn
    obtain ⟨he, ht⟩ := hn
    refine hc ⟨Bool.eq_false_iff.mpr he, ?_⟩
    cases hm : a.calmAt with
    | none => rw [hm] at ht; exact absurd rfl ht
    | some t =>
      rw [hm, Option.any_some, Bool.not_eq_true', Bool.not_eq_false] at ht
      have hs : t + second ≤ s.clk.now := of_decide_eq_true ht
      exact ⟨t, rfl, hs⟩
  simp only [exec, execActivationContinue, ha, if_pos stay]

/-- A hold expires unless the hand-offs have begun (15 R350). -/
theorem execActivationHoldExpiry_eq : exec .activationHoldExpiry s =
    .next (if a.begun = true ∨ a.held = false ∨ s.clk.now < a.since + 1500000000 then s else
      (if a.byCmd then s else s.logFault .activationHeld srcMgmt 0 0).endActivation sEmergency 0 0) := by
  simp only [exec, execActivationHoldExpiry, ha, Bool.not_eq_true', minute]

theorem execActivationLoadDone_load (hp : a.phase = .load) : exec .activationLoadDone s =
    .next (match s.fw.stageFault !s.fw.active with
      | some (d, r) => s.endActivation sVerifyFailed d r
      | none => s.modFw fun f => { f with act := some { a with phase := .hand 0 } }) := by
  simp only [exec, execActivationLoadDone, ha, hp, ne_eq, not_true_eq_false, if_false] <;> rfl

end

end

/-- Settles O51: each command is taken up by the interpreter's laws; each event by the phase of the activation. -/
theorem firmwareIsStagedActivatedAndHandedOff : Obligations.FirmwareIsStagedActivatedAndHandedOff := by
  refine ⟨fun s c => ⟨fun hb => ⟨fun h hr => ?_, fun h hs => ?_, fun h hs hr => ?_, fun h hr => ?_⟩,
      fun op hb => ⟨fun h => ?_, fun h => ?_, fun h => ?_⟩, fun h => ?_⟩,
    fun s x hx => ⟨fun hh => ?_, fun hh hr => ?_, fun hh hr hf => ?_, fun d v hh hr hf => ?_⟩,
    fun s ha => ⟨?_, ?_, ?_, fun r => ?_⟩,
    fun s a ha => ⟨fun hc hp => ?_, fun hc hp hn => ?_, fun hc => ?_, fun hb hh hn => ?_, fun hn => ?_, fun hp => ?_, fun hp hf => ?_,
      fun d r hp hf => ?_, fun n hp => ⟨?_, ?_, ?_⟩, fun hp r => ?_⟩,
    fun s => ⟨fun ht hn => ?_, fun hn => ?_⟩⟩
  · exact congrArg Host.Outcome.next (command_begun (extra := stageFaults c) (plane := false) (f := id) h hr rfl (State.unlessBusy_none hb))
  · exact congrArg Host.Outcome.next (command_wrong (d := 0) (extra := fun _ => []) h
      ((State.unlessBusy_none hb).trans (if_pos (by rw [hs]; rfl))))
  · exact congrArg Host.Outcome.next (command_startFw (extra := fun _ => []) h hr
      ((State.unlessBusy_none hb).trans (if_neg (by rw [hs]; decide))))
  · exact congrArg Host.Outcome.next (command_startFw (extra := fun _ => []) h hr (State.unlessBusy_none hb))
  · exact congrArg Host.Outcome.next (command_busy (extra := stageFaults c) h rfl hb)
  · exact congrArg Host.Outcome.next (command_busy (extra := fun _ => []) h rfl hb)
  · exact congrArg Host.Outcome.next (command_busy (extra := fun _ => []) h rfl hb)
  · exact congrArg Host.Outcome.next (simple_reply h.1 h.2)
  · have hx' : (s.cmds.long.find? fun c => c.opcode = opFwStage) = some x := hx
    simp only [exec, execFwStageComplete, hx', hh, if_true]
  · exact (execFwStageComplete_read hx hh).trans (congrArg Host.Outcome.next (if_pos hr))
  · refine (execFwStageComplete_read hx hh).trans (congrArg Host.Outcome.next ((if_neg (ne_true_of_eq_false hr)).trans ?_))
    have fault : (s.stagedBytes x).1.stageFault (s.stageSlot x.pkt) = none := hf
    rw [fault]; rfl
  · refine (execFwStageComplete_read hx hh).trans (congrArg Host.Outcome.next ((if_neg (ne_true_of_eq_false hr)).trans ?_))
    have fault : (s.stagedBytes x).1.stageFault (s.stageSlot x.pkt) = some (d, v) := hf
    rw [fault]; rfl
  · simp only [exec, execActivationContinue, ha]
  · simp only [exec, execActivationHoldExpiry, ha]
  · simp only [exec, execActivationLoadDone, ha]
  · simp only [exec, execHandOffDone, ha]
  · obtain ⟨he, t, hm, ht⟩ := hc
    rw [execActivationContinue_calm ha he hm ht, hp]
  · obtain ⟨he, t, hm, ht⟩ := hc
    rw [execActivationContinue_calm ha he hm ht, hp]
    exact congrArg Host.Outcome.next (if_neg (Nat.not_le.mpr hn))
  · by_cases hcalm : s.emergency = false ∧ ∃ t, a.calmAt = some t ∧ t + 25000000 ≤ s.clk.now
    · obtain ⟨he, t, hm, ht⟩ := hcalm
      rw [execActivationContinue_calm ha he hm ht]
      rcases hc with hc | ⟨hp, hn⟩ | ⟨hp, hq⟩
      · exact absurd ⟨he, t, hm, ht⟩ hc
      · rw [hp]
        exact congrArg Host.Outcome.next (if_pos hn)
      · cases hph : a.phase with
        | hold => exact absurd hph hq
        | calm => exact absurd hph hp
        | quiesce => rfl
        | load => rfl
        | hand n => rfl
    · exact execActivationContinue_not_calm ha hcalm
  · rw [execActivationHoldExpiry_eq ha, if_neg]
    rintro (h | h | h)
    · exact ne_true_of_eq_false hb h
    · exact ne_true_of_eq_false h hh
    · exact absurd hn (Nat.not_le.mpr h)
  · rw [execActivationHoldExpiry_eq ha, if_pos hn]
  · simp only [exec, execActivationLoadDone, ha, if_pos hp]
  · rw [execActivationLoadDone_load ha hp, hf]
  · rw [execActivationLoadDone_load ha hp, hf]
  · simp only [exec, execHandOffDone, ha, hp]
    congr 1
    split
    · rfl
    · split <;> split <;> rfl
  · simp only [exec, execHandOffDone, ha, hp]
  · simp only [exec, execHandOffDone, ha, hp]
  · cases hph : a.phase with
    | hand n => exact absurd hph (hp n)
    | hold => simp only [exec, execHandOffDone, ha, hph]
    | calm => simp only [exec, execHandOffDone, ha, hph]
    | quiesce => simp only [exec, execHandOffDone, ha, hph]
    | load => simp only [exec, execHandOffDone, ha, hph]
  · refine congrArg Host.Outcome.next ((if_pos ⟨ht, hn⟩).trans (congrArg s.modFw (funext fun f => ?_)))
    cases f.raise <;> rfl
  · exact congrArg Host.Outcome.next (if_neg fun hc => hn.elim (ne_false_of_eq_true hc.1) (Nat.not_lt.mpr hc.2))

end Sys2Proof.Machine

/-! # The power manager: what its events leave, and how it chooses (17 R377 to R390) -/

namespace Sys2Proof.Machine

/-! ### Events and announcements leave the power manager, the partitions and the input latch -/

section
variable (s : State)

/-- What messages to the host, the management port and other modules do not touch. -/
def State.untold (s : State) : Power × SMap Part × Bool := (s.pwr, s.part, s.pins.latched)

@[simp] theorem State.untold_ite (c : Prop) [Decidable c] (a b : State) :
    (if c then a else b).untold = if c then a.untold else b.untold := apply_ite State.untold c a b

@[simp] theorem State.modPort_untold (p : Nat) (f : Port → Port) : (s.modPort p f).untold = s.untold := rfl
@[simp] theorem State.modHost_untold (f : HostIf → HostIf) : (s.modHost f).untold = s.untold := rfl
@[simp] theorem State.modTrk_untold (f : Tracker → Tracker) : (s.modTrk f).untold = s.untold := rfl
@[simp] theorem State.modFab_untold (f : Fabric → Fabric) : (s.modFab f).untold = s.untold := rfl
@[simp] theorem State.modMgmt_untold (f : Mgmt → Mgmt) : (s.modMgmt f).untold = s.untold := rfl
@[simp] theorem State.modFw_untold (f : Firmware → Firmware) : (s.modFw f).untold = s.untold := rfl
@[simp] theorem State.setQr_untold (r : Nat) (q : CompRing) : (s.setQr r q).untold = s.untold := rfl
@[simp] theorem State.emit_untold (x : Sent) : (s.emit x).untold = s.untold := rfl
@[simp] theorem State.out_untold (x : HostOut) : (s.out x).untold = s.untold := rfl
@[simp] theorem State.logFault_untold (k : LogKind) (source severity : Byte) (d : Word) :
    (s.logFault k source severity d).untold = s.untold := rfl
theorem State.modPins_untold {f : Pins → Pins} (h : ∀ p, (f p).latched = p.latched) : (s.modPins f).untold = s.untold :=
  congrArg (fun x => (s.pwr, s.part, x)) (h s.pins)

@[simp] theorem State.raiseMsix_untold (r : Nat) : (s.raiseMsix r).untold = s.untold := by simp [raiseMsix]
@[simp] theorem State.wakeHost_untold : s.wakeHost.untold = s.untold := by simp [wakeHost, modPins_untold]
@[simp] theorem State.putRecord_untold (ring : Nat) (r : Record) : (s.putRecord ring r).untold = s.untold := by simp [putRecord]
@[simp] theorem State.post_untold (ring : Nat) (r : Record) : (s.post ring r).untold = s.untold := by simp [post]
@[simp] theorem State.platformEvent_untold (r : Record) : (s.platformEvent r).untold = s.untold := by
  simp [platformEvent, modPins_untold]
@[simp] theorem State.event_untold (code status detail : Half) (r0 r1 r2 : Word) : (s.event code status detail r0 r1 r2).untold = s.untold := by
  simp [event]

@[simp] theorem State.judge_untold (port vc : Nat) (q : Queued) : (s.judge port vc q).1.untold = s.untold := by
  simp only [judge, modFi]
  (repeat' split) <;> rfl
@[simp] theorem State.atHead_untold (port vc n : Nat) : (s.atHead port vc n).untold = s.untold := by
  induction n generalizing s with
  | zero => rfl
  | succ n ih =>
    simp only [atHead]
    split
    · rfl
    · next q rest _ =>
      have e := s.judge_untold port vc q
      split
      · rfl
      · split <;> next hj => simpa [hj, ih] using e
@[simp] theorem State.enqueue_untold (port : Nat) (p : Pkt) (discard : Bool) : (s.enqueue port p discard).untold = s.untold := atHead_untold ..
@[simp] theorem State.switch_untold (p : Pkt) (discard : Bool) (n : Nat) : (s.switch p discard n).untold = s.untold := by
  induction n generalizing s p discard with
  | zero => rfl
  | succ n ih =>
    simp only [switch]
    (repeat' split) <;> simp [ih, countExpired, countFenceDrop, countDetour]
@[simp] theorem State.transmit_untold (p : Pkt) : (s.transmit p).untold = s.untold := by simp [transmit, onCircuit, route]
@[simp] theorem State.sendTracked_untold (e : EntryId) (p : Pkt) (ch : Option (BitVec 2)) (pieces : List Nat) (owner : Option CtrlOwner) :
    (s.sendTracked e p ch pieces owner).untold = s.untold := by simp [sendTracked]
@[simp] theorem State.sendControl_untold (p : Pkt) (owner : CtrlOwner) : (s.sendControl p owner).untold = s.untold := by
  unfold sendControl
  split <;> simp
@[simp] theorem State.sendBar_untold (g : Nat) (dst : NodeId) (payload : List Byte) : (s.sendBar g dst payload).untold = s.untold :=
  sendControl_untold ..
@[simp] theorem State.announce_untold (level : BitVec 3) : (s.announce level).untold = s.untold :=
  (foldl_keeps untold (fun u b => by
    split
    · exact foldl_keeps untold (fun u m => u.sendBar_untold ..) ..
    · rfl) ..).trans (s.logFault_untold ..)

theorem State.announce_pwr (level : BitVec 3) : (s.announce level).pwr = s.pwr := congrArg (·.1) (s.announce_untold level)

/-- What an emergency and a choice of level leave of the power manager: its measurements, and what decided either. -/
def Power.account (p : Power) : Nat × Nat × List Nat × Nat × SMap Half := (p.energy, p.est, p.window, p.overCap, p.temp)

/-- The causes of the emergency, the first of the last one, and the level. -/
def Power.alarm (p : Power) : BitVec 3 × BitVec 2 × BitVec 3 := (p.causes, p.emergFirst, p.level)

/-! ### Choosing a level -/

/-- A choice outside an emergency changes the decision, and the rail on its way up. -/
theorem State.decideLevel_pwr (paced : Nat) (he : s.emergency = false) : ∃ d r g n, (s.decideLevel paced).pwr = { s.pwr with
    decided := BitVec.ofNat 3 (s.pwr.choose paced).1, decision := d, capUnmet := (s.pwr.choose paced).2,
    rail := r, railGoal := g, railSince := n } := by
  unfold decideLevel
  rw [if_neg (ne_true_of_eq_false he)]
  dsimp only
  split
  · exact ⟨_, _, _, _, rfl⟩
  · split
    · simp only [ramp, modPwr_pwr, announce_pwr]
      exact ⟨_, _, _, _, rfl⟩
    · rw [announce_pwr]
      exact ⟨_, _, _, _, rfl⟩

theorem State.decideLevel_of_emergency (paced : Nat) (he : s.emergency = true) : s.decideLevel paced = s := if_pos he

theorem State.decideLevel_account (paced : Nat) : (s.decideLevel paced).pwr.account = s.pwr.account := by
  cases he : s.emergency with
  | true => rw [s.decideLevel_of_emergency paced he]
  | false =>
    obtain ⟨d, r, g, n, e⟩ := s.decideLevel_pwr paced he
    rw [e]; rfl

theorem State.decideLevel_alarm (paced : Nat) : (s.decideLevel paced).pwr.alarm = s.pwr.alarm := by
  cases he : s.emergency with
  | true => rw [s.decideLevel_of_emergency paced he]
  | false =>
    obtain ⟨d, r, g, n, e⟩ := s.decideLevel_pwr paced he
    rw [e]; rfl

theorem State.decideLevel_boot (paced : Nat) : (s.decideLevel paced).boot = s.boot := by
  simp only [decideLevel]
  split
  · rfl
  · split
    · exact s.modPwr_boot _ rfl
    · split
      · exact (ramp_boot ..).trans ((announce_boot ..).trans (s.modPwr_boot _ rfl))
      · exact (announce_boot ..).trans (s.modPwr_boot _ rfl)

theorem State.decideLevel_part (paced : Nat) : (s.decideLevel paced).part = s.part := by
  have told (l : BitVec 3) (u : State) : (u.announce l).part = u.part := congrArg (·.2.1) (u.announce_untold l)
  simp only [decideLevel]
  split
  · rfl
  · split
    · rfl
    · split
      · exact told _ _
      · exact told _ _

/-! ### Emergencies -/

/-- The power manager as causes begin to hold: the first of an emergency takes it to L5 (17 R389). -/
def Power.alarmed (p : Power) (bits : BitVec 3) : Power :=
  if p.causes ≠ 0 ∨ bits = 0 then { p with causes := p.causes ||| bits }
  else { p with causes := p.causes ||| bits, level := 5,
                emergFirst := BitVec.ofNat 2 (if bits.getLsbD 0 then 1 else if bits.getLsbD 1 then 2 else 3) }

theorem State.paceOut_untold (l : BitVec 3) : (s.paceOut l).untold = s.untold := by
  unfold paceOut
  split
  · exact s.modPins_untold fun p => rfl
  · rfl

/-- The begin of an emergency changes the alarm, the rail and the decision, and neither the partitions nor the input latch. -/
theorem State.emergencyBegins_untold (bits : BitVec 3) :
    (s.emergencyBegins bits).pwr.account = s.pwr.account ∧ (s.emergencyBegins bits).pwr.alarm = (s.pwr.alarmed bits).alarm ∧
    (s.emergencyBegins bits).part = s.part ∧ (s.emergencyBegins bits).pins.latched = s.pins.latched := by
  unfold emergencyBegins Power.alarmed
  extract_lets was u first v w x y
  by_cases hb : was ≠ 0 ∨ bits = 0
  · rw [if_pos hb, if_pos hb]
    exact ⟨rfl, rfl, rfl, rfl⟩
  · rw [if_neg hb, if_neg hb]
    have h : ((y.event 0x0004 sOk (BitVec.ofNat 16 first) (hotWord y) 0 0).announce 5).untold = (v.ramp (vcore 5)).untold := by
      rw [announce_untold, event_untold, logFault_untold, modFw_untold, paceOut_untold]
    obtain ⟨hpwr, hpart⟩ := Prod.mk.inj h
    obtain ⟨hpart, hlatch⟩ := Prod.mk.inj hpart
    rw [hpwr, hpart, hlatch]
    exact ⟨rfl, rfl, rfl, rfl⟩

/-- Causes that cease leave the measurements, the level, the memory and the partitions. -/
theorem State.emergencyClears_keeps (bits : BitVec 3) :
    (s.emergencyClears bits).pwr.account = s.pwr.account ∧
    (s.emergencyClears bits).pwr.alarm = (s.pwr.causes &&& ~~~bits, s.pwr.emergFirst, s.pwr.level) ∧
    (s.emergencyClears bits).part = s.part ∧ (s.emergencyClears bits).mem = s.mem ∧ (s.emergencyClears bits).isl = s.isl := by
  unfold emergencyClears
  extract_lets was u ms v w
  split
  · exact ⟨rfl, rfl, rfl, rfl, rfl⟩
  · have told : (w.event 0x0005 sOk 0 (BitVec.ofNat 32 ms) 0 0).untold = w.untold := event_untold ..
    obtain ⟨hpwr, hpart⟩ := Prod.mk.inj told
    have boot : (w.event 0x0005 sOk 0 (BitVec.ofNat 32 ms) 0 0).boot = w.boot := event_boot ..
    have last := (w.event 0x0005 sOk 0 (BitVec.ofNat 32 ms) 0 0).decideLevel_boot 0
    rw [boot] at last
    rw [decideLevel_account, decideLevel_alarm, decideLevel_part, hpwr]
    exact ⟨rfl, rfl, congrArg (·.1) hpart, congrArg Boot.mem last, congrArg Boot.isl last⟩

end

end Sys2Proof.Machine

/-! # The power manager's own events (17 R377 to R393, 19 R415) -/

namespace Sys2Proof.Machine

/-! ### Energy by partition (17 R379) -/

section
variable {α : Type}

/-- The keys of a map rise, so that each stands once. -/
def KeysRise (m : SMap α) : Prop := (m.map (·.1)).Pairwise (· < ·)

theorem mem_keys_smSet {m : SMap α} {k j : Nat} {v : α} : j ∈ (smSet m k v).map (·.1) ↔ j = k ∨ j ∈ m.map (·.1) := by
  induction m with
  | nil => simp [smSet]
  | cons e t ih =>
    obtain ⟨i, w⟩ := e
    simp only [smSet]
    split
    · next h => simp [h]
    · split
      · simp
      · simp only [List.map_cons, List.mem_cons, ih]
        exact or_left_comm

theorem KeysRise.smSet {m : SMap α} (h : KeysRise m) (k : Nat) (v : α) : KeysRise (smSet m k v) := by
  induction m with
  | nil => exact List.pairwise_singleton _ _
  | cons e t ih =>
    obtain ⟨i, w⟩ := e
    obtain ⟨hi, ht⟩ := List.pairwise_cons.mp h
    dsimp only at hi
    simp only [Machine.smSet]
    split
    · next hk => subst hk; exact h
    · next hne =>
      split
      · next hk => exact List.pairwise_cons.mpr ⟨fun j hj => (List.mem_cons.mp hj).elim (fun e => e ▸ hk) fun hj => hk.trans (hi j hj), h⟩
      · next hk =>
        have below : i < k := by omega
        exact List.pairwise_cons.mpr ⟨fun j hj => (mem_keys_smSet.mp hj).elim (fun e => e ▸ below) (hi j), ih ht⟩

theorem smGet_of_notMem (d : α) {m : SMap α} {k : Nat} (h : k ∉ m.map (·.1)) : smGet d m k = d := by
  induction m with
  | nil => rfl
  | cons e t ih =>
    obtain ⟨hne, ht⟩ := not_or.mp (mt List.mem_cons.mpr h)
    rw [smGet, if_neg fun e => hne e.symm, ih ht]

theorem smGet_map (f : Nat → Nat) (hf : f 0 = 0) (m : SMap Nat) (k : Nat) : smGet 0 (m.map fun x => (x.1, f x.2)) k = f (smGet 0 m k) := by
  induction m with
  | nil => exact hf.symm
  | cons e t ih => simp only [List.map_cons, smGet, ih, apply_ite f]

end

section
variable (s : State)

/-- Charge partitions by key. -/
def State.charge (s : State) (l : SMap Nat) : State := l.foldl (fun s x => s.modPart x.1 fun p => { p with energy := p.energy + x.2 }) s

theorem State.charge_keeps {β : Type} (view : State → β) (h : ∀ (u : State) q, view { u with part := q } = view u) (l : SMap Nat) (s : State) :
    view (s.charge l) = view s :=
  foldl_keeps view (f := fun (s : State) (x : Nat × Nat) => s.modPart x.1 fun p => { p with energy := p.energy + x.2 })
    (fun u _ => h u _) l s

theorem State.charge_energy {l : SMap Nat} (h : KeysRise l) (s : State) (p : Nat) :
    ((s.charge l).getPart p).energy = (s.getPart p).energy + smGet 0 l p := by
  induction l generalizing s with
  | nil => rfl
  | cons x l ih =>
    obtain ⟨hx, hl⟩ := List.pairwise_cons.mp h
    refine (ih hl (s.modPart x.1 fun p => { p with energy := p.energy + x.2 })).trans ?_
    rw [smGet]
    by_cases hp : x.1 = p
    · subst hp
      rw [if_pos rfl, smGet_of_notMem 0 fun hm => Nat.lt_irrefl _ (hx _ hm), getPart_modPart, Nat.add_zero]
    · rw [if_neg hp]
      simp only [getPart, modPart_part, smGet_smSet_ne _ _ _ (Ne.symm hp)]

/-- The shares of a window are of partitions other than 0, each once. -/
theorem State.windowEnergy_shares (cores : Nat) :
    KeysRise (s.windowEnergy cores).2.2 ∧ 0 ∉ (s.windowEnergy cores).2.2.map (·.1) := by
  have charged (m : SMap Nat) (p e : Nat) (h : KeysRise m ∧ 0 ∉ m.map (·.1)) :
      KeysRise (if p = 0 then m else smSet m p (smGet 0 m p + e)) ∧ 0 ∉ (if p = 0 then m else smSet m p (smGet 0 m p + e)).map (·.1) := by
    split
    · exact h
    · next hp => exact ⟨h.1.smSet _ _, fun hm => (mem_keys_smSet.mp hm).elim (fun e => hp e.symm) h.2⟩
  simp only [windowEnergy]
  refine List.foldlRecOn (motive := fun m : SMap Nat => KeysRise m ∧ 0 ∉ m.map (·.1)) _ _ ?_ fun m hm x _ => charged m _ _ hm
  refine List.foldlRecOn (motive := fun m : SMap Nat => KeysRise m ∧ 0 ∉ m.map (·.1)) _ _ ?_ fun m hm x _ => charged m _ _ hm
  exact ⟨List.Pairwise.nil, List.not_mem_nil⟩

theorem Power.scaled_zero (p : Power) : p.scaled 0 = 0 := by
  unfold scaled
  split
  · simp
  · rfl

/-! ### An estimate window -/

/-- The power manager with a window of energy e added up, of which `raw` was estimated and `fixed` does not follow the level. -/
def Power.measure (p : Power) (e raw fixed : Nat) : Power :=
  { p with window := (e :: p.window).take 250, fixedPj := fixed, est := e / 4000000, energy := p.energy + e, estJ := p.estJ + raw,
           acts := [], partActs := [] }

/-- Windows in a row above 1.1 times the tested cap are counted. -/
def Power.held (p : Power) (tested : Half) (e : Nat) : Power :=
  { p with overCap := if decide (11 * tested.toNat * 4000000 < 10 * e) then p.overCap + 1 else 0 }

/-- A window added up, before its energy is shared among the partitions. -/
def State.measured (s : State) (cores : Nat) : State :=
  let raw := s.windowEnergy cores
  let t := s.modPwr fun p => p.measure (s.pwr.scaled raw.1) raw.1 raw.2.1
  { t with isl := t.isl.map fun (v : Nat × Island) => (v.1, { v.2 with acts := [] }) }

/-- The shares of a window: those of the partitions that it names, and what is left for partition 0. -/
def State.shares (s : State) (cores : Nat) : SMap Nat := (s.windowEnergy cores).2.2.map fun x => (x.1, s.pwr.scaled x.2)

def State.shared (s : State) (cores : Nat) : State :=
  if !s.pwr.perPart then s.measured cores
  else ((s.measured cores).charge (s.shares cores)).modPart 0 fun p =>
    { p with energy := p.energy + (s.pwr.scaled (s.windowEnergy cores).1 - ((s.shares cores).map (·.2)).sum) }

/-- The state with a window added up and shared, before it is held against the tested cap. -/
def State.windowed (s : State) (cores : Nat) : State :=
  (s.shared cores).modPwr fun p => p.held (s.shared cores).pwr.testCap (s.pwr.scaled (s.windowEnergy cores).1)

theorem execPowerEstimateWindow_eq (cores : Nat) : exec (.powerEstimateWindow cores) s =
    .next (if 251 ≤ (s.windowed cores).pwr.overCap then (s.windowed cores).emergencyBegins 1
      else if (s.windowed cores).pwr.causes.getLsbD 0 ∧ (s.windowed cores).pwr.mean ≤ (s.windowed cores).pwr.cap * 4000000
        then (s.windowed cores).emergencyClears 1 else s.windowed cores) := rfl

/-! The equations go through the laws of updates: unfolded to the estimate's quotients, they are too deep for the kernel. -/

theorem State.measured_mem (cores : Nat) : (s.measured cores).mem = s.mem := by simp only [measured, modPwr_mem]
theorem State.measured_trk (cores : Nat) : (s.measured cores).trk = s.trk := by simp only [measured, modPwr_trk]
theorem State.measured_part (cores : Nat) : (s.measured cores).part = s.part := by simp only [measured, modPwr_part]

/-- Sharing a window is of the partitions only. -/
theorem State.shared_keeps {β : Type} (view : State → β) (h : ∀ (u : State) q, view { u with part := q } = view u) (cores : Nat) :
    view (s.shared cores) = view (s.measured cores) := by
  unfold shared
  split
  · rfl
  · exact (h _ _).trans (charge_keeps view h _ _)

theorem State.windowed_mem (cores : Nat) : (s.windowed cores).mem = s.mem := by
  rw [windowed, modPwr_mem, s.shared_keeps State.mem (fun _ _ => rfl), measured_mem]
theorem State.windowed_trk (cores : Nat) : (s.windowed cores).trk = s.trk := by
  rw [windowed, modPwr_trk, s.shared_keeps State.trk (fun _ _ => rfl), measured_trk]
theorem State.windowed_part (cores : Nat) : (s.windowed cores).part = (s.shared cores).part := by rw [windowed, modPwr_part]

theorem State.windowed_pwr (cores : Nat) : (s.windowed cores).pwr =
    (s.pwr.measure (s.pwr.scaled (s.windowEnergy cores).1) (s.windowEnergy cores).1 (s.windowEnergy cores).2.1).held
      s.pwr.testCap (s.pwr.scaled (s.windowEnergy cores).1) := by
  rw [windowed, modPwr_pwr, s.shared_keeps State.pwr fun _ _ => rfl, measured, modPwr_pwr]
  rfl

theorem State.windowed_energy_module (cores p : Nat) (h : s.pwr.perPart = false) :
    ((s.windowed cores).getPart p).energy = (s.getPart p).energy := by
  have hn : (!s.pwr.perPart) = true := by rw [h]; rfl
  have hs : s.shared cores = s.measured cores := if_pos hn
  rw [getPart, windowed_part, hs, measured_part, getPart]

theorem State.windowed_energy_shared (cores p : Nat) (h : s.pwr.perPart = true) : ((s.windowed cores).getPart p).energy =
    (s.getPart p).energy + if p = 0 then s.pwr.scaled (s.windowEnergy cores).1 -
      ((s.windowEnergy cores).2.2.map fun x => s.pwr.scaled x.2).sum else s.pwr.scaled (smGet 0 (s.windowEnergy cores).2.2 p) := by
  have hn : ¬ (!s.pwr.perPart) = true := by rw [h]; decide
  obtain ⟨rise, zero⟩ := s.windowEnergy_shares cores
  have rise' : KeysRise (s.shares cores) := by
    unfold KeysRise at rise ⊢
    rw [shares, List.map_map]
    exact rise
  have charged : (((s.measured cores).charge (s.shares cores)).getPart p).energy =
      (s.getPart p).energy + s.pwr.scaled (smGet 0 (s.windowEnergy cores).2.2 p) := by
    rw [State.charge_energy rise', shares, smGet_map _ s.pwr.scaled_zero, getPart, measured_part, getPart]
  have hs : s.shared cores = _ := if_neg hn
  have e : (s.windowed cores).part = _ := (s.windowed_part cores).trans (congrArg State.part hs)
  rw [getPart, e, modPart_part]
  by_cases hp : p = 0
  · subst hp
    rw [smGet_smSet_same, if_pos rfl]
    dsimp only
    rw [charged, smGet_of_notMem 0 zero, s.pwr.scaled_zero, Nat.add_zero, shares, List.map_map]
    rfl
  · rw [smGet_smSet_ne _ _ _ hp, if_neg hp]
    exact charged

end

end Sys2Proof.Machine

/-! # Levels, sensors and the input (17 R378, R385 to R393, 19 R415) -/

namespace Sys2Proof.Machine

/-! ### Choosing a level -/

section
variable (p : Power)

/-- The levels that a choice goes through, and what it takes of them (17 R385). -/
def Power.admits (l : Nat) : Bool := p.fits l 100 && (p.level.toNat ≤ l || p.fits l 95)

def Power.found : Option Nat := ([0, 1, 2, 3, 4].filter fun l => p.limit.toNat ≤ l).find? p.admits

theorem Power.choose_eq (paced : Nat) : p.choose paced = (max (max (p.found.getD 4) p.floor) (min 4 paced), p.found.isNone) := by
  simp only [choose]
  split <;> next h => rw [h, show p.found = _ from h]; rfl

theorem Power.floor_le : p.floor ≤ 4 := Nat.min_le_left _ _

theorem Power.found_le : p.found.getD 4 ≤ 4 := by
  cases h : p.found with
  | none => exact Nat.le_refl 4
  | some l =>
    have hm := List.mem_of_mem_filter (List.mem_of_find?_eq_some h)
    simp only [List.mem_cons, List.not_mem_nil, or_false] at hm
    simp only [Option.getD_some]
    omega

theorem Power.choose_bounds : (p.choose 0).1 ≤ 4 ∧ p.floor ≤ (p.choose 0).1 := by
  have hf := p.floor_le
  have hl := p.found_le
  rw [choose_eq]
  dsimp only
  omega

/-- A level that the cap admits is found, or a faster one is. -/
theorem Power.found_of_fits {k : Nat} (hl : p.limit.toNat ≤ k) (hk : k ≤ 4) (hc : p.level.toNat ≤ k) (hf : p.fits k 100 = true) :
    ∃ l, p.found = some l ∧ l ≤ k := by
  have hm : k ∈ [0, 1, 2, 3, 4].filter fun l => decide (p.limit.toNat ≤ l) := by
    refine List.mem_filter.mpr ⟨?_, decide_eq_true hl⟩
    simp only [List.mem_cons, List.not_mem_nil, or_false]
    omega
  have ha : p.admits k = true := by simp [admits, hf, hc]
  have rising : ([0, 1, 2, 3, 4].filter fun l => decide (p.limit.toNat ≤ l)).Pairwise (· < ·) :=
    List.Pairwise.filter _ (by decide)
  cases h : p.found with
  | none => exact absurd ha (List.find?_eq_none.mp h k hm)
  | some l =>
    refine ⟨l, rfl, ?_⟩
    obtain ⟨_, as, bs, e, hn⟩ := List.find?_eq_some_iff_append.mp h
    rw [e] at hm rising
    rcases List.mem_append.mp hm with hm | hm
    · have := hn k hm
      rw [ha] at this
      exact absurd this (by decide)
    · rcases List.mem_cons.mp hm with rfl | hm
      · exact Nat.le_refl _
      · exact Nat.le_of_lt (List.rel_of_pairwise_cons (List.pairwise_append.mp rising).2.1 hm)

end

/-! ### Sensors -/

section
variable (p : Power)

theorem hottest_lt {a b : Nat} (h : a < b) (x : Int) : (hottest p a b).1 < x ↔ ∀ k, a ≤ k → k < b → sensorOf p k < x := by
  have fold (l : List Nat) (r : Int × Nat) : (l.foldl (fun r k => if r.1 < sensorOf p (a + k) then (sensorOf p (a + k), a + k) else r) r).1 < x ↔
      r.1 < x ∧ ∀ k ∈ l, sensorOf p (a + k) < x := by
    induction l generalizing r with
    | nil => simp
    | cons k l ih =>
      rw [List.foldl_cons, ih, List.forall_mem_cons]
      split
      · next hr => exact ⟨fun ⟨h1, h2⟩ => ⟨hr.trans h1, h1, h2⟩, fun ⟨_, h1, h2⟩ => ⟨h1, h2⟩⟩
      · next hr => exact ⟨fun ⟨h1, h2⟩ => ⟨h1, by omega, h2⟩, fun ⟨h1, _, h2⟩ => ⟨h1, h2⟩⟩
  rw [hottest, fold]
  constructor
  · rintro ⟨_, hall⟩ k hk hkb
    have := hall (k - a) (List.mem_range.mpr (by omega))
    rwa [Nat.add_sub_cancel' hk] at this
  · intro hall
    exact ⟨hall a (Nat.le_refl a) h, fun k hk => hall (a + k) (by omega) (by have := List.mem_range.mp hk; omega)⟩

/-- Every die sensor reads below x and every HBM sensor below y. -/
theorem hottest_below (x y : Int) : (hottest p 0 128).1 < x ∧ (hottest p 128 160).1 < y ↔
    ∀ k, k < 160 → sensorOf p k < if k < 128 then x else y := by
  rw [hottest_lt p (by decide), hottest_lt p (by decide)]
  constructor
  · rintro ⟨hd, hh⟩ k hk
    split
    · next h => exact hd k (Nat.zero_le k) h
    · next h => exact hh k (by omega) hk
  · intro hall
    refine ⟨fun k _ hk => ?_, fun k hk hk2 => ?_⟩
    · have := hall k (by omega)
      rwa [if_pos hk] at this
    · have := hall k hk2
      rwa [if_neg (by omega)] at this

theorem smGet_map_pair {α : Type} (d : α) (f : Nat → α) {l : List Nat} {k : Nat} (h : k ∈ l) : smGet d (l.map fun k => (k, f k)) k = f k := by
  induction l with
  | nil => exact absurd h List.not_mem_nil
  | cons a l ih =>
    rw [List.map_cons, smGet]
    split
    · next e => rw [e]
    · next e => exact ih ((List.mem_cons.mp h).resolve_left fun h => e h.symm)

/-- The power manager with a sample of its sensors, before it is held against the limits. -/
def Power.sampled (p : Power) (rs : List Half) : Power :=
  let p := { p with temp := (List.range 160).map fun k => (k, rs.getD k (smGet 0 p.temp k)) }
  let coolFor := if p.cool then p.coolFor + 500 else 0
  { p with floorOn := !p.cool || (p.floorOn && decide (coolFor < 2500000)),
           recovered := p.recovered || (p.floorOn && decide (2500000 ≤ coolFor)), coolFor := coolFor,
           tripCool := if decide ((hottest p 0 128).1 < 850) && decide ((hottest p 128 160).1 < 850) then p.tripCool + 500 else 0 }

theorem Power.sampled_temp (rs : List Half) : (p.sampled rs).temp = (List.range 160).map fun k => (k, rs.getD k (smGet 0 p.temp k)) := rfl

theorem Power.sensorOf_sampled (rs : List Half) {k : Nat} (hk : k < 160) :
    sensorOf (p.sampled rs) k = (rs.getD k (smGet 0 p.temp k)).toInt := by
  rw [sensorOf, sampled_temp, smGet_map_pair 0 _ (List.mem_range.mpr hk)]

end

section
variable (s : State)

theorem execSensorSample_eq (rs : List Half) : exec (.sensorSample rs) s =
    .next (if decide (1080 ≤ (hottest (s.pwr.sampled rs) 0 128).1) || decide (1000 ≤ (hottest (s.pwr.sampled rs) 128 160).1)
        then (s.modPwr fun p => p.sampled rs).emergencyBegins 4
      else if decide ((hottest (s.pwr.sampled rs) 0 128).1 < 1040) && decide ((hottest (s.pwr.sampled rs) 128 160).1 < 970)
        then (s.modPwr fun p => p.sampled rs).emergencyClears 4
      else s.modPwr fun p => p.sampled rs) := rfl

/-- The alarm that a sample of the sensors leaves (17 R389). -/
theorem State.sensorSample_alarm (rs : List Half) : ∃ t : State, exec (.sensorSample rs) s = .next t ∧
    t.pwr.account = (s.pwr.sampled rs).account ∧ t.mem = s.mem ∧ t.isl = s.isl ∧
    (¬ (∀ k, k < 160 → sensorOf (s.pwr.sampled rs) k < if k < 128 then 1080 else 1000) → t.pwr.causes = s.pwr.causes ||| 4) ∧
    ((∀ k, k < 160 → sensorOf (s.pwr.sampled rs) k < if k < 128 then 1040 else 970) → t.pwr.causes = s.pwr.causes &&& ~~~4) ∧
    ((∀ k, k < 160 → sensorOf (s.pwr.sampled rs) k < if k < 128 then 1080 else 1000) →
      ¬ (∀ k, k < 160 → sensorOf (s.pwr.sampled rs) k < if k < 128 then 1040 else 970) → t.pwr.causes = s.pwr.causes) := by
  refine ⟨_, execSensorSample_eq s rs, ?_⟩
  simp only [← hottest_below, Bool.or_eq_true, Bool.and_eq_true, decide_eq_true_eq]
  by_cases hot : 1080 ≤ (hottest (s.pwr.sampled rs) 0 128).1 ∨ 1000 ≤ (hottest (s.pwr.sampled rs) 128 160).1
  · rw [if_pos hot]
    have b := (s.modPwr fun p => p.sampled rs).emergencyBegins_boot 4
    refine ⟨((s.modPwr fun p => p.sampled rs).emergencyBegins_untold 4).1, congrArg Boot.mem b, congrArg Boot.isl b, fun _ => congrArg Boot.causes b,
      fun h => ?_, fun h => ?_⟩ <;> omega
  · rw [if_neg hot]
    by_cases cool : (hottest (s.pwr.sampled rs) 0 128).1 < 1040 ∧ (hottest (s.pwr.sampled rs) 128 160).1 < 970
    · rw [if_pos cool]
      obtain ⟨ha, hc, _, hm, hi⟩ := (s.modPwr fun p => p.sampled rs).emergencyClears_keeps 4
      exact ⟨ha, hm, hi, fun h => by omega, fun _ => congrArg (·.1) hc, fun _ h => absurd cool h⟩
    · rw [if_neg cool]
      exact ⟨rfl, rfl, rfl, fun h => by omega, fun h => absurd h cool, fun _ _ => rfl⟩

/-! ### The input -/

/-- The pins with a sample of the input voltage (19 Table 19.5). -/
def Pins.sampled (p : Pins) (v : Half) : Pins :=
  { p with inputV := v, inState := inputState v.toNat,
           lowFor := if decide (v.toNat < 3800) then p.lowFor + 1 else 0,
           highFor := if decide (5500 < v.toNat) then p.highFor + 1 else 0,
           marginFor := if decide (v.toNat < 4000 ∨ 5000 < v.toNat) then p.marginFor + 1 else 0,
           goodFor := if decide (v.toNat < 4000 ∨ 5000 < v.toNat) then 0 else p.goodFor + 1 }

theorem inputState_eq_zero (v : Nat) : inputState v = 0 ↔ ¬ (v < 4000 ∨ 5000 < v) := by
  unfold inputState
  split
  · next h => exact ⟨fun e => absurd e (by decide), fun hn => absurd (.inl h) hn⟩
  · next h =>
    split
    · next h2 => exact ⟨fun e => absurd e (by decide), fun hn => absurd (.inr h2) hn⟩
    · next h2 => exact ⟨fun _ hn => hn.elim h h2, fun _ => rfl⟩

/-- An input fault: the voltage has been too low or too high for long enough (19 R415). -/
def Pins.faulty (p : Pins) : Prop := (500 ≤ p.lowFor ∨ 125 ≤ p.highFor) ∧ ¬ p.latched = true

/-- The state as an input fault leaves it. -/
def State.inputLost (s : State) (v : Half) : State :=
  (((s.logFault .inputFault srcLighthouse 3 (v.zeroExtend 32)).modPins fun p =>
    { p with latched := true, faults := satAdd 16 p.faults 1, faultAt := s.now.extractLsb' 0 48 |>.zeroExtend 64 }).powerOff).modPins
      fun p => { p with latchedEver := true }

theorem execInputVoltageSample_eq (v : Half) : exec (.inputVoltageSample v) s =
    .next (if (500 ≤ (s.pins.sampled v).lowFor ∨ 125 ≤ (s.pins.sampled v).highFor) ∧ ¬ (s.pins.sampled v).latched then
        (s.modPins fun p => p.sampled v).inputLost v
      else if (s.pins.sampled v).marginFor = 25000 then
        (s.modPins fun p => p.sampled v).logFault .inputMargin srcLighthouse 0 (v.zeroExtend 32)
      else s.modPins fun p => p.sampled v) := by
  by_cases m : v.toNat < 4000 ∨ 5000 < v.toNat
  · have hi : inputState v.toNat ≠ 0 := fun e => (inputState_eq_zero _).mp e m
    simp only [exec, execInputVoltageSample, Pins.sampled, hi, m, decide_true, decide_false, Bool.false_eq_true, if_true, if_false, ne_eq, not_false_eq_true]
    rfl
  · have hi : inputState v.toNat = 0 := (inputState_eq_zero _).mpr m
    simp only [exec, execInputVoltageSample, Pins.sampled, hi, m, decide_true, decide_false, Bool.false_eq_true, if_true, if_false, ne_eq,
      not_true_eq_false]
    rfl

end

end Sys2Proof.Machine

/-! # What the power manager measures, chooses and acts on (17 R377 to R393, 19 R415) -/

namespace Sys2Proof.Machine

section
variable {s : State}

/-! ### The gain (17 R378) -/

/-- The quotient of a second, between 0.80 and 1.25. -/
def clampGain (measured estimated : Nat) : Nat := min 0x5000 (max 0x3333 (measured * 0x4000 / estimated))

theorem clampGain_bounds (m e : Nat) : 0x3333 ≤ clampGain m e ∧ clampGain m e ≤ 0x5000 := by
  unfold clampGain
  omega

theorem clampGain_within {m e : Nat} (he : e ≠ 0) (hl : 0x3333 * e ≤ m * 0x4000) (hh : m * 0x4000 < 0x5001 * e) :
    clampGain m e = m * 0x4000 / e := by
  have pos := Nat.pos_of_ne_zero he
  have low : 0x3333 ≤ m * 0x4000 / e := (Nat.le_div_iff_mul_le pos).mpr hl
  have high : m * 0x4000 / e < 0x5001 := (Nat.div_lt_iff_lt_mul pos).mpr hh
  unfold clampGain
  omega

theorem toNat_clampGain (m e : Nat) : (BitVec.ofNat 16 (clampGain m e)).toNat = clampGain m e := by
  have h := clampGain_bounds m e
  rw [BitVec.toNat_ofNat]
  omega

/-! ### Loss of power -/

/-- Everything but the lighthouse has lost power. -/
theorem State.powerOff_loses (s : State) : s.powerOff.mem.hbm = [] ∧ s.powerOff.mem.valid = false ∧ s.powerOff.isl = [] ∧
    s.powerOff.host.linkUp = false ∧ s.powerOff.fw.starting = none ∧ s.powerOff.pwr.energy = s.pwr.energy ∧
    s.powerOff.pending = s.pending ∧ s.powerOff.clk = s.clk := ⟨rfl, rfl, rfl, rfl, rfl, rfl, rfl, rfl⟩

/-- A cold start leaves the input latch as it is. -/
theorem State.beginStart_latched (s : State) (kind : StartKind) (keep other halt : Bool) :
    (s.beginStart kind keep other halt).pins.latched = s.pins.latched := by
  unfold State.beginStart
  extract_lets warm u v slot w x
  have hx : x.pins.latched = s.pins.latched := (congrArg Pins.latched w.retainedClaims_pins).trans rfl
  split
  · exact (x.emergencyBegins_untold 2).2.2.2.trans hx
  · exact hx

end

/-! ### Samples of the input voltage (19 R415) -/

section
variable (p : Pins) (v : Half)

theorem Pins.sampled_faults : (500 ≤ (p.sampled v).lowFor ∨ 125 ≤ (p.sampled v).highFor) ↔
    decide (v.toNat < 3800) = true ∧ 499 ≤ p.lowFor ∨ decide (5500 < v.toNat) = true ∧ 124 ≤ p.highFor := by
  have counts (b : Bool) (n m : Nat) : m + 1 ≤ (if b then n + 1 else 0) ↔ b = true ∧ m ≤ n := by
    cases b <;> simp
  exact or_congr (counts _ _ _) (counts _ _ _)

theorem Pins.sampled_margin : (p.sampled v).marginFor = 25000 ↔ decide (v.toNat < 4000 ∨ 5000 < v.toNat) = true ∧ p.marginFor = 24999 := by
  have counts (b : Bool) (n m : Nat) : (if b then n + 1 else 0) = m + 1 ↔ b = true ∧ n = m := by
    cases b <;> simp
  exact counts _ _ _

end

/-! ### The window's emergency -/

section

/-- A window held against the tested cap, and against the cap. -/
def State.heldToCap (u : State) : State :=
  if 251 ≤ u.pwr.overCap then u.emergencyBegins 1
  else if u.pwr.causes.getLsbD 0 ∧ u.pwr.mean ≤ u.pwr.cap * 4000000 then u.emergencyClears 1 else u

/-- What a window leaves: its measurements, and the emergency that it begins or clears. -/
theorem State.held_ends {t u : State} (ht : t = u.heldToCap) :
    t.pwr.account = u.pwr.account ∧ t.part = u.part ∧
    (251 ≤ u.pwr.overCap → t.pwr.alarm = (u.pwr.alarmed 1).alarm) ∧
    (¬ 251 ≤ u.pwr.overCap → t.pwr.emergFirst = u.pwr.emergFirst ∧ t.pwr.level = u.pwr.level) ∧
    (¬ 251 ≤ u.pwr.overCap → u.pwr.causes.getLsbD 0 = true ∧ u.pwr.mean ≤ u.pwr.cap * 4000000 →
      t.pwr.causes = u.pwr.causes &&& ~~~1) ∧
    (¬ 251 ≤ u.pwr.overCap → ¬ (u.pwr.causes.getLsbD 0 = true ∧ u.pwr.mean ≤ u.pwr.cap * 4000000) → t = u) := by
  rw [ht, heldToCap]
  by_cases hb : 251 ≤ u.pwr.overCap
  · rw [if_pos hb]
    obtain ⟨ha, hl, hp, -⟩ := u.emergencyBegins_untold 1
    exact ⟨ha, hp, fun _ => hl, fun h => absurd hb h, fun h => absurd hb h, fun h => absurd hb h⟩
  · rw [if_neg hb]
    by_cases hc : u.pwr.causes.getLsbD 0 = true ∧ u.pwr.mean ≤ u.pwr.cap * 4000000
    · rw [if_pos hc]
      obtain ⟨ha, hl, hp, -, -⟩ := u.emergencyClears_keeps 1
      exact ⟨ha, hp, fun h => absurd h hb, fun _ => Prod.mk.inj (congrArg (·.2) hl), fun _ _ => congrArg (·.1) hl,
        fun _ h => absurd hc h⟩
    · rw [if_neg hc]
      exact ⟨rfl, rfl, fun h => absurd h hb, fun _ => ⟨rfl, rfl⟩, fun _ h => absurd h hc, fun _ _ => rfl⟩

theorem Power.alarmed_first (p : Power) (h : p.causes = 0) : (p.alarmed 1).alarm = (p.causes ||| 1, 1, 5) := by
  unfold Power.alarmed
  rw [if_neg (by simp [h])]
  rfl

theorem Power.alarmed_again (p : Power) (h : p.causes ≠ 0) (bits : BitVec 3) :
    (p.alarmed bits).alarm = (p.causes ||| bits, p.emergFirst, p.level) := by
  unfold Power.alarmed
  rw [if_pos (.inl h)]
  rfl

variable (s : State) (cores : Nat)

/-- The energy of a window, scaled by the gain in force. -/
def State.windowPj : Nat := s.pwr.scaled (s.windowEnergy cores).1

theorem State.windowed_account : (s.windowed cores).pwr.energy = s.pwr.energy + s.windowPj cores ∧
    (s.windowed cores).pwr.est = s.windowPj cores / 4000000 ∧
    (s.windowed cores).pwr.window = (s.windowPj cores :: s.pwr.window).take 250 ∧
    (s.windowed cores).pwr.overCap =
      (if decide (11 * s.pwr.testCap.toNat * 4000000 < 10 * s.windowPj cores) then s.pwr.overCap + 1 else 0) := by
  rw [windowed_pwr]
  exact ⟨rfl, rfl, rfl, rfl⟩

theorem State.windowed_alarm : (s.windowed cores).pwr.causes = s.pwr.causes ∧ (s.windowed cores).pwr.emergFirst = s.pwr.emergFirst ∧
    (s.windowed cores).pwr.level = s.pwr.level ∧ (s.windowed cores).pwr.cap = s.pwr.cap ∧ (s.windowed cores).pwr.acts = [] := by
  rw [windowed_pwr]
  exact ⟨rfl, rfl, rfl, rfl, rfl⟩

theorem State.windowed_mean : (s.windowed cores).pwr.mean =
    ((s.windowPj cores :: s.pwr.window).take 250).sum / max 1 ((s.windowPj cores :: s.pwr.window).take 250).length := by
  rw [Power.mean, (s.windowed_account cores).2.2.1]

/-- Cause 1 begins after 251 windows in a row above 1.1 times the tested cap (17 R389). -/
theorem State.windowed_begins : 251 ≤ (s.windowed cores).pwr.overCap ↔
    decide (11 * s.pwr.testCap.toNat * 4000000 < 10 * s.windowPj cores) = true ∧ 250 ≤ s.pwr.overCap := by
  rw [(s.windowed_account cores).2.2.2]
  split
  · next h => exact ⟨fun hn => ⟨h, by omega⟩, fun hn => by omega⟩
  · next h => exact ⟨fun hn => by omega, fun hn => absurd hn.1 h⟩

end

/-- Settles O52: each event by the state that it leaves before an emergency or a choice, and by what those leave. -/
theorem powerManagerMeasuresChoosesAndActs : Obligations.PowerManagerMeasuresChoosesAndActs := by
  refine ⟨fun s cores => ?_, fun s he => ⟨?_, s.pwr.choose_bounds⟩, fun s k hl hk hc hf => ?_, fun s he => ?_,
    fun s g hg => ⟨fun hn => ?_, fun hn => ?_⟩, fun s => ⟨fun hn => ?_, fun hn => ?_⟩, fun s a v => ⟨_, rfl, rfl, rfl, rfl, rfl⟩,
    fun s => ⟨fun hc => ?_, fun hc he => ?_, fun hc he => ?_⟩, fun s rs => ?_, fun s k hl ht => ?_, fun s k h => ?_,
    fun s v => ⟨fun hl hf => ?_, fun h => ?_⟩, fun s hl => ?_, fun s hl => ⟨fun hn => ?_, fun hn ht => ?_, fun hn ht => ?_⟩⟩
  · obtain ⟨henergy, hest, hwin, hover⟩ := s.windowed_account cores
    obtain ⟨hcauses, hfirst, hlevel, hcap, hacts⟩ := s.windowed_alarm cores
    have hmean := s.windowed_mean cores
    have hb := s.windowed_begins cores
    obtain ⟨t, ht, held⟩ : ∃ t, exec (.powerEstimateWindow cores) s = .next t ∧ t = (s.windowed cores).heldToCap :=
      ⟨_, execPowerEstimateWindow_eq s cores, rfl⟩
    obtain ⟨ha, hp, hbeg, hstay, hclear, hquiet⟩ := State.held_ends held
    simp only [Power.account, Prod.mk.injEq] at ha
    obtain ⟨aenergy, aest, awin, aover, -⟩ := ha
    rw [hcauses, hmean, hcap] at hclear hquiet
    rw [hfirst, hlevel] at hstay
    refine ⟨t, ht, aenergy.trans henergy, aest.trans hest, awin.trans hwin, aover.trans hover,
      fun h => ?_, fun ⟨h, hc⟩ => hclear (mt hb.mp h) hc, fun h h0 => ?_, fun h => ?_, fun h hc => ?_, fun h p => ?_, fun h p => ?_⟩
    · by_cases h0 : s.pwr.causes = 0
      · exact (congrArg (·.1) ((hbeg (hb.mpr h)).trans (Power.alarmed_first _ (hcauses.trans h0)))).trans (by rw [hcauses])
      · exact (congrArg (·.1) ((hbeg (hb.mpr h)).trans (Power.alarmed_again _ (by rwa [hcauses]) 1))).trans (by rw [hcauses])
    · exact Prod.mk.inj (congrArg (·.2) ((hbeg (hb.mpr h)).trans (Power.alarmed_first _ (hcauses.trans h0))))
    · by_cases hn : 251 ≤ (s.windowed cores).pwr.overCap
      · have h0 : (s.windowed cores).pwr.causes ≠ 0 := by rw [hcauses]; exact h.resolve_left (not_not_intro (hb.mp hn))
        rw [← hfirst, ← hlevel]
        exact Prod.mk.inj (congrArg (·.2) ((hbeg hn).trans (Power.alarmed_again _ h0 1)))
      · exact hstay hn
    · rw [hquiet (mt hb.mp h) fun hq => hc ⟨h, hq⟩]
      exact ⟨hcauses, hacts, s.windowed_mem cores, s.windowed_trk cores⟩
    · rw [State.getPart, hp]
      exact s.windowed_energy_module cores p h
    · rw [State.getPart, hp]
      exact s.windowed_energy_shared cores p h
  · obtain ⟨d, r, g, n, e⟩ := s.decideLevel_pwr 0 he
    have b := s.decideLevel_boot 0
    refine ⟨_, rfl, ?_, ?_, ?_, ?_, congrArg Boot.mem b, congrArg Boot.isl b⟩ <;> rw [e]
  · obtain ⟨l, hfound, hle⟩ := s.pwr.found_of_fits hl hk hc hf
    rw [Power.choose_eq, hfound]
    refine ⟨rfl, ?_⟩
    simp only [Option.getD_some]
    omega
  · exact congrArg Host.Outcome.next (s.decideLevel_of_emergency 0 he)
  · simp only [exec, execCapGraceExpiry, hg, if_pos hn]
    rfl
  · simp only [exec, execCapGraceExpiry, hg, if_neg (Nat.not_le.mpr hn)]
  · exact congrArg Host.Outcome.next (if_neg (by rw [State.railDone]; simpa using hn))
  · exact congrArg Host.Outcome.next (if_pos (decide_eq_true hn))
  · exact congrArg Host.Outcome.next (if_pos (by rw [hc]; rfl))
  · have gain := toNat_clampGain s.pwr.measJ s.pwr.estJ
    obtain ⟨low, high⟩ := clampGain_bounds s.pwr.measJ s.pwr.estJ
    refine ⟨_, congrArg Host.Outcome.next ((if_neg (by rw [hc]; decide)).trans (if_neg he)), le_of_le_of_eq low gain.symm,
      le_of_eq_of_le gain high, fun hl hh => congrArg (BitVec.ofNat 16) (clampGain_within he hl hh), rfl, rfl, rfl, rfl⟩
  · exact ⟨_, congrArg Host.Outcome.next ((if_neg (by rw [hc]; decide)).trans (if_pos he)), rfl, rfl, rfl⟩
  · obtain ⟨t, ht, ha, hm, hi, hhot, hcool, hkeep⟩ := s.sensorSample_alarm rs
    simp only [Power.account, Prod.mk.injEq] at ha
    obtain ⟨aenergy, -, -, -, atemp⟩ := ha
    have reads : ∀ k, k < 160 → sensorOf t.pwr k = (rs.getD k (smGet 0 s.pwr.temp k)).toInt := fun k hk => by
      rw [← s.pwr.sensorOf_sampled rs hk, sensorOf, sensorOf, atemp]
    have below (x y : Int) : (∀ k, k < 160 → sensorOf (s.pwr.sampled rs) k < if k < 128 then x else y) ↔
        ∀ k, k < 160 → (rs.getD k (smGet 0 s.pwr.temp k)).toInt < if k < 128 then x else y :=
      forall₂_congr fun k hk => by rw [s.pwr.sensorOf_sampled rs hk]
    have exceeds {x y : Int} (h : ∃ k, k < 160 ∧ (if k < 128 then x else y) ≤ (rs.getD k (smGet 0 s.pwr.temp k)).toInt) :
        ¬ ∀ k, k < 160 → sensorOf (s.pwr.sampled rs) k < if k < 128 then x else y := fun hn => by
      obtain ⟨k, hk, hx⟩ := h
      exact absurd ((below x y).mp hn k hk) (not_lt.mpr hx)
    refine ⟨t, ht, reads, fun h => ?_, fun h => ?_, fun h hn => hkeep ((below _ _).mpr hn) (exceeds h), aenergy, hm, hi⟩
    · rw [hhot (exceeds h)]
      exact (by decide : ∀ c : BitVec 3, (c ||| 4).getLsbD 2 = true) _
    · rw [hcool ((below _ _).mpr h)]
      exact (by decide : ∀ c : BitVec 3, (c &&& ~~~4).getLsbD 2 = false) _
  · obtain ⟨hhbm, hvalid, hisl, hlink, hstart, henergy, hpend, hclk⟩ := s.powerOff_loses
    have go : ¬ (!s.clk.lit ∨ s.pwr.tripped) := by rw [hl, ht]; decide
    exact ⟨_, congrArg Host.Outcome.next (if_neg go), rfl, rfl, by rw [State.now]; rfl, hhbm, hvalid, hisl, hlink, hstart, henergy, hpend⟩
  · exact congrArg Host.Outcome.next (if_pos (by simpa using h))
  · obtain ⟨hhbm, -, hisl, hlink, -⟩ := State.powerOff_loses (((s.modPins fun p => p.sampled v).logFault .inputFault srcLighthouse 3
      (v.zeroExtend 32)).modPins fun p => { p with
        latched := true, faults := satAdd 16 p.faults 1,
        faultAt := (s.modPins fun p => p.sampled v).now.extractLsb' 0 48 |>.zeroExtend 64 })
    have fault : (500 ≤ (s.pins.sampled v).lowFor ∨ 125 ≤ (s.pins.sampled v).highFor) ∧ ¬ (s.pins.sampled v).latched = true :=
      ⟨(s.pins.sampled_faults v).mpr hf, ne_true_of_eq_false hl⟩
    exact ⟨_, (execInputVoltageSample_eq s v).trans (congrArg Host.Outcome.next (if_pos fault)), rfl, rfl, rfl, hhbm, hisl, hlink⟩
  · have fine : ¬ ((500 ≤ (s.pins.sampled v).lowFor ∨ 125 ≤ (s.pins.sampled v).highFor) ∧ ¬ (s.pins.sampled v).latched = true) :=
      fun hn => h.elim hn.2 fun hf => hf ((s.pins.sampled_faults v).mp hn.1)
    have e := (execInputVoltageSample_eq s v).trans (congrArg Host.Outcome.next (if_neg fine))
    by_cases hm : (s.pins.sampled v).marginFor = 25000
    · obtain ⟨m1, m2⟩ := (s.pins.sampled_margin v).mp hm
      exact ⟨_, e.trans (congrArg Host.Outcome.next (if_pos hm)), rfl, rfl, rfl, rfl,
        fun hn => hn.elim (fun hn => absurd m1 (ne_true_of_eq_false hn)) (absurd m2), fun _ _ => rfl⟩
    · exact ⟨_, e.trans (congrArg Host.Outcome.next (if_neg hm)), rfl, rfl, rfl, rfl, fun _ => rfl,
        fun h1 h2 => absurd ((s.pins.sampled_margin v).mpr ⟨h1, h2⟩) hm⟩
  · exact congrArg Host.Outcome.next (if_neg fun h => ne_true_of_eq_false hl h.1)
  · exact congrArg Host.Outcome.next (if_neg fun h => Nat.not_le.mpr hn h.2)
  · refine congrArg Host.Outcome.next ((if_pos ⟨hl, hn⟩).trans (if_pos (.inl ht)))
  · have unlatched : ¬ (s.pwr.tripped = true ∨ (false : Bool) = true) := by rw [ht]; decide
    obtain ⟨-, -, hmem, hses, hst, -⟩ := (s.modPins fun p => { p with latched := false }).beginStart_begins .cold false false false
    refine ⟨_, _, congrArg Host.Outcome.next ((if_pos ⟨hl, hn⟩).trans (if_neg unlatched)), ?_, hst, rfl, rfl, hses, ?_⟩
    · rw [State.beginStart_latched]; rfl
    · rw [hmem]; rfl

end Sys2Proof.Machine

/-! # The management port: who answers, and with what (18 R396 to R400) -/

namespace Sys2Proof.Machine

/-! ### Events and announcements leave the firmware, the port's output and the trip pin -/

section
variable (s : State)

/-- The firmware, what the management port has put out, and the trip pin. -/
def State.quiet (s : State) : Firmware × List MgmtOut × Bool := (s.fw, s.mgmt.log, s.pins.thermtrip)

@[simp] theorem State.quiet_ite (c : Prop) [Decidable c] (a b : State) :
    (if c then a else b).quiet = if c then a.quiet else b.quiet := apply_ite State.quiet c a b

@[simp] theorem State.modPort_quiet (p : Nat) (f : Port → Port) : (s.modPort p f).quiet = s.quiet := rfl
@[simp] theorem State.modHost_quiet (f : HostIf → HostIf) : (s.modHost f).quiet = s.quiet := rfl
@[simp] theorem State.modTrk_quiet (f : Tracker → Tracker) : (s.modTrk f).quiet = s.quiet := rfl
@[simp] theorem State.modFab_quiet (f : Fabric → Fabric) : (s.modFab f).quiet = s.quiet := rfl
@[simp] theorem State.modPwr_quiet (f : Power → Power) : (s.modPwr f).quiet = s.quiet := rfl
@[simp] theorem State.setQr_quiet (r : Nat) (q : CompRing) : (s.setQr r q).quiet = s.quiet := rfl
@[simp] theorem State.emit_quiet (x : Sent) : (s.emit x).quiet = s.quiet := rfl
@[simp] theorem State.out_quiet (x : HostOut) : (s.out x).quiet = s.quiet := rfl
@[simp] theorem State.logFault_quiet (k : LogKind) (source severity : Byte) (d : Word) :
    (s.logFault k source severity d).quiet = s.quiet := rfl
theorem State.modMgmt_quiet {f : Mgmt → Mgmt} (h : ∀ m, (f m).log = m.log) : (s.modMgmt f).quiet = s.quiet :=
  congrArg (fun x => (s.fw, x, s.pins.thermtrip)) (h s.mgmt)
theorem State.modPins_quiet {f : Pins → Pins} (h : ∀ p, (f p).thermtrip = p.thermtrip) : (s.modPins f).quiet = s.quiet :=
  congrArg (fun x => (s.fw, s.mgmt.log, x)) (h s.pins)

@[simp] theorem State.raiseMsix_quiet (r : Nat) : (s.raiseMsix r).quiet = s.quiet := by simp [raiseMsix]
@[simp] theorem State.wakeHost_quiet : s.wakeHost.quiet = s.quiet := by simp [wakeHost, modPins_quiet]
@[simp] theorem State.putRecord_quiet (ring : Nat) (r : Record) : (s.putRecord ring r).quiet = s.quiet := by simp [putRecord]
@[simp] theorem State.post_quiet (ring : Nat) (r : Record) : (s.post ring r).quiet = s.quiet := by simp [post]
@[simp] theorem State.platformEvent_quiet (r : Record) : (s.platformEvent r).quiet = s.quiet := by
  simp [platformEvent, modPins_quiet, modMgmt_quiet]
@[simp] theorem State.event_quiet (code status detail : Half) (r0 r1 r2 : Word) : (s.event code status detail r0 r1 r2).quiet = s.quiet := by
  simp [event]

@[simp] theorem State.judge_quiet (port vc : Nat) (q : Queued) : (s.judge port vc q).1.quiet = s.quiet := by
  simp only [judge, modFi]
  (repeat' split) <;> rfl
@[simp] theorem State.atHead_quiet (port vc n : Nat) : (s.atHead port vc n).quiet = s.quiet := by
  induction n generalizing s with
  | zero => rfl
  | succ n ih =>
    simp only [atHead]
    split
    · rfl
    · next q rest _ =>
      have e := s.judge_quiet port vc q
      split
      · rfl
      · split <;> next hj => simpa [hj, ih] using e
@[simp] theorem State.enqueue_quiet (port : Nat) (p : Pkt) (discard : Bool) : (s.enqueue port p discard).quiet = s.quiet := atHead_quiet ..
@[simp] theorem State.switch_quiet (p : Pkt) (discard : Bool) (n : Nat) : (s.switch p discard n).quiet = s.quiet := by
  induction n generalizing s p discard with
  | zero => rfl
  | succ n ih =>
    simp only [switch]
    (repeat' split) <;> simp [ih, countExpired, countFenceDrop, countDetour]
@[simp] theorem State.transmit_quiet (p : Pkt) : (s.transmit p).quiet = s.quiet := by simp [transmit, onCircuit, route]
@[simp] theorem State.sendTracked_quiet (e : EntryId) (p : Pkt) (ch : Option (BitVec 2)) (pieces : List Nat) (owner : Option CtrlOwner) :
    (s.sendTracked e p ch pieces owner).quiet = s.quiet := by simp [sendTracked]
@[simp] theorem State.sendControl_quiet (p : Pkt) (owner : CtrlOwner) : (s.sendControl p owner).quiet = s.quiet := by
  unfold sendControl
  split <;> simp
@[simp] theorem State.sendBar_quiet (g : Nat) (dst : NodeId) (payload : List Byte) : (s.sendBar g dst payload).quiet = s.quiet :=
  sendControl_quiet ..
@[simp] theorem State.announce_quiet (level : BitVec 3) : (s.announce level).quiet = s.quiet :=
  (foldl_keeps quiet (fun u b => by
    split
    · exact foldl_keeps quiet (fun u m => u.sendBar_quiet ..) ..
    · rfl) ..).trans (s.logFault_quiet ..)

theorem State.decideLevel_quiet (paced : Nat) : (s.decideLevel paced).quiet = s.quiet := by
  simp [decideLevel, ramp]

/-! ### A cap that changes, and an emergency that begins -/

/-- The caps that management and the host have set (17 R384). -/
def Power.caps (p : Power) : Half × Half := (p.mgmtCap, p.hostCap)

theorem State.decideLevel_caps (paced : Nat) : (s.decideLevel paced).pwr.caps = s.pwr.caps := by
  cases he : s.emergency with
  | true => rw [s.decideLevel_of_emergency paced he]
  | false =>
    obtain ⟨d, r, g, n, e⟩ := s.decideLevel_pwr paced he
    rw [e]; rfl

/-- A change of the cap sets what is tested, and chooses the level again. -/
theorem State.capChanged_eq (old : Nat) : ∃ f : Power → Power, (f s.pwr).caps = s.pwr.caps ∧ (f s.pwr).causes = s.pwr.causes ∧
    s.capChanged old = (s.modPwr f).decideLevel 0 := by
  simp only [capChanged]
  split
  · exact ⟨_, rfl, rfl, rfl⟩
  · exact ⟨_, rfl, rfl, rfl⟩

theorem State.capChanged_keeps (old : Nat) : (s.capChanged old).pwr.caps = s.pwr.caps ∧ (s.capChanged old).quiet = s.quiet ∧
    (s.capChanged old).boot = s.boot := by
  obtain ⟨f, hcaps, hcauses, e⟩ := s.capChanged_eq old
  rw [e, decideLevel_caps, decideLevel_quiet, decideLevel_boot]
  exact ⟨hcaps, rfl, s.modPwr_boot f hcauses⟩

/-- The begin of an emergency neither trips the module nor clears a trip. -/
theorem State.emergencyBegins_trip (bits : BitVec 3) :
    (s.emergencyBegins bits).pwr.tripped = s.pwr.tripped ∧ (s.emergencyBegins bits).pins.thermtrip = s.pins.thermtrip := by
  unfold emergencyBegins
  extract_lets was u first v w x y
  split
  · exact ⟨rfl, rfl⟩
  · have hp : ((y.event 0x0004 sOk (BitVec.ofNat 16 first) (hotWord y) 0 0).announce 5).untold = (v.ramp (vcore 5)).untold := by
      rw [announce_untold, event_untold, logFault_untold, modFw_untold, paceOut_untold]
    have hq : ((y.event 0x0004 sOk (BitVec.ofNat 16 first) (hotWord y) 0 0).announce 5).quiet = y.quiet := by
      rw [announce_quiet, event_quiet]
    have hw : w.pins.thermtrip = s.pins.thermtrip := by
      unfold w paceOut
      split <;> rfl
    exact ⟨(congrArg (fun x => x.1.tripped) hp).trans rfl, (congrArg (fun x => x.2.2) hq).trans hw⟩

theorem Power.restarted_tripped (p : Power) (warm : Bool) : (p.restarted warm).tripped = p.tripped := by
  cases warm <;> rfl

/-- A start does not trip the module. -/
theorem State.beginStart_trip (kind : StartKind) (keep other halt : Bool) (ht : s.pwr.tripped = false) (hp : s.pins.thermtrip = false) :
    (s.beginStart kind keep other halt).pwr.tripped = false ∧ (s.beginStart kind keep other halt).pins.thermtrip = false := by
  unfold State.beginStart
  extract_lets warm u v slot w x
  have hx : x.pins.thermtrip = false := (congrArg Pins.thermtrip w.retainedClaims_pins).trans hp
  have hpx : x.pwr.tripped = w.pwr.tripped := congrArg (fun u => u.pwr.tripped) w.retainedClaims_noClaims
  have hw : w.pwr.tripped = s.pwr.tripped := s.pwr.restarted_tripped warm
  split
  · obtain ⟨e, f⟩ := x.emergencyBegins_trip 2
    exact ⟨e.trans (hpx.trans (hw.trans ht)), f.trans hx⟩
  · exact ⟨hpx.trans (hw.trans ht), hx⟩
end

end Sys2Proof.Machine

/-! # Management requests and their answers (18 R396 to R400, R406) -/

namespace Sys2Proof.Machine

/-! ### Who answers -/

section
variable {s : State} {f : State → State}

/-- A dark port answers nothing. -/
theorem State.onPort_dark (h : s.clk.lit = false) : s.onPort f = s := if_neg (ne_true_of_eq_false h)

theorem State.onPort_lit (h : s.clk.lit = true) : s.onPort f = f s := if_pos h

theorem State.pldm_notReady (h : s.clk.lit = true) (hs : s.serving = false) : s.pldm false f = s.answer .notReady [] := by
  rw [pldm, onPort_lit h, hs]; rfl

theorem State.pldm_serving (h : s.clk.lit = true) (hs : s.serving = true) (light : Bool) : s.pldm light f = f s := by
  rw [pldm, onPort_lit h, hs]; rfl

theorem State.pldm_light (h : s.clk.lit = true) : s.pldm true f = f s := by
  rw [pldm, onPort_lit h, Bool.or_true, if_pos rfl]

theorem onPort_next {t : State} (h : s.clk.lit = true) (e : f s = t) : (.next (s.onPort f) : Out) = .next t :=
  congrArg Host.Outcome.next ((State.onPort_lit h).trans e)

theorem pldm_next {t : State} {light : Bool} (h : s.clk.lit = true) (hs : s.serving = true) (e : f s = t) :
    (.next (s.pldm light f) : Out) = .next t :=
  congrArg Host.Outcome.next ((State.pldm_serving h hs light).trans e)

end

/-! ### Readings and records -/

section
variable (s : State)

/-- The reading of one of the two hot sensors, which the lighthouse can answer. -/
def State.hotSensor (x : Half) : Option (List Byte) :=
  if x = 1 then some (leBytes 2 (BitVec.ofInt 16 (hottest s.pwr 0 128).1).toNat)
  else if x = 2 then some (leBytes 2 (BitVec.ofInt 16 (hottest s.pwr 128 160).1).toNat) else none

theorem State.sensor_hot {x : Half} (h : x = 1 ∨ x = 2) : s.sensor x.toNat = s.hotSensor x := by
  rcases h with rfl | rfl <;> rfl

theorem State.sensor_eq (x : Half) : s.sensor x.toNat =
    if x = 1 ∨ x = 2 then s.hotSensor x else if x = 3 then some (leBytes 2 s.pwr.measured.toNat)
    else if x = 4 then some (leBytes 2 (s.pwr.mean / 4000000)) else if x = 5 then some (leBytes 2 s.pwr.volt.toNat)
    else if x = 6 then some (leBytes 4 (s.pwr.energy / 1000000000000000)) else none := by
  have named (k : Half) (h : x.toNat = k.toNat) : x = k := BitVec.eq_of_toNat_eq h
  by_cases hot : x = 1 ∨ x = 2
  · rw [if_pos hot, s.sensor_hot hot]
  · rw [if_neg hot]
    unfold sensor
    split
    · next h => exact absurd (.inl (named 1 h)) hot
    · next h => exact absurd (.inr (named 2 h)) hot
    · next h => rw [named 3 h]; rfl
    · next h => rw [named 4 h]; rfl
    · next h => rw [named 5 h]; rfl
    · next h => rw [named 6 h]; rfl
    · next h1 h2 h3 h4 h5 h6 =>
      have other {k : Half} (h : x.toNat ≠ k.toNat) : x ≠ k := fun e => h (congrArg _ e)
      rw [if_neg (other (k := 3) h3), if_neg (other (k := 4) h4), if_neg (other (k := 5) h5), if_neg (other (k := 6) h6)]

/-- The lighthouse reads the hot sensors for the management agent. -/
theorem getNumericSensorReading_hot {s : State} (hl : s.clk.lit = true) {x : Half} (h : x = 1 ∨ x = 2) :
    exec (.getNumericSensorReading x) s = .next (s.answerSome (s.hotSensor x)) := by
  have light : (decide (x = 1) || decide (x = 2)) = true := by simpa using h
  have run : exec (.getNumericSensorReading x) s = .next (s.pldm true fun u => u.answerSome (u.sensor x.toNat)) := by
    rw [← light]; rfl
  rw [run, State.pldm_light hl, s.sensor_hot h]

theorem getNumericSensorReading_notReady {s : State} (hl : s.clk.lit = true) (hs : s.serving = false) {x : Half} (h : ¬ (x = 1 ∨ x = 2)) :
    exec (.getNumericSensorReading x) s = .next (s.answer .notReady []) := by
  have dark : (decide (x = 1) || decide (x = 2)) = false := by simpa using h
  have run : exec (.getNumericSensorReading x) s = .next (s.pldm false fun u => u.answerSome (u.sensor x.toNat)) := by
    rw [← dark]; rfl
  rw [run, State.pldm_notReady hl hs]

theorem unsupportedSpdm_answers {s : State} (hl : s.clk.lit = true) (b c : Byte) : exec (.unsupportedManagementMessage (.spdm b c)) s =
    .next (s.answer (if s.serving then .spdmUnsupported else .spdmBusy) []) := onPort_next hl rfl

/-- A record of Table 18.2 as `GET_PDR` answers it. -/
def pdrBytes (r : Nat × Nat × Nat × Nat) : List Byte := leBytes 1 r.1 ++ leBytes 2 r.2.1 ++ leBytes 4 r.2.2.1 ++ leBytes 4 r.2.2.2

variable {s} (hl : s.clk.lit = true) (hs : s.serving = true)
include hl hs

theorem getPdr_answers (w : Word) : exec (.getPdr w) s = .next (s.answerSome ((pdrRows[w.toNat - 1]?).map pdrBytes)) := by
  refine congrArg Host.Outcome.next ((State.pldm_serving hl hs false).trans ?_)
  cases pdrRows[w.toNat - 1]? with
  | none => rfl
  | some r => rfl

/-- A version or a list of commands that the spec does not state, for a listed type only. -/
theorem getPldmVersion_answers (a : Byte) : exec (.getPldmVersion a) s =
    .next (if a ∈ ([0, 2, 5, 63] : List Byte) then s.answerFree 4 else s.answer .invalidData []) :=
  congrArg Host.Outcome.next ((State.pldm_serving hl hs false).trans (if_congr List.contains_iff_mem rfl rfl))

theorem getPldmCommands_answers (a : Byte) : exec (.getPldmCommands a) s = .next (
    if a = 63 then s.answer .ok (leBytes 32 6)
    else if a ∈ ([0, 2, 5] : List Byte) then s.answerFree 32 else s.answer .invalidData []) := by
  refine congrArg Host.Outcome.next ((State.pldm_serving hl hs false).trans ?_)
  by_cases h : a = 63
  · rw [if_pos h, if_pos h]
  · rw [if_neg h, if_neg h]
    have other : a ≠ 63#8 := h
    refine if_congr ?_ rfl rfl
    simp [pldmTypes, other]

theorem poll_empty (h : s.mgmt.events = []) : exec .pollForPlatformEventMessage s = .next (s.answer .ok []) := by
  refine pldm_next hl hs ?_
  simp only [h]

theorem poll_answers {r : Record} {rest : List Record} (h : s.mgmt.events = r :: rest) :
    ∃ t : State, exec .pollForPlatformEventMessage s = .next t ∧ t.mgmt.events = rest ∧
      t.mgmt.log = s.mgmt.log ++ [.answer .ok r.bytes] ∧ t.pins.alert = (if rest = [] then false else s.pins.alert) := by
  refine ⟨_, congrArg Host.Outcome.next (State.pldm_serving hl hs false), ?_⟩
  rw [h]
  cases rest with
  | nil => exact ⟨rfl, rfl, rfl⟩
  | cons x xs => exact ⟨rfl, rfl, rfl⟩

/-! ### The management cap (17 R384) -/

/-- A cap that is neither 0 nor one that the module can keep. -/
theorem setManagementCap_invalid {v : Half} (h : v.toNat < 400 ∨ 2200 < v.toNat) (h0 : v ≠ 0) :
    exec (.setManagementCap v) s = .next (s.answer .invalidData []) :=
  congrArg Host.Outcome.next ((State.pldm_serving hl hs false).trans (if_pos ⟨h0, h⟩))

theorem setManagementCap_stores {v : Half} (h : v = 0 ∨ (400 ≤ v.toNat ∧ v.toNat ≤ 2200)) :
    ∃ t : State, exec (.setManagementCap v) s = .next t ∧ t.pwr.mgmtCap = v ∧
      t.pwr.hostCap = s.pwr.hostCap ∧ t.fw.settingsCount = s.fw.settingsCount + 1 ∧ t.mgmt.log = s.mgmt.log ++ [.answer .ok []] ∧
      t.mem = s.mem ∧ t.isl = s.isl := by
  have sound : ¬ (v ≠ 0 ∧ (v < 400 ∨ 2200 < v)) := fun ⟨h0, hv⟩ => by
    have hv' : v.toNat < 400 ∨ 2200 < v.toNat := hv
    exact h.elim h0 fun hb => by omega
  refine ⟨_, congrArg Host.Outcome.next ((State.pldm_serving hl hs false).trans (if_neg sound)), ?_⟩
  obtain ⟨caps, quiet, boot⟩ := ((s.modPwr fun p => { p with mgmtCap := v }).saveSettings).capChanged_keeps s.pwr.cap
  obtain ⟨hm, hh⟩ := Prod.mk.inj caps
  obtain ⟨hfw, hrest⟩ := Prod.mk.inj quiet
  exact ⟨hm, hh, congrArg Firmware.settingsCount hfw, congrArg (fun x : List MgmtOut × Bool => x.1 ++ [.answer .ok []]) hrest,
    congrArg Boot.mem boot, congrArg Boot.isl boot⟩

end

/-! ### Effecter 3: starts at the port's request (18 R400) -/

section
variable {s : State} (hl : s.clk.lit = true)
include hl

/-- A warm start at once, with the memory kept or filled. -/
theorem State.mgmtStart_begins (ht : s.pwr.tripped = false) (hp : s.pins.latched = false) (keep : Bool) :
    ((s.mgmtStart keep).fw.starting.map fun x => (x.kind, x.keep, x.step, x.halt)) = some (.warm, keep, 1, false) ∧
    (s.mgmtStart keep).trk.session = s.trk.session + 1 ∧ (s.mgmtStart keep).mem.hbm = s.mem.hbm ∧ (s.mgmtStart keep).isl = [] := by
  have e : s.mgmtStart keep = (s.answer .ok []).beginStart .warm keep false false := by
    rw [mgmtStart, onPort_lit hl, if_neg (by simp [ht, hp])]
  rw [e]
  obtain ⟨-, isl, mem, session, starting, -⟩ := (s.answer .ok []).beginStart_begins .warm keep false false
  rw [starting, mem]
  exact ⟨rfl, session, Mem.restarted_hbm s.mem, isl⟩

theorem State.mgmtStart_refused (h : s.pwr.tripped = true ∨ s.pins.latched = true) (keep : Bool) :
    s.mgmtStart keep = s.answer .notReady [] := by
  rw [mgmtStart, onPort_lit hl, if_pos h]

theorem restartAfterTrip_untripped (ht : s.pwr.tripped = false) : exec .restartAfterTrip s = .next (s.answer .invalidData []) := by
  refine congrArg Host.Outcome.next ((State.onPort_lit hl).trans (if_pos ?_))
  rw [ht]; rfl

theorem restartAfterTrip_hot (ht : s.pwr.tripped = true) (hc : s.pwr.tripCool < 250000000) :
    exec .restartAfterTrip s = .next ((s.logFault .tripRefused srcLighthouse 0 0).answer .notReady []) := by
  have e : s.clearTrip = (s.logFault .tripRefused srcLighthouse 0 0, false) := by
    rw [State.clearTrip, ht, if_neg (by decide), if_pos hc]
  refine congrArg Host.Outcome.next ((State.onPort_lit hl).trans ?_)
  rw [ht, if_neg (by decide), e]; rfl

/-- A trip that has been cool for ten seconds is cleared; with no latched input a cold start follows. -/
theorem restartAfterTrip_clears (ht : s.pwr.tripped = true) (hc : 250000000 ≤ s.pwr.tripCool) :
    ∃ t : State, exec .restartAfterTrip s = .next t ∧ t.pwr.tripped = false ∧ t.pins.thermtrip = false ∧
      (s.pins.latched = false → (t.fw.starting.map fun x => (x.kind, x.step)) = some (.cold, 1)) ∧
      (s.pins.latched = true → t.fw = s.fw ∧ t.mem = s.mem) := by
  have ⟨u, hu, utrip, upin, ulatch, ufw, umem⟩ : ∃ u : State,
      u = (s.modPwr fun p => { p with tripped := false }).modPins (fun p => { p with thermtrip := false }) ∧
      u.pwr.tripped = false ∧ u.pins.thermtrip = false ∧ u.pins.latched = s.pins.latched ∧ u.fw = s.fw ∧ u.mem = s.mem :=
    ⟨_, rfl, rfl, rfl, rfl, rfl, rfl⟩
  have e : s.clearTrip = (u.coldStart, true) := by
    rw [State.clearTrip, ht, if_neg (by decide), if_neg (Nat.not_lt.mpr hc), hu]
  have run : exec .restartAfterTrip s = .next (u.coldStart.answer .ok []) := by
    refine congrArg Host.Outcome.next ((State.onPort_lit hl).trans ?_)
    rw [ht, if_neg (by decide), e]; rfl
  refine ⟨_, run, ?_⟩
  cases hp : s.pins.latched with
  | true =>
    have stay : u.coldStart = u := if_pos (.inr (ulatch.trans hp))
    rw [stay]
    exact ⟨utrip, upin, nofun, fun _ => ⟨ufw, umem⟩⟩
  | false =>
    have start : u.coldStart = u.beginStart .cold false false false := if_neg (by simp [utrip, ulatch, hp])
    rw [start]
    obtain ⟨trip, pin⟩ := u.beginStart_trip .cold false false false utrip upin
    obtain ⟨-, -, -, -, starting, -⟩ := u.beginStart_begins .cold false false false
    exact ⟨trip, pin, fun _ => congrArg (Option.map fun x : Starting => (x.kind, x.step)) starting, nofun⟩

end

/-! ### All requests -/

/-- Settles O54: the port answers where it has power and the device serves, and each request answers by its own lemma. -/
theorem managementRequestsAreAnswered : Obligations.ManagementRequestsAreAnswered := by
  refine ⟨fun s a b c x y w h i hi => ?dark, fun s e => rfl, fun s a e h => ?control, fun s b c x y w h hs => ?idle,
    fun s a b x w h hs => ?serving, fun s h ht hp => ?warm, fun s h => ?trip⟩
  case dark =>
    fin_cases hi <;> exact congrArg Host.Outcome.next (State.onPort_dark h)
  case control =>
    have listed : e = 0xFF ∨ mctpTypes.contains e = true ↔ e ∈ ([0, 1, 5, 0xFF] : List Byte) := by
      simp [mctpTypes]; tauto
    exact ⟨fun hi => ⟨onPort_next h (if_neg (ne_true_of_eq_false hi)), onPort_next h (if_neg (ne_true_of_eq_false hi))⟩,
      fun hi => ⟨onPort_next h (if_pos hi), onPort_next h (if_pos hi)⟩, onPort_next h rfl, onPort_next h rfl, onPort_next h rfl,
      fun he => onPort_next h (if_pos (listed.2 he)), fun he => onPort_next h (if_neg (he ∘ listed.1))⟩
  case idle =>
    refine ⟨fun i hi => ?_, ?_, ?_⟩
    · fin_cases hi <;> exact congrArg Host.Outcome.next (State.pldm_notReady h hs)
    · rw [unsupportedSpdm_answers h, hs]; rfl
    · by_cases hot : x = 1 ∨ x = 2
      · rw [if_pos hot]
        exact getNumericSensorReading_hot h hot
      · rw [if_neg hot]
        exact getNumericSensorReading_notReady h hs hot
  case serving =>
    refine ⟨pldm_next h hs rfl, ?_, pldm_next h hs rfl, getPldmVersion_answers h hs a, pldm_next h hs rfl,
      getPldmCommands_answers h hs a, getPdr_answers h hs w, pldm_next h hs (congrArg s.answerSome (s.sensor_eq x)),
      pldm_next h hs rfl, pldm_next h hs rfl, pldm_next h hs rfl, pldm_next h hs rfl, poll_empty h hs, fun _ _ => poll_answers h hs,
      pldm_next h hs rfl, setManagementCap_invalid h hs, setManagementCap_stores h hs⟩
    rw [unsupportedSpdm_answers h, hs]; rfl
  case warm =>
    obtain ⟨tstart, tsession, tmem, tisl⟩ := State.mgmtStart_begins h ht hp true
    obtain ⟨ustart, usession, -, uisl⟩ := State.mgmtStart_begins h ht hp false
    exact ⟨_, _, rfl, rfl, tstart, ustart, tsession, usession, tmem, tisl, uisl⟩
  case trip =>
    exact ⟨fun hr => ⟨congrArg Host.Outcome.next (State.mgmtStart_refused h hr true),
        congrArg Host.Outcome.next (State.mgmtStart_refused h hr false)⟩,
      restartAfterTrip_untripped h, restartAfterTrip_hot h, restartAfterTrip_clears h⟩

end Sys2Proof.Machine

/-! # Firmware updates over PLDM (18 R401, 15 R347) -/

namespace Sys2Proof.Machine

/-! ### Bytes received into a slot -/

/-- A byte of memory after a write: the byte written, or what stood there. -/
theorem memByte_memWrite_eq (m : Memory) (a : Nat) (bs : List Byte) (x : Nat) :
    memByte (memWrite m a bs) x = if a ≤ x ∧ x < a + bs.length then bs.getD (x - a) 0 else memByte m x := by
  by_cases h : a ≤ x ∧ x < a + bs.length
  · obtain ⟨k, rfl⟩ := Nat.exists_eq_add_of_le h.1
    have hk : k < bs.length := by omega
    rw [if_pos h, memByte_memWrite m a bs k hk, Nat.add_sub_cancel_left, List.getD_eq_getElem _ _ hk]
  · rw [if_neg h, memByte_memWrite_outside m a bs x (by omega)]

section
variable (f : Firmware) (b : Bool) (m : Memory)

@[simp] theorem Firmware.slot_setSlot_same : (f.setSlot b m).slot b = m := by cases b <;> rfl
@[simp] theorem Firmware.slot_setSlot_other : (f.setSlot (!b) m).slot b = f.slot b := by cases b <;> rfl
@[simp] theorem Firmware.setSlot_active : (f.setSlot b m).active = f.active := by cases b <;> rfl
@[simp] theorem Firmware.setSlot_staged : (f.setSlot b m).staged = f.staged := by cases b <;> rfl

/-- The first piece erases the slot that is not active, and each is written where it belongs. -/
def Firmware.received (first : Bool) (off : Nat) (bs : List Byte) : Firmware :=
  let g : Firmware := if first then { (f.setSlot (!f.active) []) with staged := false } else f
  g.setSlot (!f.active) (memWrite (g.slot !f.active) off bs)

variable (first : Bool) (off : Nat) (bs : List Byte)

@[simp] theorem Firmware.received_active : (f.received first off bs).active = f.active := by
  cases first <;> simp [received]
theorem Firmware.received_staged : (f.received first off bs).staged = if first then false else f.staged := by
  cases first <;> simp [received]
/-- The running image stays. -/
theorem Firmware.received_running : (f.received first off bs).slot f.active = f.slot f.active := by
  cases first
  · simp [received]
  · exact (slot_setSlot_other ..).trans (f.slot_setSlot_other f.active [])
theorem Firmware.received_slot : (f.received first off bs).slot (!f.active) =
    memWrite (if first then [] else f.slot !f.active) off bs := by
  cases first
  · simp [received]
  · exact (slot_setSlot_same ..).trans (congrArg (memWrite · off bs) (f.slot_setSlot_same (!f.active) []))

end

/-! ### Who answers an update -/

section
variable {s : State}

/-- Neither the management agent nor the ROM answers. -/
theorem State.updatePort_notReady {f : State → State} (hl : s.clk.lit = true) (hs : s.serving = false)
    (hr : s.fw.recovery = false ∨ s.powered = false) : s.updatePort f = s.answer .notReady [] := by
  have dark : (s.fw.recovery && s.powered) = false := by
    rw [Bool.and_eq_false_iff]; exact hr
  rw [updatePort, dark, pldm_notReady hl hs]

theorem updatePort_next {f : State → State} {t : State} (hl : s.clk.lit = true)
    (h : s.serving = true ∨ s.fw.recovery = true ∧ s.powered = true) (e : f s = t) : (.next (s.updatePort f) : Out) = .next t := by
  have run : s.updatePort f = f s := by
    rcases h with hs | ⟨hr, hp⟩
    · exact State.pldm_serving hl hs _
    · rw [State.updatePort, hr, hp, Bool.and_true, State.pldm_light hl]
  rw [run, e]

/-- An update that can still be dropped. -/
theorem UpdSt.droppable_iff (u : UpdSt) : (u.receiving || decide (u = .apply)) = true ↔ u = .learn ∨ u = .download ∨ u = .apply := by
  cases u <;> decide

theorem UpdSt.receiving_iff (u : UpdSt) : u.receiving = true ↔ u = .learn ∨ u = .download := by
  cases u <;> decide

/-! ### The requests of an update -/

variable (hl : s.clk.lit = true) (h : s.serving = true ∨ s.fw.recovery = true ∧ s.powered = true)
include hl h

theorem requestUpdate_accepted (hr : s.fw.recovery = true ∨ s.host.dev = 1) (hb : s.slotsBusy = none) : exec .requestUpdate s =
    .next ((s.modMgmt fun m => { m with upd := .learn, updBytes := 0, updIdle := s.clk.now }).answer .ok []) := by
  refine updatePort_next hl h (if_pos ?_)
  rw [hb]
  simpa using hr

theorem requestUpdate_retried (hb : (s.fw.recovery = false ∧ s.host.dev ≠ 1) ∨ s.slotsBusy ≠ none) :
    exec .requestUpdate s = .next (s.answer .retryRequest []) := by
  refine updatePort_next hl h (if_neg fun ok => ?_)
  obtain ⟨ready, idle⟩ := Bool.and_eq_true_iff.mp ok
  rcases hb with ⟨hr, hd⟩ | hb
  · rw [hr, Bool.false_or] at ready
    exact hd (of_decide_eq_true ready)
  · exact hb (Option.isNone_iff_eq_none.mp idle)

theorem cancelUpdate_drops (hu : s.mgmt.upd = .learn ∨ s.mgmt.upd = .download ∨ s.mgmt.upd = .apply) :
    exec .cancelUpdate s = .next (s.dropUpdate.answer .ok []) :=
  updatePort_next hl h (if_pos (s.mgmt.upd.droppable_iff.mpr hu))

theorem cancelUpdate_refused (hu : ¬ (s.mgmt.upd = .learn ∨ s.mgmt.upd = .download ∨ s.mgmt.upd = .apply)) :
    exec .cancelUpdate s = .next (s.answer .wrongState []) :=
  updatePort_next hl h (if_neg (mt s.mgmt.upd.droppable_iff.mp hu))

theorem activateFirmware_refused (b : Bool) (hu : s.mgmt.upd ≠ .apply) : exec (.activateFirmware b) s = .next (s.answer .wrongState []) :=
  updatePort_next hl h (if_pos hu)

theorem activateFirmware_nextStart {b : Bool} (hu : s.mgmt.upd = .apply) (hb : b = false ∨ s.fw.recovery = true) :
    exec (.activateFirmware b) s = .next
      (((s.answer .ok []).modFw fun f => { f with atStart := true }).modMgmt fun m => { m with upd := .idle, updIdle := 0 }) := by
  refine updatePort_next hl h ((if_neg (not_not_intro hu)).trans (if_neg fun live => ?_))
  obtain ⟨hb', hr⟩ := Bool.and_eq_true_iff.mp live
  rcases hb with rfl | hb
  · cases hb'
  · have hr' : (!s.fw.recovery) = true := hr
    rw [hb] at hr'
    cases hr'

theorem activateFirmware_live (hu : s.mgmt.upd = .apply) (hr : s.fw.recovery = false) : exec (.activateFirmware true) s =
    .next (((s.answer .ok []).modMgmt fun m => { m with upd := .activate }).beginActivation false s.clk.now) := by
  refine updatePort_next hl h ((if_neg (not_not_intro hu)).trans (if_pos ?_))
  exact congrArg not hr

end

/-! ### Data, verification and time -/

section
variable {s : State}

/-- An emergency holds the activation that an update begins. -/
theorem State.beginActivation_held (he : s.emergency = true) (byCmd : Bool) (n : Nat) :
    (s.beginActivation byCmd n).fw.act = some ⟨.hold, byCmd, n, none, true⟩ := by
  simp [beginActivation, quiesced, he]

theorem fdT1Timeout_drops (hu : s.mgmt.upd = .learn ∨ s.mgmt.upd = .download ∨ s.mgmt.upd = .apply)
    (ht : s.mgmt.updIdle + 2 * minute ≤ s.clk.now) : exec .fdT1Timeout s = .next s.dropUpdate :=
  congrArg Host.Outcome.next (if_pos (Bool.and_eq_true_iff.mpr ⟨s.mgmt.upd.droppable_iff.mpr hu, decide_eq_true ht⟩))

theorem fdT1Timeout_early (h : ¬ (s.mgmt.upd = .learn ∨ s.mgmt.upd = .download ∨ s.mgmt.upd = .apply) ∨
    s.clk.now < s.mgmt.updIdle + 2 * minute) : exec .fdT1Timeout s = .next s := by
  refine congrArg Host.Outcome.next (if_neg fun due => ?_)
  obtain ⟨hu, ht⟩ := Bool.and_eq_true_iff.mp due
  rcases h with h | h
  · exact h (s.mgmt.upd.droppable_iff.mp hu)
  · exact absurd (of_decide_eq_true ht) (Nat.not_le.mpr h)

/-- What is not the next piece of the image is ignored. -/
theorem piece_refused_iff {m : Mgmt} {off n : Nat} : (!m.upd.receiving || decide (off ≠ m.updBytes) || decide (1024 < n) ||
    decide (slotSize < off + n)) = true ↔
    ¬ ((m.upd = .learn ∨ m.upd = .download) ∧ off = m.updBytes ∧ n ≤ 1024 ∧ off + n ≤ slotSize) := by
  rw [← m.upd.receiving_iff]
  simp only [Bool.or_eq_true, decide_eq_true_eq, Bool.not_eq_true', not_and_or, Nat.not_le, Bool.not_eq_true, or_assoc, ne_eq]

variable (hl : s.clk.lit = true)
include hl

/-- The next piece of the image. -/
theorem firmwareDataReceived_next {off : Word} {bs : List Byte} (hu : s.mgmt.upd = .learn ∨ s.mgmt.upd = .download)
    (ho : off.toNat = s.mgmt.updBytes) (hn : bs.length ≤ 1024) (he : off.toNat + bs.length ≤ slotSize) :
    exec (.firmwareDataReceived off bs) s = .next ((s.modFw fun f => f.received (decide (s.mgmt.upd = .learn)) off.toNat bs).modMgmt
      fun m => { m with upd := .download, updBytes := m.updBytes + bs.length, updIdle := s.clk.now }) := by
  refine onPort_next hl ((if_neg (mt piece_refused_iff.mp (not_not_intro ⟨hu, ho, hn, he⟩))).trans ?_)
  rcases hu with hu | hu
  · simp only [hu, if_true]; rfl
  · simp only [hu]; rfl

theorem firmwareDataReceived_ignored {off : Word} {bs : List Byte} (h : ¬ ((s.mgmt.upd = .learn ∨ s.mgmt.upd = .download) ∧
    off.toNat = s.mgmt.updBytes ∧ bs.length ≤ 1024 ∧ off.toNat + bs.length ≤ slotSize)) :
    exec (.firmwareDataReceived off bs) s = .next s :=
  onPort_next hl (if_pos (piece_refused_iff.mpr h))

theorem updateVerifyComplete_idle (hu : s.mgmt.upd ≠ .download) : exec .updateVerifyComplete s = .next s :=
  onPort_next hl (if_pos hu)

theorem updateVerifyComplete_verified (hu : s.mgmt.upd = .download) (hf : s.fw.stageFault (!s.fw.active) = none) :
    exec .updateVerifyComplete s = .next (((s.modFw fun f => { f with staged := true }).modMgmt
      fun m => { m with upd := .apply, updIdle := s.clk.now }).send (.verified 0)) := by
  refine onPort_next hl ((if_neg (not_not_intro hu)).trans ?_)
  simp only [hf]

theorem updateVerifyComplete_failed (hu : s.mgmt.upd = .download) {d : Half} {r : Word} (hf : s.fw.stageFault (!s.fw.active) = some (d, r)) :
    exec .updateVerifyComplete s =
      .next ((s.modMgmt fun m => { m with upd := .failed, updIdle := 0 }).send (.verified (0x90 + d.setWidth 8))) := by
  refine onPort_next hl ((if_neg (not_not_intro hu)).trans ?_)
  simp only [hf]

end

end Sys2Proof.Machine

/-! # SPDM connections by their stages (18 R402 to R405) -/

namespace Sys2Proof.Machine

/-! ### Requests and stages -/

/-- The offer admits the selections of Table 18.3. -/
theorem offerAccepted_iff (o : SpdmOffer) :
    offerAccepted o = true ↔ o.measSpec.getLsbD 0 = true ∧ o.baseHash.getLsbD 5 = true ∧ (0x00, 0xD087) ∈ o.extAsym := by
  rw [offerAccepted, Bool.and_eq_true, Bool.and_eq_true, List.contains_iff_mem, and_assoc]

section
variable {s : State}

theorem State.spdm_dark {f : State → State} (hl : s.clk.lit = false) : s.spdm f = s := onPort_dark hl

theorem State.spdm_busy {f : State → State} (hl : s.clk.lit = true) (hs : s.serving = false) : s.spdm f = s.answer .spdmBusy [] := by
  rw [spdm, onPort_lit hl, hs]; rfl

section
variable (hl : s.clk.lit = true) (hs : s.serving = true)
include hl hs

theorem State.spdm_serving {f : State → State} : s.spdm f = f s := by
  rw [spdm, onPort_lit hl, hs]; rfl

theorem spdm_next {f : State → State} {t : State} (e : f s = t) : (.next (s.spdm f) : Out) = .next t :=
  congrArg Host.Outcome.next ((State.spdm_serving hl hs).trans e)

variable {e : Byte} {g : SpdmStage} {f : State → SpdmConn → State}

theorem State.inStage_unconnected (hc : s.conn e = none) : s.inStage e g f = s.answer .spdmUnexpected [] := by
  rw [inStage, spdm_serving hl hs, hc]

theorem State.inStage_connected {c : SpdmConn} (hc : s.conn e = some c) :
    s.inStage e g f = if c.stage = g then f s c else s.answer .spdmUnexpected [] := by
  rw [inStage, spdm_serving hl hs, hc]

theorem State.inStage_unexpected {c : SpdmConn} (hc : s.conn e = some c) (hg : c.stage ≠ g) :
    s.inStage e g f = s.answer .spdmUnexpected [] := (inStage_connected hl hs hc).trans (if_neg hg)

theorem inStage_next {c : SpdmConn} {t : State} (hc : s.conn e = some c) (hg : c.stage = g) (h : f s c = t) :
    (.next (s.inStage e g f) : Out) = .next t :=
  congrArg Host.Outcome.next ((State.inStage_connected hl hs hc).trans ((if_pos hg).trans h))

/-! ### Opening a connection -/

/-- A requester with a connection begins it anew; a new one needs a place. -/
theorem getVersion_opens (h : s.mgmt.conns.length < 4 ∨ s.conn e ≠ none) :
    exec (.getVersion e) s = .next ((s.putConn ⟨e, .version, [], 0, [], 0⟩).answer .ok [1, 3]) := by
  refine spdm_next hl hs (if_neg fun ⟨hn, hf⟩ => ?_)
  rcases h with h | h
  · omega
  · exact h (Option.isNone_iff_eq_none.mp hn)

theorem getVersion_full (hc : s.conn e = none) (h : 4 ≤ s.mgmt.conns.length) : exec (.getVersion e) s = .next (s.answer .spdmBusy []) :=
  spdm_next hl hs (if_pos ⟨Option.isNone_iff_eq_none.mpr hc, h⟩)

theorem negotiateAlgorithms_answers {c : SpdmConn} (hc : s.conn e = some c) (hg : c.stage = .capabilities) (o : SpdmOffer) :
    exec (.negotiateAlgorithms e o) s = .next (if offerAccepted o then
      (s.putConn { c with stage := .negotiated }).answer .ok
        ([1] ++ leBytes 4 32 ++ leBytes 4 64 ++ leBytes 4 0 ++ [0] ++ leBytes 2 0xD087)
    else (s.dropConn e).answer .spdmUnsupported []) := inStage_next hl hs hc hg rfl

/-! ### The negotiated stage -/

theorem getCertificate_invalid {c : SpdmConn} (hc : s.conn e = some c) (hg : c.stage = .negotiated) {k : Byte} {x y : Half}
    (h : k ≠ 0 ∨ Config.certChain.length < x.toNat) : exec (.getCertificate e k x y) s = .next (s.answer .spdmInvalid []) :=
  inStage_next hl hs hc hg (if_pos h)

/-- A part of the chain, with its length and what remains. -/
theorem getCertificate_part {c : SpdmConn} (hc : s.conn e = some c) (hg : c.stage = .negotiated) {x : Half} (y : Half)
    (h : x.toNat ≤ Config.certChain.length) : exec (.getCertificate e 0 x y) s =
    .next (s.respondSpdm c (leBytes 2 ((Config.certChain.drop x.toNat).take y.toNat).length ++
      leBytes 2 ((Config.certChain.drop x.toNat).length - ((Config.certChain.drop x.toNat).take y.toNat).length) ++
      (Config.certChain.drop x.toNat).take y.toNat)) :=
  inStage_next hl hs hc hg (if_neg fun bad => bad.elim (fun h0 => h0 rfl) (Nat.not_lt.mpr h))

end

/-! ### Measurements -/

/-- The blocks that a legal index asks for. -/
theorem measBlocks_legal {k : Byte} (h : k.toNat ≤ 14 ∨ k = 0xFF) :
    measBlocks k.toNat = some (if k = 0 then [] else if k = 0xFF then (List.range 14).map (· + 1) else [k.toNat]) := by
  by_cases h0 : k = 0
  · subst h0; rfl
  · by_cases hall : k = 0xFF
    · subst hall; rfl
    · have n0 : k.toNat ≠ 0 := fun e => h0 (BitVec.eq_of_toNat_eq e)
      have nall : k.toNat ≠ 0xFF := fun e => hall (BitVec.eq_of_toNat_eq e)
      rw [measBlocks, if_neg n0, if_neg nall, if_pos (h.resolve_right hall), if_neg h0, if_neg hall]

theorem measBlocks_illegal {k : Byte} (h : 14 < k.toNat) (hall : k ≠ 0xFF) : measBlocks k.toNat = none := by
  have nall : k.toNat ≠ 0xFF := fun e => hall (BitVec.eq_of_toNat_eq e)
  rw [measBlocks, if_neg (by omega), if_neg nall, if_neg (by omega)]

/-- What `GET_MEASUREMENTS` answers of blocks: their number, or all there are, and each one. -/
def State.measurementsAnswer (s : State) (k : Byte) (ks : List Nat) : List Byte :=
  (if k = 0 then [14] else leBytes 1 ks.length) ++
    ks.flatMap fun j => leBytes 1 j ++ leBytes 2 (s.measurement j).length ++ s.measurement j

section
variable (hl : s.clk.lit = true) (hs : s.serving = true) {e : Byte} {c : SpdmConn} (hc : s.conn e = some c) (hg : c.stage = .negotiated)
  {k : Byte} (sign : Bool) (n : BitVec 256)
include hl hs hc hg

theorem getMeasurements_updating (hd : s.host.dev = 2) : exec (.getMeasurements e k sign n) s = .next (s.answer .spdmBusy []) :=
  inStage_next hl hs hc hg (if_pos hd)

theorem getMeasurements_invalid (hd : s.host.dev ≠ 2) (h : 14 < k.toNat) (hall : k ≠ 0xFF) :
    exec (.getMeasurements e k sign n) s = .next (s.answer .spdmInvalid []) := by
  refine inStage_next hl hs hc hg ((if_neg hd).trans ?_)
  rw [measBlocks_illegal h hall]

theorem getMeasurements_unsigned (hd : s.host.dev ≠ 2) {ks : List Nat} (h : measBlocks k.toNat = some ks) :
    exec (.getMeasurements e k false n) s = .next (s.respondSpdm c (s.measurementsAnswer k ks)) := by
  refine inStage_next hl hs hc hg ((if_neg hd).trans ?_)
  rw [h]; rfl

theorem getMeasurements_signed (hd : s.host.dev ≠ 2) {ks : List Nat} (h : measBlocks k.toNat = some ks) {own : List Byte}
    (ho : own = (s.drawBytes 32).1) : exec (.getMeasurements e k true n) s =
      .next (({ s with free := s.free + 33 } : State).respondSpdm c
        (s.measurementsAnswer k ks ++ own ++ (Config.mldsaSign (s.free + 32) (bvBytes 32 n ++ own ++ s.measurementsAnswer k ks)).take 4627)) := by
  subst ho
  refine inStage_next hl hs hc hg ((if_neg hd).trans ?_)
  rw [h]; rfl

end

/-! ### Large requests and responses -/

section
variable (hl : s.clk.lit = true) (hs : s.serving = true) {e : Byte} {x : Half}
include hl hs

theorem chunkSend_unconnected (hc : s.conn e = none) (last : Bool) (bs : List Byte) :
    exec (.chunkSend e last x bs) s = .next (s.answer .spdmUnexpected []) := by
  refine spdm_next hl hs ?_
  rw [hc]

theorem chunkGet_unconnected (hc : s.conn e = none) : exec (.chunkGet e x) s = .next (s.answer .spdmUnexpected []) := by
  refine spdm_next hl hs ?_
  rw [hc]

/-- A part out of order or too long drops the request; the last one ends it. -/
theorem chunkSend_answers {c : SpdmConn} (hc : s.conn e = some c) (last : Bool) (bs : List Byte) : exec (.chunkSend e last x bs) s =
    .next (if x ≠ c.inSeq ∨ 4096 < bs.length ∨ 16384 < c.inbox.length + bs.length then
        (s.putConn { c with inbox := [], inSeq := 0 }).answer .spdmInvalid []
      else if last then (s.putConn { c with inbox := [], inSeq := 0 }).answer .ok (leBytes 2 x.toNat)
      else (s.putConn { c with inbox := c.inbox ++ bs, inSeq := x + 1 }).answer .ok (leBytes 2 x.toNat)) := by
  rw [← List.length_append]
  refine spdm_next hl hs ?_
  rw [hc]; rfl

theorem chunkGet_next {c : SpdmConn} (hc : s.conn e = some c) (hx : x = c.outSeq) (ho : c.outbox ≠ []) : exec (.chunkGet e x) s =
    .next ((s.putConn { c with outbox := c.outbox.drop 4096, outSeq := x + 1 }).answer .ok (leBytes 2 x.toNat ++ c.outbox.take 4096)) := by
  refine spdm_next hl hs ?_
  rw [hc]
  exact if_neg fun bad => bad.elim (fun h0 => ho (List.isEmpty_iff.mp h0)) fun hn => hn hx

theorem chunkGet_invalid {c : SpdmConn} (hc : s.conn e = some c) (h : x ≠ c.outSeq ∨ c.outbox = []) :
    exec (.chunkGet e x) s = .next (s.answer .spdmInvalid []) := by
  refine spdm_next hl hs ?_
  rw [hc]
  exact if_pos (h.symm.imp_left List.isEmpty_iff.mpr)

end

end

/-! ### The obligation -/

/-- Settles O55: an update and a connection go through their stages, each request by the lemma for its stage. -/
theorem updatesAndAttestationRunByStages : Obligations.UpdatesAndAttestationRunByStages := by
  refine ⟨fun s b hl hs hr i hi => ?silent, fun s hl h => ?requests, fun s _ he => ?held, fun s off bs hl => ?data, fun s => ?idle,
    fun s e k n o x y bs last sign => ⟨fun hl i hi => ?dark, fun hl hs i hi => ?busy, fun hl hs => ?serving⟩⟩
  case silent =>
    fin_cases hi <;> exact congrArg Host.Outcome.next (State.updatePort_notReady hl hs hr)
  case requests =>
    exact ⟨requestUpdate_accepted hl h, requestUpdate_retried hl h, updatePort_next hl h rfl, cancelUpdate_drops hl h,
      fun h1 h2 h3 => cancelUpdate_refused hl h fun hu => hu.elim h1 fun hu => hu.elim h2 h3,
      fun b => ⟨activateFirmware_refused hl h b, activateFirmware_nextStart hl h,
        fun hu hb hr => hb ▸ activateFirmware_live hl h hu hr⟩⟩
  case held =>
    exact ⟨_, State.beginActivation_held he false _, rfl, rfl, rfl⟩
  case data =>
    refine ⟨fun ⟨hu, ho, hn, he⟩ => ⟨_, firmwareDataReceived_next hl hu ho hn he, rfl, rfl, rfl, ?_, fun _ a => ?_, ?_, ?_, rfl⟩,
      firmwareDataReceived_ignored hl, updateVerifyComplete_idle hl,
      fun hu hf => ⟨_, updateVerifyComplete_verified hl hu hf, rfl, rfl, rfl, rfl⟩,
      fun d r hu hf => ⟨_, updateVerifyComplete_failed hl hu hf, rfl, rfl, rfl⟩⟩
    · exact (s.fw.received_staged ..).trans (if_congr decide_eq_true_iff rfl rfl)
    · refine (congrArg (memByte · a) (s.fw.received_slot ..)).trans ((memByte_memWrite_eq ..).trans (if_congr Iff.rfl rfl ?_))
      by_cases hl : s.mgmt.upd = .learn
      · rw [if_pos (decide_eq_true hl), if_pos hl]; rfl
      · rw [if_neg (mt of_decide_eq_true hl), if_neg hl]
    · exact s.fw.received_running ..
    · exact s.fw.received_active ..
  case idle =>
    exact ⟨fdT1Timeout_drops, fdT1Timeout_early⟩
  case dark =>
    fin_cases hi <;> exact congrArg Host.Outcome.next (State.spdm_dark hl)
  case busy =>
    fin_cases hi <;> exact congrArg Host.Outcome.next (State.spdm_busy hl hs)
  case serving =>
    refine ⟨getVersion_opens hl hs, fun hc => ⟨getVersion_full hl hs hc, fun i hi => ?unconnected⟩, fun c hc =>
      ⟨fun hg => inStage_next hl hs hc hg rfl, fun hg => congrArg Host.Outcome.next (State.inStage_unexpected hl hs hc hg),
       fun hg => congrArg Host.Outcome.next (State.inStage_unexpected hl hs hc hg), fun hg i hi => ?early,
       fun hg => ⟨fun h1 h2 h3 => ?accepted, fun h => ?refused⟩, fun hg => ?negotiated,
       chunkSend_answers hl hs hc last bs, chunkGet_next hl hs hc, chunkGet_invalid hl hs hc⟩⟩
    case unconnected =>
      have staged {g : SpdmStage} {f : State → SpdmConn → State} :
          (.next (s.inStage e g f) : Out) = .next (s.answer .spdmUnexpected []) :=
        congrArg Host.Outcome.next (State.inStage_unconnected hl hs hc)
      simp only [List.mem_cons, List.not_mem_nil, or_false] at hi
      rcases hi with rfl | rfl | rfl | rfl | rfl | rfl | rfl | rfl
      · exact staged
      · exact staged
      · exact staged
      · exact staged
      · exact staged
      · exact staged
      · exact chunkSend_unconnected hl hs hc last bs
      · exact chunkGet_unconnected hl hs hc
    case early =>
      fin_cases hi <;> exact congrArg Host.Outcome.next (State.inStage_unexpected hl hs hc hg)
    case accepted =>
      rw [negotiateAlgorithms_answers hl hs hc hg, if_pos ((offerAccepted_iff o).mpr ⟨h1, h2, h3⟩)]; rfl
    case refused =>
      have no : ¬ offerAccepted o = true := fun ok => by
        obtain ⟨h1, h2, h3⟩ := (offerAccepted_iff o).mp ok
        exact h.elim (ne_true_of_eq_false · h1) fun h => h.elim (ne_true_of_eq_false · h2) fun h => h h3
      rw [negotiateAlgorithms_answers hl hs hc hg, if_neg no]; rfl
    case negotiated =>
      refine ⟨inStage_next hl hs hc hg rfl, getCertificate_invalid hl hs hc hg, fun hk => inStage_next hl hs hc hg (if_pos hk),
        fun hk hx => hk ▸ getCertificate_part hl hs hc hg y hx, fun hk => inStage_next hl hs hc hg (if_neg (not_not_intro hk)),
        getMeasurements_updating hl hs hc hg sign n,
        fun hd => ⟨getMeasurements_invalid hl hs hc hg sign n hd, fun ks hks hk => ?_⟩⟩
      have blocks := (measBlocks_legal hk).trans (congrArg some hks.symm)
      cases sign with
      | false => exact getMeasurements_unsigned hl hs hc hg n hd blocks
      | true => exact getMeasurements_signed hl hs hc hg n hd blocks rfl

end Sys2Proof.Machine
